-- ==== Sys2Proof/Word.lean ====
section
/-! DEFINITION. The words of the package, and the types of the commands' operands.
Nothing here is computed: the operations on these types stand in Sys2Proof/Machine/. -/

namespace Sys2Proof

/-- One byte, the unit in which every memory of the package is addressed. -/
abbrev Byte := BitVec 8

/-- A 64-bit control-space register (R10). -/
abbrev Reg := BitVec 64

/-- A compute die CD0 to CD3 (R20). -/
abbrev CDie := Fin 4

/-- A die with a rate monitor and a Tj: CD0 to CD3, PX, FA, FB (R589, R637). -/
abbrev Die := Fin 7

/-- A package GDDR channel (R252). -/
abbrev Chan := Fin 20

/-- A plane: 0 is FA, 1 is FB (R282). -/
abbrev Plane := Fin 2

/-- A sub-port of one plane: port times 4 plus sub-port (R642). -/
abbrev SubPort := Fin 48

/-- A tenancy (R423). -/
abbrev Ten := Fin 8

/-- A hart of the processor die: 0 to 95 application, 96 to 99 service (R484). -/
abbrev Hart := Fin 100

/-- A physical core of a compute die: 0 to 21,503 general, 21,504 to 21,571 solver (R16, R543). -/
structure CoreId where
  die : CDie
  p : Fin 21572
deriving DecidableEq, Repr, Inhabited

/-- What befalls a core's store before a step reads it (R208). -/
inductive Upset where
  /-- `count` adjacent cells, from `first` on, flip along the physical cell row that rows 2 × `pair` and 2 × `pair` + 1 share in a bank of 16
  bytes: 4 codewords of 72 bits -/
  | cells (resident : Bool) (pair : Nat) (bank : Fin 32) (first : Fin 288) (count : Nat)
  /-- the row number found with a 64-bit word is not that of its row -/
  | wrongRow (resident : Bool) (word : Nat)
deriving DecidableEq, Repr, Inhabited

/-- A symbol error of a GDDR sector's codeword: position 0 to 69 in the order of R262 (the first
virtual symbol is 0, the last check byte 69), and the bits by which the symbol differs. -/
structure SymErr where
  pos : Fin 70
  diff : Byte
deriving DecidableEq, Repr, Inhabited

/-- The integers that one check of a residue checker, or of duplicated logic, compares (R114, R151, R154): what went in, and what the datapath
made of it. -/
inductive Compared where
  /-- a product -/
  | product (a b p : Int)
  /-- an aligned sum: the terms, their exponents above the lower one, and the exact sum -/
  | sum (x y : Int) (ex ey : Nat) (total : Int)
  /-- a rounding: what is kept, what is dropped and how many bits that is, of an exact sum -/
  | round (kept : Int) (bits : Nat) (dropped total : Int)
  /-- a fused step: a product and a term, their exponents above the lower one, and the exact sum -/
  | fma (a b c : Int) (ep ec : Nat) (total : Int)
  /-- sign or exponent logic, or a comparator, and its double -/
  | pair (a b : Nat)
  /-- keys or records of a tile, entering and leaving it -/
  | tile (enter leave : List Nat)
deriving DecidableEq, Repr, Inhabited

/-- One check of a tile or pass: where it stands, and what it compared (R114, R118, R151, R154). -/
structure Finding where
  unit : Byte := 0
  check : BitVec 3 := 0
  what : Compared
  stage : Byte := 0xFF
deriving DecidableEq, Repr, Inhabited

/-- What the residue checks of a tile or pass found. -/
structure Mismatch where
  /-- checks of the first execution; those count that find a difference -/
  first : List Finding := []
  /-- checks of its re-execution -/
  second : List Finding := []
  /-- an abort that stands at the boundary reached the operation during the re-execution (R119) -/
  late : Bool := false
deriving DecidableEq, Repr, Inhabited

/-- A received Weamin transport frame (R285, R288): the header's fields, the payload, and what the
receiving port says of it. `payloadLen` is the header's field, `payload` what the frame holds. -/
structure WtFrame where
  version : BitVec 4 := 1
  type : BitVec 4 := 0
  flags : Byte := 0
  jobId : BitVec 16 := 0
  jobGen : BitVec 16 := 0
  srcRank : BitVec 16 := 0
  dstRank : BitVec 16 := 0
  tag : BitVec 16 := 0
  seq : BitVec 24 := 0
  origin : Bool := false
  pathId : BitVec 7 := 0
  creditGrant : BitVec 16 := 0
  hopStamp : BitVec 16 := 0
  tSend : BitVec 32 := 0
  payloadLen : BitVec 16 := 0
  status : Byte := 0
  ackFloor : BitVec 24 := 0
  payload : List Byte := []
  /-- the CRC-32C field as received -/
  crc : BitVec 32 := 0
  /-- the IEEE 802.3 frame check sequence is right -/
  fcsOk : Bool := true
  /-- the UDP checksum is right, or the frame has Ethernet carriage -/
  udpOk : Bool := true
  srcMac : BitVec 48 := 0
  srcIp6 : BitVec 128 := 0
  /-- not on the wire: the request comes from this package itself (R317); set by the sending die alone -/
  self : Bool := false
  /-- not on the wire: the frame goes, or has come, by a twin port (R453); set by the package's own dies alone -/
  twin : Bool := false
deriving DecidableEq, Repr, Inhabited

/-- A received twin frame (R453): its Ethernet carriage names no more than the EtherType. -/
structure TwinFrame where
  etherType : BitVec 16 := 0x88B6
  fcsOk : Bool := true
  kind : Byte := 0
  plane : Byte := 0
  tseq : BitVec 32 := 0
  tack : BitVec 32 := 0
  length : BitVec 16 := 0
  payload : List Byte := []
  crc : BitVec 32 := 0
deriving DecidableEq, Repr, Inhabited

/-- A service frame of another package, and where it arrives (R415, R427). -/
structure SvcFrom where
  plane : Plane
  sub : SubPort
  frame : WtFrame
deriving DecidableEq, Repr, Inhabited

/-- The sender's rank, as the frame names it. -/
def SvcFrom.rank (f : SvcFrom) : BitVec 16 := f.frame.srcRank

/-- What the package reads of one slot of a module (R400, R416): the bytes where the manifest stands, the shard headers and shard data in
manifest order (no data for a reference), and the commit LBA. -/
structure SlotCopy where
  manifest : List Byte := []
  headers : List (List Byte) := []
  data : List (List Byte) := []
  commit : List Byte := []
deriving DecidableEq, Repr, Inhabited

/-- What a restore reads (R416): the module header, the slots of the own region, and the same slots of the twin's mirror region, which come
over the twin link (none without a twin). -/
structure RestoreFound where
  header : List Byte := []
  own : List SlotCopy := []
  twin : List SlotCopy := []
deriving DecidableEq, Repr, Inhabited

/-- The NVMe module as the package identifies it (R398, R399): LBAs of namespace 1, and the link's lanes and GT/s. -/
structure ModuleFound where
  lbas : Nat := 0
  lanes : Nat := 8
  gts : Nat := 64
deriving DecidableEq, Repr, Inhabited

/-- What an acknowledgement of the management port matches (R295, R610). -/
structure MgmtAck where
  tag : BitVec 16
  seq : BitVec 24
  origin : Bool
deriving DecidableEq, Repr, Inhabited

/-- One slot's judgement as `RESTORE_VIEW` carries it (R415). -/
structure SlotView where
  gen : BitVec 32
  step : BitVec 64
  result : Byte
  commitSeen : Bool
  manifestDigest : List Byte
deriving DecidableEq, Repr, Inhabited

/-- What the package finds while it starts (steps 6 to 8 of R550). -/
structure StartFindings where
  /-- cores whose self-test fails, with the pass bits of R120 (bits 13:8) and the failing tiles -/
  failedCores : List (CoreId × BitVec 6 × BitVec 16) := []
  /-- channels that fail training (R250) -/
  failedChans : List Chan := []
  /-- sub-ports whose link does not train (R551) -/
  failedPorts : List (Plane × SubPort) := []
  /-- the NVMe module, if one is identified (R422) -/
  nvme : Option ModuleFound := some { lbas := 2 ^ 28 }
deriving DecidableEq, Repr, Inhabited

/-- The kind of a control-unit or application-core access. -/
inductive AccKind where
  | fetch | load | store | amoAdd | amoSwap | amoAnd | amoOr | amoXor | amoMin | amoMax | amoMinu | amoMaxu | lr | sc
deriving DecidableEq, Repr, Inhabited

/-- What an application core's access meets on its way: symbol errors of GDDR sectors (by sector-aligned
NPA), and flipped bits of the cache or SRAM word of element `i` (R493). -/
structure AccessErrs where
  sectors : List (Nat × SymErr) := []
  flips : List (Nat × Nat) := []
deriving DecidableEq, Repr, Inhabited

/-- A write to one of the event concentrator's configuration words (R527, R529, R531). -/
inductive EcConfig where
  | enable (target : Fin 200) (group : Fin 64) (value : Reg)
  | prio (group : Fin 64) (k : Fin 4) (value : Reg)
  | threshold (target : Fin 200) (value : Reg)
deriving DecidableEq, Repr, Inhabited

/-- Why a sub-port goes down (R305, R571). -/
inductive DownCause where
  | lockLost | fecErrors | unanswered
deriving DecidableEq, Repr, Inhabited

/-- Who makes an access to the event concentrator's pages (R513, R514). -/
inductive Ringer where
  | hart (h : Hart)
  | core (c : CoreId)
  | host (t : Ten)
deriving DecidableEq, Repr, Inhabited

end Sys2Proof
end

