-- ==== Sys2Proof/Syntax.lean ====
section
/-! DEFINITION. The commands of the block: one constructor per row of spec/opcode_table.json, in the
table's order. An operand is what the outside decides of the step: which unit makes it, what arrives
with it, and what a checker, sensor or device reports (log 10). -/

namespace Sys2Proof

inductive Instr where
  -- compute core: control unit and operation table (chapter 3)
  | eiss (c : CoreId) (rd rs1 : BitVec 5) (pick : Fin 64) (ups : List Upset)
  | enext (c : CoreId) (rd : BitVec 5)
  | etest (c : CoreId) (rd : BitVec 5)
  | eabort (c : CoreId) (rd rs1 rs2 : BitVec 5)
  | esum (c : CoreId) (rd rs1 : BitVec 5)
  | wfi (c : CoreId)
  | opStart (c : CoreId) (entry : Fin 64)
  | opEnd (c : CoreId) (entry : Fin 64)
  -- engines (chapters 4, 5, 8)
  | matrixTilePassEnd (c : CoreId) (mis : Option Mismatch) (ups : List Upset)
  | vectorTileEnd (c : CoreId) (mis : Option Mismatch) (ups : List Upset)
  | solverCheckStep (c : CoreId) (mis : Option Mismatch) (ups : List Upset)
  | solveDeadlineCheck (c : CoreId) (atPanel : Bool)
  | teamProductDone (c : CoreId) (member : Fin 1280)
  -- DMA engine, mesh and stores (chapters 1, 3, 7)
  | dmaRequestIssue (c : CoreId) (ups : List Upset)
  | dmaRequestAnswer (c : CoreId) (req : Nat) (ups : List Upset)
  | flitStore (src dst : BitVec 17)
  | flitLoadRequest (src dst : BitVec 17)
  | flitLoadResponse (src dst : BitVec 17)
  | flitTileTransfer (src dst : BitVec 17)
  | flitCompletionNotice (src dst : BitVec 17)
  | foreignRequestServe (c : CoreId) (ups : List Upset)
  | scrubRow (c : CoreId) (ups : List Upset) (newer : List Nat)
  -- rates and profiles (chapters 2, 20)
  | dieRateUpdate (d : Die) (own : BitVec 16) (railMv : BitVec 16)
  | floorBreach (d : Die)
  | admissionResume (d : Die)
  | resume (d : Die)
  | minClear (c : CoreId)
  | dieProfileSwitch (d : Die)
  | change (request : BitVec 2)
  -- core registers (chapters 3, 4, 7)
  | abortAll (c : CoreId)
  | haltCu (c : CoreId) (v : Bool)
  | tileqEnable (c : CoreId) (v : Bool)
  | mxSelftestStart (c : CoreId)
  | selftestDone (c : CoreId) (pass : BitVec 6) (failTiles : BitVec 16)
  | wsPartWrite (c : CoreId) (n : Fin 8) (v : Reg)
  | wsBankPowerWrite (c : CoreId) (v : Reg)
  | bankReady (c : CoreId) (bank : Fin 6)
  -- GDDR channels (chapter 9)
  | gddrRequest (ch : Chan) (errs : List SymErr)
  | squallExit (ch : Chan) (sector : Nat)
  | lineCreditGrant (ch : Chan) (sector : Nat)
  | gddrRefreshSlice (ch : Chan) (deviceCorrected : BitVec 32)
  | gddrRetrain (ch : Chan) (last : Bool)
  | gddrTempRead (ch : Chan) (temp : Byte)
  | gddrHeatExit (ch : Chan)
  | start (ch : Chan)
  | migrationDrained (ch : Chan)
  | migrationUnitCopy (ch : Chan) (errs : List (Nat × SymErr))
  | rowSpareCopy (ch : Chan) (n : Fin 64)
  | channelLost (ch : Chan)
  -- Weamin transport (chapters 10, 11)
  | wtStore (pl : Plane) (sub : SubPort) (f : WtFrame)
  | loadRequest (pl : Plane) (sub : SubPort) (f : WtFrame)
  | atomicRequest (pl : Plane) (sub : SubPort) (f : WtFrame)
  | loadResponse (pl : Plane) (sub : SubPort) (f : WtFrame)
  | atomicResponse (pl : Plane) (sub : SubPort) (f : WtFrame)
  | acknowledgement (pl : Plane) (sub : SubPort) (f : WtFrame)
  | creditUpdate (pl : Plane) (sub : SubPort) (f : WtFrame)
  | creditUpdateSend (pl : Plane) (peer : Nat)
  | sharedBufferExpiry (pl : Plane) (peer : Nat)
  | pathProbe (pl : Plane) (sub : SubPort) (f : WtFrame)
  | resendTimer (pl : Plane) (tag : BitVec 16)
  | retryBudgetExpiry (pl : Plane) (tag : BitVec 16)
  | pathTableRebuild (pl : Plane)
  | subPortDown (pl : Plane) (sub : SubPort) (cause : DownCause)
  | planeTakeover (failed : Plane)
  -- collectives (chapter 12)
  | collectiveSubmit (src : BitVec 17) (off : BitVec 15) (bytes : List Byte)
  | collectiveLocalAdmit (t : Ten) (cseq : BitVec 32) (ups : List (CoreId × Upset))
  | collectiveChunk (pl : Plane) (sub : SubPort) (f : WtFrame)
  | collectiveResult (pl : Plane) (sub : SubPort) (f : WtFrame)
  | abandon (pl : Plane) (sub : SubPort) (f : WtFrame)
  | collectiveTargetLost (pl : Plane) (tag : BitVec 16)
  -- host commands and jobs (chapter 15)
  | hostCommand (port : Option (Plane × SubPort)) (f : WtFrame)
  | nop (t : Ten)
  | memWrite (t : Ten)
  | memRead (t : Ten) (errs : List (Nat × SymErr))
  | status (t : Ten)
  | jobRun (t : Ten)
  | ring (t : Ten)
  | jobLoad (t : Ten)
  | jobStart (t : Ten)
  | jobRevoke (t : Ten)
  | revokeDrained (t : Ten)
  | jobFree (t : Ten)
  | restore (t : Ten)
  | windowSet (t : Ten)
  | groupSet (t : Ten)
  | rackMapSet (t : Ten)
  | rankSet (t : Ten)
  | imageWrite (t : Ten)
  | logForwardAck (a : MgmtAck)
  -- checkpoint and restore (chapter 14)
  | ckptPeriodTrigger (t : Ten)
  | ckptStepPoll (t : Ten)
  | cutQuery (t : Ten) (from0 : SvcFrom) (gen : BitVec 32)
  | cutReply (t : Ten) (from0 : SvcFrom) (gen : BitVec 32) (step : BitVec 64)
  | cutSet (t : Ten) (from0 : SvcFrom) (gen : BitVec 32) (step : BitVec 64)
  | stagedGenSeen (t : Ten)
  | nvmeCompletion (own : Option Ten) (ok : Bool)
  | digestNote (t : Ten) (from0 : SvcFrom) (gen shard : BitVec 32) (digest : List Byte)
  | pkgWritten (t : Ten) (from0 : SvcFrom) (gen : BitVec 32) (status reason : Byte) (digest : List Byte)
  | commit (t : Ten) (from0 : SvcFrom) (gen : BitVec 32) (step : BitVec 64) (digest : List Byte)
  | ckptAbandon (t : Ten) (from0 : SvcFrom) (gen : BitVec 32) (reason : Byte)
  | ckptTimeout (t : Ten)
  | mirrorData (from0 : SvcFrom) (region slot half : Byte) (lba : BitVec 64)
  | restoreView (t : Ten) (from0 : SvcFrom) (views : List SlotView) (found : RestoreFound)
  | restoreGo (t : Ten) (from0 : SvcFrom) (gen : BitVec 32) (data : List (BitVec 32 × List Byte))
  | shardData (t : Ten) (from0 : SvcFrom) (shard : BitVec 32) (off : BitVec 64) (data : List Byte)
  | restoreDone (t : Ten) (from0 : SvcFrom) (gen : BitVec 32) (status : Byte)
  -- twins (chapter 16)
  | heartbeat (pl : Plane) (f : TwinFrame)
  | heartbeatSend (pl : Plane)
  | twinLost
  | twinFrameResend (pl : Plane) (tseq : BitVec 32)
  | writeForward (pl : Plane) (f : TwinFrame)
  | copyData (pl : Plane) (f : TwinFrame)
  | castRecords (pl : Plane) (f : TwinFrame)
  | castCompletion (pl : Plane) (f : TwinFrame)
  | stopping (pl : Plane) (f : TwinFrame)
  | attach (pl : Plane) (f : TwinFrame)
  | announcement (pl : Plane) (f : TwinFrame)
  | takeoverStart (probeAnswered : Bool)
  | attachStart
  | syncUnitCopy
  | detach
  | takeover
  -- event concentrator (chapter 18)
  | doorbell (who : Ringer) (block : Fin 9) (v : Reg) (aligned : Bool)
  | retract (who : Ringer) (block : Fin 9) (v : Reg) (aligned : Bool)
  | claim (target : Fin 200) (rd : BitVec 5)
  | complete (target : Fin 200) (v : Reg)
  | ecPendingWrite (group : Fin 64) (v : Reg)
  | ecConfigWrite (w : EcConfig)
  | ecSourceEvent (source : BitVec 12)
  | gustHoldEnd (group : Fin 64)
  -- Xszv (chapter 17)
  | add (h : Hart) (et : BitVec 3) (w : Bool) (rd rs1 rs2 : BitVec 5)
  | sub (h : Hart) (et : BitVec 3) (w : Bool) (rd rs1 rs2 : BitVec 5)
  | mul (h : Hart) (et : BitVec 3) (w : Bool) (rd rs1 rs2 : BitVec 5)
  | min (h : Hart) (et : BitVec 3) (w : Bool) (rd rs1 rs2 : BitVec 5)
  | max (h : Hart) (et : BitVec 3) (w : Bool) (rd rs1 rs2 : BitVec 5)
  | minu (h : Hart) (et : BitVec 3) (w : Bool) (rd rs1 rs2 : BitVec 5)
  | maxu (h : Hart) (et : BitVec 3) (w : Bool) (rd rs1 rs2 : BitVec 5)
  | abs (h : Hart) (et : BitVec 3) (w : Bool) (rd rs1 rs2 : BitVec 5)
  | avg (h : Hart) (et : BitVec 3) (w : Bool) (rd rs1 rs2 : BitVec 5)
  | cmpeq (h : Hart) (et : BitVec 3) (w : Bool) (rd rs1 rs2 : BitVec 5)
  | cmplt (h : Hart) (et : BitVec 3) (w : Bool) (rd rs1 rs2 : BitVec 5)
  | cmple (h : Hart) (et : BitVec 3) (w : Bool) (rd rs1 rs2 : BitVec 5)
  | cmpltu (h : Hart) (et : BitVec 3) (w : Bool) (rd rs1 rs2 : BitVec 5)
  | sel (h : Hart) (et : BitVec 3) (w : Bool) (rd rs1 rs2 : BitVec 5)
  | widen (h : Hart) (et : BitVec 3) (w : Bool) (rd rs1 rs2 : BitVec 5)
  | widenh (h : Hart) (et : BitVec 3) (w : Bool) (rd rs1 rs2 : BitVec 5)
  | widenu (h : Hart) (et : BitVec 3) (w : Bool) (rd rs1 rs2 : BitVec 5)
  | widenuh (h : Hart) (et : BitVec 3) (w : Bool) (rd rs1 rs2 : BitVec 5)
  | narrow (h : Hart) (et : BitVec 3) (w : Bool) (rd rs1 rs2 : BitVec 5)
  | narrowu (h : Hart) (et : BitVec 3) (w : Bool) (rd rs1 rs2 : BitVec 5)
  | shuf (h : Hart) (et : BitVec 3) (w : Bool) (rd rs1 rs2 : BitVec 5)
  | dot (h : Hart) (et : BitVec 3) (w : Bool) (rd rs1 rs2 : BitVec 5)
  | dotus (h : Hart) (et : BitVec 3) (w : Bool) (rd rs1 rs2 : BitVec 5)
  | sad (h : Hart) (et : BitVec 3) (w : Bool) (rd rs1 rs2 : BitVec 5)
  | splat (h : Hart) (et : BitVec 3) (w : Bool) (rd rs1 rs2 : BitVec 5)
  | mlt (h : Hart) (et : BitVec 3) (w : Bool) (rd rs1 rs2 : BitVec 5)
  | mtest (h : Hart) (et : BitVec 3) (w : Bool) (rd rs1 rs2 : BitVec 5)
  | xld (h : Hart) (et : BitVec 3) (w : Bool) (rd rs1 rs2 : BitVec 5) (errs : AccessErrs)
  | xst (h : Hart) (et : BitVec 3) (w : Bool) (rd rs1 rs2 : BitVec 5)
  | xldff (h : Hart) (et : BitVec 3) (w : Bool) (rd rs1 rs2 : BitVec 5) (errs : AccessErrs)
  | xstm (h : Hart) (et : BitVec 3) (w : Bool) (rd rs1 rs2 : BitVec 5)
  -- I3C target (chapter 17)
  | i3cPrivateWrite (off : BitVec 16)
  | i3cPrivateRead
  | setdasa (stat : BitVec 7) (dyn : BitVec 7)
  | entdaa (dyn : BitVec 7)
  | rstdaa
  | getstatus
  | getpid
  -- supplies and resets (chapters 20, 24)
  | boardPgRise
  | supplyPowerGood (supply : Fin 17)
  | powerGoodTimeout
  | boardPgFall
  | supplyPgLoss (supply : Fin 17)
  | pkgResetAssert
  | pkgResetRelease
  -- start and identity (chapter 19)
  | startSequence (found : StartFindings)
  | ptpLock (t : BitVec 64) (selPlane : BitVec 2) (selSub : BitVec 6)
  | timeWaitExpiry
  | announce
  | imageData (off : BitVec 64) (data : List Byte)
  | imageEnd (len : BitVec 64)
  | attestationRequest (port : Option Plane) (nonce : List Byte) (wantDevice : Bool)
  | imageRestart
  | dieReset (d : CDie) (fails : List (CoreId × BitVec 6 × BitVec 16))
  | linkReset (pl : Plane) (port : Fin 12) (sub : Fin 4)
  -- Doldrums, heat, power (chapter 20)
  | enter
  | doldrumsEntryDrained
  | wake (cause : BitVec 4)
  | doldrumsTimer
  | thermalSample (d : Die) (tj plinth : Byte)
  | thermalStateExit (d : Die)
  -- common time (chapter 21)
  | ptpMessage (offset : BitVec 64) (selPlane : BitVec 2) (selSub : BitVec 6)
  | holdoverEnter
  | ppsOut
  -- errors and repair (chapter 22)
  | errorRecordAppend
  | pop
  | logForward
  | remapApply (d : CDie) (n : Fin 256) (ups : List (CoreId × Upset))
  -- package control space (chapter 23)
  | registerWrite (hart : Fin 4) (addr : BitVec 48) (size : Fin 4) (v : Reg)
  -- test access port (chapter 24)
  | bypass
  | idcode
  | samplePreload (cells : List Bool)
  | extest (cells : List Bool)
  | extestPulse (cells : List Bool)
  | extestTrain (cells : List Bool)
  | clamp
  | highz
  -- rows at the table's end
  | linkUp (pl : Plane) (sub : SubPort)
  | notAdmittedResend (pl : Plane) (tag : BitVec 16)
  | controlUnitLoadStore (c : CoreId) (k : AccKind) (size : Fin 3) (zeroExt : Bool) (addr : BitVec 32) (r : BitVec 5) (ups : List Upset)
  | applicationCoreAccess (h : Hart) (k : AccKind) (size : Fin 4) (npa : BitVec 64) (r : BitVec 5) (v : Reg) (errs : AccessErrs)
  | rateMonitorWindow (c : CoreId) (rate : BitVec 16)
  | powerBudgetWindow (watts : BitVec 16) (rails : List (Die × BitVec 16))
deriving DecidableEq, Repr

end Sys2Proof
end

