-- ==== Sys2Proof/Decode.lean ====
section
/-! DEFINITION. The commands a word of the command table spells. No row of spec/opcode_table.json gives
its command bits (every row's list of fields is empty), so no word spells a command. -/

namespace Sys2Proof

/-- The command that a word of `nbits` bits spells by the table's bits: none, for the table gives no bits. -/
def decodeTableWord (_nbits _w : Nat) : Option Instr := none

end Sys2Proof
end

