-- ==== Sys2Proof/Machine/State.lean ====
section
/-! DEFINITION. The state of the package as plain data. The default of a field is its value at reset:
the At reset column of the register tables (R11), or the value log 3 names where the spec gives none.
A table (`Tab`) lists only the keys whose value differs from the default of its element type. -/

namespace Sys2Proof.Machine

/-- A sparse table by number: strictly rising keys; an unlisted key holds the element's default. -/
abbrev Tab (α : Type) := List (Nat × α)

/-- A memory: bytes by address, strictly rising, no listed byte equal to what an unlisted address reads (log 4). -/
abbrev Mem := List Host.Cell

/-- A core-block region entry, or a tenancy's GDDR region (R89, R90, R425). -/
structure Region where
  base : BitVec 52 := 0
  permR : Bool := false
  permW : Bool := false
  permA : Bool := false
  valid : Bool := false
  limit : BitVec 52 := 0
deriving DecidableEq, Repr, Inhabited

/-- An error record before it is laid out in 64 bytes (R18). -/
structure ErrRec where
  unit : BitVec 32 := 0
  cls : Byte := 0
  severity : Byte := 0
  status : Byte := 0
  addrKind : Byte := 0
  time : Nat := 0
  address : BitVec 64 := 0
  syndrome : BitVec 64 := 0
  jobId : BitVec 16 := 0
  jobGen : BitVec 16 := 0
  opTag : BitVec 32 := 0
  detail : List Byte := []
deriving DecidableEq, Repr, Inhabited

/-! ### Operation table -/

/-- State of an operation-table entry (R74). -/
inductive EntryCode where
  | free | admitted | running | done | aborted | failed
deriving DecidableEq, Repr, Inhabited

/-- The dependency of an operation, resolved at admission (R77). -/
inductive Dep where
  | none | on (op : Nat) | broken
deriving DecidableEq, Repr, Inhabited

/-- Counts and flags of the elements an operation has written (R149, R183). -/
structure Health where
  elements : Nat := 0
  zeros : Nat := 0
  saturations : Nat := 0
  nonfinite : Nat := 0
  vanished : Nat := 0
  flags : BitVec 7 := 0
deriving DecidableEq, Repr, Inhabited

/-- An element that an operation has written: its linear index in the output, its code, the block's scale byte or exponent (for
`hash_probe`, 1 for a miss), and how it counts (R183). -/
structure OutElem where
  idx : Nat := 0
  code : Nat := 0
  ex : Int := 0
  flags : BitVec 7 := 0
  zero : Bool := false
  nonfinite : Bool := false
deriving DecidableEq, Repr, Inhabited

/-- One entry of the operation table (R71, R80), with the descriptor as latched. -/
structure Entry where
  code : EntryCode := .free
  desc : List Byte := []
  off : BitVec 16 := 0
  /-- serial number of the operation in its core, by which a dependency names it -/
  op : Nat := 0
  dep : Dep := .none
  tStart : Nat := 0
  endBy : Nat := 0
  /-- bound_ns of R47 with queue_ns of R78 -/
  bound : Nat := 0
  status : Byte := 0
  recFlags : Byte := 0
  health : Health := {}
  /-- scalar summary in the making (R82) -/
  summary : BitVec 32 := 0
  /-- an abort has reached the running entry (R92) -/
  abortReq : Bool := false
  /-- the status an abort carries: ST_ABORTED, or what a revoke or trip gives (R343, R584) -/
  abortStatus : Byte := 2
  /-- the engine has finished: the status with which OP_END ends the entry -/
  outcome : Option Byte := none
  /-- one tile or pass has been re-executed (R117) -/
  reexec : Bool := false
  gddrCred : Tab Nat := []
  remCred : Tab Nat := []
  resCred : Nat := 0
  /-- longest refusal of one of its requests, in ns (R335) -/
  refusedNs : Nat := 0
  /-- lent to a team unit: never delivered (R225) -/
  lent : Bool := false
  /-- elements written, by their index in the output, from which a summary is formed (R147) and which count once (R183) -/
  written : List OutElem := []
  acc : BitVec 32 := 0
  /-- bytes written, as (NPA, byte), for the Cast checksum (R473) -/
  wrote : List (Nat × Byte) := []
  /-- the list of an atomic batch as admission counted it, which fixes where its entries reach (R257) -/
  batch : List Byte := []
deriving DecidableEq, Repr, Inhabited

/-- What a control unit waits for (R66, R69, R93). -/
inductive CuWait where
  | none | enext (rd : BitVec 5) | eabort (rd : BitVec 5) (entry : Nat) (op : Nat) | wfi
deriving DecidableEq, Repr, Inhabited

/-! ### Mesh and DMA -/

/-- A flit in flight: the header of R33 and its payload. `req` names the request a response answers;
`err` is the status a failed foreign read carries back (R210). -/
structure Flit where
  dst : BitVec 17 := 0
  src : BitVec 17 := 0
  kind : BitVec 4 := 0
  lenM1 : BitVec 9 := 0
  last : Bool := true
  jobId : BitVec 16 := 0
  opTag : BitVec 32 := 0
  resident : Bool := false
  off : BitVec 22 := 0
  payload : List Byte := []
  req : Nat := 0
  part : Nat := 0
  err : Byte := 0
  /-- the access logged an error record (R81) -/
  logged : Bool := false
  /-- the store of a completion record (R81), or its notice, for which nothing waits -/
  record : Bool := false
deriving DecidableEq, Repr, Inhabited

/-- Who waits for a memory access: a DMA request of a core, a window request of a frame, a flit of another core. -/
inductive Asker where
  | dma (c : CoreId) (req part : Nat)
  | window (pl : Plane) (f : WtFrame)
  | flit (fl : Flit)
deriving DecidableEq, Repr, Inhabited

/-- The kind of a memory access: an atomic carries aop, atype, whether old values return, the comparand (R324). -/
inductive MemOp where
  | load | store | atomic (aop atype : Byte) (ret : Bool) (comparand : List Byte)
deriving DecidableEq, Repr, Inhabited

/-- A request waiting at a GDDR controller or at a resident-store slice: address within the memory. -/
structure MemReq where
  asker : Asker := .window 0 {}
  op : MemOp := .load
  addr : Nat := 0
  len : Nat := 0
  data : List Byte := []
deriving DecidableEq, Repr, Inhabited

/-- One outstanding DMA request (R83, R86). `phase` 0 reads its source, 1 writes its destination. -/
structure DmaReq where
  id : Nat := 0
  src : Nat := 0
  srcKind : Nat := 0
  dst : Nat := 0
  dstKind : Nat := 0
  len : Nat := 0
  phase : Nat := 0
  data : List Byte := []
  waiting : Nat := 0
  status : Byte := 0
  /-- the atomic entry's index, for an atomic batch (R327) -/
  item : Option Nat := none
  /-- the last request of its transfer: its last flit has `last` set (R33) -/
  last : Bool := false
  /-- how many requests to fabric addresses the transfer had made before this one (R330) -/
  j : Nat := 0
deriving DecidableEq, Repr, Inhabited

/-- An answer that has come back to a core's DMA engine. -/
structure DmaAns where
  req : Nat := 0
  part : Nat := 0
  status : Byte := 0
  data : List Byte := []
  /-- the access logged an error record (R81) -/
  logged : Bool := false
deriving DecidableEq, Repr, Inhabited

/-- Progress of the DMA engine: which entry runs, the next row and offset, what is outstanding. -/
structure Dma where
  entry : Option Nat := none
  row : Nat := 0
  off : Nat := 0
  nextReq : Nat := 0
  outst : List DmaReq := []
  answers : List DmaAns := []
  /-- first failing status met (R210, R332) -/
  fail : Byte := 0
  /-- requests sent to fabric addresses so far, for the alternation of R330 -/
  sent : Nat := 0
  /-- an atomic entry that makes no request has ended the batch: earlier entries stand (R328) -/
  stands : Bool := false
deriving DecidableEq, Repr, Inhabited

/-- Progress of the matrix engine (R100, R101): tile and pass, accumulators of the pass's start. -/
structure MxRun where
  entry : Nat
  tile : Nat := 0
  pass : Nat := 0
  acc : List (BitVec 64) := []
  /-- the causes of the NaNs that accumulators hold (R181) -/
  made : List Nat := []
deriving DecidableEq, Repr, Inhabited

/-- Progress of the vector engine: the next tile, and for set_op the consumed and written counts (R129). -/
structure VxRun where
  entry : Nat
  tile : Nat := 0
  out : Nat := 0
  in0 : Nat := 0
  in1 : Nat := 0
  /-- the next key of run 1 has been matched by the last key consumed of run 0 -/
  matched : Bool := false
deriving DecidableEq, Repr, Inhabited

/-- Progress of a solve (R229 to R236, R246). -/
structure SvRun where
  entry : Nat
  /-- what the solve has read of its problem: descriptor, operands, start vector -/
  given : List Byte := []
  /-- the iterate, and the one of lowest ρ (R231) -/
  x : List (BitVec 64) := []
  rho : BitVec 64 := 0
  hasIterate : Bool := false
  bestX : List (BitVec 64) := []
  bestRho : BitVec 64 := 0
  /-- damping of `lm` (R233) -/
  lambda : BitVec 64 := 0
  iter : Nat := 0
  /-- inner CGLS iterations in all, and of this outer iteration (R233, R246) -/
  inner : Nat := 0
  innerNow : Nat := 0
  /-- panels of a direct solve done -/
  panels : Nat := 0
  factored : Bool := false
  warmRejected : Bool := false
  tDecided : Nat := 0
  path : Byte := 0
  cause : Byte := 0
  notes : Byte := 0
  /-- results of the team product in the making: (member, bytes) (R227) -/
  product : List (Nat × List Byte) := []
  /-- the product in the making: 0 forward of p, 1 adjoint of r, 2 residual at x, 4 residual at the point of a step; before the first
  iteration of a method and after a step 6 adjoint of r at an iterate, 5 forward of x, 7 adjoint of b; 3 the iteration is complete -/
  stage : Nat := 3
  /-- result vector of the last product, and F at the iterate (R227, R233) -/
  result : List (BitVec 64) := []
  resid : List (BitVec 64) := []
  /-- the point that the step reaches, and F there; the step is taken (R233) -/
  trialX : List (BitVec 64) := []
  trialF : List (BitVec 64) := []
  took : Bool := false
  /-- vectors of CGLS: residual, its adjoint, direction, and the step of an outer iteration (R219, R233) -/
  r : List (BitVec 64) := []
  s : List (BitVec 64) := []
  p : List (BitVec 64) := []
  delta : List (BitVec 64) := []
  /-- adjoint of the residual at the iterate, and where the solve and the inner CGLS began: what ρ compares (R229, R233) -/
  grad : List (BitVec 64) := []
  base : List (BitVec 64) := []
  innerBase : List (BitVec 64) := []
deriving DecidableEq, Repr, Inhabited

/-- A partition entry of a working store (R202). -/
structure Part where
  baseRow : BitVec 7 := 0
  rows : BitVec 7 := 0
  grid : Bool := false
  valid : Bool := false
deriving DecidableEq, Repr, Inhabited

/-- A slot of the tile queue: the 16-byte header and the elements (R103). -/
structure TileSlot where
  header : BitVec 128 := 0
  elems : List Byte := []
deriving DecidableEq, Repr, Inhabited

/-- One physical core (chapters 3 to 8). -/
structure Core where
  rateNow : BitVec 16 := 0
  rateMin : BitVec 16 := 0xFFFF
  rateSeen : Bool := false
  enable : Bool := false
  haltCu : Bool := false
  /-- `abort_all` has been written and its action is not complete (R10, R95) -/
  abortAll : Bool := false
  narrowOnly : Bool := false
  tileq : Bool := false
  cuRunning : Bool := false
  cuTrapped : Bool := false
  suspect : Bool := false
  trapPc : BitVec 32 := 0
  jobId : BitVec 16 := 0
  jobGen : BitVec 16 := 0
  tenancy : BitVec 3 := 0
  jobValid : Bool := false
  dropped : BitVec 32 := 0
  regions : Tab Region := []
  entries : Tab Entry := []
  /-- undelivered entries, oldest first (R61) -/
  order : List Nat := []
  nextOp : Nat := 1
  sums : Tab (BitVec 32) := []
  xregs : Tab (BitVec 32) := []
  pc : BitVec 32 := 0
  mepc : BitVec 32 := 0
  mcause : BitVec 32 := 0
  mtval : BitVec 32 := 0
  mscratch : BitVec 32 := 0
  /-- `mstatus.MIE` and `mstatus.MPIE` -/
  gie : Bool := false
  gpie : Bool := false
  cycle : BitVec 64 := 0
  instret : BitVec 64 := 0
  wait : CuWait := .none
  ws : Mem := []
  rs : Mem := []
  wsErr : Tab (List Nat) := []
  rsErr : Tab (List Nat) := []
  parts : Tab Part := []
  bankOn : BitVec 6 := 0x3F
  bankReady : BitVec 6 := 0x3F
  wsCorrected : BitVec 16 := 0
  wsUncorrectable : BitVec 16 := 0
  rsCorrected : BitVec 16 := 0
  rsUncorrectable : BitVec 16 := 0
  wsUnlogged : BitVec 32 := 0
  rsUnlogged : BitVec 32 := 0
  wsLogged : Option Nat := none
  rsLogged : Option Nat := none
  foreign : List MemReq := []
  foreignHeld : List MemReq := []
  /-- rows swept, and the time the last one was due (R213) -/
  scrubAt : Nat := 0
  scrubLast : Nat := 0
  tileQueue : List TileSlot := []
  selfBusy : Bool := false
  selfDone : Bool := false
  selfPass : BitVec 6 := 0
  failTiles : BitVec 16 := 0
  mxCorrected : BitVec 16 := 0
  mxFailed : BitVec 16 := 0
  mxAborted : BitVec 16 := 0
  vxCorrected : BitVec 16 := 0
  vxFailed : BitVec 16 := 0
  vxAborted : BitVec 16 := 0
  vxFlags : BitVec 7 := 0
  seed : BitVec 64 := 0
  srBits : BitVec 5 := 0
  healthBase : BitVec 17 := 0
  healthOn : Bool := false
  recruited : BitVec 11 := 0
  iteration : BitVec 16 := 0
  svOpcode : Byte := 0
  member : Bool := false
  solver : BitVec 17 := 0
  /-- the solver core's entry that recruited this member -/
  solveEntry : Nat := 0
  lent : List Nat := []
  teamBlock : List Byte := []
  mx : Option MxRun := none
  vx : Option VxRun := none
  /-- writes of the other engine while this engine's tile runs, oldest first, each as the bytes it replaced (R156): store place, old byte -/
  mxOld : List (List (Nat × Byte)) := []
  vxOld : List (List (Nat × Byte)) := []
  sv : Option SvRun := none
  dma : Dma := {}
  accIndex : BitVec 32 := 0
  /-- times of re-executed tiles, for the sliding hour of R609 -/
  reexecTimes : List Nat := []
  /-- scrub corrections of the slice's rows in the sliding hour of R609: (row, time) -/
  scrubTimes : List (Nat × Nat) := []
deriving DecidableEq, Repr, Inhabited

/-! ### Dies, channels -/

/-- DIE_RATE_STATUS of one die, and the CPC's rail of it (R41, R38, R53, R55). -/
structure DieRate where
  rateMin : BitVec 16 := 0
  floorRate : BitVec 16 := 0
  guardRate : BitVec 16 := 0
  admitting : Bool := false
  breach : Bool := false
  resume : Bool := false
  floorLoss : Bool := false
  /-- a breach or floor loss has stopped admission, and `resume` has not started it again (R55) -/
  mustResume : Bool := false
  /-- rail voltage in mV -/
  railMv : BitVec 16 := 0
  /-- since when the rate has been below the guard rate with the rail at the ceiling -/
  lowSince : Option Nat := none
  /-- since when, after the write of `resume`, the rate has been at or above the guard rate -/
  okSince : Option Nat := none
  /-- lowest rate seen (R54) -/
  lowest : BitVec 16 := 0xFFFF
  /-- ns for which the rate must have stayed at or above the guard rate before a reset or a wake admits again (R569, R577);
  0 when none is waiting -/
  waitNs : Nat := 0
  /-- this die has to switch to the requested profile (R58) -/
  switching : Bool := false
  /-- times of the die's breaches, newest first (R614) -/
  breaches : List Nat := []
  /-- thermal record of the die (R589) -/
  tj : Byte := 0
  tjPeak : Byte := 0
  plinthTj : Byte := 0
  heat : BitVec 2 := 0
  fromPlinth : Bool := false
  /-- times of the last readings at or above the exit values of heat-hold and of the hot state (R582) -/
  hotAt : Nat := 0
  warmAt : Nat := 0
deriving DecidableEq, Repr, Inhabited

/-- One run-time remap entry (R621). -/
structure Remap where
  row : BitVec 7 := 0
  solver : Bool := false
  column : Byte := 0
  valid : Bool := false
  applied : Bool := false
  refused : Bool := false
deriving DecidableEq, Repr, Inhabited

/-- Die-level registers of one compute die (R215, R621), and its unit-map rows (R544). -/
structure CompDie where
  scrubOn : Bool := false
  scrubUs : BitVec 16 := 0
  scrubPasses : BitVec 16 := 0
  /-- time from which the scrub interval runs (R641) -/
  scrubFrom : Nat := 0
  remaps : Tab Remap := []
  /-- used and faulty masks of the unit map, by physical row -/
  used : Tab (BitVec 168) := []
  faulty : Tab (BitVec 168) := []
  svUsed : BitVec 68 := 0
  svFaulty : BitVec 68 := 0
  busy : Bool := false
deriving DecidableEq, Repr, Inhabited

/-- One row-group spare entry (R281). -/
structure RowSpare where
  fromGroup : BitVec 21 := 0
  toGroup : BitVec 21 := 0
  valid : Bool := false
  assigned : Bool := false
  /-- the copy runs, and has moved the slots below `copied` -/
  copying : Bool := false
  copied : Nat := 0
deriving DecidableEq, Repr, Inhabited

/-- One GDDR channel (chapter 9). `mem` is keyed by channel-local unit times 256 plus byte. -/
structure Channel where
  pinRate : BitVec 2 := 0
  density : Bool := false
  rsMode : Bool := false
  copyShare : BitVec 4 := 4
  state : BitVec 3 := 0
  squallFull : Bool := false
  temp : Byte := 0
  migStart : Bool := false
  migLost : Bool := false
  migDone : Bool := false
  pointer : BitVec 25 := 0
  corrected : BitVec 32 := 0
  deviceCorrected : BitVec 32 := 0
  spares : Tab RowSpare := []
  mem : Mem := []
  /-- errors standing in a sector against the codeword of its own place, by the place's sector number (R258); sectors that match no data (R275) -/
  secErr : Tab (List SymErr) := []
  /-- requests at the controller in arrival order (R266), and those that wait in the window queues of the fabric dies, 48 entries each (R335) -/
  queue : List MemReq := []
  window : List MemReq := []
  /-- credits of the cores' share held by operations -/
  credUsed : Nat := 0
  tracker : Tab (List Nat) := []
  combining : Tab (List Byte) := []
  lineAsk : List (Nat × Nat) := []
  lineHeld : List (Nat × Nat) := []
  lineLast : Nat := 0
  unlogged : BitVec 32 := 0
  logged : Option Nat := none
  /-- last reading at or above the exit temperature of the present state (R276) -/
  hotAt : Nat := 0
  /-- a retrain runs (R269) -/
  retraining : Bool := false
  /-- 0 cool, 1 hot, 2 stopped for heat (R276) -/
  heat : BitVec 2 := 0
  /-- lost unplanned (R275) -/
  dead : Bool := false
  /-- migration: waiting for operations of the earlier bound; the shadow of the unit in copy (byte in unit, value) -/
  draining : Bool := false
  shadow : List (Nat × Byte) := []
  /-- peers refused at a window queue, longest refused first: (plane, peer) (R335) -/
  refusedPeers : List (Nat × Nat) := []
  /-- operations admitted under the earlier bound that still run: (core key, op) (R271) -/
  oldOps : List (Nat × Nat) := []
  /-- corrections per row group in the sliding hour (R609): (row group, time) -/
  corrTimes : List (Nat × Nat) := []
deriving DecidableEq, Repr, Inhabited

/-! ### Fabric -/

/-- One WT port (R314). -/
structure Port where
  mode : BitVec 2 := 0
  twin : Bool := false
  up : BitVec 4 := 0
  failed : BitVec 4 := 0
  hot : BitVec 4 := 0
  p99 : BitVec 16 := 0
deriving DecidableEq, Repr, Inhabited

/-- Receive state of one peer and origin (R292). -/
structure SeqSpace where
  known : Bool := true
  low : BitVec 24 := 0
  /-- executed sequence numbers from `low` upwards, with the status each was given -/
  seen : List (BitVec 24 × Byte) := []
  /-- statuses of executed requests below `low` whose answers may be asked for again -/
  old : List (BitVec 24 × Byte) := []
  /-- the die of the origin failed: atomics re-sent are refused (R307) -/
  takenOver : Bool := false
deriving DecidableEq, Repr, Inhabited

/-- One replay entry of an executed atomic (R294). -/
structure Replay where
  peer : Nat
  origin : Bool
  seq : BitVec 24
  status : Byte
  data : List Byte
deriving DecidableEq, Repr, Inhabited

/-- Credits of one peer on one plane (R298 to R300). -/
structure Credits where
  /-- as sender: requests sent, last credit_grant received, shared buffers that the peer has added to `base`, whether such have been asked
  for and not been answered, and when a request was last sent -/
  used : BitVec 16 := 0
  granted : BitVec 16 := 0
  base : BitVec 16 := 0
  asked : Bool := false
  lastSent : Nat := 0
  /-- as receiver: buffers freed for the peer, freed since it was last told, when the fourth of them was, shared buffers lent, last use -/
  freed : BitVec 16 := 0
  untold : Nat := 0
  fourAt : Nat := 0
  lent : Nat := 0
  lastUse : Nat := 0
deriving DecidableEq, Repr, Inhabited

/-- What waits for an outstanding request's answer (R291). -/
inductive OutOwner where
  | dma (c : CoreId) (req part : Nat) | coll (t : Nat) (cseq : BitVec 32) | mirror (t : Nat) | probe | none
deriving DecidableEq, Repr, Inhabited

/-- One outstanding request (R291, R296). -/
structure OutReq where
  tag : BitVec 16 := 0
  seq : BitVec 24 := 0
  origin : Bool := false
  peer : Nat := 0
  ten : Nat := 0
  pkg : Nat := 0
  owner : OutOwner := .none
  tFirst : Nat := 0
  resends : Nat := 0
  lastPlane : Plane := 0
  lastSub : Nat := 0
  /-- the receiver refused it with ST_NOT_ADMITTED: when, and since when (R335) -/
  refusedAt : Option Nat := none
  refusedFrom : Option Nat := none
  dstMac : BitVec 48 := 0
  /-- when its sending die accepted it (R288), and when it was last sent -/
  tAccept : Nat := 0
  tLast : Nat := 0
  /-- a re-send that waits for a credit of its plane: the plane, the path, whether R296 or R306 asks for it -/
  again : Option (Plane × BitVec 7 × Bool) := none
  /-- the re-sends made so far: plane, sub-port and time (R296, R305, R306) -/
  tries : List (Plane × Nat × Nat) := []
  frame : WtFrame := {}
deriving DecidableEq, Repr, Inhabited

/-- What a new request carries besides the fields its sending die fills in. -/
structure ReqPlan where
  ten : Nat := 0
  rank : Nat := 0
  pkg : Nat := 0
  type : BitVec 4 := 0
  jobId : BitVec 16 := 0
  jobGen : BitVec 16 := 0
  payload : List Byte := []
  owner : OutOwner := .none
  self : Bool := false
  /-- to the twin, by the twin port (R412, R453) -/
  twin : Bool := false
deriving DecidableEq, Repr, Inhabited

/-- A rack-map entry (R318). -/
structure RackEntry where
  rank : BitVec 16 := 0
  valid : Bool := false
  self : Bool := false
  lost : Bool := false
deriving DecidableEq, Repr, Inhabited

/-- A window entry (R319). -/
structure Window where
  jobId : BitVec 16 := 0
  jobGen : BitVec 16 := 0
  space : BitVec 2 := 0
  permR : Bool := false
  permW : Bool := false
  permA : Bool := false
  mirror : Bool := false
  valid : Bool := false
  base : BitVec 48 := 0
  length : BitVec 48 := 0
  busy : BitVec 16 := 0
deriving DecidableEq, Repr, Inhabited

/-- A rank-table entry (R446). -/
structure RankEntry where
  mac : BitVec 48 := 0
  valid : Bool := false
  inRack : Bool := false
  pkg : Byte := 0
  ip6hi : BitVec 64 := 0
  ip6lo : BitVec 64 := 0
deriving DecidableEq, Repr, Inhabited

/-- A collective group entry (R376). -/
structure Group where
  jobId : BitVec 16 := 0
  jobGen : BitVec 16 := 0
  gen : BitVec 16 := 0
  localCount : BitVec 12 := 0
  valid : Bool := false
  hier : Bool := false
  memberLost : Bool := false
  memberAddr : BitVec 52 := 0
  members : BitVec 17 := 0
  /-- the member list as it was read when the entry was formed (R346, R437); empty where it could not be read -/
  list : List (BitVec 16) := []
  lastCseq : BitVec 32 := 0
  /-- model's own: `cseq` and status of the collectives that ended without completing, so that their late frames and descriptors are told
  from early ones (R372) -/
  ended : List (BitVec 32 × Byte) := []
deriving DecidableEq, Repr, Inhabited

/-- One fabric die with its plane (chapters 10, 11, 12, 15). -/
structure Fabric where
  ethertype : BitVec 16 := 0
  udpPort : BitVec 16 := 0
  udpMode : Bool := false
  vlanId : BitVec 12 := 0
  vlanEn : Bool := false
  pcp : BitVec 3 := 0
  pfcEn : Bool := false
  hopBound : BitVec 10 := 0
  ports : Tab Port := []
  crcDrop : BitVec 32 := 0
  dupDrop : BitVec 32 := 0
  seqFault : BitVec 32 := 0
  resent : BitVec 32 := 0
  outst : List OutReq := []
  /-- requests of the engines that wait for a credit of their peer -/
  waiting : List ReqPlan := []
  nextTag : BitVec 15 := 0
  nextSeq : Tab (BitVec 24) := []
  spaces : Tab SeqSpace := []
  replay : List Replay := []
  /-- duplicates of requests still being executed, by the plane each came by (R294) -/
  dups : List (Nat × WtFrame) := []
  credits : Tab Credits := []
  shared : Nat := 2048
  /-- path table by entry, and its length of list (R301) -/
  path : List Nat := []
  hist : Tab (List Nat) := []
  /-- hop latencies returned in the last 10 us: time, latency, to a peer of the rack domain (levels 3 and 4, R364) -/
  hops : List (Nat × Nat × Bool) := []
  /-- when the running window of the measurement began (R302) -/
  winAt : Nat := 0
  /-- when a peer last answered a request sent on one of the die's sub-ports, plus 1, by peer times 64 plus sub-port (R305) -/
  answered : Tab Nat := []
  /-- re-sends by the die's sub-ports that went unanswered, though their request was answered by another: sub-port, peer, time; those of a
  peer are dropped when it answers a request by that sub-port (R305) -/
  unheard : List (Nat × Nat × Nat) := []
  /-- last bound-extension record by peer times 64 plus sub-port (R304) -/
  extLogged : Tab Nat := []
  /-- the die works; false after a failure of the fabric die (R306, R307) -/
  alive : Bool := true
  rackMap : Tab RackEntry := []
  windows : Tab Window := []
  tagQuota : Tab (BitVec 16) := []
  tagsUsed : Tab (BitVec 16) := []
  winFault : BitVec 32 := 0
  refused : BitVec 32 := 0
  revokeDrop : BitVec 32 := 0
  targetLost : BitVec 32 := 0
  jobDrop : BitVec 32 := 0
  rankDrop : BitVec 32 := 0
  hostDrop : BitVec 32 := 0
  hallBound : BitVec 16 := 0
  slotQuota : Tab (BitVec 12) := []
  slotsUsed : Tab (BitVec 12) := []
  groups : Tab Group := []
  l0 : Byte := 0
  l1 : Byte := 0
  l2 : Byte := 0
  l3 : Byte := 0
  l4 : Byte := 0
  chkRetry : BitVec 32 := 0
  chkFail : BitVec 32 := 0
  spills : BitVec 32 := 0
  staleDrop : BitVec 32 := 0
  ranks : Tab RankEntry := []
deriving DecidableEq, Repr, Inhabited

/-! ### Collectives -/

/-- A queued collective descriptor, its contributor, and the operation whose copy delivered it (R349, R350, R471). -/
structure CollDesc where
  core : BitVec 17 := 0
  bytes : List Byte := []
  acc : BitVec 32 := 0
  /-- the job of the contributor's flits (R34) -/
  jobId : BitVec 16 := 0
  jobGen : BitVec 16 := 0
deriving DecidableEq, Repr, Inhabited

/-- Accumulators and header of one 64-element block (R354, R360); `nv`: an SBI block of another exponent met it (R145, R360); `mixed`:
sums of members that differ in their exponent met in it (R386). -/
structure AccBlock where
  elems : List Int := []
  e : Int := 0
  nonfinite : Nat := 0
  ovf : Bool := false
  nv : Bool := false
  mixed : Bool := false
deriving DecidableEq, Repr, Inhabited

/-- The sub-header of a collective frame (R368). -/
structure CollSub where
  cseq : BitVec 32 := 0
  group : Nat := 0
  cop : Nat := 0
  stage : Nat := 0
  gen : BitVec 16 := 0
  first : Nat := 0
  blocks : Nat := 0
  wide : Bool := false
  spilled : Bool := false
  rereq : Bool := false
  nfAny : Bool := false
  abandon : Bool := false
  hierNext : Bool := false
  astatus : Byte := 0
  tAdmit : Nat := 0
  checksum : Nat := 0
deriving DecidableEq, Repr, Inhabited

/-- A collective admitted on this package (R355 to R367). -/
structure Coll where
  ten : Nat := 0
  group : Nat := 0
  cseq : BitVec 32 := 0
  gen : BitVec 16 := 0
  /-- local descriptors by `local_index` -/
  descs : List CollDesc := []
  /-- ranks of the members, and this package's member position -/
  members : List Nat := []
  me : Nat := 0
  home : Nat := 0
  slots : Nat := 0
  spilled : Bool := false
  anySpilled : Bool := false
  /-- the bound computed at local admission, and the form that holds once a member is known to spill (R42, R369, R616) -/
  bound : Nat := 0
  boundSp : Nat := 0
  tAdmit : Nat := 0
  /-- latest local admission heard of -/
  tStart : Nat := 0
  hier : Bool := false
  /-- the shape that member 0 chooses for the next one (R364) -/
  hierTo : Bool := false
  /-- in the hierarchical shape (R364): the rack domains of the group, as member positions; none in the flat one -/
  doms : List (List Nat) := []
  /-- the re-request round was used (R352), and this member has used it (R366) -/
  rereq : Bool := false
  asking : Bool := false
  /-- chunks asked for again that have not come yet: (frame type, member, first block) -/
  asked : List (Nat × Nat × Nat) := []
  /-- mismatches that nothing has cured yet: of a frame, as in `asked`; of a shard's sum, (8, member count, shard) -/
  bad : List (Nat × Nat × Nat) := []
  /-- in the exponent agreement of `scale_mode` 1 -/
  agree : Bool := false
  /-- package sums by block, and the blocks in the making at this owner -/
  own : Tab AccBlock := []
  acc : Tab AccBlock := []
  /-- agreed exponents by block, 2^31 below zero for none -/
  exps : Tab Int := []
  /-- package sums and sums in the making of the exponent agreement, kept to answer re-requests (R366) -/
  ownAgreed : Tab AccBlock := []
  accAgreed : Tab AccBlock := []
  /-- chunks taken into the shard: (member, first block, blocks, checksum) -/
  got : List (Nat × Nat × Nat × Nat) := []
  /-- the shard is complete and its result has gone out -/
  shardDone : Bool := false
  /-- shards of members outside the rack domain whose rack-domain sum has gone to their owner (R364) -/
  fwd : List Nat := []
  /-- frames of the pass after the exponent agreement that have come before it begins: type, member, header, blocks -/
  held : List (Nat × Nat × CollSub × List AccBlock) := []
  /-- members known to have admitted the collective (R358) -/
  heard : List Nat := []
  /-- result blocks by block (by member times B plus block where members supply parts) -/
  res : Tab AccBlock := []
  /-- blocks whose result has arrived -/
  arrived : List Nat := []
  nfAny : Bool := false
  wrote : Bool := false
  /-- a frame of it named a rank that cannot be sent to: it ends with ST_WINDOW_FAULT (R447) -/
  badRank : Bool := false
  /-- its records are written: it is kept to answer re-requests (R366) -/
  finished : Bool := false
deriving DecidableEq, Repr, Inhabited

/-! ### Tenancies, jobs, checkpoint -/

/-- A job entry (R444). -/
structure Job where
  jobId : BitVec 16 := 0
  jobGen : BitVec 16 := 0
  state : BitVec 3 := 0
  running : Bool := false
  ownRank : BitVec 16 := 0
  rankCount : BitVec 17 := 0
  bands : BitVec 64 := 0
  tState : Nat := 0
deriving DecidableEq, Repr, Inhabited

/-- An accepted host command (R428, R429). -/
structure HostCmd where
  queue : Nat := 0
  cid : BitVec 16 := 0
  code : Byte := 0
  signed : Bool := false
  payload : List Byte := []
  tAccept : Nat := 0
  /-- 0 for a command without a bound -/
  endBy : Nat := 0
  port : Option Plane := none
  /-- its effect has begun: a window change that waits for `busy` (R323), an image being programmed (R558) -/
  started : Bool := false
deriving DecidableEq, Repr, Inhabited

/-- A replay-cache entry of a signed command (R436). -/
structure CmdDigest where
  digest : List Byte := []
  expire : Nat := 0
  status : Byte := 0
  reason : Byte := 0
deriving DecidableEq, Repr, Inhabited

/-- One tenancy: image settings, job entry, host queues (chapter 15). -/
structure Tenancy where
  bands : BitVec 64 := 0
  queues : BitVec 7 := 0
  hostIp6 : Bool := false
  hostMac : BitVec 48 := 0
  ip6hi : BitVec 64 := 0
  ip6lo : BitVec 64 := 0
  regions : Tab Region := []
  job : Job := {}
  cmds : List HostCmd := []
  digests : List CmdDigest := []
  lastEnd : Nat := 0
  /-- a revoke whose drain has begun (R343): accepted command and the step reached -/
  revoke : Option HostCmd := none
deriving DecidableEq, Repr, Inhabited

/-- What the package knows of one own checkpoint slot (R407, R416). -/
structure Slot where
  gen : BitVec 32 := 0
  step : BitVec 64 := 0
  committed : Bool := false
  manifestDigest : List Byte := []
  result : Byte := 3
  commitSeen : Bool := false
deriving DecidableEq, Repr, Inhabited

/-- Phase of a generation write (R408). -/
inductive WritePhase where
  | idle | shards | flush1 | manifest | flush2 | mirror | written | committing | jobCommit | jobMirror
deriving DecidableEq, Repr, Inhabited

/-- A reference shard that a restore fetches from its writer (R417): the digest of its reference record, what has come. -/
structure ShardWait where
  shard : BitVec 32 := 0
  digest : List Byte := []
  got : List Byte := []
deriving DecidableEq, Repr, Inhabited

/-- Checkpointing of one tenancy (chapter 14). -/
structure Ckpt where
  enable : Bool := false
  mirror : Bool := false
  timeoutS : Byte := 0
  periodMs : BitVec 24 := 0
  stepInterval : BitVec 24 := 0
  planAddr : BitVec 52 := 0
  lastGen : BitVec 32 := 0
  state : BitVec 2 := 0
  deferred : Bool := false
  moduleOk : Bool := false
  abandoned : BitVec 16 := 0
  /-- newest generation number committed or abandoned (R406) -/
  newest : BitVec 32 := 0
  gen : BitVec 32 := 0
  step : BitVec 64 := 0
  actedStep : Option (BitVec 64) := none
  actedPeriod : Nat := 0
  /-- a cut answered while the generation before it is still being written: its number, and its step once CUT_SET has come (R406) -/
  nextCut : Option (BitVec 32 × Option (BitVec 64)) := none
  replies : List (BitVec 16 × BitVec 64) := []
  phase : WritePhase := .idle
  slot : Nat := 0
  slots : Tab Slot := []
  notes : List (BitVec 32 × List Byte) := []
  /-- digest notes of the generation in `nextCut`, which come before it is taken up (R411) -/
  nextNotes : List (BitVec 32 × List Byte) := []
  mismatch : Bool := false
  manifestDigest : List Byte := []
  written : List (BitVec 16 × List Byte) := []
  tCutSet : Nat := 0
  tWritten : Nat := 0
  jobDigest : List Byte := []
  views : List (BitVec 16 × List SlotView) := []
  /-- commit records found on the module: generation and job digest (R417) -/
  records : List (BitVec 32 × List Byte) := []
  restoreGen : BitVec 32 := 0
  restoreStatus : Byte := 0
  waitShards : List ShardWait := []
  /-- pieces of shards that came before this package's RESTORE_GO: writer, shard, offset, bytes -/
  earlyShards : List (BitVec 16 × BitVec 32 × BitVec 64 × List Byte) := []
  /-- a shard failed its check in this restore -/
  restoreBad : Bool := false
  dones : List (BitVec 16 × Byte) := []
  passedOver : Nat := 0
  passReason : Byte := 0xFF
  report : List Byte := []
deriving DecidableEq, Repr, Inhabited

/-! ### Twin -/

/-- A Cast record (R474). -/
structure CastRec where
  core : BitVec 32 := 0
  acc : BitVec 32 := 0
  opTag : BitVec 32 := 0
  status : Byte := 0
  c : BitVec 64 := 0
deriving DecidableEq, Repr, Inhabited

/-- A twin frame sent and not acknowledged (R454). -/
structure TwinOut where
  plane : Nat := 0
  frame : TwinFrame := {}
  tSent : Nat := 0
  resends : Nat := 0
  /-- a window request whose answer waits for this forward (R460) -/
  answer : Option WtFrame := none
  answerPl : Plane := 0
  answerSub : Nat := 0
deriving DecidableEq, Repr, Inhabited

/-- Twin pairing (chapter 16). -/
structure Twin where
  mode : BitVec 2 := 0
  initialRole : Bool := false
  castContinue : Bool := false
  twinId : BitVec 64 := 0
  state : BitVec 3 := 0
  role : Bool := false
  tookOver : Bool := false
  lost : Bool := false
  diverged : Bool := false
  syncPct : BitVec 7 := 0
  compared : BitVec 64 := 0
  divergences : BitVec 32 := 0
  tseqOut : Tab (BitVec 32) := []
  tseqIn : Tab (BitVec 32) := []
  out : List TwinOut := []
  early : List (Nat × TwinFrame) := []
  lastHeard : Nat := 0
  /-- the last heartbeat sent on a plane, as common time plus 1 (R455) -/
  beats : Tab Nat := []
  /-- sync position: window index over all tenancies, unit within it -/
  syncWin : Nat := 0
  syncUnit : Nat := 0
  /-- LBAs of the own region's committed generations already sent to the twin's mirror region, and whether all have been and are
  flushed there (R468) -/
  syncLba : Nat := 0
  syncSent : Bool := false
  mine : List CastRec := []
  theirs : List CastRec := []
  /-- Cast completions received: core, `acc_index`, status (none while parts of it are to come), and forwards (R453) -/
  completions : List (BitVec 32 × BitVec 32 × Option Byte × List Byte) := []
  /-- fresh of this package's last attach frame while no report has answered it, and of the last report of the twin (R560) -/
  ownFresh : List Byte := []
  twinFresh : List Byte := []
  /-- `attach`, and `detach` that waits for acknowledgements, have been written and their actions are not complete (R10, R470) -/
  attaching : Bool := false
  detaching : Bool := false
  verified : Bool := false
  stopped : Option Byte := none
  takeoverStep : Nat := 0
  /-- MIRROR_DATA frames whose LBA's other half has not come, and the planes they came by (R415) -/
  mirrored : List (Plane × WtFrame) := []
  /-- the pairs of frames whose LBA has been written and is being flushed, oldest first (R412) -/
  flushing : List (List (Plane × WtFrame)) := []
deriving DecidableEq, Repr, Inhabited

/-! ### Processor die -/

/-- One hart's registers (R484, R485, R498, R505). -/
structure HartRegs where
  /-- 3 M, 1 S, 0 U -/
  mode : BitVec 2 := 3
  pc : BitVec 64 := 0
  x : Tab (BitVec 64) := []
  f : Tab (BitVec 64) := []
  frm : BitVec 3 := 0
  fflags : BitVec 5 := 0
  /-- mstatus.FS: 0 Off, 1 Initial, 2 Clean, 3 Dirty -/
  fs : BitVec 2 := 0
  szvff : BitVec 64 := 0
  mie : Bool := false
  mpie : Bool := false
  mpp : BitVec 2 := 0
  sie : Bool := false
  spie : Bool := false
  spp : Bool := false
  mprv : Bool := false
  sum : Bool := false
  mxr : Bool := false
  mtvec : BitVec 64 := 0
  mepc : BitVec 64 := 0
  mcause : BitVec 64 := 0
  mtval : BitVec 64 := 0
  medeleg : BitVec 64 := 0
  stvec : BitVec 64 := 0
  sepc : BitVec 64 := 0
  scause : BitVec 64 := 0
  stval : BitVec 64 := 0
  satp : BitVec 64 := 0
  pmpcfg : Tab Byte := []
  pmpaddr : Tab (BitVec 64) := []
  reserved : Option Nat := none
  wfi : Bool := false
  /-- instructions retired in Xszv, misses and stores forwarded (mhpmcounter3 to 6) -/
  hpm : Tab (BitVec 64) := []
  cycle : BitVec 64 := 0
  instret : BitVec 64 := 0
  stimecmp : BitVec 64 := 0
  /-- the registers `mie` and `mideleg`: interrupts that may be taken, and those that S mode takes (R521) -/
  ienable : BitVec 64 := 0
  mideleg : BitVec 64 := 0
  mscratch : BitVec 64 := 0
  sscratch : BitVec 64 := 0
  /-- `mstatus.TVM`, `TW` and `TSR` -/
  tvm : Bool := false
  tw : Bool := false
  tsr : Bool := false
  /-- `FIOM` of `menvcfg` and of `senvcfg` -/
  fiom : BitVec 2 := 0
  mcounteren : BitVec 32 := 0
  scounteren : BitVec 32 := 0
  /-- the pending bits that software sets: `mip.SSIP` and its part of `mip.SEIP` -/
  ssip : Bool := false
  seip : Bool := false
deriving DecidableEq, Repr, Inhabited

/-- Configuration of one application core (R506). -/
structure AppCfg where
  tenancy : BitVec 3 := 0
  assigned : Bool := false
  running : Bool := false
  entry : BitVec 52 := 0
  /-- held at its next instruction boundary in heat-hold (R583), or in reset in Doldrums (R573) -/
  held : Bool := false
deriving DecidableEq, Repr, Inhabited

/-- Cache and SRAM ways of one tenancy (R507). -/
structure Ways where
  cache : BitVec 16 := 0
  sram : BitVec 16 := 0
deriving DecidableEq, Repr, Inhabited

/-- The processor die (chapter 17). `sram` lists every byte written since power-on, and `service` those of the service cores' private SRAM
(R484); `sramErr` the flipped bits of its words (R493). `shared` holds the ways and lines of the shared cache (R490), whose bytes are those
of GDDR (R492); `icache` and `dcache` the lines of each hart's private caches, and `dirty` the bytes that a hart has stored in its data cache
and that have not been written back (R484, R492). -/
structure Px where
  apps : Tab AppCfg := []
  ways : Tab Ways := []
  corrected : BitVec 32 := 0
  refetched : BitVec 32 := 0
  harts : Tab HartRegs := []
  mtimecmp : Tab (BitVec 64) := []
  sram : List Host.Cell := []
  sramGen : Nat := 0
  sramErr : Tab Nat := []
  service : List Host.Cell := []
  shared : List (Nat × Nat) := []
  icache : Tab (List Nat) := []
  dcache : Tab (List Nat) := []
  dirty : Tab (List Host.Cell) := []
deriving DecidableEq, Repr, Inhabited

/-! ### Event concentrator -/

/-- One group (R532). -/
structure EcGroup where
  interval : BitVec 14 := 0
  owner : BitVec 4 := 15
  holdEnd : Option Nat := none
deriving DecidableEq, Repr, Inhabited

/-- One target (R529); `service` lists its claimed sources, newest first. -/
structure EcTarget where
  enable : Tab (BitVec 64) := []
  threshold : BitVec 3 := 0
  service : List Nat := []
deriving DecidableEq, Repr, Inhabited

/-- The event concentrator (chapter 18). Priorities are keyed by source. -/
structure Ec where
  pending : Tab (BitVec 64) := []
  prio : Tab (BitVec 3) := []
  groups : Tab EcGroup := []
  targets : Tab EcTarget := []
  bellDrop : BitVec 16 := 0
  spurious : BitVec 16 := 0
  badComplete : BitVec 16 := 0
deriving DecidableEq, Repr, Inhabited

/-! ### Common blocks -/

/-- A forwarded frame of error records awaiting its acknowledgement (R610). -/
structure Fwd where
  seq : BitVec 24 := 0
  ten : Byte := 0
  tFirst : Nat := 0
  resends : Nat := 0
  /-- a completion of a host command that came by the management port (R430), not a forwarding frame -/
  completion : Bool := false
  frame : WtFrame := {}
deriving DecidableEq, Repr, Inhabited

/-- The error log of the CMB (R605, R606, R619, R620). -/
structure ErrLog where
  ring : Tab ErrRec := []
  head : Nat := 0
  unread : Nat := 0
  fwdLow : Bool := false
  droppedLow : BitVec 16 := 0
  droppedHigh : BitVec 16 := 0
  fwdLost : BitVec 32 := 0
  /-- records, counted from the oldest unread, up to which those of severity 2 to 4 have been forwarded -/
  fwdAt : Nat := 0
  /-- the same for records of severity 0 and 1 -/
  fwdLowAt : Nat := 0
  fwdOut : List Fwd := []
  /-- next sequence number of each host's space at the management port, and next tag -/
  fwdSeq : Tab (BitVec 24) := []
  fwdTag : BitVec 15 := 0
  lowFwdTime : Nat := 0
deriving DecidableEq, Repr, Inhabited

/-- Common time (chapter 21). -/
structure Clock where
  now : BitVec 64 := 0
  locked : Bool := false
  holdover : Bool := false
  selPlane : BitVec 2 := 3
  selSub : BitVec 6 := 0
  offset : BitVec 32 := 0
  slew : Byte := 0
  lockLoss : BitVec 32 := 0
  slewAlarm : BitVec 32 := 0
  everLocked : Bool := false
  /-- common time of power good or image restart (R561) -/
  started : Nat := 0
  /-- PPS_OUT falls at this time (R648) -/
  ppsEnd : Option Nat := none
deriving DecidableEq, Repr, Inhabited

/-- The CPC's profile, reset, Doldrums and heat registers (chapter 20). -/
structure Cpc where
  active : BitVec 2 := 0
  imageProfile : BitVec 2 := 0
  request : BitVec 2 := 0
  target : Option (BitVec 2) := none
  budgetW : BitVec 16 := 0
  powerW : BitVec 16 := 0
  linkPlane : Bool := false
  linkPort : BitVec 4 := 0
  linkSub : BitVec 2 := 0
  /-- the sub-port that a link reset has taken down and that has not trained again: plane, sub-port (R10, R571) -/
  linkBusy : Option (Nat × Nat) := none
  lastStart : BitVec 3 := 0
  dold : BitVec 2 := 0
  wakeCause : BitVec 4 := 0
  wakeOnJob : Bool := false
  timerMs : BitVec 32 := 0
  enteredAt : Nat := 0
  hotDuty : BitVec 4 := 0
  /-- a trip or a lost supply has stopped the package (R584, R652) -/
  stopped : Bool := false
  tripped : Bool := false
  /-- node firmware lowers the profile once no job entry is LOADING, ACTIVE or DRAINING (R614) -/
  lowerDue : Bool := false
  /-- an image restart waits for its revokes and checkpoints (R565) -/
  restarting : Bool := false
deriving DecidableEq, Repr, Inhabited

/-- A command key of the image (R542). -/
structure CmdKey where
  index : Byte := 0
  rights : Byte := 0
  tenancies : Byte := 0
  key : List Byte := []
deriving DecidableEq, Repr, Inhabited

/-- An address-table entry (R541). -/
structure AddrEnt where
  plane : Byte := 0
  port : Byte := 0
  sub : Byte := 0
  mac : BitVec 48 := 0
  ip6 : BitVec 128 := 0
deriving DecidableEq, Repr, Inhabited

/-- Start, image and identity (chapter 19). `flash` is what the xSPI device holds. -/
structure Start where
  phase : BitVec 4 := 0
  failCode : Byte := 0
  recovery : Bool := false
  ready : Bool := false
  timeWait : Bool := false
  /-- common time at which step 9 began (R551) -/
  waitFrom : Nat := 0
  version : BitVec 64 := 0
  fwVersion : BitVec 64 := 0
  identity8 : BitVec 64 := 0
  flash : List Byte := []
  received : List Byte := []
  /-- the last announcement sent in recovery (R554) -/
  announced : Option Nat := none
  keys : List CmdKey := []
  addrs : List AddrEnt := []
  twinAddrs : List AddrEnt := []
  /-- the NVMe module that the start identified: its namespace and its link (R398, R399) -/
  nvme : Option ModuleFound := none
  records : List (BitVec 64 × BitVec 64) := []
  manifestDigest : List Byte := []
  ownerDigest : List Byte := []
  identity : List Byte := []
  aliasSeed : List Byte := []
  aliasCert : List Byte := []
  deviceCert : List Byte := []
  cuFirmware : List Byte := []
  pxFirmware : List Byte := []
  /-- channel training results of the image, 256 bytes a channel, from which step 7 starts (R539, R550) -/
  hints : List Byte := []
  /-- the tenancy layout breaks R423 (R424) -/
  layoutBad : Bool := false
  imageWriting : Bool := false
deriving DecidableEq, Repr, Inhabited

/-- Package identity and status beyond what other blocks hold (chapter 23, R613, R622). -/
structure Pkg where
  grade : BitVec 4 := 0
  serial : BitVec 64 := 0
  density : Bool := false
  pinRate : BitVec 2 := 0
  usableGib : BitVec 7 := 0
  profiles : BitVec 3 := 0
  substituted : Bool := false
  migrating : Bool := false
  onePlane : Bool := false
  retired : List CoreId := []
  degBands : BitVec 64 := 0
  /-- board memory cannot be repaired: every JOB_LOAD is refused (R615) -/
  memoryBroken : Bool := false
  quarantineS : BitVec 12 := 0
  /-- job history: id, generation, time it entered FREE (R443) -/
  history : List (BitVec 16 × BitVec 16 × Nat) := []
deriving DecidableEq, Repr, Inhabited

/-- I3C target (R495, R496). -/
structure I3c where
  offset : BitVec 16 := 0
  dynamic : Option (BitVec 7) := none
  /-- what the last read or command code put on the bus -/
  answer : BitVec 64 := 0
deriving DecidableEq, Repr, Inhabited

/-- Instruction of the test access port (R657). -/
inductive TapInstr where
  | reset | bypass | idcode | samplePreload | extest | extestPulse | extestTrain | clamp | highz
deriving DecidableEq, Repr, Inhabited

/-- Test access port (R657, R658): `pins` is what boundary cells drive, none in a running package. -/
structure Tap where
  instr : TapInstr := .reset
  /-- the register between TDI and TDO: the 1-bit bypass, the 32-bit id code, or the boundary cells -/
  id : Option (BitVec 32) := none
  cells : List Bool := []
  pins : Option (List Bool) := none
  floating : Bool := false
deriving DecidableEq, Repr, Inhabited

/-- Pins and supplies (chapter 24). Supplies 0 to 16 in the order of R651: VDD_PLN; VDD_CD0-3, VDD_PX,
VDD_FA, VDD_FB; VDDQ_G7_0-3; VDD_SDA_A, _B; VDDH_SD_A, _B; VDD_PXA. -/
structure Supply where
  boardPg : Bool := false
  resetN : Bool := false
  ppsOut : Bool := false
  enabled : BitVec 17 := 0
  good : BitVec 17 := 0
  /-- group being waited for, 0 none, 1 to 6; 7 power good -/
  group : Nat := 0
  groupAt : Nat := 0
  timedOut : Bool := false
deriving DecidableEq, Repr, Inhabited

/-- IPv6 and UDP headers of a WT frame (R286). -/
structure IpCarriage where
  src : BitVec 128 := 0
  dst : BitVec 128 := 0
  trafficClass : Byte := 0
  flowLabel : BitVec 20 := 0
  nextHeader : Byte := 17
  hopLimit : Byte := 64
  udpSrc : BitVec 16 := 0
  udpDst : BitVec 16 := 0
deriving DecidableEq, Repr, Inhabited

/-- What stands around the WT header and payload on the wire (R285, R286): `tag` is the 802.1Q tag's PCP and VLAN. -/
structure Carriage where
  dstMac : BitVec 48 := 0
  srcMac : BitVec 48 := 0
  tag : Option (BitVec 16) := none
  etherType : BitVec 16 := 0
  ip : Option IpCarriage := none
deriving DecidableEq, Repr, Inhabited

/-- Commands to the module's admin queue (R398). -/
inductive NvmeAdmin where
  | identify
  | numberOfQueues (n : Nat)
  | writeCache
  | createCq (q depth : Nat)
  | createSq (q depth : Nat)
  | deleteCq (q : Nat)
  | deleteSq (q : Nat)
  /-- Get Log Page for SMART / Health Information -/
  | smartLog
deriving DecidableEq, Repr, Inhabited

/-- A frame the package has sent. -/
inductive OutFrame where
  | wt (pl : Nat) (sub : Nat) (c : Carriage) (f : WtFrame)
  | twin (pl : Nat) (c : Carriage) (f : TwinFrame)
  /-- a restore report to the fabric manager (R419) -/
  | restoreReport (t : Nat) (payload : List Byte)
  /-- commands to the checkpoint module (R398, R408) -/
  | nvmeWrite (lba : Nat) (fua : Bool) (data : List Byte)
  | nvmeFlush
  | nvmeRead (lba n : Nat)
  | nvmeAdmin (c : NvmeAdmin)
  /-- a WT frame on the management port -/
  | mgmt (c : Carriage) (f : WtFrame)
  /-- a start-protocol frame, header to CRC (R554), on a fabric die's port or the management port -/
  | startProto (port : Option Plane) (c : Carriage) (frame : List Byte)
  /-- the announcement frame of a taken-over address (R453, R465) -/
  | announce (pl : Plane) (sub : Nat) (c : Carriage) (f : TwinFrame)
  /-- an unsolicited Neighbor Advertisement of RFC 4861 (R465) -/
  | neighbor (pl : Plane) (sub : Nat) (mac : BitVec 48) (ip : BitVec 128)
deriving DecidableEq, Repr, Inhabited

/-- The whole package, with the queue of waiting commands. -/
structure State where
  pending : List Instr := []
  freeCount : Nat := 0
  clock : Clock := {}
  cores : Tab Core := []
  dies : Tab DieRate := []
  cdies : Tab CompDie := []
  chans : Tab Channel := []
  fabrics : Tab Fabric := []
  mesh : List Flit := []
  tens : Tab Tenancy := []
  ckpts : Tab Ckpt := []
  collQ : Tab (List CollDesc) := []
  colls : List Coll := []
  /-- collectives whose records are written, kept to answer re-requests until their group changes (R366) -/
  doneColls : List Coll := []
  twin : Twin := {}
  px : Px := {}
  ec : Ec := {}
  log : ErrLog := {}
  cpc : Cpc := {}
  boot : Start := {}
  pkg : Pkg := {}
  i3c : I3c := {}
  tap : Tap := {}
  supply : Supply := {}
  /-- error records handed to the CMB and not yet appended (R605) -/
  handed : List ErrRec := []
  /-- event-concentrator sources raised and not yet applied there (R512, R520) -/
  signals : List Nat := []
  outbox : List OutFrame := []
deriving DecidableEq, Repr

/-- The package right after reset: every field at its value at reset, nothing waiting. -/
def State.reset : State := {}

/-- Why the run stops with a fault. No command of this block ends in one: every error the spec gives the package is
an effect on its state (a status, a record, a counter), after which it goes on. -/
inductive Fault where
  /-- a command that no carrier can bring (Sys2Proof/WellFormed.lean). Raised by no command: the meanings are total on
  such commands too; safe: the case never arises -/
  | illFormed
deriving DecidableEq, Repr

/-- Why a command has no meaning in the model. -/
inductive Refusal where
  /-- the command is not modelled. Raised by an arm of exec alone, and no arm raises it: every command has its meaning;
  safe: the run stops -/
  | notModelled (mnemonic : String)
deriving DecidableEq, Repr

end Sys2Proof.Machine
end

