-- ==== Sys2Proof/Machine/Bits.lean ====
section
/-! DEFINITION. Byte order, bit fields and sign extension (R9): the helpers every layout is read by. -/

namespace Sys2Proof.Machine

/-- The `w` bits of `v` from bit `lo` upwards. -/
def bitsAt (v lo w : Nat) : Nat := v / 2 ^ lo % 2 ^ w

/-- Bit `i` of `v`. -/
def bitAt (v i : Nat) : Bool := v / 2 ^ i % 2 == 1

/-- 1 or 0. -/
def b2n (b : Bool) : Nat := if b then 1 else 0

/-- `v` as `n` bytes, little-endian (R9). -/
def leBytes : Nat → Nat → List Byte
  | 0, _ => []
  | n + 1, v => BitVec.ofNat 8 v :: leBytes n (v / 256)

/-- The value of a little-endian byte string (R9). -/
def leVal : List Byte → Nat
  | [] => 0
  | b :: r => b.toNat + 256 * leVal r

/-- `v` as `n` bytes, most significant first (headers on an Ethernet wire, R9). -/
def beBytes (n v : Nat) : List Byte := (leBytes n v).reverse

/-- The value of a big-endian byte string. -/
def beVal (b : List Byte) : Nat := leVal b.reverse

/-- `n` bytes of `b` from offset `off`; bytes beyond its end read as nothing. -/
def slice (b : List Byte) (off n : Nat) : List Byte := (b.drop off).take n

/-- The little-endian field of `n` bytes at `off` of a structure. -/
def fieldAt (b : List Byte) (off n : Nat) : Nat := leVal (slice b off n)

/-- A natural number of `w` bits read as two's complement. -/
def toSigned (w v : Nat) : Int := if v % 2 ^ w < 2 ^ (w - 1) then (v % 2 ^ w : Nat) else ((v % 2 ^ w : Nat) : Int) - 2 ^ w

/-- The low `w` bits of an integer in two's complement. -/
def toUnsigned (w : Nat) (v : Int) : Nat := (v % (2 ^ w : Int)).toNat

/-- Quotient rounded up. -/
def ceilDiv (a b : Nat) : Nat := if b = 0 then 0 else (a + b - 1) / b

/-- `b` lengthened with zero bytes, or cut, to `n` bytes. -/
def padTo (n : Nat) (b : List Byte) : List Byte := (b ++ List.replicate (n - b.length) 0).take n

/-- The sum of a list of numbers. -/
def sumN (l : List Nat) : Nat := l.foldl (· + ·) 0

/-- The largest of a list of numbers, 0 for none. -/
def maxN (l : List Nat) : Nat := l.foldl Nat.max 0

/-- Add one, holding at the largest value of `w` bits. -/
def satInc {w : Nat} (x : BitVec w) : BitVec w := if x = BitVec.allOnes w then x else x + 1

/-- Add `n`, holding at the largest value of `w` bits. -/
def satAdd {w : Nat} (x : BitVec w) (n : Nat) : BitVec w :=
  if x.toNat + n ≥ 2 ^ w then BitVec.allOnes w else BitVec.ofNat w (x.toNat + n)

/-- The value of a field of a register word, as a bit vector. -/
def regField (v : Reg) (lo w : Nat) : BitVec w := v.extractLsb' lo w

/-- Remove the first element that satisfies `p`; the element and the rest. -/
def takeFirst {α : Type} (p : α → Bool) : List α → Option (α × List α)
  | [] => none
  | a :: r => if p a then some (a, r) else
    match takeFirst p r with
    | some (x, r') => some (x, a :: r')
    | none => none

end Sys2Proof.Machine
end

