-- ==== Sys2Proof/Machine/Crypto.lean ====
section
/-! DEFINITION. The checksums and the hash the spec names by their standards: CRC-32C of frames (R290) and
SHAKE256 of digests (R235, R403), with SHAKE128, which signatures take (R546). -/

namespace Sys2Proof.Machine

/-- One bit of CRC-32C, reflected polynomial. -/
def crcBit (c : BitVec 32) : BitVec 32 := if c.getLsbD 0 then (c >>> 1) ^^^ 0x82F63B78 else c >>> 1

def crcByte (c : BitVec 32) (b : Byte) : BitVec 32 :=
  let x := c ^^^ b.setWidth 32
  crcBit (crcBit (crcBit (crcBit (crcBit (crcBit (crcBit (crcBit x)))))))

/-- CRC-32C of a byte string. -/
def crc32c (b : List Byte) : BitVec 32 := ~~~ (b.foldl crcByte (BitVec.allOnes 32))

/-- The frame check sequence of IEEE 802.3: the same shift with its own polynomial. -/
def fcs32 (b : List Byte) : BitVec 32 :=
  let bit := fun (c : BitVec 32) => if c.getLsbD 0 then (c >>> 1) ^^^ 0xEDB88320 else c >>> 1
  ~~~ (b.foldl (fun c x => (List.range 8).foldl (fun c _ => bit c) (c ^^^ x.setWidth 32)) (BitVec.allOnes 32))

/-- The Internet checksum: the ones' complement of the ones' complement sum of 16-bit words. -/
def inetSum (b : List Byte) : Nat :=
  let s := (List.range ((b.length + 1) / 2)).foldl (fun s i => s + (b.getD (2 * i) 0).toNat * 256 + (b.getD (2 * i + 1) 0).toNat) 0
  0xFFFF - (if s = 0 then 0 else (s - 1) % 0xFFFF + 1)

/-- The shift register of the round constants (FIPS 202, rc): x^8 + x^6 + x^5 + x^4 + 1, one step. -/
def keccakShift (w : Nat) : Nat := (2 * w % 256) ^^^ (if 128 ≤ w then 0x71 else 0)

/-- One round's constant, its bits at 2^j - 1 for j = 0 to 6 shifted out of the register, and the register after it. -/
def keccakIota (w : Nat) : Nat × Nat :=
  (List.range 7).foldl (fun s j => (s.1 + s.2 % 2 * 2 ^ (2 ^ j - 1), keccakShift s.2)) (0, w)

/-- Rotation of every lane: the t-th lane of the walk (x, y) to (y, 2x + 3y) from (1, 0) turns by (t + 1)(t + 2) / 2. -/
def keccakRot : List Nat :=
  ((List.range 24).foldl (fun (s : List Nat × Nat) t =>
    (s.1.set s.2 ((t + 1) * (t + 2) / 2 % 64), s.2 / 5 + (2 * (s.2 % 5) + 3 * (s.2 / 5)) % 5 * 5)) (List.replicate 25 0, 1)).1

def lane (a : List (BitVec 64)) (i : Nat) : BitVec 64 := a.getD i 0

/-- The parity of column `x`. -/
def keccakParity (a : List (BitVec 64)) (x : Nat) : BitVec 64 := (List.range 5).foldl (fun p y => p ^^^ lane a (5 * y + x % 5)) 0

/-- A round but for its constant: every lane takes its two neighbour columns' parities and turns, lands at its new place, and is
mixed along its row. `rot` is `keccakRot`. -/
def keccakMix (rot : List Nat) (a : List (BitVec 64)) : List (BitVec 64) :=
  let par := (List.range 5).map (keccakParity a)
  let turned := (List.range 25).map (fun i =>
    (lane a i ^^^ lane par ((i + 4) % 5) ^^^ (lane par ((i + 1) % 5)).rotateLeft 1).rotateLeft (rot.getD i 0))
  -- the lane that lands at (X, Y) left (X + 3Y, X)
  let at_ := fun (x y : Nat) => lane turned ((x + 3 * y) % 5 + x % 5 * 5)
  (List.range 25).map (fun i => let y := i / 5
                                at_ i y ^^^ (~~~ at_ (i + 1) y &&& at_ (i + 2) y))

/-- 24 rounds, with the register of the round constants beside the lanes. -/
def keccakF (a : List (BitVec 64)) : List (BitVec 64) :=
  let rot := keccakRot
  ((List.range 24).foldl (fun (s : List (BitVec 64) × Nat) _ =>
    let k := keccakIota s.2
    let b := keccakMix rot s.1
    (b.set 0 (lane b 0 ^^^ BitVec.ofNat 64 k.1), k.2)) (a, 1)).1

/-- Absorb one block of `rate` bytes. -/
def shakeAbsorb (rate : Nat) (a : List (BitVec 64)) (blk : List Byte) : List (BitVec 64) :=
  keccakF ((List.range 25).map (fun i => if i < rate / 8 then lane a i ^^^ BitVec.ofNat 64 (fieldAt blk (8 * i) 8) else lane a i))

/-- Absorb all blocks of a padded string, `fuel` of them at most. -/
def shakeBlocks (rate : Nat) : Nat → List (BitVec 64) → List Byte → List (BitVec 64)
  | 0, a, _ => a
  | n + 1, a, b => if b.isEmpty then a else shakeBlocks rate n (shakeAbsorb rate a (b.take rate)) (b.drop rate)

/-- Pad with the SHAKE domain bits 1111 and pad10*1. -/
def shakePad (rate : Nat) (b : List Byte) : List Byte :=
  let z := (rate - (b.length + 1) % rate) % rate
  let p := b ++ [0x1F] ++ List.replicate z 0
  p.dropLast ++ [(p.getLastD 0) ||| 0x80]

/-- The bytes of `n` blocks squeezed, a permutation between two. -/
def shakeSqueeze (rate : Nat) : Nat → List (BitVec 64) → List Byte
  | 0, _ => []
  | n + 1, a => (a.take (rate / 8)).flatMap (fun l => leBytes 8 l.toNat) ++ shakeSqueeze rate n (keccakF a)

/-- The sponge of a rate: `n` bytes for a string. -/
def shake (rate n : Nat) (b : List Byte) : List Byte :=
  let p := shakePad rate b
  (shakeSqueeze rate (ceilDiv n rate) (shakeBlocks rate (p.length / rate + 1) (List.replicate 25 0) p)).take n

/-- SHAKE256 and SHAKE128, `n` bytes. -/
def shake256 (n : Nat) (b : List Byte) : List Byte := shake 136 n b
def shake128 (n : Nat) (b : List Byte) : List Byte := shake 168 n b

end Sys2Proof.Machine
end

