-- ==== Sys2Proof/Config.lean ====
section
/-! DEFINITION. The free values: constants with no body, so that no proof can see a value of them.
Each stands for something the spec leaves open or defines by a published standard that the model
does not spell out; the assumption log names each one. -/

namespace Sys2Proof.Config

/-- A byte whose value the spec leaves unspecified: drawn number, and the address it stands at (log 2). -/
opaque freeByte : Nat → Nat → BitVec 8

/-- A 64-bit value the spec leaves unspecified (log 2). -/
opaque freeWord : Nat → BitVec 64

/-- The 8-bit code syndrome of a store word (R210: not specified, but nonzero), less one (log 5). -/
opaque freeSyndrome : Nat → Fin 255

/-- A byte of an SRAM way that nothing has written since power-on (R491: undefined), by start and address (log 6). -/
opaque sramByte : Nat → Nat → BitVec 8

/-- The SRAM PUF's 256-bit response, reconstructed with the helper data of the image (R548; log 7). -/
opaque pufResponse : List (BitVec 8) → List (BitVec 8)

/-- The digest of the Staorsia root public key in the mask ROM (R546; log 7). -/
opaque romRootDigest : List (BitVec 8)

/-- Random bytes of the CSB (R559): drawn number and position (log 7). -/
opaque csbRandom : Nat → Nat → BitVec 8

/-- Which way a line of the shared cache takes, and which line a full private cache gives up: line, drawn number (R490, R491; log 53). -/
opaque cachePick : Nat → Nat → Nat

/-- Where a service core finds its private SRAM (R484 gives no address; log 53). -/
opaque serviceSram : Nat

/-- A stored line stays in the private data cache that holds it, and is written back later: line, drawn number (R492; log 53). -/
opaque cacheHold : Nat → Nat → Bool

/-- Handshakes that an instruction of an application core takes: its pc, instructions retired, `cycle` before it (R485; log 53). -/
opaque hartHandshakes : BitVec 64 → BitVec 64 → BitVec 64 → BitVec 64

/-- Choices in a solve's arithmetic: what the solve has read, which sum or quotient, how far it is (chapter 8 fixes the order of norms only;
log 8). -/
opaque solverOrder : List (BitVec 8) → List Nat → Nat → Nat

/-- Element i of a product's input beyond the end of its vector, and of a result that no member supplies (R226, R227; log 8). -/
opaque solverInput : List (BitVec 8) → Nat → BitVec 64

/-- Byte i of what a solve keeps in its slice or workspace: the triangular factor or the vectors of an iteration (R220; log 8). -/
opaque solverFactor : List (BitVec 8) → Nat → BitVec 8

/-- Row of the slice at which a solve keeps them (R220; log 8). -/
opaque solverPlace : List (BitVec 8) → Nat

/-- The static address the image gives the I3C target (R495 names it, no section of R539 holds it; log 9). -/
opaque i3cStatic : BitVec 7

/-- The provisioned id and the status word the I3C target answers (R495 names the commands only; log 9). -/
opaque i3cPid : BitVec 48
opaque i3cStatus : Nat → BitVec 16


/-- A translation sets the accessed and dirty bits of an entry itself, rather than raising a page fault: RISC-V leaves the
choice open and R485 does not make it (log 2). -/
opaque adUpdate : Bool

/-- The identity public key whose digest is given: a report carries the digest only (R549, R559; log 7). -/
opaque identityKey : List (BitVec 8) → List (BitVec 8)

/-- The owner digest and the `twin_id` of the image whose 512-bit manifest digest is given: a report carries neither (R456, R559; log 7). -/
opaque imageOwner : List (BitVec 8) → List (BitVec 8)
opaque imageTwinId : List (BitVec 8) → BitVec 64

/-- How many of the other engine's writes a row holds that one engine reads while the other writes it: drawn number, row (R156; log 45). -/
opaque rowAt : Nat → Nat → Nat

/-- Handshakes of the control unit that an instruction takes: its pc, instructions retired, handshakes so far (R66; log 45). -/
opaque cuHandshakes : BitVec 32 → BitVec 64 → BitVec 64 → BitVec 64

/-- Where the image's control-unit firmware is entered: `mtvec` of every control unit (R66; log 45). -/
opaque cuVector : BitVec 32

/-- The words `mvendorid`, `marchid`, `mimpid` and `mconfigptr` of a control unit, by CSR number (log 43). -/
opaque cuVendor : Nat → BitVec 32

/-- The rack domain of a rank of a tenancy's job that lies outside this package's own: nothing says how a package learns it (log 51). -/
opaque rackOf : Nat → Nat → Nat

/-- Levels 0 to 2 of the adaptive tree: drawn number, level (R364; log 51). -/
opaque treeLevel : Nat → Nat → BitVec 8

/-- Non-finite contributions over a whole `reduce_scatter`: job, its generation, group generation, `cseq` (R352, R363; log 51). -/
opaque nonfiniteTotal : Nat → Nat → Nat → Nat → Nat

/-- Element of a sum of members that differ in `sbi_exp`: drawn number, element (R386; log 51). -/
opaque mixedSum : Nat → Nat → BitVec 128

end Sys2Proof.Config
end

