-- ==== Sys2Proof/Machine/Table.lean ====
section
/-! DEFINITION. Sparse tables and byte memories in one canonical form: keys strictly rising, no entry
equal to what an unlisted key holds. -/

namespace Sys2Proof.Machine

/-- What a table holds under a key. -/
def Tab.get {α : Type} [Inhabited α] (t : Tab α) (k : Nat) : α :=
  match t with
  | [] => default
  | e :: r => if e.1 = k then e.2 else Tab.get r k

/-- The table without a key. -/
def Tab.erase {α : Type} (t : Tab α) (k : Nat) : Tab α := t.filter (fun e => e.1 != k)

/-- The table with a key put at its place. -/
def Tab.ins {α : Type} (k : Nat) (v : α) : Tab α → Tab α
  | [] => [(k, v)]
  | e :: r => if e.1 < k then e :: Tab.ins k v r else (k, v) :: e :: r

/-- Write a key: the default removes the entry, so that equal tables are equal data. -/
def Tab.set {α : Type} [Inhabited α] [DecidableEq α] (t : Tab α) (k : Nat) (v : α) : Tab α :=
  if v = default then t.erase k else Tab.ins k v (t.erase k)

/-- Change what a key holds. -/
def Tab.upd {α : Type} [Inhabited α] [DecidableEq α] (t : Tab α) (k : Nat) (f : α → α) : Tab α :=
  t.set k (f (t.get k))

/-- The canonical form: keys strictly rising, no listed default. -/
def Tab.wf {α : Type} [Inhabited α] [DecidableEq α] (t : Tab α) : Bool :=
  decide (t.Pairwise (fun a b => a.1 < b.1)) && t.all (fun e => decide (e.2 ≠ default))

/-- What an unlisted byte of a memory reads as: zero, as a start leaves every memory (R566, R567; log 4). -/
def Mem.unlisted : Byte := 0

/-- One byte of a memory. -/
def Mem.read (m : Mem) (a : Nat) : Byte := Tab.get m a

/-- Write one byte. -/
def Mem.write (m : Mem) (a : Nat) (b : Byte) : Mem := Tab.set m a b

/-- `n` bytes from address `a`. -/
def Mem.readN (m : Mem) (a : Nat) : Nat → List Byte
  | 0 => []
  | n + 1 => m.read a :: Mem.readN m (a + 1) n

/-- Write bytes from address `a` upwards. -/
def Mem.writeN (m : Mem) (a : Nat) : List Byte → Mem
  | [] => m
  | b :: r => Mem.writeN (m.write a b) (a + 1) r

/-- A memory's bytes from `a` up to, not including, `e` read as zero. -/
def Mem.clear (m : Mem) (a e : Nat) : Mem := m.filter (fun c => c.1 < a || e ≤ c.1)

/-- The canonical form of a memory. -/
def Memory.wf (m : Mem) : Bool := Tab.wf m

end Sys2Proof.Machine
end

