-- ==== Sys2Proof/Machine/Flags.lean ====
section
/-! DEFINITION. Statuses and their kinds (R12 to R14), numeric flags (R179), and what an output element
adds to the counts of its operation (R183). -/

namespace Sys2Proof.Machine

/-! ### Statuses (R12) -/

def stDone : Byte := 0x00
def stDoneAlready : Byte := 0x01
def stAborted : Byte := 0x02
def stNotAdmitted : Byte := 0x03
def stBoundExceeded : Byte := 0x04
def stCapReached : Byte := 0x08
def stDeadlinePartial : Byte := 0x09
def stDeadlineShifted : Byte := 0x0A
def stDeadlineEmpty : Byte := 0x0B
def stWarmRejected : Byte := 0x0C
def stResidueFault : Byte := 0x10
def stMemUnc : Byte := 0x11
def stTargetLost : Byte := 0x12
def stJobRevoked : Byte := 0x13
def stWindowFault : Byte := 0x14
def stGroupChanged : Byte := 0x15
def stChecksum : Byte := 0x16
def stNonfinite : Byte := 0x17
def stScaleOverflow : Byte := 0x18
def stSlotsExhausted : Byte := 0x19
def stMixedGeneration : Byte := 0x1A
def stNoGeneration : Byte := 0x1B
def stNanTrap : Byte := 0x1C
def stCastDivergence : Byte := 0x1D
def stHeatStop : Byte := 0x1E

/-- Every status the package returns (R12). -/
def statuses : List Byte :=
  [stDone, stDoneAlready, stAborted, stNotAdmitted, stBoundExceeded, stCapReached, stDeadlinePartial, stDeadlineShifted, stDeadlineEmpty,
   stWarmRejected, stResidueFault, stMemUnc, stTargetLost, stJobRevoked, stWindowFault, stGroupChanged, stChecksum, stNonfinite, stScaleOverflow,
   stSlotsExhausted, stMixedGeneration, stNoGeneration, stNanTrap, stCastDivergence, stHeatStop]

/-- A free status: any one of R12's table. -/
def freeStatus (n : Nat) : Byte := statuses.getD ((Config.freeByte n 0).toNat % 25) stDone

/-- Rank of a status's kind: S 0, I 1, P 2, N 3, F 4; a reserved code counts as F (R12, R13). -/
def kindRank (st : Byte) : Nat :=
  match st.toNat with
  | 0x00 | 0x01 => 0
  | 0x04 | 0x0C | 0x17 | 0x18 => 1
  | 0x08 | 0x09 | 0x0A | 0x1A => 2
  | 0x03 | 0x19 => 3
  | _ => 4

/-- A status of kind F. -/
def isF (st : Byte) : Bool := kindRank st == 4

/-- The status of the higher kind, the first of equals (R14). -/
def worse (a b : Byte) : Byte := if kindRank b > kindRank a then b else a

/-! ### Flags (R179) -/

abbrev Flags := BitVec 7

def flNV : Flags := 1
def flDZ : Flags := 2
def flOF : Flags := 4
def flUF : Flags := 8
def flNX : Flags := 16
def flSAT : Flags := 32
def flFLUSH : Flags := 64

/-- A flag, or none. -/
def flIf (b : Bool) (f : Flags) : Flags := if b then f else 0

/-- What one output conversion did: the element's code, its flags, and how R183 counts it.
`trap` is the cause of R181 when the element is a trap element (R180). -/
structure Written where
  code : Nat := 0
  flags : Flags := 0
  zero : Bool := false
  nonfinite : Bool := false
  trap : Option Nat := none
deriving DecidableEq, Repr, Inhabited

/-- Count one written element (R183). -/
def Health.count (h : Health) (w : OutElem) : Health :=
  { elements := h.elements + 1
    zeros := h.zeros + b2n w.zero
    saturations := h.saturations + b2n (w.flags &&& flSAT != 0)
    nonfinite := h.nonfinite + b2n w.nonfinite
    vanished := h.vanished + b2n (w.flags &&& flFLUSH != 0)
    flags := h.flags ||| w.flags }

/-- A written element as its operation counts it. -/
def Written.elem (w : Written) (idx : Nat) (ex : Int := 0) : OutElem :=
  { idx := idx, code := w.code, ex := ex, flags := w.flags, zero := w.zero, nonfinite := w.nonfinite }

/-- The `health` word of a completion record (R81, R183). -/
def Health.word (h : Health) : Nat :=
  Nat.min h.nonfinite 0xFFFF + 2 ^ 16 * Nat.min h.saturations 0xFFFF + 2 ^ 32 * Nat.min h.vanished 0xFFFF
    + 2 ^ 48 * h.flags.toNat

end Sys2Proof.Machine
end

