-- ==== Sys2Proof/Machine/Float.lean ====
section
/-! DEFINITION. Exact binary values and every rounding and conversion of chapter 6: formats (R157 to R163),
rounding (R174, R176, R177), conversion (R169 to R172), comparison (R173), and IEEE arithmetic. -/

namespace Sys2Proof.Machine

/-- A value: (-1)^neg * m * 2^e, an infinity, or a NaN with the cause that R181 names: 0 read, 1 an invalid operation, and so on. -/
inductive FVal where
  | num (neg : Bool) (m : Nat) (e : Int)
  | inf (neg : Bool)
  | nan (cause : Nat)
deriving DecidableEq, Repr, Inhabited

def FVal.zero : FVal := .num false 0 0

def FVal.isNan : FVal → Bool
  | .nan _ => true
  | _ => false

/-- The cause of a NaN (R181). -/
def FVal.cause : FVal → Nat
  | .nan c => c
  | _ => 0

def FVal.isZero : FVal → Bool
  | .num _ m _ => m == 0
  | _ => false

/-- An integer as an exact value. -/
def FVal.ofInt (i : Int) : FVal := .num (i < 0) i.natAbs 0

/-- How a floating-point format treats its top exponent (R158, R159). -/
inductive FKind where
  | ieee | e4m3 | finite
deriving DecidableEq, Repr, Inhabited

/-- A floating-point element format: exponent bits, fraction bits, kind (R158). -/
structure FSpec where
  ew : Nat
  fw : Nat
  kind : FKind
deriving DecidableEq, Repr, Inhabited

def fp64 : FSpec := ⟨11, 52, .ieee⟩
def fp32 : FSpec := ⟨8, 23, .ieee⟩
def bf16 : FSpec := ⟨8, 7, .ieee⟩
def fp16 : FSpec := ⟨5, 10, .ieee⟩
def e4m3 : FSpec := ⟨4, 3, .e4m3⟩
def e5m2 : FSpec := ⟨5, 2, .ieee⟩
def e3m2 : FSpec := ⟨3, 2, .finite⟩
def e2m3 : FSpec := ⟨2, 3, .finite⟩
def e2m1 : FSpec := ⟨2, 1, .finite⟩

def FSpec.bias (f : FSpec) : Nat := 2 ^ (f.ew - 1) - 1

/-- Exponent of the smallest normal. -/
def FSpec.emin (f : FSpec) : Int := 1 - (f.bias : Int)

/-- The largest finite value: significand and exponent. -/
def FSpec.top (f : FSpec) : Nat × Int :=
  match f.kind with
  | .ieee => (2 ^ (f.fw + 1) - 1, (f.bias : Int) - f.fw)
  | .e4m3 => (2 ^ (f.fw + 1) - 2, (2 ^ f.ew - 1 : Nat) - (f.bias : Int) - f.fw)
  | .finite => (2 ^ (f.fw + 1) - 1, (2 ^ f.ew - 1 : Nat) - (f.bias : Int) - f.fw)

/-- Code of the default NaN (R158). -/
def FSpec.nanCode (f : FSpec) : Nat :=
  match f.kind with
  | .ieee => (2 ^ f.ew - 1) * 2 ^ f.fw + 2 ^ (f.fw - 1)
  | .e4m3 => 2 ^ (f.ew + f.fw) - 1
  | .finite => 0

def FSpec.infCode (f : FSpec) (neg : Bool) : Nat := b2n neg * 2 ^ (f.ew + f.fw) + (2 ^ f.ew - 1) * 2 ^ f.fw

/-- Read a code of a floating-point format (R158 to R160). -/
def FSpec.decode (f : FSpec) (c : Nat) : FVal :=
  let neg := bitAt c (f.ew + f.fw)
  let ex := bitsAt c f.fw f.ew
  let fr := bitsAt c 0 f.fw
  let ones := 2 ^ f.ew - 1
  if f.kind = .ieee ∧ ex = ones then (if fr = 0 then .inf neg else .nan 0)
  else if f.kind = .e4m3 ∧ ex = ones ∧ fr = 2 ^ f.fw - 1 then .nan 0
  else if ex = 0 then .num neg fr (f.emin - f.fw)
  else .num neg (2 ^ f.fw + fr) ((ex : Int) - f.bias - f.fw)

/-- The code of a finite value that the format holds exactly. -/
def FSpec.pack (f : FSpec) (neg : Bool) (m : Nat) (e : Int) : Nat :=
  let s := b2n neg * 2 ^ (f.ew + f.fw)
  if m = 0 then s else
  let l : Int := Nat.log2 m + e
  if l < f.emin then s + (if e ≥ f.emin - f.fw then m * 2 ^ (e - (f.emin - f.fw)).toNat else m / 2 ^ (f.emin - f.fw - e).toNat)
  else
    let lg := Nat.log2 m
    let fr := if lg ≤ f.fw then m * 2 ^ (f.fw - lg) else m / 2 ^ (lg - f.fw)
    s + (l + f.bias).toNat * 2 ^ f.fw + (fr - 2 ^ f.fw)

/-- The code of a value the format holds; a NaN gives the default NaN. -/
def FSpec.code (f : FSpec) : FVal → Nat
  | .num n m e => f.pack n m e
  | .inf n => f.infCode n
  | .nan _ => f.nanCode

/-- Rounding modes: R174's, and ties away, which only application cores use (R502). -/
inductive Rnd where
  | rne | rtz | rup | rdn | rmm
  | sto (n rnd : Nat)
deriving DecidableEq, Repr, Inhabited

/-- Round m * 2^e to a multiple of 2^q: the multiple, and whether it is inexact (R174, R176). -/
def roundMag (r : Rnd) (neg : Bool) (m : Nat) (e q : Int) : Nat × Bool :=
  if e ≥ q then (m * 2 ^ (e - q).toNat, false) else
  let d := (q - e).toNat
  let k := m / 2 ^ d
  let rem := m % 2 ^ d
  let half := 2 ^ (d - 1)
  let up : Bool := match r with
    | .rne => rem > half || (rem == half && k % 2 == 1)
    | .rtz => false
    | .rup => rem != 0 && !neg
    | .rdn => rem != 0 && neg
    | .rmm => rem ≥ half && rem != 0
    | .sto n rnd => (rem * 2 ^ n / 2 ^ d + rnd) / 2 ^ n == 1
  ((if up then k + 1 else k), rem != 0)

/-- m1 * 2^e1 < m2 * 2^e2. -/
def dyLt (m1 : Nat) (e1 : Int) (m2 : Nat) (e2 : Int) : Bool :=
  let e := if e1 ≤ e2 then e1 else e2
  m1 * 2 ^ (e1 - e).toNat < m2 * 2 ^ (e2 - e).toNat

/-- A rounding to a format with unbounded range above: significand, exponent, inexact, tiny (R179), out of range. -/
structure Rounded where
  m : Nat
  e : Int
  inexact : Bool
  tiny : Bool
  big : Bool
deriving DecidableEq, Repr, Inhabited

def FSpec.round (f : FSpec) (r : Rnd) (neg : Bool) (m : Nat) (e : Int) : Rounded :=
  if m = 0 then ⟨0, 0, false, false, false⟩ else
  let l : Int := Nat.log2 m + e
  let q1 := l - f.fw
  let qmin := f.emin - f.fw
  let q := if q1 ≤ qmin then qmin else q1
  let k := roundMag r neg m e q
  let k1 := roundMag r neg m e q1
  ⟨k.1, q, k.2, k.2 && dyLt k1.1 q1 1 f.emin, dyLt f.top.1 f.top.2 k.1 q⟩

/-- IEEE overflow under a rounding mode: the largest finite value is kept (R169). -/
def keepsFinite (r : Rnd) (neg : Bool) : Bool :=
  match r with
  | .rtz => true
  | .rup => neg
  | .rdn => !neg
  | _ => false

/-- Round an arithmetic result into a floating-point format, as IEEE 754 does: overflow gives an infinity and OF
and never saturates; a format without infinity takes its NaN (R104, R108, R134, chapter 6 "Conversion"). -/
def FSpec.arith (f : FSpec) (r : Rnd) : FVal → FVal × Flags
  | .num neg m e =>
    let x := f.round r neg m e
    if x.big then
      if f.kind = .ieee then
        ((if keepsFinite r neg then .num neg f.top.1 f.top.2 else .inf neg), flOF ||| flNX)
      else (.nan 2, flOF ||| flNX)
    else (.num neg x.m x.e, flIf x.inexact flNX ||| flIf x.tiny flUF)
  | v => (v, 0)

/-! ### Exact operations (R108) -/

def FVal.neg : FVal → FVal
  | .num n m e => .num (!n) m e
  | .inf n => .inf (!n)
  | v => v

def FVal.abs : FVal → FVal
  | .num _ m e => .num false m e
  | .inf _ => .inf false
  | v => v

/-- Exact product; infinity times zero is an invalid operation. -/
def FVal.mul (a b : FVal) : FVal × Flags :=
  match a, b with
  | .nan x, _ => (.nan x, 0)
  | _, .nan x => (.nan x, 0)
  | .inf n, y => if y.isZero then (.nan 1, flNV) else
    (.inf (n != (match y with | .num k _ _ => k | .inf k => k | .nan _ => false)), 0)
  | .num k m _, .inf n => if m = 0 then (.nan 1, flNV) else (.inf (k != n), 0)
  | .num n1 m1 e1, .num n2 m2 e2 => (.num (n1 != n2) (m1 * m2) (e1 + e2), 0)

/-- Exact sum; the sign of an exact zero follows the rounding mode. -/
def FVal.add (r : Rnd) (a b : FVal) : FVal × Flags :=
  match a, b with
  | .nan x, _ => (.nan x, 0)
  | _, .nan x => (.nan x, 0)
  | .inf n, .inf k => if n = k then (.inf n, 0) else (.nan 1, flNV)
  | .inf n, _ => (.inf n, 0)
  | _, .inf n => (.inf n, 0)
  | .num n1 m1 e1, .num n2 m2 e2 =>
    let e := if e1 ≤ e2 then e1 else e2
    let x : Int := (m1 * 2 ^ (e1 - e).toNat : Nat)
    let y : Int := (m2 * 2 ^ (e2 - e).toNat : Nat)
    let s := (if n1 then -x else x) + (if n2 then -y else y)
    if s = 0 then (.num (if n1 = n2 then n1 else r == .rdn) 0 e, 0)
    else (.num (s < 0) s.natAbs e, 0)

def fAdd (f : FSpec) (r : Rnd) (a b : FVal) : FVal × Flags :=
  let s := FVal.add r a b
  let x := f.arith r s.1
  (x.1, s.2 ||| x.2)

def fSub (f : FSpec) (r : Rnd) (a b : FVal) : FVal × Flags := fAdd f r a b.neg

def fMul (f : FSpec) (r : Rnd) (a b : FVal) : FVal × Flags :=
  let s := FVal.mul a b
  let x := f.arith r s.1
  (x.1, s.2 ||| x.2)

/-- Fused multiply-add with one rounding; a NaN addend propagates without NV (R108). -/
def fFma (f : FSpec) (r : Rnd) (a b c : FVal) : FVal × Flags :=
  if a.isNan || b.isNan || c.isNan then
    ((match a, b, c with
      | .nan x, _, _ => .nan x
      | _, .nan x, _ => .nan x
      | _, _, z => z), 0)
  else
    let p := FVal.mul a b
    let s := FVal.add r p.1 c
    let x := f.arith r s.1
    (x.1, p.2 ||| s.2 ||| x.2)

/-- a * 2^k, rounded once. -/
def fScale (f : FSpec) (r : Rnd) (a : FVal) (k : Int) : FVal × Flags :=
  match a with
  | .num n m e => f.arith r (.num n m (e + k))
  | v => (v, 0)

/-- a < b of values that are no NaN; -0 equals +0. -/
def FVal.lt (a b : FVal) : Bool :=
  match a, b with
  | .nan _, _ => false
  | _, .nan _ => false
  | .inf n, .inf k => n && !k
  | .inf n, _ => n
  | _, .inf k => !k
  | .num n1 m1 e1, .num n2 m2 e2 =>
    if m1 = 0 ∧ m2 = 0 then false
    else if n1 ∧ m1 ≠ 0 then (if n2 ∧ m2 ≠ 0 then dyLt m2 e2 m1 e1 else true)
    else if n2 ∧ m2 ≠ 0 then false
    else dyLt m1 e1 m2 e2

/-- a = b; false with a NaN; -0 equals +0 (R173). -/
def FVal.eq (a b : FVal) : Bool := !a.isNan && !b.isNan && !a.lt b && !b.lt a

def FVal.le (a b : FVal) : Bool := a.lt b || a.eq b

def FVal.isNeg : FVal → Bool
  | .num n _ _ => n
  | .inf n => n
  | .nan _ => false

/-- minimumNumber: -0 is less than +0; two NaNs give the default NaN and NV (R173). -/
def fMin (a b : FVal) : FVal × Flags :=
  match a.isNan, b.isNan with
  | true, true => (.nan 1, flNV)
  | true, false => (b, 0)
  | false, true => (a, 0)
  | false, false => ((if a.lt b || (a.eq b && a.isNeg) then a else b), 0)

/-- maximumNumber (R173). -/
def fMax (a b : FVal) : FVal × Flags :=
  match a.isNan, b.isNan with
  | true, true => (.nan 1, flNV)
  | true, false => (b, 0)
  | false, true => (a, 0)
  | false, false => ((if b.lt a || (a.eq b && !a.isNeg) then a else b), 0)

/-! ### Integers -/

/-- A value rounded to an integer, with its inexactness. -/
def FVal.toInt (r : Rnd) : FVal → Int × Bool
  | .num n m e => let k := roundMag r n m e 0; ((if n then -(k.1 : Int) else k.1), k.2)
  | _ => (0, false)

/-- Wrap an integer to `w` bits, two's complement. -/
def wrapInt (w : Nat) (i : Int) : Int := toSigned w (toUnsigned w i)

/-! ### Stochastic bits (R177) -/

def rotl32 (x : BitVec 32) (n : Nat) : BitVec 32 := x.rotateLeft n

def laneRound (key : BitVec 32) (x : BitVec 32 × BitVec 32 × BitVec 32 × BitVec 32) :
    BitVec 32 × BitVec 32 × BitVec 32 × BitVec 32 :=
  let x0 := x.1 + x.2.1 + key
  let x3 := rotl32 (x.2.2.2 ^^^ x0) 16
  let x2 := x.2.2.1 + x3
  let x1 := rotl32 (x.2.1 ^^^ x2) 12
  (x0, x1, x2, x3)

/-- The last word of the lane generator (R177, R178). -/
def laneWord (seed : BitVec 64) (stream : BitVec 32) (counter : BitVec 64) : BitVec 32 :=
  let k0 := seed.extractLsb' 0 32
  let k1 := seed.extractLsb' 32 32
  let x := [k0, k1, k0, k1, k0, k1].foldl (fun x k => laneRound k x)
    (counter.extractLsb' 0 32, counter.extractLsb' 32 32, stream, 0x9E3779B9)
  x.2.1 + x.2.2.2

/-- `n` random bits of an element (R177). -/
def laneBits (seed : BitVec 64) (stream : BitVec 32) (counter n : Nat) : Nat :=
  (laneWord seed stream (BitVec.ofNat 64 counter)).toNat / 2 ^ (32 - n)

/-! ### Element formats by code (R157) -/

/-- What a format code names, MX element formats included. -/
inductive Elem where
  | flt (f : FSpec)
  | int (w : Nat)
  | uint32
  | mx (f : FSpec)
  | mxint8
  | sbi (w : Nat)
deriving DecidableEq, Repr, Inhabited

def elemOf (code : Nat) : Option Elem :=
  match code with
  | 0x01 => some (.flt fp64)
  | 0x02 => some (.flt fp32)
  | 0x03 => some (.flt bf16)
  | 0x04 => some (.flt fp16)
  | 0x05 => some (.flt e4m3)
  | 0x06 => some (.flt e5m2)
  | 0x07 => some (.flt e2m1)
  | 0x08 => some (.int 8)
  | 0x09 => some (.int 32)
  | 0x0A => some .uint32
  | 0x10 => some (.mx e4m3)
  | 0x11 => some (.mx e5m2)
  | 0x12 => some (.mx e3m2)
  | 0x13 => some (.mx e2m3)
  | 0x14 => some (.mx e2m1)
  | 0x15 => some .mxint8
  | 0x20 => some (.sbi 32)
  | 0x21 => some (.sbi 64)
  | _ => none

def isMx (code : Nat) : Bool := 0x10 ≤ code && code ≤ 0x15
def isSbi (code : Nat) : Bool := code == 0x20 || code == 0x21

/-- Bits per element, without scales and headers (R157). -/
def elemBits (code : Nat) : Nat :=
  match code with
  | 0x01 => 64 | 0x02 => 32 | 0x03 => 16 | 0x04 => 16 | 0x05 => 8 | 0x06 => 8 | 0x07 => 4 | 0x08 => 8
  | 0x09 => 32 | 0x0A => 32 | 0x10 => 8 | 0x11 => 8 | 0x12 => 6 | 0x13 => 6 | 0x14 => 4 | 0x15 => 8
  | 0x20 => 32 | 0x21 => 64 | _ => 0

/-- Bytes of `n` packed elements (R161). -/
def elemBytes (code n : Nat) : Nat := ceilDiv (n * elemBits code) 8

/-- The code of element `i` of a packed string (R161). -/
def packedCode (b : List Byte) (bits i : Nat) : Nat :=
  let lo := i * bits
  bitsAt (leVal (slice b (lo / 8) ((lo % 8 + bits + 7) / 8))) (lo % 8) bits

/-- Codes as a packed string (R161): the codes' bits in ascending order from bit 0 of the lowest byte. -/
def packCodes (bits : Nat) (cs : List Nat) : List Byte :=
  leBytes (ceilDiv (cs.length * bits) 8) (cs.foldr (fun c acc => c % 2 ^ bits + 2 ^ bits * acc) 0)

/-- The value of an unscaled element (R158, R162 for the element code of a block). -/
def elemVal (e : Elem) (c : Nat) : FVal :=
  match e with
  | .flt f => f.decode c
  | .mx f => f.decode c
  | .int w => FVal.ofInt (toSigned w c)
  | .uint32 => .num false c 0
  | .mxint8 => match FVal.ofInt (toSigned 8 c) with
    | .num n m _ => .num n m (-6)
    | v => v
  | .sbi w => FVal.ofInt (toSigned w c)

/-- An MX element times its block's scale; scale 0xFF reads as NaN (R162). -/
def mxVal (e : Elem) (c scale : Nat) : FVal :=
  if scale = 0xFF then .nan 3 else
  match elemVal e c with
  | .num n m x => .num n m (x + (scale : Int) - 127)
  | v => v

/-! ### Output conversion (R169 to R172, R176, R179, R180) -/

/-- The rounding mode an output conversion into a format uses (R174). -/
def outRnd (mode : Nat) (code : Nat) (sto : Rnd) : Rnd :=
  match mode with
  | 1 => if code = 1 ∨ code = 2 then .rtz else .rne
  | 2 => if code = 1 ∨ code = 2 then .rup else .rne
  | 3 => if code = 1 ∨ code = 2 then .rdn else .rne
  | 4 => if elemBits code ≤ 16 ∧ ¬ isSbi code then sto else .rne
  | _ => .rne

/-- The rounding mode of arithmetic whose result is FP32 or FP64, or another format (R174). -/
def arithRnd (mode : Nat) (f : FSpec) : Rnd :=
  if f = fp64 ∨ f = fp32 then
    match mode with | 1 => .rtz | 2 => .rup | 3 => .rdn | _ => .rne
  else .rne

/-- Convert to a floating-point format. `written`: the element is written by the operation, so -0 becomes +0
(R171) and a vanished element sets FLUSH (R179). -/
def cvtFlt (f : FSpec) (ieee : Bool) (r : Rnd) (written : Bool) (v : FVal) : Written :=
  match v with
  | .nan cause =>
    match f.kind with
    | .ieee => { code := f.nanCode, nonfinite := true, trap := some cause }
    | .e4m3 => { code := f.nanCode, flags := flNV, nonfinite := true, trap := some cause }
    | .finite => { code := 0, flags := flNV, zero := true, nonfinite := true, trap := some 4 }
  | .inf n =>
    match f.kind with
    | .ieee => { code := f.infCode n, nonfinite := true }
    | .e4m3 => { code := f.nanCode, flags := flNV, nonfinite := true, trap := some 5 }
    | .finite => { code := f.pack n f.top.1 f.top.2, flags := flSAT ||| flNV }
  | .num n m e =>
    let x := f.round r n m e
    if x.big then
      if !ieee || f.kind == .finite then
        { code := f.pack n f.top.1 f.top.2, flags := flSAT ||| flOF ||| flNX }
      else if f.kind == .e4m3 then
        { code := f.nanCode, flags := flOF ||| flNX, nonfinite := true, trap := some 2 }
      else if keepsFinite r n then { code := f.pack n f.top.1 f.top.2, flags := flOF ||| flNX }
      else { code := f.infCode n, flags := flOF ||| flNX, nonfinite := true }
    else if x.m = 0 then
      { code := if written then 0 else f.pack n 0 0, zero := true
        flags := if m = 0 then 0 else flNX ||| flUF ||| flIf written flFLUSH }
    else { code := f.pack n x.m x.e, flags := flIf x.inexact flNX ||| flIf x.tiny flUF }

/-- Convert to an integer format of `w` bits, limits ±(2^(w-1) - 1) (R169, R170, R172). -/
def cvtInt (w : Nat) (r : Rnd) (written : Bool) (v : FVal) : Written :=
  let lim : Int := 2 ^ (w - 1) - 1
  match v with
  | .nan _ => { code := 0, flags := flNV, zero := true, nonfinite := true, trap := some 4 }
  | .inf n => { code := toUnsigned w (if n then -lim else lim), flags := flSAT ||| flNV }
  | .num n m e =>
    let k := FVal.toInt r (.num n m e)
    if k.1 > lim then { code := toUnsigned w lim, flags := flSAT ||| flOF ||| flNX }
    else if k.1 < -lim then { code := toUnsigned w (-lim), flags := flSAT ||| flOF ||| flNX }
    else { code := toUnsigned w k.1, zero := k.1 == 0
           flags := flIf k.2 flNX ||| (if k.1 = 0 ∧ m ≠ 0 then flUF ||| flIf written flFLUSH else 0) }

/-- Convert to an SBI element under exponent `e0` (R167). -/
def cvtSbi (w : Nat) (e0 : Int) (v : FVal) : Written :=
  let lim : Int := 2 ^ (w - 1) - 1
  match v with
  | .nan _ => { code := 0, flags := flNV, zero := true, nonfinite := true, trap := some 4 }
  | .inf _ => { code := 0, flags := flNV, zero := true, nonfinite := true }
  | .num n m e =>
    let k := FVal.toInt .rne (.num n m (e - e0))
    if k.1 > lim then { code := toUnsigned w lim, flags := flSAT ||| flOF ||| flNX }
    else if k.1 < -lim then { code := toUnsigned w (-lim), flags := flSAT ||| flOF ||| flNX }
    else { code := toUnsigned w k.1, zero := k.1 == 0
           flags := flIf k.2 flNX ||| (if k.1 = 0 ∧ m ≠ 0 then flUF ||| flFLUSH else 0) }

/-- The output conversion of one element to a format that needs no block (R169 to R172). -/
def cvtOut (e : Elem) (ieee : Bool) (r : Rnd) (v : FVal) : Written :=
  match e with
  | .flt f => cvtFlt f ieee r true v
  | .int w => cvtInt w r true v
  | .mx f => cvtFlt f false r true v
  | _ => {}

/-! ### MX blocks (R164) -/

/-- The largest magnitude among finite values, as (m, e). -/
def amax (vs : List FVal) : Nat × Int :=
  vs.foldl (fun a v => match v with
    | .num _ m e => if dyLt a.1 a.2 m e then (m, e) else a
    | _ => a) (0, 0)

/-- The largest finite value of an MX element format, 1.984375 for MXINT8 (R164). -/
def mxTop (e : Elem) : Nat × Int :=
  match e with
  | .mx f => f.top
  | _ => (127, -6)

/-- The smallest exponent e with amax ≤ emax * 2^e, clamped to -127..127 (R164). -/
def mxExp (e : Elem) (a : Nat × Int) : Int :=
  let t := mxTop e
  -- candidates around log2 amax - log2 emax
  let g : Int := (Nat.log2 a.1 + a.2) - (Nat.log2 t.1 + t.2)
  let x := if dyLt t.1 (t.2 + g - 1) a.1 a.2 then (if dyLt t.1 (t.2 + g) a.1 a.2 then g + 1 else g) else g - 1
  if x < -127 then -127 else if x > 127 then 127 else x

/-- Convert one scaled value into an MX element code (R164, R174, R176). -/
def cvtMxElem (e : Elem) (r : Rnd) (x : Int) (v : FVal) : Written :=
  let sc := match v with
    | .num n m ex => FVal.num n m (ex - x)
    | y => y
  match e with
  | .mx f => cvtFlt f false r true sc
  | .mxint8 => cvtInt 8 r true (match sc with | .num n m ex => .num n m (ex + 6) | y => y)
  | _ => {}

/-- Convert a block to an MX format: the scale byte and the elements (R164). `rs` gives each element's rounding. DESIGN CHOICE (log 48): cause
3 of R181 names a NaN of a block written with scale byte 0xFF, and one that comes from a block read with it. DESIGN CHOICE (log 44): of a
block written with scale byte 0xFF only the NaN values are trap elements, not an infinity or a finite value that will read as NaN. -/
def cvtMx (e : Elem) (rs : List Rnd) (vs : List FVal) : Nat × List Written :=
  if vs.any (fun v => match v with | .num _ _ _ => false | _ => true) then
    (0xFF, vs.map (fun v => match v with
      | .nan _ => { code := 0, zero := true, nonfinite := true, flags := flNV, trap := some 3 }
      | .inf _ => { code := 0, zero := true, nonfinite := true
                    flags := if vs.any FVal.isNan then 0 else flOF, trap := none }
      | .num _ m _ => { code := 0, zero := true, flags := flIf (m != 0) (flUF ||| flNX ||| flFLUSH) }))
  else
    let a := amax vs
    if a.1 = 0 then (0, vs.map (fun _ => { code := 0, zero := true }))
    else
      let x := mxExp e a
      ((x + 127).toNat, (vs.zip rs).map (fun p => cvtMxElem e p.2 x p.1))

end Sys2Proof.Machine
end

