-- ==== Sys2Proof/Machine/Ops.lean ====
section
/-! DEFINITION. The operations every family shares: error records and signals, unit identifiers, the unit map,
the two stores of a core with their code, GDDR placement and its in-line code, the processor die's SRAM,
and the local region check. -/

namespace Sys2Proof.Machine

/-- The three outcomes, for this machine. -/
abbrev Out := Host.Outcome State Fault Refusal

/-! ### Time, records, signals -/

/-- Common time in nanoseconds. -/
def State.t (s : State) : Nat := s.clock.now.toNat

/-- Hand an error record to the CMB (R605); the time of detection is now (R18). -/
def State.hand (s : State) (r : ErrRec) : State := { s with handed := s.handed ++ [{ r with time := s.t }] }

/-- Raise an event-concentrator source (R512): the concentrator applies it when it reaches it (R520). -/
def State.raise (s : State) (src : Nat) : State := { s with signals := s.signals ++ [src] }

/-- Send a frame. -/
def State.send (s : State) (f : OutFrame) : State := { s with outbox := s.outbox ++ [f] }

/-- Draw the next free value number. -/
def State.drawn (s : State) : State := { s with freeCount := s.freeCount + 1 }

/-! ### Numbers of cores and units (R15 to R17, R21 to R23) -/

/-- The key of a core in the table of cores. -/
def coreKey (c : CoreId) : Nat := c.die.val * 21572 + c.p.val

/-- The core a key names. -/
def coreOfKey (k : Nat) : CoreId :=
  { die := ⟨k / 21572 % 4, Nat.mod_lt _ (by decide)⟩, p := ⟨k % 21572, Nat.mod_lt _ (by decide)⟩ }

/-- A solver core (R16). -/
def isSolver (c : CoreId) : Bool := 21504 ≤ c.p.val

def State.core (s : State) (c : CoreId) : Core := s.cores.get (coreKey c)
def State.setCore (s : State) (c : CoreId) (k : Core) : State := { s with cores := s.cores.set (coreKey c) k }
def State.updCore (s : State) (c : CoreId) (f : Core → Core) : State := s.setCore c (f (s.core c))

def State.dieRate (s : State) (d : Nat) : DieRate := s.dies.get d
def State.updDie (s : State) (d : Nat) (f : DieRate → DieRate) : State := { s with dies := s.dies.upd d f }
def State.cdie (s : State) (d : Nat) : CompDie := s.cdies.get d
def State.updCdie (s : State) (d : Nat) (f : CompDie → CompDie) : State := { s with cdies := s.cdies.upd d f }
def State.chan (s : State) (ch : Nat) : Channel := s.chans.get ch
def State.setChan (s : State) (ch : Nat) (c : Channel) : State := { s with chans := s.chans.set ch c }
def State.updChan (s : State) (ch : Nat) (f : Channel → Channel) : State := s.setChan ch (f (s.chan ch))
def State.fab (s : State) (pl : Nat) : Fabric := s.fabrics.get pl
def State.setFab (s : State) (pl : Nat) (f : Fabric) : State := { s with fabrics := s.fabrics.set pl f }
def State.updFab (s : State) (pl : Nat) (f : Fabric → Fabric) : State := s.setFab pl (f (s.fab pl))
def State.ten (s : State) (t : Nat) : Tenancy := s.tens.get t
def State.updTen (s : State) (t : Nat) (f : Tenancy → Tenancy) : State := { s with tens := s.tens.upd t f }
def State.ckpt (s : State) (t : Nat) : Ckpt := s.ckpts.get t
def State.updCkpt (s : State) (t : Nat) (f : Ckpt → Ckpt) : State := { s with ckpts := s.ckpts.upd t f }
def State.hart (s : State) (h : Nat) : HartRegs := s.px.harts.get h
def State.updHart (s : State) (h : Nat) (f : HartRegs → HartRegs) : State :=
  { s with px := { s.px with harts := s.px.harts.upd h f } }

/-- Unit identifier of a unit of a core (R15, R16). -/
def coreUnit (c : CoreId) (u : Nat) : BitVec 32 := BitVec.ofNat 32 (c.die.val * 2 ^ 24 + u * 2 ^ 16 + c.p.val)
/-- Unit identifier of a resident-store slice. -/
def plinthUnit (c : CoreId) : BitVec 32 := BitVec.ofNat 32 (2 ^ 28 + c.die.val * 2 ^ 24 + c.p.val)
/-- Unit identifier of a part of a GDDR channel. -/
def chanUnit (ch part : Nat) : BitVec 32 := BitVec.ofNat 32 (4 * 2 ^ 28 + ch / 5 * 2 ^ 24 + ch % 5 * 2 ^ 20 + part)
/-- Unit identifier of a block of the processor die (R497). -/
def pxUnit (block inst : Nat) : BitVec 32 := BitVec.ofNat 32 (2 * 2 ^ 28 + block * 2 ^ 16 + inst)
/-- Unit identifier of a block of a fabric die (R642). -/
def fabUnit (pl block inst : Nat) : BitVec 32 := BitVec.ofNat 32 (3 * 2 ^ 28 + pl * 2 ^ 24 + block * 2 ^ 16 + inst)
/-- Unit identifier of a common block (R642). -/
def commonUnit (block inst : Nat) : BitVec 32 := BitVec.ofNat 32 (5 * 2 ^ 28 + block * 2 ^ 16 + inst)
/-- Unit identifier of a die as a whole: 0-3 compute, 4 PX, 5 FA, 6 FB (R16, R497, R642). -/
def dieUnit (d : Nat) : BitVec 32 :=
  if d < 4 then BitVec.ofNat 32 (d * 2 ^ 24 + 0xFFFFFF) else if d = 4 then pxUnit 0xFF 0xFFFF else fabUnit (d - 5) 0xFF 0xFFFF

/-! ### The unit map (R24, R544) -/

/-- Position of the set bit number `j` (from 0) of a mask, looking at positions `i` to `i + n - 1`. -/
def nthBit (m : Nat) : Nat → Nat → Nat → Option Nat
  | _, 0, _ => none
  | i, n + 1, j => if bitAt m i then (match j with | 0 => some i | j' + 1 => nthBit m (i + 1) n j') else nthBit m (i + 1) n j

/-- Set bits of a mask below position `n`. -/
def popBelow (m : Nat) : Nat → Nat
  | 0 => 0
  | n + 1 => popBelow m n + b2n (bitAt m n)

/-- The physical core of a logical core index on a die, if the unit map assigns one. -/
def State.physIdx (s : State) (die : CDie) (idx : Nat) : Option CoreId :=
  if idx < 20480 then
    match nthBit ((s.cdie die.val).used.get (idx / 160)).toNat 0 168 (idx % 160) with
    | some col => if h : idx / 160 * 168 + col < 21572 then some ⟨die, ⟨idx / 160 * 168 + col, h⟩⟩ else none
    | none => none
  else if idx < 20544 then
    match nthBit (s.cdie die.val).svUsed.toNat 0 68 (idx - 20480) with
    | some k => if h : 21504 + k < 21572 then some ⟨die, ⟨21504 + k, h⟩⟩ else none
    | none => none
  else none

/-- The physical core of a 17-bit logical core number (R21). -/
def State.phys (s : State) (n : Nat) : Option CoreId := s.physIdx ⟨n / 2 ^ 15 % 4, Nat.mod_lt _ (by decide)⟩ (n % 2 ^ 15)

/-- The logical index of a physical core, if it is mapped. -/
def State.logIdx (s : State) (c : CoreId) : Option Nat :=
  if isSolver c then
    let m := (s.cdie c.die.val).svUsed.toNat
    if bitAt m (c.p.val - 21504) then some (20480 + popBelow m (c.p.val - 21504)) else none
  else
    let m := ((s.cdie c.die.val).used.get (c.p.val / 168)).toNat
    if bitAt m (c.p.val % 168) then some (c.p.val / 168 * 160 + popBelow m (c.p.val % 168)) else none

/-- The logical core number of a physical core; 0x1_FFFF, which names no core, where the map assigns none. -/
def State.logNum (s : State) (c : CoreId) : Nat :=
  match s.logIdx c with
  | some i => c.die.val * 2 ^ 15 + i
  | none => 0x1FFFF

/-- Band of a logical core index (R22, R23). -/
def bandOfIdx (i : Nat) : Nat := if i < 20480 then i / 1280 else (i - 20480) / 4

/-- Bit of a band in a 64-bit band mask: 16 times die plus band. -/
def bandBit (die band : Nat) : Nat := 16 * die + band

/-- The band-mask bit of a core, if it is mapped. -/
def State.bandOf (s : State) (c : CoreId) : Option Nat := (s.logIdx c).map (fun i => bandBit c.die.val (bandOfIdx i))

/-! ### Who makes an access -/

/-- The operation and job an access belongs to, for error records. -/
structure Who where
  source : Nat := 0
  opTag : BitVec 32 := 0
  jobId : BitVec 16 := 0
  jobGen : BitVec 16 := 0
  /-- severity of an uncorrectable event (R210) -/
  sev : Byte := 2
  status : Byte := 0
deriving DecidableEq, Repr, Inhabited

/-- The job fields a core puts into its records. -/
def Core.who (k : Core) (source : Nat) (tag : BitVec 32) : Who :=
  { source := source, opTag := tag, jobId := if k.jobValid then k.jobId else 0, jobGen := if k.jobValid then k.jobGen else 0 }

/-! ### Working store and resident store (chapter 7) -/

def wsSize (c : CoreId) : Nat := if isSolver c then 0x40000 else 0xC000
def rsSize (c : CoreId) : Nat := if isSolver c then 0x400000 else 0x20000

/-- The valid grid partition that holds a working-store row. -/
def Core.gridPart (k : Core) (row : Nat) : Option Part :=
  (k.parts.map (·.2)).find? (fun p => p.valid && p.grid && p.baseRow.toNat ≤ row && row < p.baseRow.toNat + p.rows.toNat)

/-- Where a byte of the working store lies physically (R200). -/
def Core.wsPhys (k : Core) (a : Nat) : Nat :=
  match k.gridPart (a / 512) with
  | none => a
  | some p =>
    let b := a - p.baseRow.toNat * 512
    let r := b % 4096 / 128
    let col := b % 128 / 4
    let bank := (r + col) % 32
    (p.baseRow.toNat + 8 * (b / 4096) + r / 4) * 512 + 16 * bank + 4 * (r % 4) + b % 4

/-- The software offset of a physical byte of the working store (the inverse of R200). -/
def Core.wsSoft (k : Core) (pa : Nat) : Nat :=
  match k.gridPart (pa / 512) with
  | none => pa
  | some p =>
    let rr := pa / 512 - p.baseRow.toNat
    let r := 4 * (rr % 8) + pa % 16 / 4
    let bank := pa % 512 / 16
    p.baseRow.toNat * 512 + rr / 8 * 4096 + r * 128 + (bank + 32 - r % 32) % 32 * 4 + pa % 4

/-- Whether an upset befalls the slice, or the working store. -/
def inSlice : Upset → Bool
  | .cells r _ _ _ _ => r
  | .wrongRow r _ => r

/-- The words and bits that an upset changes. The cells of the four codewords of a cell row alternate (R208); bits 0 to 71 are those of R211,
and DESIGN CHOICE (log 5): they lie along the row in that order. A wrong row number is two bits beyond the codeword, which nothing corrects. -/
def upsetHits : Upset → List (Nat × Nat)
  | .cells _ pair bank first n => (List.range n).map (fun i =>
      let k := first.val + i
      (64 * (2 * pair + k % 4 / 2) + 2 * bank.val + k % 2, k / 4))
  | .wrongRow _ w => [(w, 72), (w, 73)]

/-- Merge upsets into the errors standing in a store: a cell that flips twice is right again, a wrong row number stays. -/
def mergeUps (errs : Tab (List Nat)) (ups : List Upset) : Tab (List Nat) :=
  (ups.flatMap upsetHits).foldl (fun e h => e.upd h.1 (fun l =>
    if !l.contains h.2 then h.2 :: l else if h.2 < 72 then l.filter (· != h.2) else l)) errs

/-- The upsets that a command names befall the core's stores before the step reads them (R208). -/
def State.upset (s : State) (c : CoreId) (ups : List Upset) : State :=
  if ups.isEmpty then s else
  s.updCore c (fun k => { k with
    wsErr := mergeUps k.wsErr (ups.filter (fun u => !inSlice u))
    rsErr := mergeUps k.rsErr (ups.filter inSlice) })

/-- `detail` of a store error record (R211). -/
def storeDetail (c : CoreId) (res : Bool) (word bit source unlogged : Nat) : List Byte :=
  [BitVec.ofNat 8 (b2n res + 2 * b2n (isSolver c)), BitVec.ofNat 8 (if res || isSolver c then 0xFF else word / 1024)]
    ++ leBytes 2 (word / 64) ++ [BitVec.ofNat 8 (word % 64), BitVec.ofNat 8 bit, BitVec.ofNat 8 source, 0] ++ leBytes 4 unlogged
    ++ List.replicate 12 0

/-- NPA of a byte of a core's store, with its address kind; none for a slice that no logical core names. -/
def State.storeNpa (s : State) (c : CoreId) (res : Bool) (pa : Nat) : Option Nat :=
  if res then
    (s.logIdx c).map (fun i => 2 ^ 48 +
      (if isSolver c then 0x800000000 + (c.die.val * 64 + (i - 20480)) * 0x400000 else (c.die.val * 2 ^ 15 + i) * 0x20000) + pa)
  else some (2 * 2 ^ 48 + (s.core c).wsSoft pa)

/-- An error record of a store word (R209 to R211). -/
def State.storeRec (s : State) (c : CoreId) (res : Bool) (word : Nat) (cls sev : Byte) (syn : Nat) (bit unlogged : Nat) (w : Who) : ErrRec :=
  { unit := if res then plinthUnit c else coreUnit c 0x04
    cls := cls, severity := sev, status := w.status
    addrKind := if (s.storeNpa c res (word * 8)).isSome then 1 else 0
    address := BitVec.ofNat 64 ((s.storeNpa c res (word * 8)).getD 0)
    syndrome := BitVec.ofNat 64 syn, jobId := w.jobId, jobGen := w.jobGen, opTag := w.opTag
    detail := storeDetail c res word bit w.source unlogged }

/-- A corrected word (R209): counted, logged at most once a millisecond per store; a slice writes it back. -/
def State.storeCorrect (s : State) (c : CoreId) (res : Bool) (word bit : Nat) (w : Who) : State :=
  let k := s.core c
  let last := if res then k.rsLogged else k.wsLogged
  let log := match last with
    | none => true
    | some t => t + 1000000 ≤ s.t
  let unl := (if res then k.rsUnlogged else k.wsUnlogged)
  let s1 := if log then s.hand (s.storeRec c res word 0x01 1 0 bit unl.toNat { w with status := 0 }) else s
  s1.updCore c (fun k =>
    if res then { k with rsCorrected := satInc k.rsCorrected, rsLogged := if log then some s.t else k.rsLogged
                         rsUnlogged := if log then 0 else satInc k.rsUnlogged, rsErr := k.rsErr.set word [] }
    else { k with wsCorrected := satInc k.wsCorrected, wsLogged := if log then some s.t else k.wsLogged
                  wsUnlogged := if log then 0 else satInc k.wsUnlogged })

/-- An uncorrectable word (R210): counted and logged; the code syndrome is a free nonzero value. -/
def State.storeUnc (s : State) (c : CoreId) (res : Bool) (word : Nat) (w : Who) : State :=
  let r := s.storeRec c res word 0x02 w.sev (((Config.freeSyndrome s.freeCount).val) + 1) 0xFF 0 w
  ((s.hand r).drawn).updCore c (fun k =>
    if res then { k with rsUncorrectable := satInc k.rsUncorrectable } else { k with wsUncorrectable := satInc k.wsUncorrectable })

/-- Words of physical byte addresses. -/
def wordsOf (pas : List Nat) : List Nat := (pas.map (· / 8)).eraseDups

/-- Judge words of a store against their check bits (R199, R209, R210): the state, and the words that are uncorrectable. -/
def State.judge (s : State) (c : CoreId) (res : Bool) (words : List Nat) (w : Who) : State × List Nat :=
  let k := s.core c
  let errs := (if res then k.rsErr else k.wsErr).filter (fun e => words.contains e.1)
  errs.foldl (fun (acc : State × List Nat) e =>
    match e.2 with
    | [] => acc
    | [b] => (acc.1.storeCorrect c res e.1 b w, acc.2)
    | _ => (acc.1.storeUnc c res e.1 w, acc.2 ++ [e.1])) (s, [])

/-- Physical bytes of `n` bytes from offset `a` of a store. -/
def Core.physBytes (k : Core) (c : CoreId) (res : Bool) (a n : Nat) : List Nat :=
  if res || isSolver c then (List.range n).map (a + ·) else (List.range n).map (fun i => k.wsPhys (a + i))

/-- Read bytes of a store: the state with its counts and records, whether a word is uncorrectable, and the bytes. -/
def State.storeRead (s : State) (c : CoreId) (res : Bool) (a n : Nat) (w : Who) : State × Bool × List Byte :=
  let k := s.core c
  let pas := k.physBytes c res a n
  let j := s.judge c res (wordsOf pas) w
  (j.1, !j.2.isEmpty, pas.map (fun p => (if res then k.rs else k.ws).read p))

/-- Write bytes at physical addresses of a store; a whole word replaces its check bits (R193). -/
def Core.putPhys (k : Core) (res : Bool) (l : List (Nat × Byte)) (cleared : List Nat) : Core :=
  if res then { k with rs := l.foldl (fun m x => m.write x.1 x.2) k.rs, rsErr := k.rsErr.filter (fun e => !cleared.contains e.1) }
  else { k with ws := l.foldl (fun m x => m.write x.1 x.2) k.ws, wsErr := k.wsErr.filter (fun e => !cleared.contains e.1) }

/-- The words that a write covers only in part, and whose check bits it therefore reads (R193). -/
def partWords (pas : List Nat) : List Nat := (wordsOf pas).filter (fun w => (pas.filter (fun p => p / 8 == w)).length < 8)

/-- Write bytes of a store: words written in part are judged, and an uncorrectable one stays as it is (R210). -/
def State.storeWrite (s : State) (c : CoreId) (res : Bool) (a : Nat) (bs : List Byte) (w : Who) : State × Bool :=
  let pas := (s.core c).physBytes c res a bs.length
  let j := s.judge c res (partWords pas) w
  let l := (pas.zip bs).filter (fun x => !j.2.contains (x.1 / 8))
  (j.1.updCore c (fun k => k.putPhys res l ((wordsOf pas).filter (fun x => !j.2.contains x))), !j.2.isEmpty)

/-- Every byte lies in a bank that is ready (R204). -/
def Core.banksReady (k : Core) (c : CoreId) (a n : Nat) : Bool :=
  isSolver c || n == 0 || (List.range 6).all (fun b => k.bankReady.getLsbD b || a + n ≤ b * 8192 || (b + 1) * 8192 ≤ a)

/-! ### GDDR placement (R253 to R255, R270) -/

/-- Usable channel-local units, by density (R255). -/
def uUse (dens : Bool) : Nat := if dens then 22020096 else 14680064
def uData (dens : Bool) : Nat := if dens then 23592960 else 15728640

/-- Bytes of NPA space 0x0. -/
def State.gddrSize (s : State) : Nat := uUse s.pkg.density * 5120

/-- Channel and channel-local unit of unit `u` of NPA space 0x0 (R253). -/
def gddrPlace (u : Nat) : Nat × Nat :=
  let q := u / 20
  let r := u % 20
  let h := (q % 256) ^^^ (q / 256 % 256) ^^^ (q / 65536 % 256) ^^^ (q / 16777216 % 256)
  let x := (r + h) % 20
  (5 * (x % 4) + x / 4, q)

/-- The unit number of NPA space 0x0 that lies at a channel's local unit: the inverse of R253. -/
def gddrUnitOf (ch q : Nat) : Nat :=
  let h := (q % 256) ^^^ (q / 256 % 256) ^^^ (q / 65536 % 256) ^^^ (q / 16777216 % 256)
  let x := ch % 5 * 4 + ch / 5
  q * 20 + (x + 20 * 13 - h % 20) % 20

/-- Where local unit `l` of migrating channel `c` goes (R270). -/
def migTarget (dens : Bool) (c l : Nat) : Nat × Nat :=
  let i := l % 19
  ((if i < c then i else i + 1), uUse dens + l / 19)

/-- The channel is lost: it answers every request as uncorrectable, while it is migrated too (R275). -/
def Channel.lostNow (c : Channel) : Bool := c.state == 5 || c.dead

/-- The channel and local unit that serve a unit now (R271 step 3): one already moved stays at its target if the channel is then lost. -/
def State.steer (s : State) (u : Nat) : Nat × Nat :=
  let p := gddrPlace u
  let c := s.chan p.1
  if (c.state = 3 ∨ c.state = 4 ∨ c.state = 5) ∧ p.2 < c.pointer.toNat then migTarget s.pkg.density p.1 p.2 else p

/-- NPA of the first byte of the unit that a channel's local unit holds: of the migrated unit, where it lies in the reserve (R253, R270). -/
def State.placeNpa (s : State) (ch q : Nat) : Nat :=
  if q < uUse s.pkg.density then gddrUnitOf ch q * 256 else
  match s.chans.find? (fun x => (x.2.state == 3 || x.2.state == 4 || x.2.state == 5) && x.1 != ch) with
  | some x => gddrUnitOf x.1 ((q - uUse s.pkg.density) * 19 + (if ch < x.1 then ch else ch - 1)) * 256
  | none => gddrUnitOf ch q * 256

/-- The place of a local unit after the channel's row-group spares, and those of its slots that a running copy has moved (R274). -/
def Channel.spared (c : Channel) (q : Nat) : Nat :=
  match (c.spares.map (·.2)).find? (fun r => r.fromGroup.toNat == q / 15 && ((r.valid && r.assigned) || (r.copying && q % 15 < r.copied))) with
  | some r => r.toGroup.toNat * 15 + q % 15
  | none => q

/-- Channel byte of the first byte of a unit's place: 15 units to a row group of 4 KiB (R254). -/
def unitByte (q : Nat) : Nat := q / 15 * 4096 + q % 15 * 256
/-- Channel byte of the check bytes of a sector of a unit's place (R254). -/
def checkByte (q sec : Nat) : Nat := q / 15 * 4096 + 3840 + q % 15 * 16 + sec * 4

/-- A partition entry from its register word. -/
def partOf (v : Reg) : Part :=
  { baseRow := regField v 0 7, rows := regField v 8 7, grid := v.getLsbD 16, valid := v.getLsbD 17 }

def Part.overlaps (a b : Part) : Bool :=
  a.valid && b.valid && a.baseRow.toNat < b.baseRow.toNat + b.rows.toNat && b.baseRow.toNat < a.baseRow.toNat + a.rows.toNat

/-- The bytes of a RESTORE_VIEW message (R415). -/
def viewBytes (views : List SlotView) : List Byte :=
  [0x09] ++ (views.take 3).flatMap (fun v =>
    beBytes 4 v.gen.toNat ++ beBytes 8 v.step.toNat ++ [v.result, if v.commitSeen then 1 else 0, 0, 0] ++ padTo 32 v.manifestDigest)

/-! ### The in-line code (R258 to R262) -/

/-- Product in GF(2^8) with field polynomial x^8 + x^4 + x^3 + x^2 + 1 (R258). -/
def gfMul (a b : Byte) : Byte :=
  ((List.range 8).foldl (fun (acc : Byte × Byte) i =>
    (if b.getLsbD i then acc.1 ^^^ acc.2 else acc.1,
     if acc.2.getLsbD 7 then (acc.2 <<< 1) ^^^ 0x1D else acc.2 <<< 1)) (0, a)).1

def gfPow (a : Byte) : Nat → Byte
  | 0 => 1
  | n + 1 => gfMul a (gfPow a n)

/-- α^n, α = 2. -/
def gfAlpha (n : Nat) : Byte := gfPow 2 (n % 255)

/-- Inverse: a^254. -/
def gfInv (a : Byte) : Byte := gfPow a 254

/-- S_j of an error pattern: the sum of diff * α^(j * (69 - pos)) (R262). -/
def rsSyn (es : List SymErr) (j : Nat) : Byte :=
  es.foldl (fun acc e => acc ^^^ gfMul e.diff (gfAlpha (j * (69 - e.pos.val)))) 0

/-- The two virtual symbols of a channel-local sector number: each half of its low 32 bits, folded into a byte by exclusive or (R258). -/
def virtSyms (n : Nat) : Byte × Byte :=
  (BitVec.ofNat 8 (n % 256) ^^^ BitVec.ofNat 8 (n / 256), BitVec.ofNat 8 (n / 65536) ^^^ BitVec.ofNat 8 (n / 16777216))

/-- The four check bytes of a sector (R258): what the virtual symbols and the data, shifted up by four places, leave over on
division by (x - 1)(x - α)(x - α²)(x - α³) = x⁴ + 0x0F x³ + 0x36 x² + 0x78 x + 0x40. -/
def rsCheck (n : Nat) (data : List Byte) : List Byte :=
  ((virtSyms n).1 :: (virtSyms n).2 :: data).foldl (fun r d => match r with
    | [a, b, c, e] => let f := d ^^^ a
                      [b ^^^ gfMul f 0x0F, c ^^^ gfMul f 0x36, e ^^^ gfMul f 0x78, gfMul f 0x40]
    | _ => r) [0, 0, 0, 0]

/-- Positions of the codeword whose locator is `x`. -/
def gfPos (x : Byte) : Option (Fin 70) := (List.finRange 70).find? (fun p => gfAlpha (69 - p.val) == x)

/-- The error of one or two symbols that explains four syndromes, if there is one. -/
def rsLocate (s0 s1 s2 s3 : Byte) : Option (List SymErr) :=
  let d := gfMul s1 s1 ^^^ gfMul s0 s2
  if d = 0 then
    if s0 = 0 then none else
    let x := gfMul s1 (gfInv s0)
    if gfMul s1 x = s2 ∧ gfMul s2 x = s3 then (gfPos x).map (fun p => [⟨p, s0⟩]) else none
  else
    let di := gfInv d
    let g1 := gfMul (gfMul s1 s2 ^^^ gfMul s0 s3) di
    let g2 := gfMul (gfMul s2 s2 ^^^ gfMul s1 s3) di
    let roots := (List.finRange 70).filter (fun p =>
      let x := gfAlpha (69 - p.val)
      gfMul x x ^^^ gfMul g1 x ^^^ g2 == 0)
    match roots with
    | [p1, p2] =>
      let x1 := gfAlpha (69 - p1.val)
      let x2 := gfAlpha (69 - p2.val)
      let y1 := gfMul (s1 ^^^ gfMul s0 x2) (gfInv (x1 ^^^ x2))
      some [⟨p1, y1⟩, ⟨p2, s0 ^^^ y1⟩]
    | _ => none

/-- What the decoder makes of a sector (R259): clean, corrected (the symbols it changed), or uncorrectable with S_0 to S_3. -/
inductive RsRes where
  | clean | corrected (es : List SymErr) | bad (syn : Nat)
deriving DecidableEq, Repr, Inhabited

/-- Decode a sector's standing errors. A correction that would fall on a virtual symbol is reported uncorrectable,
since a virtual symbol is not stored (R258). -/
def rsDecode (mode : Bool) (es : List SymErr) : RsRes :=
  let s0 := rsSyn es 0
  let s1 := rsSyn es 1
  let s2 := rsSyn es 2
  let s3 := rsSyn es 3
  let syn := s0.toNat + 256 * s1.toNat + 65536 * s2.toNat + 16777216 * s3.toNat
  if syn = 0 then .clean
  else if mode then .bad syn
  else match rsLocate s0 s1 s2 s3 with
    | some f => if f.any (fun e => e.pos.val < 2 || e.diff == 0) then .bad syn else .corrected f
    | none => .bad syn

/-- Add symbol errors to those standing in a sector, position by position. -/
def addSymErrs (old new : List SymErr) : List SymErr :=
  (List.finRange 70).filterMap (fun p =>
    let d := (old ++ new).foldl (fun acc e => if e.pos = p then acc ^^^ e.diff else acc) (0 : Byte)
    if d = 0 then none else some ⟨p, d⟩)

/-- What the decoder finds of a codeword formed for one sector number when it reads it for another (R258): the virtual symbols differ. -/
def virtErr (a b : Nat) : List SymErr :=
  if a = b then [] else
  [⟨0, (virtSyms a).1 ^^^ (virtSyms b).1⟩, ⟨1, (virtSyms a).2 ^^^ (virtSyms b).2⟩].filter (fun e => e.diff != 0)

/-- Errors that the decoder sees in sector `sec` of local unit `q`, read at the place `pu`. -/
def Channel.errsAt (c : Channel) (q pu sec : Nat) : List SymErr :=
  if q = pu then c.secErr.get (pu * 4 + sec) else addSymErrs (c.secErr.get (pu * 4 + sec)) (virtErr (q * 4 + sec) (pu * 4 + sec))

/-- Errors standing at the place `pu`, of its own number, when the decoder is to see `es` in sector `sec` of local unit `q` there. -/
def Channel.putErrs (t : Tab (List SymErr)) (q pu sec : Nat) (es : List SymErr) : Tab (List SymErr) :=
  t.set (pu * 4 + sec) (if q = pu then es else addSymErrs es (virtErr (q * 4 + sec) (pu * 4 + sec)))

/-- Errors that no data of a sector matches: what a migration of a lost channel writes (R275). -/
def noData : List SymErr := [⟨66, 0xFF⟩, ⟨67, 0x0F⟩, ⟨68, 0xF0⟩, ⟨69, 0x55⟩]

/-- `detail` of an in-line code record (R661). -/
def gddrDetail (sector unlogged symbols source : Nat) : List Byte :=
  leBytes 8 sector ++ leBytes 4 unlogged ++ [BitVec.ofNat 8 symbols, BitVec.ofNat 8 source] ++ List.replicate 10 0

/-- A sector stands with a codeword: the errors `left`, which the decoder does not see or made itself, are bytes of its data from now on, and
no error stands (R259). -/
def Channel.settle (c : Channel) (pu q sec : Nat) (left : List SymErr) : Channel :=
  { c with
    secErr := Channel.putErrs c.secErr q pu sec []
    mem := left.foldl (fun m e => if 2 ≤ e.pos.val ∧ e.pos.val < 66 then
      let a := pu * 256 + sec * 64 + (e.pos.val - 2)
      m.write a (m.read a ^^^ e.diff) else m) c.mem }

/-- A corrected sector (R260): counted, logged at most once a millisecond per channel, written back. -/
def State.gddrCorrect (s : State) (ch pu q sec : Nat) (es f : List SymErr) (npa : Nat) (w : Who) : State :=
  let c := s.chan ch
  let log := match c.logged with
    | none => true
    | some t => t + 1000000 ≤ s.t
  let s1 := if log then s.hand { unit := chanUnit ch 0, cls := 0x01, severity := 1, addrKind := 1, address := BitVec.ofNat 64 npa
                                 jobId := w.jobId, jobGen := w.jobGen, opTag := w.opTag
                                 detail := gddrDetail (q * 4 + sec) c.unlogged.toNat f.length w.source } else s
  s1.updChan ch (fun c => ({ c with
    corrected := satInc c.corrected, logged := if log then some s.t else c.logged
    unlogged := if log then 0 else satInc c.unlogged
    corrTimes := (q / 15, s.t) :: c.corrTimes }).settle pu q sec (addSymErrs es f))

/-- Judge the sectors of a unit that an access reads: the state, and the sectors that are uncorrectable (R260, R262).
`ch` serves, `pu` is the unit's place, `q` its local number, `npa` the NPA of the unit's first byte. -/
def State.gddrJudge (s : State) (ch pu q npa : Nat) (secs : List Nat) (w : Who) : State × List Nat :=
  secs.foldl (fun (acc : State × List Nat) sec =>
    let es := (acc.1.chan ch).errsAt q pu sec
    match rsDecode (acc.1.chan ch).rsMode es with
    | .clean => if es.isEmpty then acc else (acc.1.updChan ch (fun c => c.settle pu q sec es), acc.2)
    | .corrected f => (acc.1.gddrCorrect ch pu q sec es f (npa + sec * 64) w, acc.2)
    | .bad syn =>
      (acc.1.hand { unit := chanUnit ch 0, cls := 0x02, severity := 2, status := stMemUnc, addrKind := 1
                    address := BitVec.ofNat 64 (npa + sec * 64), syndrome := BitVec.ofNat 64 syn
                    jobId := w.jobId, jobGen := w.jobGen, opTag := w.opTag
                    detail := gddrDetail (q * 4 + sec) 0 0xFF w.source }, acc.2 ++ [sec])) (s, [])

/-- Sectors of the bytes `off` to `off + n - 1` of a unit. -/
def secsOf (off n : Nat) : List Nat := if n = 0 then [] else (List.range 4).filter (fun k => k * 64 < off + n && off < (k + 1) * 64)

/-- Sectors that a write covers only in part. -/
def partSecs (off n : Nat) : List Nat := (secsOf off n).filter (fun k => !(off ≤ k * 64 && (k + 1) * 64 ≤ off + n))

/-- The combining image of a sector, [] while it is not combining (R266). -/
def Channel.image (c : Channel) (q sec : Nat) : List Byte := c.combining.get (q * 4 + sec)

/-- Sectors that are not combining. -/
def Channel.plain (c : Channel) (q : Nat) (secs : List Nat) : List Nat := secs.filter (fun k => (c.image q k).isEmpty)

/-! ### Squall guard: counting (R265, R268) -/

/-- Requests to a sector within the last 1 us. -/
def Channel.recent (c : Channel) (key now : Nat) : List Nat := (c.tracker.get key).filter (fun t => now < t + 1000)

/-- A request to a sector is counted; the 65th within 1 us enters combining (R265, R268). -/
def State.squallCount (s : State) (ch q sec : Nat) (npa : Nat) (w : Who) : State :=
  let key := q * 4 + sec
  let c := s.chan ch
  let live := c.tracker.filter (fun e => e.2.any (fun t => s.t < t + 1000))
  if !(live.any (fun e => e.1 == key)) && 1024 ≤ live.length then s else
  let times := s.t :: c.recent key s.t
  let s1 := s.updChan ch (fun c => { c with tracker := Tab.set live key times })
  if times.length < 65 ∨ ¬ (c.image q sec).isEmpty then s1
  else if 256 ≤ c.combining.length then s1.updChan ch (fun c => { c with squallFull := true })
  else
    let pu := c.spared q
    let j := s1.gddrJudge ch pu q npa [sec] { w with source := 3 }
    if !j.2.isEmpty then j.1
    else j.1.updChan ch (fun c => { c with combining := c.combining.set key (c.mem.readN (pu * 256 + sec * 64) 64) })

/-- A request meets a unit: each sector it touches counts it, unless the channel is lost. -/
def State.countUnit (s : State) (a n : Nat) (w : Who) : State :=
  let p := s.steer (a / 256)
  if (s.chan p.1).lostNow then s else (secsOf (a % 256) n).foldl (fun s k => s.squallCount p.1 p.2 k (a / 256 * 256) w) s

/-- Read bytes of one unit of NPA space 0x0: status and bytes. A combining sector reads as its image (R266). -/
def State.unitRead (s : State) (a n : Nat) (w : Who) : State × Byte × List Byte :=
  let u := a / 256
  let p := s.steer u
  let c := s.chan p.1
  if c.lostNow then (s, stMemUnc, []) else
  let pu := c.spared p.2
  let j := s.gddrJudge p.1 pu p.2 (u * 256) (c.plain p.2 (secsOf (a % 256) n)) w
  let raw := (j.1.chan p.1).mem.readN (pu * 256 + a % 256) n
  (j.1, if j.2.isEmpty then stDone else stMemUnc,
   if c.combining.isEmpty then raw else
   (List.range n).map (fun i => let o := a % 256 + i
                                match (c.image p.2 (o / 64))[o % 64]? with
                                | some b => b
                                | none => raw.getD i 0))

/-- Write bytes of one unit of NPA space 0x0: sectors written whole are replaced, sectors written in part are judged,
and an uncorrectable one stays as it is (R262). A combining sector takes the bytes into its image (R266). A unit in
background copy logs the bytes in the shadow (R272). -/
def State.unitWrite (s : State) (a : Nat) (bs : List Byte) (w : Who) : State × Byte :=
  let u := a / 256
  let p := s.steer u
  let c := s.chan p.1
  if c.lostNow then (s, stMemUnc) else
  let pu := c.spared p.2
  let off := a % 256
  let j := s.gddrJudge p.1 pu p.2 (u * 256) (c.plain p.2 (partSecs off bs.length)) w
  let l := ((List.range bs.length).zip bs).filter (fun x => !j.2.contains ((off + x.1) / 64))
  let whole := c.plain p.2 ((secsOf off bs.length).filter (fun k => off ≤ k * 64 && (k + 1) * 64 ≤ off + bs.length))
  (j.1.updChan p.1 (fun c => { c with
      mem := l.foldl (fun m x => if (c.image p.2 ((off + x.1) / 64)).isEmpty then m.write (pu * 256 + off + x.1) x.2 else m) c.mem
      combining := if c.combining.isEmpty then c.combining else
        l.foldl (fun t x => let k := p.2 * 4 + (off + x.1) / 64
                            if (t.get k).isEmpty then t else t.upd k (fun im => im.set ((off + x.1) % 64) x.2)) c.combining
      secErr := whole.foldl (fun t k => Channel.putErrs t p.2 pu k []) c.secErr
      shadow := if c.state = 3 ∧ ¬ c.draining ∧ ¬ c.migLost ∧ p.2 = c.pointer.toNat
                then c.shadow ++ l.map (fun x => (off + x.1, x.2)) else c.shadow }),
   if j.2.isEmpty then stDone else stMemUnc)

/-- A read request of one unit, counted by the squall guard. -/
def State.gddrReadUnit (s : State) (a n : Nat) (w : Who) : State × Byte × List Byte := (s.countUnit a n w).unitRead a n w

/-- A write request of one unit, counted by the squall guard. -/
def State.gddrWriteUnit (s : State) (a : Nat) (bs : List Byte) (w : Who) : State × Byte := (s.countUnit a bs.length w).unitWrite a bs w

/-- Cut `n` bytes from `a` at 256-byte units: (address, length) pieces. -/
def unitPieces (a n : Nat) : List (Nat × Nat) :=
  if n = 0 then [] else
  (List.range ((a + n - 1) / 256 - a / 256 + 1)).map (fun i =>
    let lo := if i = 0 then a else (a / 256 + i) * 256
    let hi := Nat.min (a + n) ((a / 256 + i + 1) * 256)
    (lo, hi - lo))

/-- Read bytes of NPA space 0x0. -/
def State.gddrRead (s : State) (a n : Nat) (w : Who) : State × Byte × List Byte :=
  (unitPieces a n).foldl (fun (acc : State × Byte × List Byte) p =>
    let r := acc.1.gddrReadUnit p.1 p.2 w
    (r.1, worse acc.2.1 r.2.1, acc.2.2 ++ padTo p.2 r.2.2)) (s, stDone, [])

/-- Write bytes of NPA space 0x0. -/
def State.gddrWrite (s : State) (a : Nat) (bs : List Byte) (w : Who) : State × Byte :=
  (unitPieces a bs.length).foldl (fun (acc : State × Byte) p =>
    let r := acc.1.gddrWriteUnit p.1 (slice bs (p.1 - a) p.2) w
    (r.1, worse acc.2 r.2)) (s, stDone)

/-- Symbol errors that a command names strike sectors by their NPA before the step reads them. -/
def State.gddrStrike (s : State) (errs : List (Nat × SymErr)) : State :=
  errs.foldl (fun s e =>
    let p := s.steer (e.1 / 256)
    s.updChan p.1 (fun c => { c with secErr := c.secErr.upd (c.spared p.2 * 4 + e.1 % 256 / 64) (fun l => addSymErrs l [e.2]) })) s

/-! ### Processor-die SRAM (R491) -/

/-- One byte of the SRAM ways: a byte nothing has written since power-on is undefined (log 6). -/
def Px.sramRead (p : Px) (a : Nat) : Byte :=
  match p.sram.find? (fun c => c.1 == a) with
  | some c => c.2
  | none => Config.sramByte p.sramGen a

/-- Write one byte of the SRAM ways. -/
def Px.sramWrite (p : Px) (a : Nat) (b : Byte) : Px := { p with sram := Tab.ins a b (Tab.erase p.sram a) }

/-- Bytes of the service cores' private SRAM, undefined until written (log 53). -/
def Px.serviceRead (p : Px) (a : Nat) : Byte :=
  match p.service.find? (fun c => c.1 == a) with
  | some c => c.2
  | none => Config.sramByte p.sramGen (2 ^ 32 + a)

def Px.serviceWrite (p : Px) (a : Nat) (b : Byte) : Px := { p with service := Tab.ins a b (Tab.erase p.service a) }

/-- SRAM words are read: an error of one bit is corrected and counted, one of more is logged (R493). The words that cannot be read. -/
def State.sramJudge (s : State) (words : List Nat) (w : Who) : State × List Nat :=
  words.foldl (fun (acc : State × List Nat) i =>
    match s.px.sramErr.get i with
    | 0 => acc
    | 1 => ({ acc.1 with px := { acc.1.px with sramErr := acc.1.px.sramErr.erase i, corrected := satInc acc.1.px.corrected } }, acc.2)
    | _ => (acc.1.hand { unit := pxUnit 2 (8 * i / 0xC00000), cls := 0x02, severity := 2, addrKind := 1, status := stMemUnc
                         address := BitVec.ofNat 64 (3 * 2 ^ 48 + 8 * i), jobId := w.jobId, jobGen := w.jobGen, opTag := w.opTag }, acc.2 ++ [i])) (s, [])

/-- 8-byte words that a range touches, and those of them it covers only in part. -/
def wordsAt (a n : Nat) : List Nat := (List.range ((a + n + 7) / 8 - a / 8)).map (a / 8 + ·)
def wordsPart (a n : Nat) : List Nat := (wordsAt a n).filter (fun w => 8 * w < a || a + n < 8 * w + 8)

/-- Read bytes of the SRAM ways by their offset in NPA space 0x3: whether every word could be read, and the bytes (R491, R493). -/
def State.sramGet (s : State) (off n : Nat) (w : Who) : State × Bool × List Byte :=
  let j := s.sramJudge (wordsAt off n) w
  (j.1, j.2.isEmpty, (List.range n).map (fun i => s.px.sramRead (off + i)))

/-! ### Regions (R29, R30, R87) -/

/-- The kind of access a region must permit. -/
inductive Perm where
  | r | w | a
deriving DecidableEq, Repr, Inhabited

def Region.permits (g : Region) : Perm → Bool
  | .r => g.permR
  | .w => g.permW
  | .a => g.permA

def Region.covers (g : Region) (a n : Nat) (p : Perm) : Bool :=
  g.valid && g.base.toNat ≤ a && a + n ≤ g.limit.toNat && g.permits p

/-- The core and offset an offset in NPA space 0x1 names (R29, R207). -/
def State.rsTarget (s : State) (off : Nat) : Option (CoreId × Nat) :=
  if off < 0x800000000 then
    if off / 0x20000 < 2 ^ 17 ∧ off / 0x20000 % 2 ^ 15 < 20480 then (s.phys (off / 0x20000)).map (fun c => (c, off % 0x20000)) else none
  else
    let x := (off - 0x800000000) / 0x400000
    if x < 256 then
      (s.physIdx ⟨x / 64 % 4, Nat.mod_lt _ (by decide)⟩ (20480 + x % 64)).map (fun c => (c, (off - 0x800000000) % 0x400000))
    else none

/-- The bytes lie in the core's own resident-store slice. -/
def State.ownSlice (s : State) (c : CoreId) (npa n : Nat) : Bool :=
  npa / 2 ^ 48 == 1 && (match s.rsTarget (npa % 2 ^ 48) with
    | some (d, off) => d == c && off + n ≤ rsSize c
    | none => false)

/-- Every byte of an extent of NPA space 0x1 lies in a resident store (R29, R30): each slice of 0x20000 bytes it touches is one of
some core's. -/
def State.rsNames (s : State) (off n : Nat) : Bool :=
  (s.rsTarget off).isSome && (List.range ((off + n - 1) / 0x20000 - off / 0x20000)).all (fun i => (s.rsTarget ((off / 0x20000 + i + 1) * 0x20000)).isSome)

/-- The local region check of an NPA access (R87, R627), with bank readiness (R204); every byte lies in the one space (R30). DESIGN CHOICE (log 44): a GDDR offset at or
beyond the usable capacity, which R29 excludes and R30 does not list, passes where a region entry covers it, and reaches the
channels' reserve units. -/
def State.regionOk (s : State) (c : CoreId) (npa n : Nat) (p : Perm) : Bool :=
  let k := s.core c
  if 2 ^ 48 < npa % 2 ^ 48 + n then false else
  match npa / 2 ^ 48 with
  | 2 => npa % 2 ^ 48 + n ≤ wsSize c && k.banksReady c (npa % 2 ^ 48) n
  | 8 => !k.jobValid && npa % 8 == 0 && n % 8 == 0
  | sp => if s.ownSlice c npa n then true
          else (sp == 0 || sp == 1 || sp == 3) && (k.regions.map (·.2)).any (fun g => g.covers npa n p)
            && (sp != 1 || s.rsNames (npa % 2 ^ 48) n)

end Sys2Proof.Machine
end

