-- ==== Sys2Proof/Machine/Operands.lean ====
section
/-! DEFINITION. Descriptors as operands: the header (R72) and the bodies of the four engines, which of them EISS
refuses as illegal (R70 and the engines' own rules), the regions they fix, and the work they count for admission. -/

namespace Sys2Proof.Machine

/-- A latched descriptor: its bytes. -/
abbrev Desc := List Byte

/-- The descriptor an entry latched (R71). -/
def Entry.d (e : Entry) : Desc := e.desc

/-! ### Header (R72) -/

def Desc.engine (d : Desc) : Nat := fieldAt d 0 1
def Desc.opcode (d : Desc) : Nat := fieldAt d 1 1
def Desc.len (d : Desc) : Nat := fieldAt d 2 1
def Desc.afterValid (d : Desc) : Bool := bitAt (fieldAt d 3 1) 0
def Desc.sumEn (d : Desc) : Bool := bitAt (fieldAt d 3 1) 1
def Desc.sumSlot (d : Desc) : Nat := bitsAt (fieldAt d 3 1) 2 3
def Desc.opTag (d : Desc) : BitVec 32 := BitVec.ofNat 32 (fieldAt d 4 4)
def Desc.afterEntry (d : Desc) : Nat := fieldAt d 8 1 % 64
def Desc.mode (d : Desc) : Nat := fieldAt d 9 1 % 8
def Desc.ieeeOvf (d : Desc) : Bool := bitAt (fieldAt d 9 1) 3
def Desc.nanTrap (d : Desc) : Bool := bitAt (fieldAt d 9 1) 4
def Desc.srBits (d : Desc) : Nat := fieldAt d 10 1
def Desc.credGddr (d : Desc) : Nat := fieldAt d 12 2
def Desc.credRemote (d : Desc) : Nat := fieldAt d 14 2
def Desc.credRes (d : Desc) : Nat := fieldAt d 16 2
def Desc.tensorId (d : Desc) : BitVec 32 := BitVec.ofNat 32 (fieldAt d 20 4)
def Desc.recordAddr (d : Desc) : Nat := fieldAt d 24 8

/-- An extent of NPA space that a descriptor fixes. -/
structure Extent where
  npa : Nat
  len : Nat
  perm : Perm
deriving DecidableEq, Repr, Inhabited

/-- An extent, and whether it names nothing (R30): a mesh target outside every store. -/
structure Claim where
  ext : Extent
  dead : Bool := false
deriving DecidableEq, Repr, Inhabited

/-- 512-byte rows that an extent touches. -/
def rowSpan (a n : Nat) : Nat := if n = 0 then 0 else (a + n - 1) / 512 - a / 512 + 1

/-- Segments cut at the ends of 512-byte rows. -/
def rowParts (segs : List (Nat × Nat)) : List (Nat × Nat) :=
  segs.flatMap (fun p => (List.range (rowSpan p.1 p.2)).map (fun i =>
    let a := Nat.max p.1 ((p.1 / 512 + i) * 512)
    (a, Nat.min (p.1 + p.2) ((p.1 / 512 + i + 1) * 512) - a)))

/-- Row numbers of (address, length) segments, each once. -/
def rowsOfSegs (segs : List (Nat × Nat)) : List Nat := ((rowParts segs).map (·.1 / 512)).eraseDups

/-- The cut of an extent of space 0x1 at the ends of general cores' slices. -/
def slicePieces (off n : Nat) : List (Nat × Nat) :=
  if n = 0 then [] else
  (List.range ((off + n - 1) / 0x20000 - off / 0x20000 + 1)).map (fun i =>
    let a := Nat.max off ((off / 0x20000 + i) * 0x20000)
    (a, Nat.min (off + n) ((off / 0x20000 + i + 1) * 0x20000) - a))

/-- Accesses to grid partitions of the working store (R200, R201): in each 4 KiB block, the fewer of the block rows and the block columns
that hold the bytes reached. DESIGN CHOICE (log 44): R201 does not say which of the two an access is counted by. -/
def gridUnits (parts : List (Nat × Nat)) : Nat :=
  let cells := parts.flatMap (fun p => (List.range ((p.1 + p.2 + 3) / 4 - p.1 / 4)).map (p.1 / 4 + ·))
  sumN (((cells.map (· / 1024)).eraseDups).map (fun b =>
    let q := cells.filter (fun a => a / 1024 == b)
    Nat.min ((q.map (· / 32)).eraseDups).length ((q.map (· % 32)).eraseDups).length))

/-! ### Matrix bodies (R110 to R113) -/

structure MxBody where
  acc : Bool := false
  a : Nat := 0
  b : Nat := 0
  c : Nat := 0
  m : Nat := 0
  n : Nat := 0
  k : Nat := 0
  lda : Nat := 0
  ldb : Nat := 0
  ldc : Nat := 0
  aFmt : Nat := 0
  bFmt : Nat := 0
  cFmt : Nat := 0
  aT : Bool := false
  bT : Bool := false
  useAlpha : Bool := false
  aScale : Nat := 0
  bScale : Nat := 0
  alpha : Nat := 0
deriving DecidableEq, Repr, Inhabited

def Desc.mx (d : Desc) : MxBody :=
  { acc := d.opcode == 2, a := fieldAt d 0x20 8, b := fieldAt d 0x28 8, c := fieldAt d 0x30 8
    m := fieldAt d 0x38 2, n := fieldAt d 0x3A 2, k := fieldAt d 0x3C 4
    lda := fieldAt d 0x40 4, ldb := fieldAt d 0x44 4, ldc := fieldAt d 0x48 4
    aFmt := fieldAt d 0x4C 1, bFmt := fieldAt d 0x4D 1, cFmt := fieldAt d 0x4E 1
    aT := bitAt (fieldAt d 0x4F 1) 0, bT := bitAt (fieldAt d 0x4F 1) 1, useAlpha := bitAt (fieldAt d 0x4F 1) 2
    aScale := fieldAt d 0x50 8, bScale := fieldAt d 0x58 8, alpha := fieldAt d 0x60 4 }

def MxBody.wide (x : MxBody) : Bool := x.aFmt == 1 || x.aFmt == 2 || x.bFmt == 1 || x.bFmt == 2

/-- `c_fmt` values that a pair of operand formats allows, and the one of gemm_acc (R112); none: not admitted. -/
def mxCombo (a b : Nat) : Option (List Nat × Nat) :=
  let narrow := [2, 3, 4, 5, 6]
  if (a = 5 ∨ a = 6) ∧ (b = 5 ∨ b = 6) then some (narrow, 2)
  else if (a = 0x10 ∨ a = 0x11) ∧ (b = 0x10 ∨ b = 0x11) then some (narrow, 2)
  else if (a = 0x12 ∨ a = 0x13) ∧ (b = 0x12 ∨ b = 0x13) then some (narrow, 2)
  else if a ≠ b then none
  else if a = 7 ∨ a = 0x14 then some (narrow, 2)
  else if a = 8 then some ([9], 9)
  else if a = 0x15 then some ([2, 3], 2)
  else if a = 3 ∨ a = 4 then some ([2, 3, 4], 2)
  else if a = 2 then some ([2], 2)
  else if a = 1 then some ([1], 1)
  else none

/-- Handshakes of one K group of one output tile (R102). -/
def hGroup (fmt : Nat) : Nat :=
  match fmt with
  | 7 | 0x14 => 32
  | 3 | 4 => 128
  | 2 => 1024
  | 1 => 2048
  | _ => 64

/-- Bytes of a stored row of A or B. -/
def mxRowBytes (fmt cols : Nat) : Nat := elemBytes fmt cols

/-- Segments of A or B that one tile pass reads: `r0`, `rn` the rows of the operand's output side, `k0`, `kn` its K range. -/
def mxSegs (base ld fmt : Nat) (tr : Bool) (r0 rn k0 kn : Nat) : List (Nat × Nat) :=
  let b := elemBits fmt
  if tr then (List.range kn).map (fun i => (base + (k0 + i) * ld + r0 * b / 8, (rn * b + 7) / 8))
  else (List.range rn).map (fun i => (base + (r0 + i) * ld + k0 * b / 8, (kn * b + 7) / 8))

def MxBody.tilesM (x : MxBody) : Nat := ceilDiv x.m 16
def MxBody.tilesN (x : MxBody) : Nat := ceilDiv x.n 16
def MxBody.groups (x : MxBody) : Nat := ceilDiv x.k 32
def MxBody.passes (x : MxBody) : Nat := ceilDiv x.groups 8

/-- Segments of A that a pass of tile row `ti` reads, and of B that a pass of tile column `tj` reads. A is stored by
rows of M (transposed: rows of K); B by rows of K (transposed: rows of N). -/
def MxBody.aSegs (x : MxBody) (ti p : Nat) : List (Nat × Nat) :=
  mxSegs x.a x.lda x.aFmt x.aT (ti * 16) (Nat.min 16 (x.m - ti * 16)) (p * 256) (Nat.min 256 (x.k - p * 256))
def MxBody.bSegs (x : MxBody) (tj p : Nat) : List (Nat × Nat) :=
  mxSegs x.b x.ldb x.bFmt (!x.bT) (tj * 16) (Nat.min 16 (x.n - tj * 16)) (p * 256) (Nat.min 256 (x.k - p * 256))
/-- Segments of scale bytes that a pass reads, one per row of the operand (R106, R111). -/
def mxScaleSegs (base groups r0 rn p : Nat) : List (Nat × Nat) :=
  (List.range rn).map (fun i => (base + (r0 + i) * groups + p * 8, Nat.min 8 (groups - p * 8)))
/-- Scale bytes of A, and of B, that a pass reads; none without an MX format. -/
def MxBody.aScaleSegs (x : MxBody) (ti p : Nat) : List (Nat × Nat) :=
  if isMx x.aFmt then mxScaleSegs x.aScale x.groups (ti * 16) (Nat.min 16 (x.m - ti * 16)) p else []
def MxBody.bScaleSegs (x : MxBody) (tj p : Nat) : List (Nat × Nat) :=
  if isMx x.bFmt then mxScaleSegs x.bScale x.groups (tj * 16) (Nat.min 16 (x.n - tj * 16)) p else []
def MxBody.cSegs (x : MxBody) : List (Nat × Nat) :=
  (List.range x.m).map (fun i => (x.c + i * x.ldc, elemBytes x.cFmt x.n))

def MxBody.extents (x : MxBody) : List Extent :=
  let ar := if x.aT then x.k else x.m
  let ac := if x.aT then x.m else x.k
  let br := if x.bT then x.n else x.k
  let bc := if x.bT then x.k else x.n
  [⟨x.a, (ar - 1) * x.lda + mxRowBytes x.aFmt ac, .r⟩, ⟨x.b, (br - 1) * x.ldb + mxRowBytes x.bFmt bc, .r⟩,
   ⟨x.c, (x.m - 1) * x.ldc + elemBytes x.cFmt x.n, .w⟩]
  ++ (if isMx x.aFmt then [⟨x.aScale, x.m * x.groups, .r⟩] else [])
  ++ (if isMx x.bFmt then [⟨x.bScale, x.n * x.groups, .r⟩] else [])

/-! ### Vector bodies (R127 to R145) -/

structure VxBody where
  op : Nat := 0
  in0 : Nat := 0
  in1 : Nat := 0
  in2 : Nat := 0
  out : Nat := 0
  n : Nat := 0
  f0 : Nat := 0
  f1 : Nat := 0
  f2 : Nat := 0
  fo : Nat := 0
  sumKind : Nat := 0
  mode : Nat := 0
  aux : Nat := 0
  nAux : Nat := 0
  auxAddr : Nat := 0
deriving DecidableEq, Repr, Inhabited

def Desc.vx (d : Desc) : VxBody :=
  { op := d.opcode, in0 := fieldAt d 0x20 8, in1 := fieldAt d 0x28 8, in2 := fieldAt d 0x30 8, out := fieldAt d 0x38 8
    n := fieldAt d 0x40 4, f0 := fieldAt d 0x44 1, f1 := fieldAt d 0x45 1, f2 := fieldAt d 0x46 1, fo := fieldAt d 0x47 1
    sumKind := fieldAt d 0x48 1, mode := fieldAt d 0x49 1, aux := fieldAt d 0x4A 2, nAux := fieldAt d 0x4C 4
    auxAddr := fieldAt d 0x50 8 }

def VxBody.inAddr (x : VxBody) (i : Nat) : Nat := if i = 0 then x.in0 else if i = 1 then x.in1 else x.in2
def VxBody.inFmt (x : VxBody) (i : Nat) : Nat := if i = 0 then x.f0 else if i = 1 then x.f1 else x.f2

/-- One chain stage word (R132). -/
structure Stage where
  kind : Nat := 0
  a : Nat := 0
  b : Nat := 0
  c : Nat := 0
  wfmt : Nat := 0
  imm : Nat := 0
deriving DecidableEq, Repr, Inhabited

def stageOf (w : Nat) : Stage :=
  { kind := bitsAt w 0 6, a := bitsAt w 6 4, b := bitsAt w 10 4, c := bitsAt w 14 4, wfmt := bitsAt w 18 2, imm := bitsAt w 24 8 }

/-- The stages before the first `end` (R133, R134). -/
def Desc.stages (d : Desc) : List Stage :=
  ((List.range 8).map (fun i => stageOf (fieldAt d (0x60 + 4 * i) 4))).takeWhile (fun st => st.kind != 0)

/-- Operands that a stage kind reads (R134). -/
def Stage.reads (st : Stage) : List Nat :=
  match st.kind with
  | 1 | 8 | 9 | 0xA | 0xE | 0xF => [st.a]
  | 2 | 3 | 4 | 6 | 7 | 0xB | 0xC => [st.a, st.b]
  | 5 | 0xD => [st.a, st.b, st.c]
  | _ => []

/-- A stage that EISS refuses (R132 to R134), `i` its index. -/
def Stage.bad (x : VxBody) (i : Nat) (st : Stage) : Bool :=
  st.kind > 0xF || st.wfmt == 3 ||
  (st.kind == 1 && !(1 ≤ st.imm && st.imm ≤ 9)) ||
  st.reads.any (fun v =>
    v == 3 || v == 15 || (v == 1 && x.in1 == 0) || (v == 2 && x.in2 == 0) || (8 ≤ v && i ≤ v - 8) ||
    (st.kind == 0xF && !(v < 3 && isSbi (x.inFmt v))) || (st.kind != 0xF && v < 3 && isSbi (x.inFmt v)))

/-- One carve instruction word (R138). -/
structure Carve where
  op : Nat := 0
  vd : Nat := 0
  va : Nat := 0
  vb : Nat := 0
  vc : Nat := 0
  imm : Nat := 0
deriving DecidableEq, Repr, Inhabited

def carveOf (w : Nat) : Carve :=
  { op := bitsAt w 0 6, vd := bitsAt w 6 4, va := bitsAt w 10 4, vb := bitsAt w 14 4, vc := bitsAt w 18 4, imm := bitsAt w 26 6 }

def Desc.carve (d : Desc) : List Carve :=
  (List.range (fieldAt d 0x4C 4)).map (fun i => carveOf (fieldAt d (0x80 + 4 * i) 4))

/-- Elements per lane of a carve lane type (R136). -/
def lanePack (ty : Nat) : Nat :=
  match ty with
  | 3 | 4 => 2
  | 5 | 6 | 7 => 4
  | _ => 1

/-- Registers that a carve operation names. -/
def Carve.regs (w : Carve) : List Nat :=
  match w.op with
  | 0 => []
  | 4 | 0xC => [w.vd, w.va, w.vb, w.vc]
  | 1 | 2 | 3 | 5 | 6 | 9 | 0xA | 0xB | 0xD | 0xE | 0xF => [w.vd, w.va, w.vb]
  | 0x14 => [w.vd]
  | _ => [w.vd, w.va]

/-- A carve instruction that is illegal (R139): an unlisted `op`, an odd register in FP64, a `cvt` between lane types
of different `pack`; a `cvt` to FP64 writes a pair, so its destination is even too. -/
def Carve.bad (ty : Nat) (w : Carve) : Bool :=
  w.op > 0x16 || (ty == 2 && w.regs.any (fun r => r % 2 == 1)) ||
  (w.op == 0x13 && (lanePack (w.imm % 8) != lanePack ty || (w.imm % 8 == 2 && w.vd % 2 == 1)))

/-- `cost` of a carve program (R138). -/
def carveCost (ty : Nat) (p : List Carve) : Nat :=
  sumN (p.map (fun w => if ty = 2 ∧ (w.op = 3 ∨ w.op = 4) then 4 else 1))

def isPow2 (n : Nat) : Bool := n != 0 && 2 ^ Nat.log2 n == n

/-- Record length in elements of a record opcode. -/
def VxBody.recLen (x : VxBody) : Nat := x.aux
/-- Bytes that a record of `gather` or `scatter` touches: a record of one FP4 element lies in half a byte. -/
def VxBody.recBytes (x : VxBody) : Nat := ceilDiv (x.aux * elemBits x.f0) 8

/-- A field combination of a vector body that EISS refuses (R127 to R147, R157, R163, R167, R659). DESIGN CHOICE (log 44): the two runs of
a `set_op`, whose keys are compared with each other, name one key type; `sort32` takes no format field for its 32-bit payload of input 1, so
that one which names UINT32 there is refused like any other. -/
def Desc.vxBad (d : Desc) : Bool :=
  let x := d.vx
  let ty := x.mode % 8
  let fs := [x.f0, x.f1, x.f2, x.fo]
  let u32ok := x.op == 3 || x.op == 4 || x.op == 6 || x.op == 7 || x.op == 8
  let sbiOk := (x.op == 1) || (x.op == 9)
  !(1 ≤ x.op && x.op ≤ 9)
  || d.len != (if x.op = 1 then 5 else if x.op = 2 then (0x80 + 4 * x.nAux + 31) / 32 else 3)
  || !(1 ≤ x.n && x.n ≤ 16777215)
  || fs.any (fun f => (elemOf f).isNone)
  || (!u32ok && fs.any (· == 0xA))
  || (u32ok && (x.f0 == 0xA || x.fo == 0xA) && x.f0 != x.fo)
  || x.f2 == 0xA || (x.f1 == 0xA && x.op != 7)
  || isMx x.f1 || isMx x.f2 || ((isMx x.f0 || isMx x.fo) && !(x.op == 1 || x.op == 2))
  || (!sbiOk && fs.any isSbi)
  || (d.sumEn && !(x.sumKind ≤ 7 || (x.sumKind == 8 && x.op == 8)))
  || (match x.op with
      | 1 =>
        let st := d.stages
        st.isEmpty || (st.zipIdx).any (fun p => p.1.bad x p.2)
          || (isSbi x.fo && (match st.getLast? with | some l => l.kind != 0xE | none => true))
      | 2 => !(1 ≤ x.nAux && x.nAux ≤ 64) || d.carve.any (Carve.bad ty)
      | 3 | 4 => !isPow2 x.aux || x.recBytes > 512 || x.in0 * 8 % (x.aux * elemBits x.f0) != 0
          || (x.op == 4 && x.out * 8 % (x.aux * elemBits x.fo) != 0)
      | 5 => x.mode > 2 || x.f0 == 0xA
      | 6 => !(x.f0 == 2 || x.f0 == 9 || x.f0 == 0xA)
      | 7 => x.mode > 3 || !(x.f0 == 2 || x.f0 == 9 || x.f0 == 0xA) || x.f1 != x.f0
      | 8 => !(1 ≤ x.aux && x.aux ≤ 16) || x.f0 != 0xA || x.fo != 0xA
      | 9 => !isPow2 x.aux || x.aux > 64 || x.f0 != 0x20 || x.fo != 0x21
      | _ => true)

/-- Where the header area of an SBI tensor starts: the first row boundary at or after the end of its elements (R166). -/
def sbiHead (base w blocks : Nat) : Nat := ceilDiv (base + blocks * 8 * w) 512 * 512

/-- Bytes of an SBI tensor of `blocks` blocks at `base` (R166). -/
def sbiBytes (base w blocks : Nat) : Nat := sbiHead base w blocks + 2 * blocks - base

/-- Bytes of a stream of `n` elements at `base`. -/
def streamBytes (base fmt n : Nat) : Nat :=
  if isSbi fmt then sbiBytes base (elemBits fmt) (ceilDiv n 64)
  else if isMx fmt then ceilDiv n 32 * (32 * elemBits fmt / 8) else elemBytes fmt n

/-- Extents that a vector descriptor fixes (R88, R126). -/
def Desc.vxExtents (d : Desc) : List Extent :=
  let x := d.vx
  match x.op with
  | 1 | 2 =>
    [⟨x.in0, streamBytes x.in0 x.f0 x.n, .r⟩]
      ++ (if x.in1 = 0 then [] else [⟨x.in1, streamBytes x.in1 x.f1 x.n, .r⟩])
      ++ (if x.in2 = 0 ∧ ¬ isMx x.f0 then [] else [⟨x.in2, if isMx x.f0 then ceilDiv x.n 32 else streamBytes x.in2 x.f2 x.n, .r⟩])
      ++ [⟨x.out, streamBytes x.out x.fo x.n, .w⟩] ++ (if isMx x.fo then [⟨x.auxAddr, ceilDiv x.n 32, .w⟩] else [])
  | 3 => [⟨x.auxAddr, 4 * x.nAux, .r⟩, ⟨x.out, elemBytes x.fo (x.nAux * x.recLen), .w⟩]
  | 4 => [⟨x.auxAddr, 4 * x.nAux, .r⟩, ⟨x.in0, elemBytes x.f0 (x.nAux * x.recLen), .r⟩]
  | 5 => [⟨x.in0, elemBytes x.f0 x.n, .r⟩, ⟨x.auxAddr, 4 * (x.nAux + 1), .r⟩, ⟨x.out, elemBytes x.fo x.nAux, .w⟩]
  | 6 => [⟨x.in0, 4 * x.n, .r⟩, ⟨x.out, elemBytes x.fo x.n + (if x.in1 = 0 then 0 else 4 * x.n), .w⟩]
      ++ (if x.in1 = 0 then [] else [⟨x.in1, 4 * x.n, .r⟩])
  | 7 => [⟨x.in0, 4 * x.n, .r⟩, ⟨x.in1, 4 * x.nAux, .r⟩]
      ++ (if x.mode = 3 then [⟨x.out, elemBytes x.fo (x.n + x.nAux), .w⟩] else [])
  | 8 => [⟨x.in0, 4 * x.n, .r⟩, ⟨x.auxAddr, 128 * 2 ^ x.aux, .r⟩, ⟨x.out, 4 * x.n, .w⟩]
  | _ => [⟨x.in0, sbiBytes x.in0 32 (ceilDiv (x.nAux * x.recLen) 64), .r⟩, ⟨x.auxAddr, 4 * x.nAux, .r⟩, ⟨x.out, sbiBytes x.out 64 (ceilDiv x.n 64), .w⟩]

/-- Index entries, or consumed elements, of one vector tile (R129). -/
def VxBody.tileEntries (x : VxBody) : Nat :=
  match x.op with
  | 3 | 4 | 9 => Nat.max 1 (256 / x.recLen)
  | _ => 256

/-- Compute count of `n` elements or entries, without the re-execution allowance (R128). -/
def Desc.vxCount (d : Desc) (n nAux : Nat) : Nat :=
  let x := d.vx
  match x.op with
  | 1 => ceilDiv n (if d.stages.any (fun st => st.wfmt == 1 && (st.kind == 4 || st.kind == 5)) then 4 else 16)
  | 2 => ceilDiv n (16 * lanePack (x.mode % 8)) * carveCost (x.mode % 8) d.carve
  | 3 | 4 => nAux * ceilDiv x.recLen 16
  | 5 => ceilDiv n 16 + 5 * nAux
  | 6 => 15 * ceilDiv n 32
  | 7 => ceilDiv (n + nAux) 16 + 8
  | 8 => n
  | _ => nAux * (ceilDiv x.recLen 16 + 1)

/-- `tile_h`: the compute count of one full tile (R130). DESIGN CHOICE (log 48): of `seg_reduce`, with the segments of the operation, at
most 256. -/
def Desc.vxTileH (d : Desc) : Nat :=
  let x := d.vx
  match x.op with
  | 3 | 4 | 9 => d.vxCount 0 x.tileEntries
  | 5 => d.vxCount 256 (Nat.min x.nAux 256)
  | 7 => d.vxCount 256 0
  | _ => d.vxCount 256 0

/-! ### DMA bodies (R83, R84, R326 to R329) -/

structure DmaBody where
  src : Nat := 0
  dst : Nat := 0
  srcKind : Nat := 0
  dstKind : Nat := 0
  reqLog2 : Nat := 0
  length : Nat := 0
  count : Nat := 0
  srcStride : Nat := 0
  dstStride : Nat := 0
deriving DecidableEq, Repr, Inhabited

def Desc.dma (d : Desc) : DmaBody :=
  { src := fieldAt d 0x20 8, dst := fieldAt d 0x28 8, srcKind := fieldAt d 0x30 1, dstKind := fieldAt d 0x31 1
    reqLog2 := fieldAt d 0x32 1, length := fieldAt d 0x34 4, count := fieldAt d 0x38 4
    srcStride := fieldAt d 0x3C 4, dstStride := fieldAt d 0x40 4 }

def isFabKind (k : Nat) : Bool := k == 1 || k == 3

/-- Bytes of the next request of a row at offset `off`: it ends at the next multiple of 2^`req_log2` in the row, at the row's end,
or at a 512-byte boundary of a fabric address, whichever comes first (R83, R325). -/
def DmaBody.reqLen (x : DmaBody) (row off : Nat) : Nat :=
  let cut := fun (k a : Nat) => if isFabKind k then 512 - (a + off) % 512 else 512
  Nat.min (Nat.min (2 ^ x.reqLog2 - off % 2 ^ x.reqLog2) (x.length - off))
    (Nat.min (cut x.srcKind (x.src + row * x.srcStride)) (cut x.dstKind (x.dst + row * x.dstStride)))

/-- The requests of one row, (offset, length), from offset `off`. -/
def DmaBody.rowReqs (x : DmaBody) (row : Nat) : Nat → Nat → List (Nat × Nat)
  | 0, _ => []
  | f + 1, off => if x.length ≤ off then [] else
    let n := x.reqLen row off
    (off, n) :: DmaBody.rowReqs x row f (off + n)

/-- All requests: (source address, destination address, length) in issue order. -/
def DmaBody.reqs (x : DmaBody) : List (Nat × Nat × Nat) :=
  (List.range x.count).flatMap (fun row =>
    (x.rowReqs row x.length 0).map (fun p => (x.src + row * x.srcStride + p.1, x.dst + row * x.dstStride + p.1, p.2)))

/-- A fabric extent changes bits [63:48] across its rows (R326). -/
def fabExtentBad (a stride count len : Nat) : Bool := (a + (count - 1) * stride + len - 1) / 2 ^ 48 != a / 2 ^ 48

/-- A `copy` with a fabric address, or an atomic batch: the DMA operations that may send requests outside the package. -/
def Desc.mayGoOut (d : Desc) : Bool := d.opcode == 2 || isFabKind d.dma.srcKind || isFabKind d.dma.dstKind

/-- Where the bytes written to another core's working store stand among the bytes of an operation: above every NPA (R473). -/
def meshKey : Nat := 2 ^ 60

structure AtBody where
  list : Nat := 0
  ret : Nat := 0
  count : Nat := 0
deriving DecidableEq, Repr, Inhabited

def Desc.atb (d : Desc) : AtBody := { list := fieldAt d 0x20 8, ret := fieldAt d 0x28 8, count := fieldAt d 0x30 2 }

/-- One entry of an atomic batch (R327). -/
structure AtEntry where
  target : Nat := 0
  tkind : Nat := 0
  aop : Nat := 0
  atype : Nat := 0
  sizeLog2 : Nat := 0
  ret : Bool := false
  comparand : List Byte := []
  operand : List Byte := []
deriving DecidableEq, Repr, Inhabited

def atEntryOf (b : List Byte) : AtEntry :=
  { target := fieldAt b 0 8, tkind := fieldAt b 8 1, aop := fieldAt b 9 1, atype := fieldAt b 10 1, sizeLog2 := fieldAt b 11 1
    ret := bitAt (fieldAt b 12 1) 0, comparand := slice b 0x10 8, operand := slice b 0x20 64 }

/-- Entries of an atomic batch, its bytes given. -/
def batchOf (b : List Byte) : List AtEntry := (List.range (b.length / 128)).map (fun i => atEntryOf (slice b (128 * i) 128))

/-- The operand's bytes: half the group's for those types whose operand elements are half as wide (R328). -/
def AtEntry.opdBytes (e : AtEntry) : List Byte := slice e.operand 0 (if e.atype = 5 ∨ e.atype = 6 then 2 ^ e.sizeLog2 / 2 else 2 ^ e.sizeLog2)

/-- Combinations of aop, atype and size that R328 allows. -/
def atCombo (aop atype size : Nat) : Bool :=
  if aop ≤ 2 then atype ≤ (if aop = 0 then 6 else 4) && 3 ≤ size && size ≤ 6
  else if aop ≤ 4 then atype == 7 && (size == 2 || size == 3)
  else false

/-- An entry that ends its batch (R328). -/
def AtEntry.bad (e : AtEntry) (retAddr : Nat) : Bool :=
  !atCombo e.aop e.atype e.sizeLog2 || e.tkind > 1 || e.target % 2 ^ e.sizeLog2 != 0 || (e.ret && retAddr == 0)

/-! ### Solver bodies (R219 to R223) -/

structure SvBody where
  op : Nat := 0
  a : Nat := 0
  b : Nat := 0
  x : Nat := 0
  hist : Nat := 0
  work : Nat := 0
  signature : Nat := 0
  deadline : Nat := 0
  tValid : Nat := 0
  m : Nat := 0
  n : Nat := 0
  lda : Nat := 0
  iterCap : Nat := 0
  innerCap : Nat := 0
  tol : Nat := 0
  acceptTol : Nat := 0
  lambda0 : Nat := 0
  trans : Nat := 0
  transDim : Nat := 0
  shiftMode : Nat := 0
  flags : Nat := 0
  teamFirst : Nat := 0
  teamCount : Nat := 0
  teamOff : Nat := 0
deriving DecidableEq, Repr, Inhabited

def Desc.sv (d : Desc) : SvBody :=
  { op := d.opcode, a := fieldAt d 0x20 8, b := fieldAt d 0x28 8, x := fieldAt d 0x30 8, hist := fieldAt d 0x38 8
    work := fieldAt d 0x40 8, signature := fieldAt d 0x48 8, deadline := fieldAt d 0x50 8, tValid := fieldAt d 0x58 8
    m := fieldAt d 0x60 4, n := fieldAt d 0x64 4, lda := fieldAt d 0x68 4, iterCap := fieldAt d 0x6C 2
    innerCap := fieldAt d 0x6E 2, tol := fieldAt d 0x70 8, acceptTol := fieldAt d 0x78 8, lambda0 := fieldAt d 0x80 8
    trans := fieldAt d 0x88 8, transDim := fieldAt d 0x90 2, shiftMode := fieldAt d 0x92 1, flags := fieldAt d 0x93 1
    teamFirst := fieldAt d 0x94 2, teamCount := fieldAt d 0x96 2, teamOff := fieldAt d 0x98 4 }

def SvBody.fp32 (x : SvBody) : Bool := bitAt x.flags 0
def SvBody.optimistic (x : SvBody) : Bool := bitAt x.flags 1
def SvBody.warm (x : SvBody) : Bool := bitAt x.flags 2
def SvBody.keepHist (x : SvBody) : Bool := bitAt x.flags 3
def SvBody.iterative (x : SvBody) : Bool := x.op == 3 || x.op == 4 || x.op == 5

/-- The triangular factor lies in the workspace (R220). -/
def SvBody.worksInGddr (x : SvBody) : Bool := (x.op == 1 || x.op == 2) && x.n > 512

/-- A tolerance that is negative or NaN (R223). -/
def badTol (v : Nat) : Bool := (fp64.decode v).isNan || (fp64.decode v).lt FVal.zero

/-- A solver body that EISS refuses (R70, R219, R221 to R223): every field within the range that R222 gives it, whatever the opcode. -/
def Desc.svBad (d : Desc) : Bool :=
  let x := d.sv
  d.len != 5 || fieldAt d 9 1 != 0 || d.credRemote != 0 || d.credRes == 0
  || (match x.op with
      | 1 => !(x.n ≤ x.m && x.m ≤ 65536 && 1 ≤ x.n && x.n ≤ 2048)
      | 2 => !(1 ≤ x.n && x.n ≤ 4096)
      | 3 | 4 | 5 => !(x.m ≤ 98304 && x.n ≤ 65536)
      | 0x10 => !(x.n ≤ 65536)
      | _ => true)
  || (!(x.op == 1 || x.op == 2) && x.a != 0) || (!x.worksInGddr && x.work != 0)
  || x.iterCap == 0 || !(1 ≤ x.innerCap && x.innerCap ≤ 4096) || !(1 ≤ x.transDim && x.transDim ≤ 256)
  || badTol x.tol || badTol x.acceptTol || (fp64.decode x.acceptTol).lt (fp64.decode x.tol)
  || x.shiftMode > 2 || (x.shiftMode == 2 && x.n % x.transDim != 0)
  || x.flags ≥ 16 || x.teamFirst + x.teamCount > 1280 || x.teamFirst > 1279 || (x.iterative && x.teamCount == 0)
  || x.teamOff % 512 != 0 || fieldAt d 0x9C 4 != 0 || fieldAt d 11 1 != 0 || fieldAt d 18 2 != 0 || fieldAt d 3 1 ≥ 32 || fieldAt d 8 1 ≥ 64

/-- Rows of A or H (R222). -/
def SvBody.rowsA (x : SvBody) : List (Nat × Nat) := (List.range (if x.op = 1 then x.m else x.n)).map (fun i => (x.a + i * x.lda, 8 * x.n))

/-- What a solve reads as its problem (R219): A or H row by row, and the vector. -/
def SvBody.inputs (x : SvBody) : List (Nat × Nat) :=
  if x.op = 1 then x.rowsA ++ [(x.b, 8 * x.m)] else if x.op = 2 then x.rowsA ++ [(x.b, 8 * x.n)]
  else if x.iterative then [(x.b, 8 * x.m)] else []

/-- A, b and x of a solver descriptor, which lie in GDDR or in the core's slice (R220). -/
def Desc.svData (d : Desc) : List Extent :=
  let x := d.sv
  (if x.op = 1 then [⟨x.a, (x.m - 1) * x.lda + 8 * x.n, .r⟩, ⟨x.b, 8 * x.m, .r⟩]
   else if x.op = 2 then [⟨x.a, (x.n - 1) * x.lda + 8 * x.n, .r⟩, ⟨x.b, 8 * x.n, .r⟩]
   else if x.iterative then [⟨x.b, 8 * x.m, .r⟩] else []) ++ [⟨x.x, 8 * x.n, .w⟩]

/-- The history region, read and written (R240). -/
def Desc.svHist (d : Desc) : List Extent :=
  let n := 0x40 + 64 * ceilDiv (8 * d.sv.n) 64 + 8 * d.sv.n
  [⟨d.sv.hist, n, .w⟩, ⟨d.sv.hist, n, .r⟩]

/-- The workspace, which lies in GDDR (R220). -/
def Desc.svWork (d : Desc) : List Extent :=
  let n := 8 * d.sv.n * (d.sv.n + 1)
  if d.sv.worksInGddr then [⟨d.sv.work, n, .w⟩, ⟨d.sv.work, n, .r⟩] else []

/-- The transition matrix (R241). -/
def Desc.svTrans (d : Desc) : List Extent :=
  if d.sv.shiftMode = 2 then [⟨d.sv.trans, 8 * d.sv.transDim * d.sv.transDim, .r⟩] else []

/-! ### Handshakes and access bounds (R47 to R49, R312, R461) -/

/-- ceil(h / floor_rate) in nanoseconds, the rate in M handshakes/s. -/
def hsNs (h rate : Nat) : Nat := ceilDiv (h * 1000) rate

/-- The clockless part of an access bound at a floor rate (R49). -/
def clockless (ns rate : Nat) : Nat := ceilDiv (ns * 800) rate

/-- Access classes of admission. -/
inductive AccClass where
  | gddr | remote | mirror | res
deriving DecidableEq, Repr, Inhabited

/-- Access bound (R49, R312, R461, R271 while a channel migrates); `hop` 0 stands for direct links (R313). -/
def accessNs (k : AccClass) (rate hop : Nat) (migrating : Bool) : Nat :=
  match k with
  | .res => clockless 12 rate
  | .gddr => clockless 240 rate + 160 + (if migrating then 120 else 0)
  | .remote => clockless 600 rate + (if hop = 0 then 680 else 900 + 2 * hop)
  | .mirror => clockless 1200 rate + (if hop = 0 then 680 else 900 + 2 * hop) + 680

/-- Logical row and column of a core index (R22, R660). -/
def corePos (i : Nat) : Nat × Nat :=
  if i < 20480 then (i / 160, i % 160) else (8 * ((i - 20480) / 4) + 2 * ((i - 20480) % 4), 160)

def absDiff (a b : Nat) : Nat := (a - b) + (b - a)

/-- Armature traversals between compute dies (R27). -/
def dieHops (a b : Nat) : Nat := if a = b then 0 else if (a + 1) % 4 = b ∨ (b + 1) % 4 = a then 1 else 2

/-- Mesh hops of R660 and armature traversals between two logical core numbers. -/
def meshHops (s d : Nat) : Nat × Nat :=
  let ps := corePos (s % 2 ^ 15)
  let pd := corePos (d % 2 ^ 15)
  if s / 2 ^ 15 = d / 2 ^ 15 then (absDiff ps.1 pd.1 + absDiff ps.2 pd.2, 0)
  else (absDiff ps.1 64 + absDiff ps.2 80 + absDiff pd.1 64 + absDiff pd.2 80, dieHops (s / 2 ^ 15) (d / 2 ^ 15))

end Sys2Proof.Machine
end

