-- ==== Sys2Proof/Machine/Entry.lean ====
section
/-! DEFINITION. What the control unit and its operation table do with entries: writes through NPAs, the end of an
operation in one atomic change (R75, R76, R81), the return of credits (R73), delivery (R69, R82, R185, R473), the
waiting instructions, and taking a control-unit exception (R68). -/

namespace Sys2Proof.Machine

/-! ### The twin port and its frames (R452 to R454) -/

/-- The network settings of one sending sub-port (R541). -/
def State.ownAddr (s : State) (pl sub : Nat) : AddrEnt :=
  (s.boot.addrs.find? (fun e => e.plane.toNat == pl && e.port.toNat == sub / 4 && e.sub.toNat == sub % 4)).getD {}

/-- What stands around a frame to an address, by a WT_CFG and the sender's own address (R285, R286). -/
def Fabric.carriage (f : Fabric) (me : AddrEnt) (mac : BitVec 48) (ip : BitVec 128) (pathId : Nat) : Carriage :=
  { dstMac := mac, srcMac := me.mac
    tag := if f.vlanEn then some (BitVec.ofNat 16 (f.pcp.toNat * 8192 + f.vlanId.toNat)) else none
    etherType := if f.udpMode then 0x86DD else f.ethertype
    ip := if f.udpMode then some { src := me.ip6, dst := ip, trafficClass := BitVec.ofNat 8 (f.pcp.toNat * 32)
                                   udpSrc := BitVec.ofNat 16 (49152 + pathId), udpDst := f.udpPort } else none }

/-- The twin port of a plane (R452). -/
def State.twinPort (s : State) (pl : Nat) : Option Nat :=
  (List.range 12).find? (fun p => let x := (s.fab pl).ports.get p
                                  x.twin && x.mode != 0)

/-- The plane's twin link is up; with mode none the twin ports are off (R457). -/
def State.twinUp (s : State) (pl : Nat) : Bool :=
  s.twin.mode != 0 && (s.fab pl).alive && !s.cpc.stopped && (match s.twinPort pl with
    | some p => let x := (s.fab pl).ports.get p
                x.up.getLsbD 0 && !x.failed.getLsbD 0
    | none => false)

/-- The plane a frame without a plane of its own goes by. -/
def State.twinPlane (s : State) : Nat := if s.twinUp 0 ∨ ¬ s.twinUp 1 then 0 else 1

/-- The address of the twin's port on a plane, from the twin section of the image (R541). -/
def State.twinAddr (s : State) (pl : Nat) : BitVec 48 × BitVec 128 :=
  let e := (s.boot.twinAddrs.find? (fun e => e.plane.toNat == pl && some e.port.toNat == s.twinPort pl && e.sub == 0)).getD {}
  (e.mac, e.ip6)


/-- What stands around a twin frame on a plane: always Ethernet carriage, under the EtherType after `ethertype`. -/
def State.twinCarriage (s : State) (pl : Nat) : Carriage :=
  { (s.fab pl).carriage (s.ownAddr pl (4 * (s.twinPort pl).getD 0)) (s.twinAddr pl).1 0 0 with etherType := (s.fab pl).ethertype + 1, ip := none }

/-- The bytes of a twin frame's header and payload, which its CRC-32C covers. -/
def twinBody (f : TwinFrame) : List Byte :=
  [f.kind, f.plane, 0, 0] ++ beBytes 4 f.tseq.toNat ++ beBytes 4 f.tack.toNat ++ beBytes 2 f.length.toNat ++ [0, 0] ++ f.payload

/-- Send a twin frame on a plane; it stays unacknowledged until the twin's `tack` covers it. -/
def State.twinSend (s : State) (pl : Nat) (kind : Byte) (payload : List Byte) (answer : Option WtFrame := none) (aPl : Plane := 0) (aSub : Nat := 0) : State :=
  let seq := s.twin.tseqOut.get pl
  let f : TwinFrame := { etherType := (s.fab pl).ethertype + 1, kind := kind, plane := BitVec.ofNat 8 pl, tseq := seq, tack := s.twin.tseqIn.get pl
                         length := BitVec.ofNat 16 payload.length, payload := payload }
  let f : TwinFrame := { f with crc := crc32c (twinBody f) }
  let o : TwinOut := { plane := pl, frame := f, tSent := s.t, answer := answer, answerPl := aPl, answerSub := aSub }
  ({ s with twin := { s.twin with
      tseqOut := s.twin.tseqOut.set pl (seq + 1)
      out := s.twin.out ++ [o] } }).send (.twin pl (s.twinCarriage pl) f)

/-! ### The checksum of R365 and R473 -/

def pMersenne : Int := 2 ^ 61 - 1

/-- Σ (g + 1) × (x mod p) mod p over (g, x). -/
def checksum (l : List (Nat × Int)) : Nat :=
  (l.foldl (fun (acc : Int) e => (acc + ((e.1 : Int) + 1) * (e.2 % pMersenne)) % pMersenne) 0).toNat

/-- The 64-bit words of written bytes, aligned, in ascending address order (R473). -/
def castWords (w : List (Nat × Byte)) : List Int :=
  let m : Tab Byte := w.foldl (fun m x => Tab.ins x.1 x.2 (Tab.erase m x.1)) []
  ((m.map (·.1 / 8)).eraseDups).map (fun a =>
    toSigned 64 (leVal ((List.range 8).map (fun i => Tab.get m (a * 8 + i)))))

/-- C of an operation (R473): W words, then (W + 1) × status; a failed operation gives the status term only. -/
def castC (w : List (Nat × Byte)) (st : Byte) (ok : Bool) : Nat :=
  let ws := if ok then castWords w else []
  let c := checksum ((ws.zipIdx).map (fun p => (p.2, p.1)))
  ((c : Int) + ((ws.length : Int) + 1) * st.toNat).toNat % pMersenne.toNat

/-- The package is one of a Cast pair (R457). -/
def State.castMode (s : State) : Bool := s.twin.mode == 3
/-- The pair compares every delivered operation: it is paired; alone after a loss or a detach it compares nothing (R457, R470). -/
def State.casting (s : State) : Bool := s.castMode && s.twin.state == 3
/-- The shadow sends no remote request and joins no collective (R471). -/
def State.castShadow (s : State) : Bool := s.castMode && s.twin.role

/-! ### Writes through NPAs -/

/-- Writes to GDDR and to SRAM ways break the reservations of application harts on the lines they touch; `a` is an NPA (R485, R492). -/
def State.breakRes (s : State) (a n : Nat) : State :=
  if s.px.harts.any (fun h => match h.2.reserved with | some l => a / 64 ≤ l && l * 64 < a + n | none => false) then
    { s with px := { s.px with harts := s.px.harts.map (fun h =>
        (h.1, match h.2.reserved with
          | some l => if a / 64 ≤ l ∧ l * 64 < a + n then { h.2 with reserved := none } else h.2
          | none => h.2)) } }
  else s

/-- Another unit's write to GDDR invalidates the copies of its lines on the processor die (R492). Bytes stored there that it has not
overwritten are written back (log 53). -/
def State.dropLines (s : State) (a n : Nat) : State :=
  let out := fun (l : Nat) => a / 64 ≤ l && l * 64 < a + n
  if s.px.shared.any (fun x => out x.2) || s.px.icache.any (fun x => x.2.any out) || s.px.dcache.any (fun x => x.2.any out) then
    let rest := s.px.dirty.flatMap (fun d => d.2.filter (fun x => out (x.1 / 64) && !(a ≤ x.1 && x.1 < a + n)))
    rest.foldl (fun s x => (s.gddrWrite x.1 [x.2] { source := 5 }).1) { s with px := { s.px with
      shared := s.px.shared.filter (fun x => !out x.2), icache := s.px.icache.map (fun x => (x.1, x.2.filter (fun l => !out l)))
      dcache := s.px.dcache.map (fun x => (x.1, x.2.filter (fun l => !out l)))
      dirty := (s.px.dirty.map (fun d => (d.1, d.2.filter (fun x => !out (x.1 / 64))))).filter (fun d => !d.2.isEmpty) } }
  else s

/-- A write to GDDR by a unit that is no application core (R485, R492). -/
def State.foreignWrote (s : State) (a n : Nat) : State := (s.breakRes a n).dropLines a n

/-- Write bytes of the SRAM ways by their offset in NPA space 0x3: a word written in part is read first, and stays as it is where it cannot be
(R491, R493). -/
def State.sramPut (s : State) (off : Nat) (bs : List Byte) (w : Who) : State × Bool :=
  let j := s.sramJudge (wordsPart off bs.length) w
  let px := ((List.range bs.length).zip bs).foldl (fun (p : Px) (x : Nat × Byte) =>
    if j.2.contains ((off + x.1) / 8) then p else p.sramWrite (off + x.1) x.2) j.1.px
  let px := (wordsAt off bs.length).foldl (fun (p : Px) i => if j.2.contains i then p else { p with sramErr := p.sramErr.erase i }) px
  (State.breakRes { j.1 with px := px } (3 * 2 ^ 48 + off) bs.length, j.2.isEmpty)

/-- Write bytes at an NPA: GDDR, a slice, the issuing core's working store, or an SRAM way (R29). -/
def State.npaWrite (s : State) (c : CoreId) (npa : Nat) (bs : List Byte) (w : Who) : State × Byte :=
  let off := npa % 2 ^ 48
  match npa / 2 ^ 48 with
  | 0 => let r := s.gddrWrite off bs { w with source := 0 }
         (r.1.foreignWrote off bs.length, r.2)
  | 1 => match s.rsTarget off with
    | some (d, o) => let r := s.storeWrite d true o bs (if d = c then w else { w with source := 4 })
                     (r.1, if r.2 then stMemUnc else stDone)
    | none => (s, stWindowFault)
  | 2 => let r := s.storeWrite c false off bs w
         (r.1, if r.2 then stMemUnc else stDone)
  | 3 => if off + bs.length ≤ 0xC000000 then
           let r := s.sramPut off bs w
           (r.1, if r.2 then stDone else stMemUnc)
         else (s, stWindowFault)
  | _ => (s, stWindowFault)

/-- Read bytes at an NPA: status and bytes. -/
def State.npaRead (s : State) (c : CoreId) (npa n : Nat) (w : Who) : State × Byte × List Byte :=
  let off := npa % 2 ^ 48
  match npa / 2 ^ 48 with
  | 0 => s.gddrRead off n { w with source := 0 }
  | 1 => match s.rsTarget off with
    | some (d, o) => let r := s.storeRead d true o n (if d = c then w else { w with source := 4 })
                     (r.1, if r.2.1 then stMemUnc else stDone, r.2.2)
    | none => (s, stWindowFault, [])
  | 2 => let r := s.storeRead c false off n w
         (r.1, if r.2.1 then stMemUnc else stDone, r.2.2)
  | 3 => if off + n ≤ 0xC000000 then
           let r := s.sramGet off n w
           (r.1, if r.2.1 then stDone else stMemUnc, r.2.2)
         else (s, stWindowFault, [])
  | _ => (s, stWindowFault, [])

/-! ### Flits of a core (R33, R34) -/

/-- A mesh flit of a core (R33, R34). A core that no logical number names sends with `src_core` 0x1_FFFF: DESIGN CHOICE (log 44), for the
spec gives it no number. Without a job its flits then meet the second case of R35. -/
def State.coreFlit (s : State) (c : CoreId) (dest kind : Nat) (res : Bool) (off n : Nat) (last : Bool) (tag : BitVec 32) (payload : List Byte) (req part : Nat) : Flit :=
  let k := s.core c
  { dst := BitVec.ofNat 17 dest, src := BitVec.ofNat 17 (s.logNum c), kind := BitVec.ofNat 4 kind, lenM1 := BitVec.ofNat 9 (n - 1), last := last
    jobId := if k.jobValid then k.jobId else 0, opTag := tag, resident := res, off := BitVec.ofNat 22 off, payload := payload, req := req, part := part }

def State.sendFlit (s : State) (f : Flit) : State := { s with mesh := s.mesh ++ [f] }

/-- A destination core accepts a flit of the job that owns its band, or of the processor or fabric dies with job 0 (R35); a
core of a die in service reset accepts none (R569). -/
def State.flitAccepted (s : State) (d : CoreId) (f : Flit) : Bool :=
  let k := s.core d
  !(s.cdie d.die.val).busy && ((k.jobValid && k.jobId == f.jobId) || (f.jobId == 0 && f.src == 0x1FFFF))

/-- A flit is dropped (R35, R98). -/
def State.flitDropped (s : State) (d : CoreId) (f : Flit) : State :=
  (s.updCore d (fun k => { k with dropped := satInc k.dropped })).hand
    { unit := coreUnit d 0x05, cls := 0x06, severity := 0, jobId := f.jobId, opTag := f.opTag }

/-- How an access ends whose flit was dropped: the spec says that the core drops it, and not what its requester gets (R35). Every
outstanding request is acknowledged in the end (R92), so the request ends; its status is free, and so is the data it returns (log 38). -/
def State.dropStatus (s : State) : Byte := if (Config.freeByte s.freeCount 0).getLsbD 0 then stWindowFault else stDone

/-- The write of a completion record (R81). Into another core's slice it goes as a store by the mesh, behind the core's earlier flits
(R35, R36). DESIGN CHOICE (log 48): to space 0x8, or to a device of space 0x3, whose registers take accesses of 8 bytes, nothing is written. -/
def State.recordWrite (s : State) (c : CoreId) (npa : Nat) (bs : List Byte) (tag : BitVec 32) : State :=
  let own := (s.npaWrite c npa bs ((s.core c).who 0 tag)).1
  if npa / 2 ^ 48 ≠ 1 then own else
  match s.rsTarget (npa % 2 ^ 48) with
  | none => own
  | some (d, o) =>
    if d = c then own
    else s.sendFlit { s.coreFlit c (s.logNum d) 0 true o bs.length true tag bs 0 0 with record := true }

/-! ### Entries -/

def Entry.live (e : Entry) : Bool := e.code == .admitted || e.code == .running
def Entry.ended (e : Entry) : Bool := e.code == .done || e.code == .aborted || e.code == .failed

def EntryCode.num : EntryCode → Nat
  | .free => 0 | .admitted => 1 | .running => 2 | .done => 3 | .aborted => 4 | .failed => 5

def Core.entry (k : Core) (i : Nat) : Entry := k.entries.get i
def Core.setEntry (k : Core) (i : Nat) (e : Entry) : Core := { k with entries := k.entries.set i e }
def Core.updEntry (k : Core) (i : Nat) (f : Entry → Entry) : Core := k.setEntry i (f (k.entry i))

/-- No entry is ADMITTED or RUNNING (R96). -/
def Core.drained (k : Core) : Bool := k.entries.all (fun e => !e.2.live)

/-- Entries in FREE, lent ones counting as not FREE (R96, R225). -/
def Core.freeEntries (k : Core) : Nat :=
  64 - ((k.entries.filter (fun e => e.2.code != .free)).map (·.1) ++ k.lent).eraseDups.length

/-- Entry is FREE for admission. -/
def Core.isFree (k : Core) (i : Nat) : Bool := (k.entry i).code == .free && !k.lent.contains i

/-- x0 reads zero (RV32I). -/
def Core.x (k : Core) (r : BitVec 5) : BitVec 32 := if r = 0 then 0 else k.xregs.get r.toNat
def Core.setX (k : Core) (r : BitVec 5) (v : BitVec 32) : Core :=
  if r = 0 then k else { k with xregs := k.xregs.set r.toNat v }

/-- The control unit is at an instruction boundary and executing. -/
def Core.cuReady (k : Core) : Bool := k.cuRunning && !k.haltCu && !k.cuTrapped && k.wait == .none

/-- An instruction retires: its result, the next pc, the counters (R66). How many handshakes it took is free (log 45). -/
def Core.retireTo (k : Core) (pc : BitVec 32) (r : BitVec 5) (v : BitVec 32) : Core :=
  { k.setX r v with pc := pc, instret := k.instret + 1, cycle := k.cycle + Config.cuHandshakes k.pc k.instret k.cycle, wait := .none }

/-- An instruction of 4 bytes retires and the next one follows. -/
def Core.retire (k : Core) (r : BitVec 5) (v : BitVec 32) : Core := k.retireTo (k.pc + 4) r v

/-- A load or store retires: the counters, without the pc, which moves by a length its row does not give (log 23). -/
def Core.counted (k : Core) : Core :=
  { k with instret := k.instret + 1, cycle := k.cycle + Config.cuHandshakes k.pc k.instret k.cycle }

/-- What a control-unit CSR reads as (R66), by its RISC-V number; none for one that the control unit does not have. `misa` names the
instruction set of R66; the event counters count nothing, and the vendor's words are free (log 43). -/
def State.cuCsr (s : State) (c : CoreId) (csr : Nat) : Option (BitVec 32) :=
  let k := s.core c
  let half := fun (v : BitVec 64) (hi : Bool) => if hi then v.extractLsb' 32 32 else v.extractLsb' 0 32
  if 0xB03 ≤ csr ∧ csr < 0xB20 ∨ 0xB83 ≤ csr ∧ csr < 0xBA0 ∨ 0x323 ≤ csr ∧ csr < 0x340 then some 0 else
  match csr with
  | 0x300 => some (BitVec.ofNat 32 (b2n k.gie * 8 + b2n k.gpie * 128 + 3 * 2048))
  | 0x301 => some 0x40001104
  | 0x304 | 0x310 | 0x344 => some 0
  | 0x340 => some k.mscratch
  | 0x305 => some Config.cuVector
  | 0x341 => some k.mepc
  | 0x342 => some k.mcause
  | 0x343 => some k.mtval
  | 0xB00 | 0xC00 => some (half k.cycle false)
  | 0xB80 | 0xC80 => some (half k.cycle true)
  | 0xC01 => some (half (BitVec.ofNat 64 s.t) false)
  | 0xC81 => some (half (BitVec.ofNat 64 s.t) true)
  | 0xB02 | 0xC02 => some (half k.instret false)
  | 0xB82 | 0xC82 => some (half k.instret true)
  | 0xF11 | 0xF12 | 0xF13 | 0xF15 => some (Config.cuVendor csr)
  | 0xF14 => some (BitVec.ofNat 32 (s.logNum c))
  | _ => none

/-- Take a control-unit exception (R68): the firmware logs, stops the control unit and signals. Causes are RISC-V's. -/
def State.cuTrap (s : State) (c : CoreId) (cause tval : Nat) : State :=
  let k := s.core c
  ((s.hand { unit := coreUnit c 0x00, cls := 0x0B, severity := 2, jobId := (k.who 0 0).jobId, jobGen := (k.who 0 0).jobGen
             detail := padTo 24 (leBytes 4 k.pc.toNat) }).updCore c (fun k =>
    { k with mepc := k.pc, mcause := BitVec.ofNat 32 cause, mtval := BitVec.ofNat 32 tval, trapPc := k.pc, gpie := k.gie, gie := false
             cuRunning := false, cuTrapped := true, wait := .none })).raise (8 + c.die.val)

/-- The illegal-instruction exception; what it leaves in `mtval` is free, for neither the spec nor RISC-V fixes it. -/
def State.cuIllegal (s : State) (c : CoreId) : State := (s.cuTrap c 2 (Config.freeWord s.freeCount).toNat).drawn

/-- The unit identifier that names an operation's engine (R16). -/
def engUnit (c : CoreId) (eng : Nat) : BitVec 32 := coreUnit c (match eng with | 0 => 1 | 1 => 2 | 2 => 3 | _ => 6)

/-- The 32-byte report of a solver operation (R246). -/
def svReport (k : Core) (idx : Nat) : List Byte :=
  match k.sv with
  | some v =>
    if v.entry = idx then
      leBytes 4 v.iter ++ leBytes 4 v.inner ++ leBytes 8 v.rho.toNat ++ leBytes 8 v.tDecided ++ [v.path, v.cause, v.notes] ++ List.replicate 5 0
    else List.replicate 32 0
  | none => List.replicate 32 0

/-- The completion record (R81). -/
def recordBytes (e : Entry) (idx tEnd : Nat) : List Byte :=
  [e.status, e.recFlags, BitVec.ofNat 8 idx, BitVec.ofNat 8 e.d.engine] ++ leBytes 4 e.d.opTag.toNat
    ++ leBytes 8 e.tStart ++ leBytes 8 tEnd ++ leBytes 8 e.health.word

/-- Return an entry's credits to the channels and to the tenancy's tags (R73). -/
def State.returnCredits (s : State) (ten : Nat) (e : Entry) : State :=
  let s1 := e.gddrCred.foldl (fun s x => s.updChan x.1 (fun ch => { ch with credUsed := ch.credUsed - x.2 })) s
  e.remCred.foldl (fun s x => s.updFab (x.1 % 2) (fun f =>
    { f with tagsUsed := f.tagsUsed.upd ten (fun u => BitVec.ofNat 16 (u.toNat - x.2)) })) s1

/-- The members that the solve in entry `i` of a solver core has recruited. -/
def State.members (s : State) (c : CoreId) (i : Nat) : List CoreId :=
  (s.cores.filter (fun x => x.2.member && x.2.solver.toNat == s.logNum c && x.2.solveEntry == i)).map (fun x => coreOfKey x.1)

/-- A lent entry of the solve's team is still ADMITTED or RUNNING. -/
def State.lentLive (s : State) (c : CoreId) (i : Nat) : Bool :=
  (s.members c i).any (fun m => let k := s.core m
                               k.lent.any (fun j => (k.entry j).live))

/-- Release the team of a solve (R225): the lent entries return, and the solver writes 2 to each team block's first byte, by a flit behind
those it has sent the member before (R35, R36). -/
def State.releaseTeam (s : State) (c : CoreId) (i off : Nat) (tag : BitVec 32) : State :=
  let mem := s.members c i
  (mem.foldl (fun s m =>
    (s.updCore m (fun k => { k with entries := k.entries.filter (fun e => !k.lent.contains e.1)
                                    member := false, solver := 0, solveEntry := 0, lent := [], teamBlock := [] })).sendFlit
      { s.coreFlit c (s.logNum m) 0 false off 1 true tag [2] 0 0 with record := true })
    s).updCore c (fun k => { k with recruited := k.recruited - BitVec.ofNat 11 mem.length })

/-- The entry a control unit delivers next has ended (R61). -/
def Core.headEnded (k : Core) : Option (Nat × Entry) :=
  match k.order with
  | [] => none
  | i :: _ => if (k.entry i).ended then some (i, k.entry i) else none

/-! ### Delivery (R69, R82, R184, R185, R473) -/

def satField (old n w : Nat) : Nat := Nat.min (old + n) (2 ^ w - 1)

/-- A health slot with an entry's counts added (R184). -/
def slotAdd (b : List Byte) (h : Health) : List Byte :=
  slice b 0 5 ++ [((b.getD 5 0) ||| (h.flags.setWidth 8))] ++ slice b 6 2
    ++ leBytes 8 (satField (fieldAt b 8 8) h.elements 64) ++ leBytes 4 (satField (fieldAt b 0x10 4) h.zeros 32)
    ++ leBytes 4 (satField (fieldAt b 0x14 4) h.saturations 32) ++ leBytes 4 (satField (fieldAt b 0x18 4) h.nonfinite 32)
    ++ leBytes 4 (satField (fieldAt b 0x1C 4) h.vanished 32)

/-- Add an entry's counts to the first valid slot of its tensor id (R185). -/
def State.healthSlots (s : State) (c : CoreId) (e : Entry) : Nat → Nat → State
  | 0, _ => s
  | n + 1, i =>
    let base := (s.core c).healthBase.toNat + 32 * i
    let w : Who := (s.core c).who 0 e.d.opTag
    let h := s.storeRead c true base 8 w
    if h.2.1 then h.1.healthSlots c e n (i + 1) else
    if bitAt (fieldAt h.2.2 4 1) 0 ∧ fieldAt h.2.2 0 4 = e.d.tensorId.toNat then
      let b := h.1.storeRead c true (base + 8) 24 w
      if b.2.1 then b.1 else (b.1.storeWrite c true base (slotAdd (h.2.2 ++ b.2.2) e.health) w).1
    else h.1.healthSlots c e n (i + 1)

/-! ### Cast records and completions (R453, R471 to R474) -/

/-- At delivery each twin forms the operation's Cast record and sends it (R473, R474). -/
def State.castDeliver (s : State) (c : CoreId) (e : Entry) : State :=
  if s.casting then
    let r : CastRec := { core := BitVec.ofNat 32 (s.logNum c), acc := e.acc, opTag := e.d.opTag, status := e.status
                         c := BitVec.ofNat 64 (castC e.wrote e.status (e.code == .done)) }
    let s1 := { s with twin := { s.twin with mine := s.twin.mine ++ [r] } }
    s1.twinSend s.twinPlane 0x04 (leBytes 4 r.core.toNat ++ leBytes 4 r.acc.toNat ++ leBytes 4 r.opTag.toNat ++ [r.status, 0, 0, 0] ++ leBytes 8 r.c.toNat)
  else s

/-- A core that holds 4,096 unmatched Cast records delays its next delivery (R474). -/
def State.castFull (s : State) (c : CoreId) : Bool :=
  s.casting && (s.twin.mine.filter (fun r => r.core.toNat == s.logNum c)).length ≥ 4096

/-- A write forward's payload (R453). -/
def forwardBytes (jobId jobGen : BitVec 16) (npa : Nat) (bs : List Byte) : List Byte :=
  beBytes 2 jobId.toNat ++ beBytes 2 jobGen.toNat ++ [0, 0, 0, 0] ++ beBytes 8 npa ++ beBytes 2 bs.length ++ [0, 0, 0, 0, 0, 0] ++ bs

/-- Writes cut to the 512 bytes of a write forward. -/
def cutWrites (w : List (Nat × List Byte)) : List (Nat × List Byte) :=
  w.flatMap (fun x => (List.range (ceilDiv x.2.length 512)).map (fun i => (x.1 + 512 * i, slice x.2 (512 * i) 512)))

/-- Bytes noted one by one, as runs. -/
def runsOf (w : List (Nat × Byte)) : List (Nat × List Byte) :=
  (w.foldl (fun (acc : List (Nat × List Byte)) x => match acc with
    | (a, l) :: r => if a + l.length = x.1 then (a, l ++ [x.2]) :: r else (x.1, [x.2]) :: acc
    | [] => [(x.1, [x.2])]) []).reverse

/-- Write forwards in one frame of a Cast completion. DESIGN CHOICE (log 52): a completion of more takes several frames; one that holds so many
is followed by another. -/
def castFill : Nat := 7

/-- The lead tells the shadow how an operation that reached outside the package completed: its status, and the bytes it wrote. -/
def State.castComplete (s : State) (core : Nat) (acc : BitVec 32) (status : Byte) (jobId jobGen : BitVec 16) (w : List (Nat × List Byte)) : State :=
  if !s.casting || s.twin.role then s else
  let ps := cutWrites w
  let pl := s.twinPlane
  (List.range (ps.length / castFill + 1)).foldl (fun s i =>
    s.twinSend pl 0x05 (beBytes 4 core ++ beBytes 4 acc.toNat ++ [status, 0, 0, 0, 0, 0, 0, 0]
      ++ ((ps.drop (castFill * i)).take castFill).flatMap (fun x => forwardBytes jobId jobGen x.1 x.2))) s

/-- A DMA operation reaches outside the package (R471). -/
def Entry.goesOut (e : Entry) : Bool :=
  let d := e.d
  if d.opcode = 2 then (batchOf e.batch).any (fun e => e.tkind == 1) else isFabKind d.dma.srcKind || isFabKind d.dma.dstKind

/-- The operand bytes that an atomic batch sends to fabric addresses, by the keys of R473. -/
def Entry.sentOut (e : Entry) : List (Nat × List Byte) :=
  if e.d.opcode ≠ 2 then [] else
  ((batchOf e.batch).filter (·.tkind == 1)).map (fun a => (2 ^ 64 + a.target, a.opdBytes))

/-- The operation is one that the shadow does not carry out, but takes over from the lead (R471). -/
def State.castWaits (s : State) (e : Entry) : Bool := s.castShadow && e.d.engine == 2 && e.goesOut

/-- An operation that reached outside the package ends on the lead: the shadow is told the status and the bytes it wrote. DESIGN CHOICE (log 52):
bytes sent to a fabric address go as a forward of that address. -/
def State.castEnd (s : State) (c : CoreId) (e : Entry) (st : Byte) (ok : Bool) : State :=
  if e.code = .running ∧ e.d.engine = 2 ∧ e.goesOut then
    let w := if e.d.opcode = 2 then e.wrote.filter (fun x => x.1 < 2 ^ 64) else e.wrote
    s.castComplete (s.logNum c) e.acc st ((s.core c).who 0 0).jobId ((s.core c).who 0 0).jobGen (if ok then runsOf w else [])
  else s

/-! ### Delivery, and waiting instructions -/

/-- Deliver the oldest undelivered entry `i` into register `rd` (R69). -/
def State.deliver (s : State) (c : CoreId) (rd : BitVec 5) (i : Nat) : State :=
  let e := (s.core c).entry i
  let s1 := if e.code = .done ∧ (s.core c).healthOn then s.healthSlots c e 8 0 else s
  let s2 := s1.castDeliver c e
  s2.updCore c (fun k =>
    let k1 := if e.code = .done ∧ e.d.sumEn then { k with sums := k.sums.set e.d.sumSlot e.summary } else k
    { k1.setEntry i {} with order := k1.order.tail }.retire rd (BitVec.ofNat 32 (e.status.toNat + i * 256)))

/-- A waiting instruction completes when what it waits for has come about (R66, R69, R93). -/
def State.wakeCu (s : State) (c : CoreId) : State :=
  let k := s.core c
  match k.wait with
  | .none => s
  | .wfi => s.updCore c (fun k => k.retire 0 0)
  | .enext rd => match k.headEnded with
    | some (i, _) => if s.castFull c then s else s.deliver c rd i
    | none => s
  | .eabort rd i op =>
    let e := k.entry i
    if e.live ∧ e.op = op then s
    else s.updCore c (fun k => k.retire rd (BitVec.ofNat 32
      (if e.op = op ∧ (e.code = .aborted ∨ e.code = .failed) then e.status.toNat else stDoneAlready.toNat)))

/-! ### The end of an operation (R75, R76, R81) -/

/-- How an entry leaves ADMITTED or RUNNING. -/
structure Ending where
  code : EntryCode := .done
  status : Byte := 0
  untouched : Bool := false
  logged : Bool := false
  /-- the record cannot be written: its address failed the region check -/
  noRecord : Bool := false
deriving DecidableEq, Repr, Inhabited

/-- The bound is exceeded (R56), the refusals of R335 not counting. -/
def Entry.overran (e : Entry) (now : Nat) : Bool := e.tStart + e.bound + e.refusedNs < now

/-- One entry leaves ADMITTED or RUNNING; what the shadow takes over from the lead has no bound (R471). Status and overrun record, credits, completion record, and those that depend
on it are satisfied or broken. DESIGN CHOICE (log 44): the overrun record has severity 0, for R56 gives it none. -/
def State.endOne (s : State) (c : CoreId) (i : Nat) (x : Ending) (bounded : Bool) : State :=
  let k := s.core c
  let e := k.entry i
  let late := bounded && x.code == .done && e.overran s.t && !s.castWaits e
  let st := if late then worse x.status stBoundExceeded else x.status
  let s1 := if late then s.hand { unit := engUnit c e.d.engine, cls := 0x09, severity := 0, status := stBoundExceeded
                                  jobId := (k.who 0 0).jobId, jobGen := (k.who 0 0).jobGen, opTag := e.d.opTag
                                  detail := padTo 24 (leBytes 8 e.bound ++ leBytes 8 (s.t - e.tStart)) } else s
  let s2 := s1.returnCredits k.tenancy.toNat e
  let fl : Byte := (if e.d.sumEn ∧ x.code = .done then 1 else 0) ||| (if e.reexec then 2 else 0) ||| (if x.untouched then 4 else 0)
    ||| (if x.logged || late then 8 else 0) ||| e.recFlags
  let e1 := { e with code := x.code, status := st, recFlags := fl, gddrCred := [], remCred := [], resCred := 0, dep := .none }
  let rec0 := recordBytes e1 i s.t ++ (if e.d.engine = 3 then svReport k i else [])
  let s3 := if x.noRecord then s2 else s2.recordWrite c e.d.recordAddr rec0 e.d.opTag
  let s4 := s3.updCore c (fun k => { k with
    entries := (k.entries.set i e1).map (fun y => (y.1,
      if y.2.code = .admitted ∧ y.2.dep = .on e.op then { y.2 with dep := if x.code = .done then .none else .broken } else y.2))
    abortAll := k.abortAll && (k.entries.set i e1).any (fun y => y.2.live && y.2.abortReq)
    sv := if e.d.engine = 3 ∧ (k.sv.map (·.entry)) = some i then none else k.sv
    svOpcode := if e.d.engine = 3 ∧ e.code = .running then 0 else k.svOpcode
    iteration := if e.d.engine = 3 ∧ e.code = .running then 0 else k.iteration })
  let s5 := s4.castEnd c e st (x.code == .done)
  if e.d.engine = 3 ∧ e.d.sv.teamCount ≠ 0 ∧ ¬ x.noRecord then s5.releaseTeam c i e.d.sv.teamOff e.d.opTag else s5

/-- Entries whose dependency is broken move to ABORTED, one after another (R76). -/
def State.breakDeps (s : State) (c : CoreId) : Nat → State
  | 0 => s
  | n + 1 =>
    match ((s.core c).entries).find? (fun y => y.2.code == .admitted && y.2.dep == .broken) with
    | some y => (s.endOne c y.1 { code := .aborted, status := stAborted, untouched := true } true).breakDeps c n
    | none => s

/-- An entry ends, with all that follows in the same step. -/
def State.endEntry (s : State) (c : CoreId) (i : Nat) (x : Ending) (bounded : Bool := true) : State :=
  ((s.endOne c i x bounded).breakDeps c 64).wakeCu c

/-- An abort reaches an entry (R92, R93): ADMITTED ends at once; RUNNING stops at its next boundary. One that reaches an operation whose
engine has finished, but which has not left RUNNING, still decides the outcome; one that has failed at its last boundary stays
FAILED (R182). -/
def State.abortEntry (s : State) (c : CoreId) (i : Nat) (st : Byte) : State :=
  let e := (s.core c).entry i
  match e.code with
  | .admitted => s.endEntry c i { code := .aborted, status := st, untouched := true }
  | .running => s.updCore c (fun k => k.updEntry i (fun e =>
      if e.abortReq || e.outcome.any isF then e else { e with abortReq := true, abortStatus := st }))
  | _ => s

end Sys2Proof.Machine
end

