-- ==== Sys2Proof/Machine/Admit.lean ====
section
/-! DEFINITION. Admission (R42 to R47, R73 to R79, R85, R113, R125, R228, R237, R242, R257, R330): the work a
descriptor counts, the credits it needs, its bound, and the entry it takes. -/

namespace Sys2Proof.Machine

/-- What admission counts of a descriptor. -/
structure Plan where
  hFixed : Nat := 0
  hWork : Nat := 0
  nGddr : Nat := 0
  /-- requests that reach each channel (R257) -/
  perChan : Tab Nat := []
  nLoad : Nat := 0
  nMirror : Nat := 0
  /-- requests by peer × 2 + plane (R330), and those among them of the mirror class (R461) -/
  perPeer : Tab Nat := []
  perMirror : Tab Nat := []
  nRes : Nat := 0
deriving DecidableEq, Repr, Inhabited

def Plan.nRemote (p : Plan) : Nat := p.nLoad + p.nMirror

/-! ### Rows (R85, R125, R201) -/

/-- Accesses that segments of the core's own stores come to, each row once: working store, slice (R85, R125, R201). -/
def State.ownRows (s : State) (c : CoreId) (segs : List (Nat × Nat)) : Nat × Nat :=
  let parts := rowParts ((segs.filter (fun p => p.1 / 2 ^ 48 == 2)).map (fun p => (p.1 % 2 ^ 48, p.2)))
  let grid := fun (p : Nat × Nat) => ((s.core c).gridPart (p.1 / 512)).isSome
  ((((parts.filter (!grid ·)).map (·.1 / 512)).eraseDups).length + gridUnits (parts.filter grid),
   (rowsOfSegs (segs.filter (fun p => s.ownSlice c p.1 p.2))).length)

def sumPairs (l : List (Nat × Nat)) : Nat × Nat := l.foldl (fun a b => (a.1 + b.1, a.2 + b.2)) (0, 0)

/-! ### Matrix and vector plans -/

/-- Slice rows among segments of operands: only those in NPA space 0x1 count (R113). -/
def resRows (segs : List (Nat × Nat)) : Nat := (rowsOfSegs (segs.filter (fun p => p.1 / 2 ^ 48 == 1))).length

/-- Matrix: h_work and slice accesses (R113). -/
def mxPlan (x : MxBody) : Plan :=
  let t := x.tilesM * x.tilesN
  let g := x.groups
  let h := hGroup x.aFmt
  let cRows := (rowsOfSegs x.cSegs).length
  let passRes := fun (ti tj p : Nat) => resRows (x.aSegs ti p) + resRows (x.bSegs tj p) + resRows (x.aScaleSegs ti p) + resRows (x.bScaleSegs tj p)
  let all := (List.range x.tilesM).flatMap (fun ti => (List.range x.tilesN).flatMap (fun tj =>
    (List.range x.passes).map (fun p => passRes ti tj p)))
  { hFixed := 96
    hWork := t * g * h + cRows + (if x.acc then cRows else 0) + Nat.min 8 g * h
    nRes := sumN all + maxN all + resRows x.cSegs + (if x.acc then resRows x.cSegs else 0) }

/-- Keys that a `set_op` may write at most (R143). -/
def VxBody.setMost (x : VxBody) : Nat := if x.mode = 0 then Nat.min x.n x.nAux else if x.mode = 2 then x.n else x.n + x.nAux

/-- Vector: h_work and slice accesses (R125, R128). Records and probes at places that data give count one row each; a record of
`scatter_add_sbi` is read and written; a `set_op` that may write fewer keys than it reads counts the rows of the most it may write. -/
def State.vxPlan (s : State) (c : CoreId) (d : Desc) : Plan :=
  let x := d.vx
  let strewn := fun (i : Nat) => (x.op == 8 && i == 1) || (x.op == 9 && i == 2)
  let fixed := ((d.vxExtents.zipIdx).filter (fun e => !strewn e.2)).map (·.1)
    ++ (if x.op = 7 ∧ x.mode ≠ 3 then [⟨x.out, elemBytes x.fo x.setMost, .w⟩] else [])
  let rows := fun (p : Perm) => sumPairs ((fixed.filter (fun e => e.perm == p)).map (fun e => s.ownRows c [(e.npa, e.len)]))
  let extraR := if x.op = 3 then x.nAux else if x.op = 8 then x.n else 0
  let extraW := if x.op = 4 ∨ x.op = 9 then x.nAux else 0
  let r := rows .r
  let w := rows .w
  { hFixed := 64
    hWork := Nat.max (d.vxCount x.n x.nAux + d.vxTileH) (Nat.max (r.1 + r.2 + extraR) (w.1 + w.2 + extraW))
    nRes := r.2 + w.2 + (if s.ownSlice c (if x.op = 8 then x.auxAddr else x.in0) 1 then extraR else 0)
      + (if s.ownSlice c x.out 1 then (if x.op = 9 then 2 * extraW else extraW) else 0) }

/-! ### DMA plans -/

/-- A mesh target: logical core, resident, offset (R84). -/
def meshTarget (a : Nat) : Nat × Bool × Nat := (bitsAt a 23 17, bitAt a 22, bitsAt a 0 22)

/-- The NPA of a byte that a mesh target names, whether or not a store holds it (R29, R84): a slice's by its core's number. For another
core's working store, which has no NPA, the offset in space 0x2 (DESIGN CHOICE, log 44). -/
def meshNpa (a : Nat) : Nat :=
  let t := meshTarget a
  let i := t.1 % 2 ^ 15
  if !t.2.1 then 2 * 2 ^ 48 + t.2.2
  else if 20480 ≤ i then 2 ^ 48 + 0x800000000 + (t.1 / 2 ^ 15 * 64 + (i - 20480)) * 0x400000 + t.2.2
  else 2 ^ 48 + t.1 * 0x20000 + t.2.2

/-- An endpoint of a DMA request in another core: its logical number and whether its resident store is meant. -/
def State.farCore (s : State) (c : CoreId) (kind a : Nat) : Option (Nat × Bool) :=
  if kind = 2 then
    let t := meshTarget a
    if t.1 = s.logNum c then none else some (t.1, t.2.1)
  else if kind = 0 ∧ a / 2 ^ 48 = 1 then
    match s.rsTarget (a % 2 ^ 48) with
    | some (d, _) => if d = c then none else some (s.logNum d, true)
    | none => none
  else none

/-- The NPA through which the issuing core reaches an endpoint in its own stores, if it lies there. -/
def State.ownNpa (s : State) (c : CoreId) (kind a : Nat) : Option Nat :=
  if kind = 0 then (if a / 2 ^ 48 = 2 ∨ s.ownSlice c a 1 then some a else none)
  else if kind = 2 ∧ (meshTarget a).1 = s.logNum c then
    (if (meshTarget a).2.1 then s.storeNpa c true (meshTarget a).2.2 else some (2 * 2 ^ 48 + (meshTarget a).2.2))
  else none

def countKeys (l : List Nat) : Tab Nat := l.foldl (fun t k => t.upd k (· + 1)) []

/-- The plane of remote request number `j`: alternate in issue order (R330), or the one plane that is up (R617). -/
def State.planeOf (s : State) (j : Nat) : Nat :=
  if s.pkg.onePlane then (if (s.fab 0).alive ∧ (s.fab 0).ports.any (fun p => p.2.up &&& (~~~ p.2.failed) != 0) then 0 else 1) else j % 2

/-- The channels that serve a unit for admission: while a channel migrates, units at or above the pointer count at both (R271). -/
def State.unitChans (s : State) (u : Nat) : List Nat :=
  let p := gddrPlace u
  let c := s.chan p.1
  if c.state = 3 ∧ c.pointer.toNat ≤ p.2 then [p.1, (migTarget s.pkg.density p.1 p.2).1] else [(s.steer u).1]

/-- Channels that a request of `n` bytes at an offset of space 0x0 reaches. -/
def State.reqChans (s : State) (a n : Nat) : List Nat :=
  ((unitPieces a n).flatMap (fun p => s.unitChans (p.1 / 256))).eraseDups

/-- A fabric address of the mirror range (R459). -/
def isMirrorAddr (a : Nat) : Bool := bitsAt a 48 8 ≥ 0xC0

/-- The collective submission area (R348). -/
def isCollArea (npa : Nat) : Bool := 3 * 2 ^ 48 + 0xF00000000000 ≤ npa && npa < 3 * 2 ^ 48 + 0xF00000008000

/-- The DMA copy's plan (R85, R196, R257, R330, R334): rows read and rows written count once each. DESIGN CHOICE (log 44): where a stride
carries an endpoint across cores, the hops counted are those of the farthest one. -/
def State.copyPlan (s : State) (c : CoreId) (x : DmaBody) : Plan :=
  let rs := x.reqs
  let gl := rs.flatMap (fun r =>
    (if x.srcKind = 0 ∧ r.1 / 2 ^ 48 = 0 then [s.reqChans r.1 r.2.2] else [])
    ++ (if x.dstKind = 0 ∧ r.2.1 / 2 ^ 48 = 0 then [s.reqChans r.2.1 r.2.2] else []))
  let rem := rs.flatMap (fun r =>
    (if isFabKind x.srcKind then [(r.1, false)] else []) ++ (if isFabKind x.dstKind then [(r.2.1, true)] else []))
  let own := rs.flatMap (fun r =>
    (match s.ownNpa c x.srcKind r.1 with | some a => [(a, r.2.2)] | none => [])
    ++ (match s.ownNpa c x.dstKind r.2.1 with | some a => [(a, r.2.2)] | none => []))
  let side := fun (k a st : Nat) => (List.range x.count).flatMap (fun i =>
    let p := a + i * st
    if k = 0 ∧ p / 2 ^ 48 = 1 then (slicePieces (p % 2 ^ 48) x.length).map (fun q => (2 ^ 48 + q.1, q.2)) else [(p, x.length)])
  let rowsOf := fun (k a st : Nat) => s.ownRows c ((side k a st).filterMap (fun p => (s.ownNpa c k p.1).map (fun q => (q, p.2))))
  let rows := sumPairs [rowsOf x.srcKind x.src x.srcStride, rowsOf x.dstKind x.dst x.dstStride]
  let far := fun (k a st : Nat) =>
    let segs := side k a st
    let away := segs.filterMap (fun p => (s.farCore c k p.1).map (fun d => (p, d)))
    let remote := if k = 3 then segs else (away.filter (·.2.2)).map (·.1)
    (maxN (away.map (fun q => let h := meshHops (s.logNum c) q.2.1
                             2 * h.1 + 16 * h.2))
      + (if remote.isEmpty then 0 else 4 * (rowsOfSegs remote).length)
      + (if k = 0 ∧ isCollArea a then
          -- a collective descriptor counts as a mesh target behind one armature traversal (R348, R660)
          let p := corePos (s.logNum c % 2 ^ 15)
          2 * (absDiff p.1 64 + absDiff p.2 80) + 16
        else 0), !remote.isEmpty)
  let fs := far x.srcKind x.src x.srcStride
  let fd := far x.dstKind x.dst x.dstStride
  { hFixed := 48
    hWork := Nat.max (rows.1 + rows.2) (ceilDiv rs.length 2) + fs.1 + fd.1 + (if fs.2 || fd.2 then 256 else 0)
    nGddr := gl.length
    perChan := countKeys gl.flatten
    nLoad := (rem.filter (fun r => !(r.2 && isMirrorAddr r.1))).length
    nMirror := (rem.filter (fun r => r.2 && isMirrorAddr r.1)).length
    perPeer := countKeys ((rem.zipIdx).map (fun p => p.1.1 / 2 ^ 56 % 256 * 2 + s.planeOf p.2))
    perMirror := countKeys ((rem.zipIdx.filter (fun p => p.1.2 && isMirrorAddr p.1.1)).map (fun p => p.1.1 / 2 ^ 56 % 256 * 2 + s.planeOf p.2))
    nRes := (own.filter (fun p => p.1 / 2 ^ 48 == 1)).length }

/-- Bytes of the list of an atomic batch as they stand in the working store. -/
def State.batchBytes (s : State) (c : CoreId) (x : AtBody) : List Byte :=
  let k := s.core c
  (k.physBytes c false (x.list % 2 ^ 48) (128 * x.count)).map k.ws.read

/-- Entries of an atomic batch as they stand in the working store. -/
def State.batch (s : State) (c : CoreId) (x : AtBody) : List AtEntry := batchOf (s.batchBytes c x)

/-- The atomic batch's plan (R329). -/
def State.atPlan (s : State) (c : CoreId) (x : AtBody) : Plan :=
  let es := s.batch c x
  let gl := (es.filter (fun e => e.tkind == 0)).map (fun e => s.reqChans (e.target % 2 ^ 48) (2 ^ (e.sizeLog2 % 8)))
  let rem := es.filter (fun e => e.tkind == 1)
  { hFixed := 48, hWork := x.count + ceilDiv x.count 8
    nGddr := gl.length, perChan := countKeys gl.flatten
    nLoad := (rem.filter (fun e => !isMirrorAddr e.target)).length
    nMirror := (rem.filter (fun e => isMirrorAddr e.target)).length
    perPeer := countKeys ((rem.zipIdx).map (fun p => p.1.target / 2 ^ 56 % 256 * 2 + s.planeOf p.2))
    perMirror := countKeys ((rem.zipIdx.filter (fun p => isMirrorAddr p.1.target)).map (fun p => p.1.target / 2 ^ 56 % 256 * 2 + s.planeOf p.2)) }

/-! ### Waves and the bound of R47 -/

/-- Waves of a class: the greater of ⌈n ÷ c⌉ and the largest ⌈n_k ÷ r_k⌉ (R47, R257, R330). -/
def wavesOf (n cred : Nat) (per held : Tab Nat) : Nat :=
  if n = 0 then 0 else Nat.max (ceilDiv n cred) (maxN (per.map (fun p => ceilDiv p.2 (held.get p.1))))

/-- The bound of R47 without queue_ns, the credits held given. -/
def State.opBound (s : State) (hsRate rate : Nat) (p : Plan) (d : Desc) (gHeld rHeld : Tab Nat) : Nat :=
  let hop := (s.fab 0).hopBound.toNat
  hsNs (p.hFixed + p.hWork) hsRate
    + wavesOf p.nGddr d.credGddr p.perChan gHeld * accessNs .gddr rate hop s.pkg.migrating
    + wavesOf p.nLoad d.credRemote (p.perPeer.map (fun x => (x.1, x.2 - p.perMirror.get x.1))) rHeld * accessNs .remote rate hop false
    + wavesOf p.nMirror d.credRemote p.perMirror rHeld * accessNs .mirror rate hop false
    + ceilDiv p.nRes (Nat.max 1 d.credRes) * accessNs .res rate hop false

/-! ### Credits that admission reserves (R256, R257, R330) -/

/-- Credits of a channel's pool, of which each fabric die holds 4 as its standing reservation (R256). -/
def Channel.pool (c : Channel) : Nat := match c.pinRate.toNat with | 2 => 40 | 1 => 36 | _ => 32

/-- Cores' share of a channel's pool, halved while the device is hot (R256, R276). -/
def Channel.share (c : Channel) : Nat := if c.heat = 0 then c.pool - 8 else (c.pool - 8) / 2

/-- Free credits of the cores' share; a channel in training has none yet (R278). -/
def Channel.creditsFree (c : Channel) : Nat := if c.state = 0 then 0 else c.share - c.credUsed

/-- Credits a descriptor takes per channel (R257). -/
def State.gddrNeed (s : State) (p : Plan) (d : Desc) : Tab Nat :=
  p.perChan.map (fun x => (x.1, Nat.min (Nat.min d.credGddr x.2) (s.chan x.1).share))

/-- Buffers of a peer on a plane that live operations of the package have reserved. -/
def State.reserved (s : State) (key : Nat) : Nat :=
  sumN (s.cores.map (fun k => sumN (k.2.entries.map (fun e => e.2.remCred.get key))))

/-- The plane's share of `cred_remote` (R330, R617). -/
def State.planeShare (s : State) (cred pl : Nat) : Nat :=
  if s.pkg.onePlane then (if s.planeOf 0 = pl then cred else 0) else if pl = 0 then ceilDiv cred 2 else cred / 2

/-- The tenancy's rack-map entry of a package (R316). -/
def State.rackEntry (s : State) (pl ten pkg : Nat) : RackEntry := (s.fab pl).rackMap.get (ten * 256 + pkg)

/-- Standing buffers a peer holds for this package (R298, R300): 8 within the rack domain. -/
def standing (peer : Nat) : BitVec 16 := if peer < 256 then 8 else 0

/-- Credits the sender holds for a peer on a plane now: `base`, its standing buffers and the shared ones lent to it, and what was granted,
less what was used, modulo 2^16 (R299, R300). -/
def State.avail (s : State) (pl peer : Nat) : Nat :=
  let c := (s.fab pl).credits.get peer
  (standing peer + c.base + c.granted - c.used).toNat

/-- Of the buffers in use at a peer, those that requests of operations fill: the credits that their operations hold for them are in use.
DESIGN CHOICE (log 49): a returned credit does not say whose buffer it frees, and it is taken to free an operation's. -/
def State.flying (s : State) (pl peer : Nat) : Nat :=
  let c := (s.fab pl).credits.get peer
  let others := ((s.fab 0).outst ++ (s.fab 1).outst).filter (fun o => o.peer == peer && o.lastPlane.val == pl && o.frame.type != 0xA
    && (match o.owner with | .dma _ _ _ => false | _ => true))
  (c.used - c.granted).toNat - others.length

/-- Credits the sender holds for a package of a tenancy's rack map on a plane, those that operations have reserved among them (R330); none are
needed for a package's own windows (R317), nor for a package that is lost, to which no request goes (R341). -/
def State.remHeld (s : State) (ten key : Nat) : Option Nat :=
  let ent := s.rackEntry (key % 2) ten (key / 2)
  if ent.self || !ent.valid || ent.lost then none else some (s.avail (key % 2) (key / 2) + s.flying (key % 2) (key / 2))

/-- Credits a descriptor takes per peer and plane (R330). -/
def State.remNeed (s : State) (ten : Nat) (p : Plan) (d : Desc) : Tab Nat :=
  p.perPeer.map (fun x => (x.1, Nat.min (Nat.min (s.planeShare d.credRemote (x.1 % 2)) x.2) ((s.remHeld ten x.1).getD x.2)))

/-! ### Solver counts (R228, R237, R242) -/

structure SvCount where
  hs : Nat := 0
  gddr : Nat := 0
  rows : Nat := 0
  /-- product bounds, already in nanoseconds -/
  prod : Nat := 0
  /-- the extents behind `gddr`: address, bytes, how often -/
  spans : List (Nat × Nat × Nat) := []
deriving DecidableEq, Repr, Inhabited

def SvCount.add (a b : SvCount) : SvCount := ⟨a.hs + b.hs, a.gddr + b.gddr, a.rows + b.rows, a.prod + b.prod, a.spans ++ b.spans⟩
def SvCount.times (n : Nat) (a : SvCount) : SvCount :=
  ⟨n * a.hs, n * a.gddr, n * a.rows, n * a.prod, a.spans.map (fun p => (p.1, p.2.1, n * p.2.2))⟩

/-- Requests of a count that reach each channel (R257, R271). -/
def State.svPer (s : State) (x : SvCount) : Tab Nat :=
  (x.spans.filter (fun p => p.1 / 2 ^ 48 == 0)).foldl (fun t p => (unitPieces p.1 p.2.1).foldl (fun t q =>
    (s.unitChans (q.1 / 256)).foldl (fun t ch => t.upd ch (· + p.2.2)) t) t) []

/-- The cost in nanoseconds of a count, without h_fixed: handshakes, GDDR waves of 256-byte requests, slice waves. `held` gives the credits
in each channel. -/
def State.svNs (s : State) (hsRate rate : Nat) (d : Desc) (held : Tab Nat) (fixed : Nat) (x : SvCount) : Nat :=
  hsNs (fixed + x.hs) hsRate
    + wavesOf (ceilDiv x.gddr 256) (Nat.max 1 d.credGddr) (s.svPer x) held * accessNs .gddr rate 250 s.pkg.migrating
    + ceilDiv x.rows (Nat.max 1 d.credRes) * accessNs .res rate 250 false + x.prod

/-- The factorisation of a direct solve (R242). -/
def svFactor (x : SvBody) : SvCount :=
  let r := if x.fp32 then 128 else 64
  let m := if x.op = 1 then x.m else x.n
  let works := 8 * x.n * (x.n + 1)
  let spans := x.inputs.map (fun p => (p.1, p.2, 1)) ++ [(x.x, 8 * x.n, 1)] ++ (if x.worksInGddr then [(x.work, works, ceilDiv m 512)] else [])
  let sq := ceilDiv (x.n ^ 2) 64
  if x.op = 1 then
    { hs := ceilDiv (3 * x.m * x.n ^ 2 - x.n ^ 3) (3 * r) + sq + 40 * x.n + 512
      gddr := 8 * x.m * (x.n + 1) + 8 * x.n + (if x.n > 512 then works * ceilDiv x.m 512 else 0)
      rows := if x.n ≤ 512 then 2 * ceilDiv x.m 512 * ceilDiv (4 * x.n * (x.n + 1)) 512 else 0, spans := spans }
  else
    { hs := ceilDiv (x.n ^ 3) (6 * r) + sq + 48 * x.n + 512
      gddr := 8 * x.n ^ 2 + 16 * x.n + (if x.n > 512 then works * ceilDiv x.n 512 else 0)
      rows := if x.n ≤ 512 then 2 * ceilDiv x.n 64 * ceilDiv (4 * x.n * (x.n + 1)) 512 else 0, spans := spans }

/-- One refinement step (R242). -/
def svRefine (x : SvBody) : SvCount :=
  let m := if x.op = 1 then x.m else x.n
  { hs := ceilDiv (2 * m * x.n) 64 + ceilDiv (x.n ^ 2) 64 + 16 * x.n
    gddr := 8 * m * (x.n + 1), spans := x.inputs.map (fun p => (p.1, p.2, 1))
    rows := if x.n ≤ 512 then 2 * ceilDiv (4 * x.n * (x.n + 1)) 512 else 0 }

/-- One iteration: CGLS, or an outer iteration of Gauss-Newton and Levenberg-Marquardt; products P forward, adjoint, residual. -/
def svIter (x : SvBody) (pf pa pr : Nat) : SvCount :=
  let cg : SvCount := { hs := ceilDiv (2 * x.m + 5 * x.n) 64, rows := ceilDiv (8 * (3 * x.m + 7 * x.n)) 512, prod := pf + pa }
  if x.op = 3 then cg else (SvCount.times x.innerCap cg).add { hs := ceilDiv (4 * x.n) 64, prod := pr }

/-- The fallback (R241, R242). -/
def svFallback (x : SvBody) : SvCount :=
  { hs := match x.shiftMode with
      | 0 => ceilDiv x.n 64 + 8
      | 1 => ceilDiv x.n 32 + 16
      | _ => ceilDiv (x.n * x.transDim) 64 + 16
    gddr := 8 * x.n + (if x.shiftMode = 2 then 8 * x.transDim ^ 2 else 0)
    spans := (x.x, 8 * x.n, 1) :: (if x.shiftMode = 2 then [(x.trans, 8 * x.transDim ^ 2, 1)] else [])
    rows := 1 + 2 * ceilDiv (8 * x.n) 512 }

/-- The whole solve at `iter_cap`, with 512 handshakes for one re-executed check step (R237, R242). -/
def svWhole (x : SvBody) (pf pa pr : Nat) : SvCount :=
  let base :=
    if x.op = 0x10 then (svFallback x).add { hs := 512 }
    else if x.op = 1 ∨ x.op = 2 then (if x.fp32 then (svFactor x).add (SvCount.times x.iterCap (svRefine x)) else svFactor x)
    else (SvCount.times x.iterCap (svIter x pf pa pr)).add { hs := 512 }
  base.add { rows := (if x.keepHist ∧ x.op ≠ 0x10 then 1 + ceilDiv (8 * x.n) 512 else 0) + (if x.warm ∧ x.iterative then ceilDiv (8 * x.n) 512 else 0) }

/-- `fallback_ns` (R237). -/
def State.svFallbackNs (s : State) (rate : Nat) (d : Desc) (held : Tab Nat) : Nat := s.svNs rate rate d held 0 (svFallback d.sv)

/-- The bound of a solve without queue_ns: the lesser of B_cap and B_deadline (R237). -/
def State.svBound (s : State) (rate : Nat) (d : Desc) (held : Tab Nat) (pf pa pr : Nat) : Nat :=
  let x := d.sv
  let cap := s.svNs rate rate d held 160 (svWhole x pf pa pr)
  let slice := if x.op = 1 ∨ x.op = 2 then (if x.n ≤ 64 then cap else ceilDiv (cap * 64) x.n) else s.svNs rate rate d held 0 (svIter x pf pa pr)
  if x.deadline = 0 then cap else Nat.min cap ((x.deadline - s.t) + slice + s.svFallbackNs rate d held)

/-- The team of a solve: member cores with their logical numbers (R224). -/
def State.team (s : State) (c : CoreId) (x : SvBody) : List (CoreId × Nat) :=
  match s.logIdx c with
  | some i => (List.range x.teamCount).filterMap (fun j =>
      let idx := bandOfIdx i * 1280 + x.teamFirst + j
      (s.physIdx c.die idx).map (fun d => (d, c.die.val * 2 ^ 15 + idx)))
  | none => []

/-- Bytes of a core's working store as they stand. -/
def Core.peekWs (k : Core) (c : CoreId) (a n : Nat) : List Byte := (k.physBytes c false a n).map k.ws.read

/-- Descriptors of list `l` (0 forward, 1 adjoint, 2 residual) of a team block (R226). -/
def teamList (blk : List Byte) (l : Nat) : List Desc :=
  (List.range (fieldAt blk (1 + l) 1)).map (fun i =>
    let row := slice blk (512 * (1 + 8 * l + i)) 512
    row.take (32 * fieldAt row 2 1))

/-- The bound P of a product with list `l` (R228): the credits that a member's descriptor holds are those that its admission would
reserve now (R257, R330), one at least. -/
def State.prodBound (s : State) (c : CoreId) (d : Desc) (hsRate rate l : Nat) : Nat :=
  let x := d.sv
  let mem := s.team c x
  let blkOf := fun (m : CoreId × Nat) => if (s.core m.1).member then (s.core m.1).teamBlock else (s.core m.1).peekWs m.1 x.teamOff (25 * 512)
  let one := fun (m : CoreId × Nat) =>
    let blk := blkOf m
    let mh := meshHops (s.logNum c) m.2
    -- the vectors lie in the solver's slice (R220), whose rows the transfers read and write
    let xfer := fun (n : Nat) => hsNs (48 + Nat.max (ceilDiv n 512) (ceilDiv (ceilDiv n 512) 2) + 2 * mh.1 + 16 * mh.2) hsRate
      + ceilDiv (ceilDiv n 512) (Nat.max 1 d.credRes) * accessNs .res rate 250 false
    let lst := (teamList blk l).map (fun q =>
      let p := if q.engine = 0 then mxPlan q.mx else if q.engine = 1 then s.vxPlan m.1 q
               else if q.opcode = 2 then s.atPlan m.1 q.atb else s.copyPlan m.1 q.dma
      let hold := fun (t : Tab Nat) => t.map (fun y => (y.1, Nat.max 1 y.2))
      s.opBound hsRate rate p q (hold (s.gddrNeed p q)) (hold (s.remNeed (s.core m.1).tenancy.toNat p q)))
    xfer (fieldAt blk 0x10 4) + sumN lst + xfer (fieldAt blk 0x1C 4)
  let sumKind := mem.any (fun m => bitAt (fieldAt (blkOf m) 4 1) l)
  let outLen := maxN (mem.map (fun m => fieldAt (blkOf m) 0x1C 4))
  maxN (mem.map one) + (if sumKind then hsNs (ceilDiv (x.teamCount * outLen) 512) hsRate else 0)

/-! ### What EISS refuses as illegal (R70, R195, R201) -/

/-- An extent that lies in, or touches, a grid partition of the working store. -/
def Core.touchesGrid (k : Core) (npa n : Nat) : Bool :=
  npa / 2 ^ 48 == 2 && n != 0 && (k.parts.map (·.2)).any (fun p => p.valid && p.grid &&
    (npa % 2 ^ 48 < (p.baseRow.toNat + p.rows.toNat) * 512 && p.baseRow.toNat * 512 < npa % 2 ^ 48 + n))

/-- A mesh target of a row: an NPA, or another core's working store, which no region covers (R84, R87). -/
def State.meshClaim (s : State) (c : CoreId) (a n : Nat) (p : Perm) : Option Claim :=
  let t := meshTarget a
  let here : Extent := ⟨meshNpa a, n, p⟩
  match (if t.1 = s.logNum c then some c else s.phys t.1) with
  | none => some ⟨here, true⟩
  | some d =>
    if (if t.2.1 then rsSize d else wsSize d) < t.2.2 + n then some ⟨here, true⟩
    else if t.2.1 || t.1 == s.logNum c then some ⟨here, false⟩ else none

/-- What a descriptor fixes in NPAs, its completion record apart. The entries of an atomic batch are data: each is
checked as it is reached (R88, R329). -/
def State.claims (s : State) (c : CoreId) (d : Desc) : List Claim :=
  match d.engine with
  | 0 => d.mx.extents.map ({ ext := · })
  | 1 => d.vxExtents.map ({ ext := · })
  | 2 =>
    if d.opcode = 2 then
      let x := d.atb
      ⟨⟨x.list, 128 * x.count, .r⟩, false⟩ :: (if x.ret = 0 then [] else [⟨⟨x.ret, 64 * x.count, .w⟩, false⟩])
    else
      let x := d.dma
      let side := fun (kind a st : Nat) (p : Perm) => (List.range x.count).filterMap (fun i =>
        let a := a + i * st
        if kind = 0 then some ⟨Extent.mk a x.length p, false⟩ else if kind = 2 then s.meshClaim c a x.length p else none)
      side x.srcKind x.src x.srcStride .r ++ side x.dstKind x.dst x.dstStride .w
  | _ =>
    d.svData.map (fun e => ⟨e, !(e.npa / 2 ^ 48 == 0 || s.ownSlice c e.npa e.len)⟩) ++ d.svHist.map ({ ext := · })
      ++ d.svWork.map (fun e => ⟨e, e.npa / 2 ^ 48 != 0⟩) ++ d.svTrans.map ({ ext := · })

/-- Extents that a descriptor fixes, its completion record apart. -/
def State.extents (s : State) (c : CoreId) (d : Desc) : List Extent := (s.claims c d).map (·.ext)

/-- The completion record's extent (R81). -/
def Desc.recordExt (d : Desc) : Extent := ⟨d.recordAddr, if d.engine = 3 then 64 else 32, .w⟩

/-- The plan of a descriptor that is legal. -/
def State.planOf (s : State) (c : CoreId) (d : Desc) : Plan :=
  match d.engine with
  | 0 => mxPlan d.mx
  | 1 => s.vxPlan c d
  | 2 => if d.opcode = 2 then s.atPlan c d.atb else s.copyPlan c d.dma
  | _ =>
    let w := svWhole d.sv 0 0 0
    { hFixed := 160, hWork := w.hs, nGddr := ceilDiv w.gddr 256, nRes := w.rows, perChan := s.svPer w }

/-- The engine's own illegal cases, zero credits for a class it uses apart. -/
def State.bodyBad (s : State) (c : CoreId) (d : Desc) : Bool :=
  match d.engine with
  | 0 =>
    let x := d.mx
    !(d.opcode == 1 || d.opcode == 2) || d.len != 4
    || [x.aFmt, x.bFmt, x.cFmt].any (fun f => (elemOf f).isNone)
    || !(1 ≤ x.m && 1 ≤ x.n && 1 ≤ x.k && x.k ≤ 65536)
    || (match mxCombo x.aFmt x.bFmt with
        | some (cs, cacc) => if x.acc then x.cFmt != cacc else !cs.contains x.cFmt
        | none => true)
    || (x.extents.take 3).any (fun e => (s.core c).touchesGrid e.npa e.len)
  | 1 => d.vxBad
  | 2 =>
    if d.opcode = 1 then
      let x := d.dma
      d.len != 3 || x.srcKind > 3 || x.dstKind > 3 || !(6 ≤ x.reqLog2 && x.reqLog2 ≤ 9)
      || !(1 ≤ x.length && x.length ≤ 16777216) || !(1 ≤ x.count && x.count ≤ 65535)
      || (isFabKind x.srcKind && fabExtentBad x.src x.srcStride x.count x.length)
      || (isFabKind x.dstKind && fabExtentBad x.dst x.dstStride x.count x.length)
    else if d.opcode = 2 then
      let x := d.atb
      d.len != 2 || !(1 ≤ x.count && x.count ≤ 256) || x.list / 2 ^ 48 != 2 || x.list % 128 != 0
      || !(x.ret == 0 || (x.ret / 2 ^ 48 == 2 && x.ret % 64 == 0))
    else true
  | _ => d.svBad

/-- EISS raises the illegal-instruction exception for this descriptor (R70, R174, R175, R195, R201, R223). -/
def State.descBad (s : State) (c : CoreId) (off : Nat) (d : Desc) : Bool :=
  let eng := d.engine
  off % 32 != 0 || eng > 3 || d.len == 0 || d.len > 16 || off % 512 + 32 * d.len > 512
  || (s.core c).touchesGrid (2 * 2 ^ 48 + off) (32 * d.len)
  || (if isSolver c then eng == 0 || eng == 1 else eng == 3)
  || (d.sumEn && (eng == 0 || eng == 2))
  || d.recordAddr % (if eng = 3 then 64 else 32) != 0
  || d.mode > 4 || !(d.srBits == 0 || (8 ≤ d.srBits && d.srBits ≤ 16))
  || d.credGddr > 256 || d.credRemote > 256 || d.credRes > 2
  || s.bodyBad c d
  || (let p := s.planOf c d
      (p.nGddr != 0 && d.credGddr == 0) || (p.nRemote != 0 && d.credRemote == 0) || (p.nRes != 0 && d.credRes == 0))
  || (d.credRes == 0 && (d.recordExt :: s.extents c d).any (fun e => s.ownSlice c e.npa e.len))

/-! ### Admission (R42, R46, R73 to R79) -/

/-- The duty gate of the hot state is open: the first `hot_duty` sixteenths of each 10 µs (R582). -/
def State.dutyOpen (s : State) (d : Nat) : Bool :=
  (s.dieRate d).heat != 1 || s.t % 10000 * 16 < s.cpc.hotDuty.toNat * 10000

/-- The die admits new work now (R46, R582). -/
def State.dieAdmits (s : State) (d : Nat) : Bool := (s.dieRate d).admitting && s.dutyOpen d

/-- Sum of live entries' credits of one core (R73, R195). -/
def Core.credSum (k : Core) : Nat := sumN ((k.entries.filter (·.2.live)).map (fun e => e.2.d.credGddr + e.2.d.credRemote + e.2.resCred))
def Core.resSum (k : Core) : Nat := sumN ((k.entries.filter (·.2.live)).map (·.2.resCred))

/-- Every credit and tag a plan needs is available (R42, R73, R195, R257, R330, R276). -/
def State.credsOk (s : State) (c : CoreId) (p : Plan) (d : Desc) : Bool :=
  let k := s.core c
  let ten := k.tenancy.toNat
  let g := s.gddrNeed p d
  let r := s.remNeed ten p d
  k.credSum + d.credGddr + d.credRemote + d.credRes ≤ 256 && k.resSum + d.credRes ≤ 2
  && g.all (fun x => (s.chan x.1).heat != 2 && x.2 != 0 && (s.chan x.1).credUsed + x.2 ≤ (s.chan x.1).share)
  && r.all (fun x => x.2 != 0 && (match s.remHeld ten x.1 with | some h => decide (x.2 + s.reserved x.1 ≤ h) | none => true))
  && [0, 1].all (fun pl =>
      let need := sumN ((r.filter (fun x => x.1 % 2 == pl)).map (·.2))
      need == 0 || (s.dieAdmits (5 + pl) && (s.fab pl).alive && ((s.fab pl).tagsUsed.get ten).toNat + need ≤ ((s.fab pl).tagQuota.get ten).toNat))

/-- Every member of a solve's team can be recruited (R224). -/
def State.teamOk (s : State) (c : CoreId) (x : SvBody) : Bool :=
  let k := s.core c
  let mem := s.team c x
  mem.length == x.teamCount && mem.all (fun m =>
    let km := s.core m.1
    km.jobValid && k.jobValid && km.jobId == k.jobId && km.jobGen == k.jobGen && !km.member
    && km.peekWs m.1 x.teamOff 1 == [1] && 8 ≤ km.freeEntries)

/-- The team unit reads each member's team block by the mesh (R35, R224, R225): the blocks, none where a member drops the read, a word of one
is uncorrectable or a bank of one is not ready. DESIGN CHOICE (log 48): such a member cannot be recruited. -/
def State.teamRead (s : State) (c : CoreId) (d : Desc) : State × Option (List (CoreId × List Byte)) :=
  (s.team c d.sv).foldl (fun (acc : State × Option (List (CoreId × List Byte))) m =>
    let f := acc.1.coreFlit c m.2 1 false d.sv.teamOff 512 true d.opTag [] 0 0
    if !acc.1.flitAccepted m.1 f then (acc.1.flitDropped m.1 f, none) else
    let r := acc.1.storeRead m.1 false d.sv.teamOff (25 * 512) { (s.core c).who 4 d.opTag with status := stNotAdmitted }
    let ok := !r.2.1 && (s.core m.1).banksReady m.1 d.sv.teamOff (25 * 512) && d.sv.teamOff + 25 * 512 ≤ wsSize m.1
    (r.1, if ok then acc.2.map (· ++ [(m.1, r.2.2)]) else none)) (s, some [])

/-- The last end-by time ahead on the same engine, and that of the dependency (R78). -/
def Core.queueEnd (k : Core) (eng : Nat) (dep : Dep) : Nat :=
  let live := k.entries.filter (fun e => e.2.live)
  let last := (live.filter (fun e => e.2.d.engine == eng)).foldl (fun (a : Nat × Nat) e => if a.1 ≤ e.2.op then (e.2.op, e.2.endBy) else a) (0, 0)
  let de := match dep with
    | .on op => maxN ((live.filter (fun e => e.2.op == op)).map (·.2.endBy))
    | _ => 0
  Nat.max last.2 de

/-- Resolve `after_entry` at admission (R77); `own` is the entry admission allocates. -/
def Core.resolveDep (k : Core) (d : Desc) (own : Nat) : Dep :=
  if d.afterValid ∧ d.afterEntry ≠ own then
    let e := k.entry d.afterEntry
    match e.code with
    | .free => .none
    | .admitted | .running => .on e.op
    | .done => .none
    | .aborted | .failed => .broken
  else .none

/-- A FREE entry: the one the operand picks, or the next free one after it. -/
def Core.pickFree (k : Core) (pick : Nat) : Option Nat :=
  ((List.range 64).map (fun i => (pick + i) % 64)).find? (fun i => k.isFree i)

/-- Put an accepted operation into its entry. DESIGN CHOICE (log 44): `desc_offset` has 16 bits, and of a solver core's offset, which may
go up to 0x3_FFFF, it holds the low 16 (R67, R80). The entries of an atomic batch are kept as admission counted them, for they fix
its extents (R257). -/
def State.place (s : State) (c : CoreId) (i off : Nat) (d : Desc) (bound : Nat) (g r : Tab Nat) (dep : Dep) (lent : Bool) : State :=
  let s1 := g.foldl (fun s x => s.updChan x.1 (fun ch => { ch with credUsed := ch.credUsed + x.2 })) s
  let ten := (s.core c).tenancy.toNat
  let s2 := r.foldl (fun s x => s.updFab (x.1 % 2) (fun f =>
    { f with tagsUsed := f.tagsUsed.upd ten (fun u => BitVec.ofNat 16 (u.toNat + x.2)) })) s1
  s2.updCore c (fun k =>
    { k.setEntry i { code := .admitted, desc := d, off := BitVec.ofNat 16 off, op := k.nextOp, dep := dep, tStart := s.t
                     endBy := s.t + bound, bound := bound, gddrCred := g, remCred := r, resCred := d.credRes, lent := lent, acc := k.accIndex
                     batch := if d.engine = 2 ∧ d.opcode = 2 then s.batchBytes c d.atb else [] } with
      nextOp := k.nextOp + 1, order := if lent then k.order else k.order ++ [i], accIndex := k.accIndex + 1 })

/-- The first extent of a descriptor that fails the local region check (R79, R87), its completion record last. Matrix and vector
operands lie in the core's own stores (R111, R126). DESIGN CHOICE (log 44): the E8M0 scale
arrays, which R111 does not name, lie there too. -/
def State.badExtent (s : State) (c : CoreId) (d : Desc) : Option Extent :=
  let at0 := fun (e : Extent) => match d.engine with
    | 0 | 1 => e.npa / 2 ^ 48 == 2 || s.ownSlice c e.npa e.len
    | _ => true
  match (s.claims c d).find? (fun e => e.dead || !s.regionOk c e.ext.npa e.ext.len e.ext.perm || !at0 e.ext) with
  | some e => some e.ext
  | none => let e := d.recordExt
            if s.regionOk c e.npa e.len e.perm then none else some e

/-- Fabric packages a descriptor names. -/
def State.namesLost (s : State) (c : CoreId) (p : Plan) : Bool :=
  let ten := (s.core c).tenancy.toNat
  p.perPeer.any (fun x => let e := s.rackEntry (x.1 % 2) ten (x.1 / 2)
                          e.valid && e.lost)

/-- Recruit the team of a solve (R224, R225): each member lends eight entries and latches its team block. -/
def State.recruit (s : State) (c : CoreId) (i : Nat) (mem : List (CoreId × List Byte)) : State :=
  (mem.foldl (fun s m => s.updCore m.1 (fun km =>
    { km with member := true, solver := BitVec.ofNat 17 (s.logNum c), solveEntry := i
              lent := ((List.range 64).filter (fun j => km.isFree j)).take 8
              teamBlock := m.2 })) s).updCore c (fun k => { k with recruited := k.recruited + BitVec.ofNat 11 mem.length })

/-- Admission of a descriptor: the entry and the state, or the status of the refusal. A descriptor whose credits or team are not
available is not admitted (R75, R224); one that is admitted may fail at once, of its regions first (R79, R122), of a lost package last
(R341). DESIGN CHOICE (log 44): the address logged for an extent that fails is its first one (R88). -/
def State.admitEntry (s : State) (c : CoreId) (pick off : Nat) (d : Desc) (lent : Bool) : State × Option Nat :=
  let k := s.core c
  let rate := (s.dieRate c.die.val).floorRate.toNat
  let p := s.planOf c d
  let who := k.who 0 d.opTag
  match (if lent then (k.lent.filter (fun i => (k.entry i).code == .free)).head? else k.pickFree pick) with
  | none => (s, none)
  | some i =>
    if !lent && (!k.enable || k.member || !s.dieAdmits c.die.val) then (s, none)
    else if !s.credsOk c p d || (d.engine == 3 && !s.teamOk c d.sv) then (s, none) else
    let tr := if d.engine = 3 then s.teamRead c d else (s, some [])
    match tr.2 with
    | none => (tr.1, none)
    | some blocks =>
    let s := tr.1
    let dep := k.resolveDep d i
    let g := s.gddrNeed p d
    let r := s.remNeed k.tenancy.toNat p d
    let b := if d.engine = 3 then
        s.svBound rate d g (s.prodBound c d rate rate 0) (s.prodBound c d rate rate 1) (s.prodBound c d rate rate 2)
      else s.opBound rate rate p d g r
    let bound := k.queueEnd d.engine dep - s.t + b
    -- one that fails at once takes no credits; its bound is that of every accepted operation (R47, R78)
    let failing := s.place c i off d bound [] [] .none lent
    let fail := fun (s : State) (x : Ending) => (s.endEntry c i { x with code := .failed, untouched := true }, some i)
    match s.badExtent c d with
    | some e =>
      fail (failing.hand
        { unit := coreUnit c 0x00, cls := 0x06, severity := 2, status := stWindowFault, addrKind := 1, address := BitVec.ofNat 64 e.npa
          jobId := who.jobId, jobGen := who.jobGen, opTag := d.opTag })
        { status := stWindowFault, logged := true, noRecord := !s.regionOk c d.recordExt.npa d.recordExt.len .w }
    | none =>
      if d.engine = 0 ∧ k.narrowOnly ∧ d.mx.wide then
        fail (failing.hand
          { unit := coreUnit c 0x01, cls := 0x03, severity := 2, status := stResidueFault, jobId := who.jobId, jobGen := who.jobGen, opTag := d.opTag })
          { status := stResidueFault, logged := true }
      else if s.namesLost c p then
        fail (p.perPeer.foldl (fun s x => s.updFab (x.1 % 2) (fun f => { f with targetLost := satAdd f.targetLost x.2 })) failing)
          { status := stTargetLost }
      else
        let s1 := s.place c i off d bound g r dep lent
        let s2 := if d.engine = 3 then s1.recruit c i blocks else s1
        (if dep = .broken then s2.endEntry c i { code := .aborted, status := stAborted, untouched := true } else s2, some i)

end Sys2Proof.Machine
end

