-- ==== Sys2Proof/Machine/Engine.lean ====
section
/-! DEFINITION. What the engines of a core share: reads and merged writes in the core's own stores (R193, R199, R210),
outputs left unspecified (R92, R116, R210), residue records (R118, R154), and the end of an operation's running. -/

namespace Sys2Proof.Machine

/-- The engine has nothing more to do for this entry: it ends at OP_END with this status. -/
def State.finish (s : State) (c : CoreId) (i : Nat) (st : Byte) : State :=
  s.updCore c (fun k => k.updEntry i (fun e => { e with outcome := some st }))

/-- The operation's record says that an error record was logged (R81, flags bit 3). -/
def State.markLogged (s : State) (c : CoreId) (i : Nat) : State :=
  s.updCore c (fun k => k.updEntry i (fun e => { e with recFlags := e.recFlags ||| 8 }))

/-- `s` follows `s0` in the running of an operation: an error record logged in between was logged for it (R81). -/
def State.noteRecords (s s0 : State) (c : CoreId) (i : Nat) : State :=
  if s.handed.length = s0.handed.length then s else s.markLogged c i

/-- An entry that its engine is executing and has not finished. -/
def Entry.busy (e : Entry) : Bool := e.code == .running && e.outcome.isNone

/-- Store and offset of an address in the core's own stores: true for the slice. -/
def State.ownPlace (s : State) (c : CoreId) (npa : Nat) : Bool × Nat :=
  if npa / 2 ^ 48 = 2 then (false, npa % 2 ^ 48)
  else match s.rsTarget (npa % 2 ^ 48) with
    | some (_, o) => (true, o)
    | none => (true, 0)

/-- Bytes of the core's own stores as they stand. -/
def State.ownPeek (s : State) (c : CoreId) (npa n : Nat) : List Byte :=
  let p := s.ownPlace c npa
  let k := s.core c
  (k.physBytes c p.1 p.2 n).map (fun a => (if p.1 then k.rs else k.ws).read a)

/-- Physical bytes of segments of one of the two stores. -/
def State.ownPas (s : State) (c : CoreId) (res : Bool) (segs : List (Nat × Nat)) : List Nat :=
  segs.flatMap (fun g => let p := s.ownPlace c g.1
                         if p.1 = res then (s.core c).physBytes c res p.2 g.2 else [])

/-- Judge the words of segments in the core's own stores: whether one is uncorrectable. -/
def State.ownJudge (s : State) (c : CoreId) (segs : List (Nat × Nat)) (w : Who) : State × Bool :=
  let a := s.judge c false (wordsOf (s.ownPas c false segs)) w
  let b := a.1.judge c true (wordsOf (s.ownPas c true segs)) w
  (b.1, !a.2.isEmpty || !b.2.isEmpty)

/-- The writes of a tile or pass: every word merged into is checked before any is written; nothing is written when
one is uncorrectable (R210). -/
def State.ownMerge (s : State) (c : CoreId) (ws : List (Nat × List Byte)) (w : Who) : State × Bool :=
  let k := s.core c
  let put := ws.map (fun x => let p := s.ownPlace c x.1
                              (p.1, (k.physBytes c p.1 p.2 x.2.length).zip x.2))
  let part := fun (res : Bool) => ((put.filter (fun x => x.1 == res)).flatMap (fun x => partWords (x.2.map (·.1)))).eraseDups
  let a := s.judge c false (part false) w
  let b := a.1.judge c true (part true) w
  if !a.2.isEmpty || !b.2.isEmpty then (b.1, true) else
  (put.foldl (fun s x => s.updCore c (fun k => k.putPhys x.1 x.2 (wordsOf (x.2.map (·.1))))) b.1, false)

/-- Note the bytes an operation writes, for the Cast checksum (R473). -/
def State.noteWrites (s : State) (c : CoreId) (i : Nat) (ws : List (Nat × List Byte)) : State :=
  if s.castMode then
    s.updCore c (fun k => k.updEntry i (fun e => { e with
      wrote := e.wrote ++ ws.flatMap (fun x => ((List.range x.2.length).map (x.1 + ·)).zip x.2) }))
  else s

/-- Free bytes for `n` addresses from `a` (log 2). -/
def State.freeBytes (s : State) (a n : Nat) : List Byte := (List.range n).map (fun i => Config.freeByte s.freeCount (a + i))

/-- The bytes at an NPA become unspecified: own stores, another core's slice, GDDR, SRAM ways. -/
def State.scrambleAt (s : State) (c : CoreId) (npa n : Nat) : State :=
  let off := npa % 2 ^ 48
  let bs := s.freeBytes npa n
  match npa / 2 ^ 48 with
  | 0 => (unitPieces off n).foldl (fun s p =>
      let q := s.steer (p.1 / 256)
      s.updChan q.1 (fun ch => { ch with mem := ch.mem.writeN (ch.spared q.2 * 256 + p.1 % 256) (slice bs (p.1 - off) p.2) })) s
  | 1 => match s.rsTarget off with
    | some (d, o) => s.updCore d (fun k => { k with rs := k.rs.writeN o bs })
    | none => s
  | 2 => s.updCore c (fun k => k.putPhys false ((k.physBytes c false off n).zip bs) [])
  | 3 => if off + n ≤ 0xC000000 then (s.sramPut off bs {}).1 else s
  | _ => s

/-- The output regions are unspecified: every byte of them is free (log 2). -/
def State.scramble (s : State) (c : CoreId) (segs : List (Nat × Nat)) : State :=
  (segs.foldl (fun s g => s.scrambleAt c g.1 g.2) s).drawn

/-- Output regions of a DMA operation: the rows of a `copy`, the return area of an atomic batch. -/
def State.dmaScramble (s : State) (c : CoreId) (d : Desc) : State :=
  if d.opcode = 2 then (if d.atb.ret = 0 then s else s.scramble c [(d.atb.ret, 64 * d.atb.count)])
  else
    let x := d.dma
    ((List.range x.count).foldl (fun s i =>
      let a := x.dst + i * x.dstStride
      if x.dstKind = 0 then s.scrambleAt c a x.length
      else if x.dstKind = 2 then
        match s.phys (meshTarget a).1 with
        | some d => s.scrambleAt d (meshNpa a) x.length
        | none => s
      else s) s).drawn

/-! ### What the other engine wrote (R156) -/

/-- The core's stores as the running tile reads them: each row that the other engine has written since the tile began holds the content
that some of those writes have left, from before the first to after the last. How many it holds is free (log 45); the others are undone. -/
def State.tileView (s : State) (c : CoreId) (vec : Bool) : State :=
  let k := s.core c
  let old := if vec then k.vxOld else k.mxOld
  if old.isEmpty then s else
  s.updCore c (fun k => old.zipIdx.reverse.foldl (fun k w => w.1.foldl (fun k x =>
    if w.2 < Config.rowAt s.freeCount (x.1 / 512) then k
    else if x.1 < 2 ^ 32 then { k with ws := k.ws.write x.1 x.2 } else { k with rs := k.rs.write (x.1 - 2 ^ 32) x.2 }) k) k)

/-- A tile of this engine ends: what it saw of the other engine is forgotten, and what it changed in `s0` joins what the other may still
have seen, where that one runs. -/
def State.tileSeen (s s0 : State) (c : CoreId) (vec : Bool) (ws : List (Nat × List Byte)) : State :=
  let k0 := s0.core c
  let drawn := fun (s : State) => if (if vec then k0.vxOld else k0.mxOld).isEmpty then s else s.drawn
  let runs := if vec then k0.mx.isSome else k0.vx.isSome
  let at0 := ws.flatMap (fun x => let p := s0.ownPlace c x.1
                                  (k0.physBytes c p.1 p.2 x.2.length).map (fun a => (b2n p.1 * 2 ^ 32 + a, (if p.1 then k0.rs else k0.ws).read a)))
  let add := fun (old : List (List (Nat × Byte))) => if runs && !at0.isEmpty then old ++ [at0] else old
  drawn (s.updCore c (fun k => if vec then { k with vxOld := [], mxOld := add k.mxOld } else { k with mxOld := [], vxOld := add k.vxOld }))

/-! ### Residue checks (R114 to R119, R151 to R155, R245) -/

/-- Order in which one record picks among the checks that mismatch (R118, R154): unit, then for a lane the stage, then the check. -/
def findingKey (vec : Bool) (f : Finding) : Nat := f.unit.toNat * 2 ^ 16 + (if vec then f.stage.toNat * 2 ^ 8 else 0) + f.check.toNat

/-- Modulus of a residue checker, and the period of powers of 2 modulo it: 31 and 5, or 7 and 3 on the lanes (R114, R151). -/
def resMod (vec : Bool) : Nat × Nat := if vec then (7, 3) else (31, 5)

/-- The residue of an integer, shifted left by `sh` bits (R114). -/
def resOf (vec : Bool) (x : Int) (sh : Nat := 0) : Nat :=
  let m := (resMod vec).1
  (x % (m : Int)).toNat * 2 ^ (sh % (resMod vec).2) % m

/-- What a check predicts from what went in (R114, R151). -/
def predicted (vec : Bool) : Compared → Nat
  | .product a b _ => resOf vec a * resOf vec b % (resMod vec).1
  | .sum x y ex ey _ => (resOf vec x ex + resOf vec y ey) % (resMod vec).1
  | .round _ _ _ total => resOf vec total
  | .fma a b c ep ec _ => (resOf vec (resOf vec a * resOf vec b : Nat) ep + resOf vec c ec) % (resMod vec).1
  | .pair a _ => a
  | .tile enter _ => sumN enter % (resMod vec).1

/-- What a check observes of what the datapath made of it. -/
def observed (vec : Bool) : Compared → Nat
  | .product _ _ p => resOf vec p
  | .sum _ _ _ _ total => resOf vec total
  | .round kept bits dropped _ => (resOf vec kept bits + resOf vec dropped) % (resMod vec).1
  | .fma _ _ _ _ _ total => resOf vec total
  | .pair _ b => b
  | .tile _ leave => sumN leave % (resMod vec).1

/-- The check finds a difference: an error whose change is a multiple of the modulus goes undetected (R115, R152). -/
def checkFails (vec : Bool) (f : Finding) : Bool := observed vec f.what != predicted vec f.what

/-- The mismatches of checks that the running work has, none if there are none. -/
def misFits (vec : Bool) (has : Finding → Bool) (m : Mismatch) : Option Mismatch :=
  let real := fun (l : List Finding) => l.filter (fun f => checkFails vec f && has f)
  if (real m.first).isEmpty then none else some { m with first := real m.first, second := real m.second }

/-- The mismatch that the one record names. -/
def lowest (vec : Bool) (l : List Finding) : Finding :=
  l.foldl (fun a f => if findingKey vec f < findingKey vec a then f else a) (l.headD default)

/-- The difference of a check modulo 31 or 7 (R118, R154). -/
def findingDiff (vec : Bool) (f : Finding) : Nat :=
  (((observed vec f.what : Int) - predicted vec f.what) % ((resMod vec).1 : Int)).toNat

/-- A residue error record (R118, R154). -/
def State.residueRec (s : State) (c : CoreId) (unit : Nat) (vec : Bool) (f : Finding) (sev : Nat) (st : Byte) (e : Entry) (detail : List Byte) : State :=
  let w := (s.core c).who 0 e.d.opTag
  s.hand { unit := coreUnit c unit, cls := 0x03, severity := BitVec.ofNat 8 sev, status := st
           syndrome := BitVec.ofNat 64 (findingDiff vec f + 256 * f.check.toNat), jobId := w.jobId, jobGen := w.jobGen, opTag := e.d.opTag
           detail := detail }

/-- What a boundary makes of a mismatch (R116, R117, R119, R153). -/
inductive Verdict where
  /-- no mismatch -/
  | clean
  /-- re-executed once, and the second execution matches; with an abort, one that came during the re-execution -/
  | corrected
  /-- the operation fails; `again`: after a re-execution -/
  | failed (again : Bool)
  /-- an abort stands at the boundary: recorded only; `again` as before -/
  | recorded (again : Bool)
deriving DecidableEq, Repr, Inhabited

/-- Judge a mismatch at a boundary. -/
def verdict (mis : Option Mismatch) (e : Entry) : Verdict :=
  match mis with
  | none => .clean
  | some m =>
    let redone := !e.reexec && (m.late || !e.abortReq)
    if redone && m.second.isEmpty then .corrected
    else if e.abortReq then .recorded redone else .failed redone

/-- The boundary re-executed the tile or pass. -/
def Verdict.redone : Verdict → Bool
  | .corrected => true
  | .failed a => a
  | .recorded a => a
  | .clean => false

/-- `suspect` is set and node firmware signalled (R116 step 4). -/
def State.suspectSet (s : State) (c : CoreId) : State :=
  (s.updCore c (fun k => { k with suspect := true })).raise (8 + c.die.val)

/-- A residue counter of the core goes up: corrected, failed or found at an abort; the vector engine's, or that of the matrix and solver
engines (R155, R245). -/
def Core.countMis (k : Core) (vec : Bool) (v : Verdict) : Core :=
  match v, vec with
  | .clean, _ => k
  | .corrected, false => { k with mxCorrected := satInc k.mxCorrected }
  | .corrected, true => { k with vxCorrected := satInc k.vxCorrected }
  | .failed _, false => { k with mxFailed := satInc k.mxFailed }
  | .failed _, true => { k with vxFailed := satInc k.vxFailed }
  | .recorded _, false => { k with mxAborted := satInc k.mxAborted }
  | .recorded _, true => { k with vxAborted := satInc k.vxAborted }

/-- A mismatch is recorded and counted (R116 to R119, R153, R245): the first execution's with severity 1 where a re-execution followed,
with 0 where an abort forbade one; the one that ends the operation with severity 2. `detail` takes the execution, 1 or 2, and the check. -/
def State.mismatched (s : State) (c : CoreId) (i unit : Nat) (vec : Bool) (m : Mismatch) (v : Verdict) (detail : Nat → Finding → List Byte) : State :=
  let e := (s.core c).entry i
  let log := fun (s : State) (pass sev : Nat) (st : Byte) =>
    let f := lowest vec (if pass = 2 then m.second else m.first)
    s.residueRec c unit vec f sev st e (detail pass f)
  let s1 := if v.redone then (log s 1 1 0).updCore c (fun k => k.updEntry i (fun e => { e with reexec := true })) else s
  let last := if v.redone then 2 else 1
  let s2 := match v with
    | .failed _ => log s1 last 2 stResidueFault
    | .recorded a => log s1 last (if a then 2 else 0) 0
    | _ => s1
  let s3 := s2.updCore c (fun k => let k1 := k.countMis vec v
                                   if v = .corrected then { k1 with reexecTimes := s.t :: k1.reexecTimes } else k1)
  match v with
  | .failed _ => s3.suspectSet c
  | .recorded true => s3.suspectSet c
  | _ => s3

end Sys2Proof.Machine
end

