-- ==== Sys2Proof/Machine/Transport.lean ====
section
/-! DEFINITION. What every Weamin transport frame shares (chapter 10): header and carriage, peers, sequence spaces,
credits, answers, requests issued and re-sent, the job check (R448), hop latency (R302, R304), and the window check
(R321, R335) that ends in a queue of a channel or slice. -/

namespace Sys2Proof.Machine

/-! ### Admission of a die (R37, R38, R55), and waking from Doldrums (R576, R578) -/

/-- Floor voltage of a die's rail in mV (R37). -/
def floorMv (profile d : Nat) : Nat :=
  match profile with
  | 0 => if d < 4 then 750 else if d = 4 then 750 else 780
  | 1 => if d < 4 then 660 else if d = 4 then 700 else 740
  | _ => if d < 4 then 580 else if d = 4 then 660 else 700
/-- Nothing but the die's own request stands against admission: the dies are released, and there is no breach, no heat-hold, no
change of profile, no Doldrums, no restart, no stop. -/
def State.mayAdmit (s : State) (d : Nat) : Bool :=
  let r := s.dieRate d
  decide (9 ≤ s.boot.phase.toNat) && !r.breach && !r.floorLoss && r.heat != 2 && !r.switching && !s.cpc.stopped && !s.cpc.restarting
    && s.twin.state != 6
    && (r.waitNs != 0 || s.cpc.dold == 0)

/-- The floor voltage that governs a die: that of the profile its floor rate names; 0 before its release. -/
def DieRate.lowMv (r : DieRate) (d : Nat) : Nat :=
  if r.floorRate = 0 then 0 else floorMv (match r.floorRate.toNat with | 800 => 0 | 600 => 1 | _ => 2) d

/-- The die sets `admitting`: a held request to resume is answered, and the rail stands at the floor voltage at least (R38, R55). -/
def DieRate.reopen (r : DieRate) (d : Nat) : DieRate :=
  { r with admitting := true, resume := false, mustResume := false, okSince := none, waitNs := 0
           railMv := BitVec.ofNat 16 (Nat.max r.railMv.toNat (r.lowMv d)) }

/-- The die sets `admitting`, which ends the last step of a reset it went through (R569). -/
def State.reopenDie (s : State) (d : Nat) : State :=
  let s1 := s.updDie d (fun r => r.reopen d)
  if d < 4 && (s.cdie d).busy then s1.updCdie d (fun m => { m with busy := false }) else s1

/-- The die admits again once what stopped it is over, unless a breach stopped it too, which only `resume` ends (R55), or it
still waits after a reset or a wake. -/
def State.admitNow (s : State) (d : Nat) : State :=
  if s.mayAdmit d && !(s.dieRate d).mustResume && (s.dieRate d).waitNs == 0 then s.reopenDie d else s

/-- A wake cause: during entry the entry ends and dies admit again; in Doldrums the first cause starts the wake. -/
def State.wakeBy (s : State) (cause : BitVec 4) : State :=
  if s.cpc.dold = 1 then
    (List.range 7).foldl (fun s d => s.admitNow d) { s with cpc := { s.cpc with dold := 0, wakeCause := cause } }
  else if s.cpc.dold = 2 then { s with cpc := { s.cpc with dold := 3, wakeCause := cause } }
  else s

/-! ### Header and carriage (R285, R286, R288) -/

/-- The 32-byte header. -/
def wtHeader (f : WtFrame) : List Byte :=
  [BitVec.ofNat 8 (f.version.toNat * 16 + f.type.toNat), f.flags] ++ beBytes 2 f.jobId.toNat ++ beBytes 2 f.jobGen.toNat
    ++ beBytes 2 f.srcRank.toNat ++ beBytes 2 f.dstRank.toNat ++ beBytes 2 f.tag.toNat ++ beBytes 3 f.seq.toNat
    ++ [BitVec.ofNat 8 (b2n f.origin * 128 + f.pathId.toNat)] ++ beBytes 2 f.creditGrant.toNat ++ beBytes 2 f.hopStamp.toNat
    ++ beBytes 4 f.tSend.toNat ++ beBytes 2 f.payloadLen.toNat ++ [f.status, 0] ++ beBytes 3 f.ackFloor.toNat ++ [0]

/-- CRC-32C over header and payload (R285, R290). -/
def wtCrc (f : WtFrame) : BitVec 32 := crc32c (wtHeader f ++ f.payload)

/-- A frame with its length and CRC filled in. -/
def wtSeal (f : WtFrame) : WtFrame :=
  let g := { f with payloadLen := BitVec.ofNat 16 f.payload.length }
  { g with crc := wtCrc g }

/-- Types 0x0 and 0xC to 0xF are reserved (R289). -/
def wtReserved (t : BitVec 4) : Bool := t == 0 || 12 ≤ t.toNat

/-- A frame the receiving die drops under R290. -/
def wtBad (f : WtFrame) (udp : Bool) : Bool :=
  !f.fcsOk || (udp && !f.udpOk) || f.crc != wtCrc f || f.version != 1 || wtReserved f.type
    || f.payloadLen.toNat != f.payload.length || 4096 < f.payload.length

def State.carriage (s : State) (pl sub : Nat) (mac : BitVec 48) (ip : BitVec 128) (pathId : Nat) : Carriage :=
  (s.fab pl).carriage (s.ownAddr pl sub) mac ip pathId

/-- The IPv6 and UDP headers around `n` bytes of WT frame (R286); a checksum of 0 is sent as 0xFFFF. -/
def IpCarriage.bytes (c : IpCarriage) (wt : List Byte) : List Byte :=
  let len := 8 + wt.length
  let ports := beBytes 2 c.udpSrc.toNat ++ beBytes 2 c.udpDst.toNat ++ beBytes 2 len
  let sum := inetSum (beBytes 16 c.src.toNat ++ beBytes 16 c.dst.toNat ++ beBytes 4 len ++ [0, 0, 0, c.nextHeader] ++ ports ++ [0, 0] ++ wt)
  beBytes 4 (6 * 2 ^ 28 + c.trafficClass.toNat * 2 ^ 20 + c.flowLabel.toNat) ++ beBytes 2 len ++ [c.nextHeader, c.hopLimit]
    ++ beBytes 16 c.src.toNat ++ beBytes 16 c.dst.toNat ++ ports ++ beBytes 2 (if sum = 0 then 0xFFFF else sum)

/-- A WT frame as it stands on the wire (R285, R286): addresses, tag, headers, header and payload with their CRC, padding to 64 bytes,
and the frame check sequence, which IEEE 802.3 sends with its low byte first. -/
def wireBytes (c : Carriage) (f : WtFrame) : List Byte :=
  let wt := wtHeader f ++ f.payload ++ beBytes 4 f.crc.toNat
  let b := beBytes 6 c.dstMac.toNat ++ beBytes 6 c.srcMac.toNat
    ++ (match c.tag with | some v => beBytes 2 0x8100 ++ beBytes 2 v.toNat | none => []) ++ beBytes 2 c.etherType.toNat
    ++ (match c.ip with | some i => i.bytes wt | none => []) ++ wt
  let p := b ++ List.replicate (60 - b.length) 0
  p ++ leBytes 4 (fcs32 p).toNat

/-! ### The twin port (R452, R453) -/

/-- The number under which the transport keeps the twin as a peer: no address has it. -/
def twinPeer : Nat := 2 ^ 130

/-! ### Peers -/

/-- A configured host, as an entry of its own: the address of its tenancy's registers (R426). It keeps rank numbers from 0xFFF0 on. -/
def State.hostEntry (s : State) (t : Nat) : RankEntry :=
  let n := s.ten t
  { mac := n.hostMac, ip6hi := n.ip6hi, ip6lo := n.ip6lo, valid := n.queues != 0 }

/-- The entry a plane sends by to a rank of a tenancy's job, or to its host (R426, R446). -/
def State.destEntry (s : State) (pl k : Nat) : RankEntry :=
  if 0xFFF0 ≤ k % 65536 then s.hostEntry (k / 65536) else (s.fab pl).ranks.get k

/-- The address of a rank-table entry, as its plane carries frames. -/
def Fabric.entAddr (f : Fabric) (e : RankEntry) : Nat := if f.udpMode then e.ip6hi.toNat * 2 ^ 64 + e.ip6lo.toNat else e.mac.toNat

/-- The tenancy whose job entry holds a job and generation. -/
def State.jobTen (s : State) (id gen : BitVec 16) : Option Nat :=
  (List.range 8).find? (fun t => let j := (s.ten t).job
                                 j.state != 0 && j.jobId == id && j.jobGen == gen)

/-- The tenancy whose ACTIVE job it is (R319, R448). -/
def State.activeTen (s : State) (id gen : BitVec 16) : Option Nat :=
  (s.jobTen id gen).filter (fun t => (s.ten t).job.state == 2)

/-- The rank-table key of a frame's sender on a plane: by job and rank, else by its address. -/
def State.srcRankKey (s : State) (pl : Nat) (f : WtFrame) : Option Nat :=
  let byJob := (if f.jobId = 0 then none else s.jobTen f.jobId f.jobGen).bind (fun t =>
    let k := t * 65536 + f.srcRank.toNat
    if ((s.fab pl).ranks.get k).valid then some k else none)
  match byJob with
  | some k => some k
  | none =>
    let a := if (s.fab pl).udpMode then f.srcIp6.toNat else f.srcMac.toNat
    ((s.fab pl).ranks.find? (fun e => e.2.valid && (s.fab pl).entAddr e.2 == a)).map (·.1)

/-- The number by which a rank's package is kept: its package number in the rack domain, else 256 and its address on plane 0. -/
def State.peerOfRank (s : State) (k : Nat) : Nat :=
  let e := s.destEntry 0 k
  if e.inRack then e.pkg.toNat else 256 + (s.fab 0).entAddr e

/-- The peer a frame comes from. -/
def State.peerOf (s : State) (pl : Nat) (f : WtFrame) : Nat :=
  if f.twin then twinPeer else
  match s.srcRankKey pl f with
  | some k => s.peerOfRank k
  | none => 256 + (if (s.fab pl).udpMode then f.srcIp6.toNat else f.srcMac.toNat)

/-! ### Sequence spaces (R292 to R294, R307) -/

/-- The die that keeps the receive space of an origin: that plane's die, or the other once it has failed (R307). -/
def State.spaceHome (s : State) (origin : Bool) : Nat :=
  let o := b2n origin
  if (s.fab o).alive then o else 1 - o

def spaceKey (peer : Nat) (origin : Bool) : Nat := peer * 2 + b2n origin

/-- The receive space of a peer and origin; a space first met at the other die has been taken over with `low` unknown. -/
def State.space (s : State) (peer : Nat) (origin : Bool) : SeqSpace :=
  let h := s.spaceHome origin
  let sp := (s.fab h).spaces.get (spaceKey peer origin)
  if (h ≠ b2n origin ∨ s.twin.tookOver) ∧ ¬ sp.takenOver then { known := false, takenOver := true } else sp

def State.setSpace (s : State) (peer : Nat) (origin : Bool) (sp : SeqSpace) : State :=
  s.updFab (s.spaceHome origin) (fun f => { f with spaces := f.spaces.set (spaceKey peer origin) sp })

/-- `a` is at or after `b` in the order modulo 2^24 that R293 uses near a window. -/
def seqGe (a b : BitVec 24) : Bool := (a - b).toNat < 2 ^ 23

/-- A frame's `ack_floor`: an unknown `low` is learnt from it, and `low` is never below it; statuses of executed requests are kept for the
2^22 numbers below `low`, where a copy may still come (R292, R293). -/
def SeqSpace.floor (sp : SeqSpace) (fl : BitVec 24) : SeqSpace :=
  let sp := if sp.known then sp else { sp with known := true, low := fl }
  if seqGe fl sp.low then
    { sp with low := fl, seen := sp.seen.filter (fun x => seqGe x.1 fl)
              old := (sp.old ++ sp.seen.filter (fun x => !seqGe x.1 fl)).filter (fun x => (fl - x.1).toNat ≤ 2 ^ 22) }
  else sp

/-- The status that marks a request accepted and not yet answered. -/
def seqPending : Byte := 0xFF

/-- How R293 classifies a request: a duplicate comes with the status it was given, where the space still holds one. -/
inductive SeqClass where
  | new | dup (status : Option Byte) | ahead | stale
deriving DecidableEq, Repr, Inhabited

def SeqSpace.classify (sp : SeqSpace) (seq floor : BitVec 24) : SeqClass :=
  let d := (seq - sp.low).toNat
  if d < 32768 then
    match sp.seen.find? (fun x => x.1 == seq) with
    | some x => .dup (some x.2)
    | none => .new
  else if d < 2 ^ 24 - 2 ^ 22 then .ahead
  else if seqGe seq floor then .dup ((sp.old.find? (fun x => x.1 == seq)).map (·.2))
  else .stale

/-- `low` advances over the leading executed numbers. -/
def SeqSpace.advance : Nat → SeqSpace → SeqSpace
  | 0, sp => sp
  | n + 1, sp =>
    match sp.seen.find? (fun x => x.1 == sp.low) with
    | some x => SeqSpace.advance n { sp with low := sp.low + 1, old := sp.old ++ [x], seen := sp.seen.filter (fun y => y.1 != sp.low) }
    | none => sp

/-- The bit of `seq` is set, with a status. -/
def SeqSpace.record (sp : SeqSpace) (seq : BitVec 24) (st : Byte) : SeqSpace :=
  SeqSpace.advance (sp.seen.length + 1) { sp with seen := sp.seen ++ [(seq, st)] }

/-- The status of an executed request. -/
def SeqSpace.setStatus (sp : SeqSpace) (seq : BitVec 24) (st : Byte) : SeqSpace :=
  let f := fun (x : BitVec 24 × Byte) => if x.1 = seq ∧ x.2 = seqPending then (x.1, st) else x
  { sp with seen := sp.seen.map f, old := sp.old.map f }

/-- The bit of a request that was not executed after all stays open. -/
def State.seqRecord (s : State) (peer : Nat) (f : WtFrame) (st : Byte) : State :=
  s.setSpace peer f.origin ((s.space peer f.origin).record f.seq st)

/-! ### Credits and floors -/

/-- The lowest sequence number of one of the package's own spaces that a peer has not answered (R288). -/
def State.ackFloor (s : State) (origin : Bool) (peer : Nat) : BitVec 24 :=
  let f := s.fab (b2n origin)
  let open_ := (f.outst.filter (fun o => o.peer == peer && o.origin == origin)).map (·.seq)
  open_.foldl (fun m q => if seqGe m q then q else m) (f.nextSeq.get peer)

/-- Total of buffers freed for a peer, as `credit_grant` tells it (R299). -/
def State.grantFor (s : State) (pl peer : Nat) : BitVec 16 := ((s.fab pl).credits.get peer).freed

/-- A receive buffer that held a peer's frame is free again: in the step in which the frame came (DESIGN CHOICE, log 49). -/
def State.freeBuffer (s : State) (pl peer : Nat) : State :=
  s.updFab pl (fun f => { f with credits := f.credits.upd peer (fun c =>
    { c with freed := c.freed + 1, untold := c.untold + 1, lastUse := s.t, fourAt := if c.untold = 3 then s.t else c.fourAt }) })

/-- A type of request that needs a credit: all but type 0xA, for which 8 buffers are reserved (R298). -/
def needsCredit (ty : BitVec 4) : Bool := ty != 0xA

/-- A request of a type can be paid for on a plane. -/
def State.canPay (s : State) (pl peer : Nat) (ty : BitVec 4) : Bool := !needsCredit ty || s.avail pl peer != 0

/-- A request is sent to a peer: it is counted where it takes a credit (R299). -/
def State.pay (s : State) (pl peer : Nat) (ty : BitVec 4) : State :=
  if !needsCredit ty then s else
  s.updFab pl (fun x => { x with credits := x.credits.upd peer (fun c => { c with used := c.used + 1, lastSent := s.t }) })

/-- The egress sub-port of a path (R301). -/
def State.pathSub (s : State) (pl pathId : Nat) : Option Nat :=
  let l := (s.fab pl).path
  if l.isEmpty then none else l[pathId % l.length]?

/-- The sub-port a frame leaves by: the twin port's, or that of its path. -/
def State.egress (s : State) (pl : Nat) (twin : Bool) (path : BitVec 7) : Option Nat :=
  if twin then (if s.twinUp pl then (s.twinPort pl).map (4 * ·) else none) else s.pathSub pl path.toNat

/-- After an uncontinued Cast divergence the lead sends no further job frames (R475). -/
def State.castHalted (s : State) : Bool := s.castMode && s.twin.diverged && !s.twin.castContinue

/-- Put a frame on the wire of a plane; nothing leaves a plane with no sub-port. -/
def State.sendWt (s : State) (pl peer : Nat) (mac : BitVec 48) (ip : BitVec 128) (f : WtFrame) : State :=
  match s.egress pl f.twin f.pathId with
  | none => s
  | some sub =>
    if !(s.fab pl).alive || (s.castHalted && f.jobId != 0) then s else
    let me := s.ownAddr pl sub
    let g := wtSeal { f with
      creditGrant := s.grantFor pl peer, tSend := BitVec.ofNat 32 s.t, ackFloor := s.ackFloor f.origin peer
      srcMac := me.mac, srcIp6 := me.ip6, self := false, twin := false }
    ((s.updFab pl (fun x => { x with credits := x.credits.upd peer (fun c => { c with untold := 0 }) })).send
      (.wt pl sub (s.carriage pl sub mac ip f.pathId.toNat) g))

/-- The IPv6 address of a rank. -/
def RankEntry.ip (e : RankEntry) : BitVec 128 := BitVec.ofNat 128 (e.ip6hi.toNat * 2 ^ 64 + e.ip6lo.toNat)

/-- Where the answer to a frame goes: the sender's rank entry, else the address it came from. -/
def State.replyTo (s : State) (pl : Nat) (f : WtFrame) : BitVec 48 × BitVec 128 :=
  if f.twin then s.twinAddr pl else
  match s.srcRankKey pl f with
  | some k => let e := (s.fab pl).ranks.get k
              (e.mac, e.ip)
  | none => (f.srcMac, f.srcIp6)

/-! ### Answers received (R295, R299, R302) -/

/-- Bin of a hop latency. -/
def hopBin (h : Nat) : Nat := Nat.min (h / 64) 15

/-- Count a returned hop latency for an egress sub-port. -/
def State.hopSample (s : State) (pl sub h : Nat) : State :=
  s.updFab pl (fun f => { f with hist := f.hist.upd sub (fun l =>
    let l := padZeros l
    l.set (hopBin h) (l.getD (hopBin h) 0 + 1)) })
where padZeros (l : List Nat) : List Nat := if l.isEmpty then List.replicate 16 0 else l

/-- Hand an answer to the DMA engine that waits for it. -/
def State.dmaAnswer (s : State) (c : CoreId) (req part : Nat) (st : Byte) (data : List Byte) (logged : Bool := false) : State :=
  s.updCore c (fun k => if k.dma.outst.any (fun r => r.id == req) then
    { k with dma := { k.dma with answers := k.dma.answers ++ [{ req := req, part := part, status := st, data := data, logged := logged }] } } else k)

/-- The outstanding request that tag, seq and origin name, in the die that issued the tag. -/
def State.findOut (s : State) (tag : BitVec 16) (seq : BitVec 24) (origin : Bool) : Option OutReq :=
  (s.fab (b2n (tag.getLsbD 15))).outst.find? (fun o => o.tag == tag && o.seq == seq && o.origin == origin)

def State.updOut (s : State) (tag : BitVec 16) (g : OutReq → OutReq) : State :=
  s.updFab (b2n (tag.getLsbD 15)) (fun f => { f with outst := f.outst.map (fun o => if o.tag = tag then g o else o) })

/-- Release a tag. -/
def State.releaseTag (s : State) (tag : BitVec 16) : State :=
  s.updFab (b2n (tag.getLsbD 15)) (fun f => { f with outst := f.outst.filter (fun o => o.tag != tag) })

/-- A request is answered: its earlier re-sends, by other sub-ports than its last one, went unanswered (R305). -/
def State.leaveUnheard (s : State) (o : OutReq) : State :=
  (o.tries.filter (fun x => !(x.1 == o.lastPlane && x.2.1 == o.lastSub))).foldl (fun s x =>
    s.updFab x.1.val (fun f => { f with unheard := f.unheard ++ [(x.2.1, o.peer, x.2.2)] })) s

/-- An answer meets the package (R295): the state, and the request it releases. A refusal leaves the request outstanding (R335). `hop` is the
latency that an answer by a frame returns (R302). -/
def State.matchAnswer (s : State) (pl : Nat) (tag : BitVec 16) (seq : BitVec 24) (origin : Bool) (status : Byte) (hop : Option Nat) :
    State × Option OutReq :=
  match s.findOut tag seq origin with
  | none => (s.updFab pl (fun f => { f with dupDrop := satInc f.dupDrop }), none)
  | some o =>
    let s1 := match hop with
      | some h => (s.hopSample o.lastPlane.val o.lastSub h).updFab o.lastPlane.val
          (fun f => { f with answered := f.answered.set (o.peer * 64 + o.lastSub) (s.t + 1)
                             unheard := f.unheard.filter (fun x => !(x.1 == o.lastSub && x.2.1 == o.peer))
                             hops := f.hops.filter (fun (x : Nat × Nat × Bool) => s.t < x.1 + 10000) ++ (if o.frame.twin then [] else [(s.t, h, decide (o.peer < 256))]) })
      | none => s
    if status = stNotAdmitted then
      (s1.updOut tag (fun o => { o with refusedAt := some s.t, refusedFrom := some (o.refusedFrom.getD s.t) }), none)
    else ((s1.leaveUnheard o).releaseTag tag, some o)

/-- The active twin has answered a path probe: the takeover ends, and its other probes are given up (R465 step 2). -/
def State.probeEnd (s : State) : State :=
  let drop := fun (f : Fabric) => { f with outst := f.outst.filter (fun o => o.owner != .probe), waiting := f.waiting.filter (fun r => r.owner != .probe) }
  { (s.updFab 0 drop).updFab 1 drop with twin := { s.twin with takeoverStep := 0 } }

/-- What a released request gives its owner. -/
def State.giveOwner (s : State) (o : OutReq) (status : Byte) (data : List Byte) : State :=
  match o.owner with
  | .dma c req part => s.dmaAnswer c req part status data
  | .probe => s.probeEnd
  | _ => s

/-! ### Answers sent (R289, R294, R324) -/

/-- The type that answers a type. -/
def answerType (t : BitVec 4) : BitVec 4 := if t = 2 then 3 else if t = 4 then 5 else 6

/-- Answer a request on the plane it came by. A request of the package itself is answered without a frame (R317). -/
def State.answer (s : State) (pl : Nat) (f : WtFrame) (status : Byte) (data : List Byte) (replay : Bool) : State :=
  if f.self then
    let r := s.matchAnswer pl f.tag f.seq f.origin status none
    match r.2 with
    | some o => r.1.giveOwner o status data
    | none => r.1
  else
    let d := if status = stDone then data else []
    let ty := answerType f.type
    let dest := s.replyTo pl f
    s.sendWt pl (s.peerOf pl f) dest.1 dest.2
      { type := ty, flags := if replay then 2 else 0, jobId := f.jobId, jobGen := f.jobGen, srcRank := f.dstRank, dstRank := f.srcRank
        tag := f.tag, seq := f.seq, origin := f.origin, pathId := f.pathId, hopStamp := f.hopStamp, status := status, twin := f.twin
        payload := if ty = 6 then [] else beBytes 2 d.length ++ List.replicate 14 0 ++ d }

/-- A copy that is answered under R294 carries this flag into its execution (a load is read again). -/
def wtReplay (f : WtFrame) : Bool := f.flags.getLsbD 1

/-- An executed request: its status is recorded, an atomic enters the replay table, and the answer goes out, to the duplicates also that came
while it was executed (R294). -/
def State.wtDone (s : State) (pl : Nat) (f : WtFrame) (status : Byte) (data : List Byte) : State :=
  if f.self = true ∨ wtReplay f = true then s.answer pl f status data (wtReplay f) else
  let peer := s.peerOf pl f
  let s1 := s.setSpace peer f.origin ((s.space peer f.origin).setStatus f.seq status)
  let home := s.spaceHome f.origin
  let s2 := if f.type = 4 then
      s1.updFab home (fun x => { x with replay := x.replay ++ [{ peer := peer, origin := f.origin, seq := f.seq, status := status, data := data }] })
    else s1
  let mine := fun (y : Nat × WtFrame) => s.peerOf y.1 y.2 == peer && y.2.origin == f.origin && y.2.seq == f.seq
  let held := (s2.fab home).dups.filter mine
  held.foldl (fun s y => s.answer y.1 y.2 status data true)
    ((s2.updFab home (fun x => { x with dups := x.dups.filter (fun y => !mine y) })).answer pl f status data false)

/-! ### Requests issued (R291, R292, R296, R301, R316, R447) -/

/-- The next free tag of a die. -/
def freeTag (used : List (BitVec 16)) (die : Nat) : Nat → BitVec 15 → BitVec 15
  | 0, t => t
  | n + 1, t => if used.contains (BitVec.ofNat 16 (die * 32768 + t.toNat)) then freeTag used die n (t + 1) else t

/-- path_id of a tag (R301). -/
def pathOf (tag : BitVec 16) : BitVec 7 := BitVec.ofNat 7 (tag.toNat * 0x9E37 % 65536 / 512)

/-- The rank-table entry of a plane for a rank of a tenancy's job, if a frame can be sent to it (R447). -/
def State.rankDest (s : State) (pl t rank : Nat) : Option RankEntry :=
  let e := (s.fab pl).ranks.get (t * 65536 + rank)
  if rank < (s.ten t).job.rankCount.toNat ∧ e.valid then some e else none

/-- The entry for a frame of node firmware: to a rank of the job, or to the tenancy's host (R426). -/
def State.fwDest (s : State) (pl t rank : Nat) : Option RankEntry :=
  if 0xFFF0 ≤ rank then (if (s.hostEntry t).valid then some (s.hostEntry t) else none) else s.rankDest pl t rank

/-- The entry for a frame of a type: only a type 0xA frame may go to a host (R426, R447). -/
def State.typeDest (s : State) (pl t rank : Nat) (ty : BitVec 4) : Option RankEntry :=
  if ty = 0xA then s.fwDest pl t rank else s.rankDest pl t rank

/-- The peer a request goes to. -/
def State.planPeer (s : State) (r : ReqPlan) : Nat := if r.twin then twinPeer else s.peerOfRank (r.ten * 65536 + r.rank)

/-- Record and send a new request on a plane: the state, and the frame. -/
def State.issueReq (s : State) (pl : Plane) (r : ReqPlan) (e : RankEntry) : State × WtFrame :=
  let fb := s.fab pl.val
  let t15 := freeTag (fb.outst.map (·.tag)) pl.val (fb.outst.length + 1) fb.nextTag
  let tag := BitVec.ofNat 16 (pl.val * 32768 + t15.toNat)
  let peer := s.planPeer r
  let seq := fb.nextSeq.get peer
  let path := pathOf tag
  let f : WtFrame := { type := r.type, jobId := r.jobId, jobGen := r.jobGen, srcRank := if 0xFFF0 ≤ r.rank then 0xFFFF else (s.ten r.ten).job.ownRank
                       dstRank := BitVec.ofNat 16 r.rank, tag := tag, seq := seq, origin := pl.val == 1, pathId := path
                       payload := r.payload, self := r.self, twin := r.twin }
  let o : OutReq := { tag := tag, seq := seq, origin := pl.val == 1, peer := peer, ten := r.ten, pkg := r.pkg, owner := r.owner, tFirst := s.t, tAccept := s.t, tLast := s.t
                      lastPlane := pl, lastSub := (s.egress pl.val r.twin path).getD 0, dstMac := e.mac, frame := f }
  let s1 := s.updFab pl.val (fun x => { x with outst := x.outst ++ [o], nextTag := t15 + 1 })
  if r.self then (s1, f) else
  let s2 := (s1.updFab pl.val (fun x => { x with nextSeq := x.nextSeq.set peer (seq + 1) })).pay pl.val peer r.type
  (s2.sendWt pl.val peer e.mac e.ip f, f)

/-- The plane can carry frames. -/
def State.planeUp (s : State) (pl : Nat) : Bool := (s.fab pl).alive && !(s.fab pl).path.isEmpty

def otherPlane (pl : Plane) : Plane := if pl = 0 then 1 else 0

/-- Where a request goes on a plane: to the twin's port, or by its rank entry if that can be used (R447). -/
def State.reqDest (s : State) (pl : Nat) (o : OutReq) : Option (BitVec 48 × BitVec 128) :=
  if o.frame.twin then some (s.twinAddr pl) else (s.typeDest pl o.ten o.frame.dstRank.toNat o.frame.type).map (fun e => (e.mac, e.ip))

/-- A request that cannot be sent ends at the sender with ST_WINDOW_FAULT (R447). -/
def State.rejectOwner (s : State) (w : OutOwner) : State :=
  match w with
  | .dma c req part => s.dmaAnswer c req part stWindowFault []
  | .coll t q => { s with colls := s.colls.map (fun x => if x.ten = t ∧ x.cseq = q then { x with badRank := true } else x) }
  | _ => s

/-- Send an outstanding request again, on a plane and path (R296, R306, R335), against a credit there; `counted` in `resent` where
R296 or R306 asks for it (R315). With no valid entry there it ends (R447). -/
def State.resendReq (s : State) (o : OutReq) (pl : Plane) (path : BitVec 7) (counted : Bool) : State :=
  match s.reqDest pl.val o with
  | none => (s.releaseTag o.tag).rejectOwner o.owner
  | some d =>
    let f := { o.frame with flags := o.frame.flags ||| 1, pathId := path, hopStamp := BitVec.ofNat 16 (Nat.min (s.t - o.tAccept) 0xFFFF) }
    let sub := (s.egress pl.val f.twin path).getD 0
    let s1 := s.updOut o.tag (fun o => { o with
      lastPlane := pl, lastSub := sub, tLast := s.t, tries := o.tries ++ [(pl, sub, s.t)], again := none, frame := f })
    let s2 := (s1.updFab pl.val (fun x => { x with resent := if counted then satInc x.resent else x.resent })).pay pl.val o.peer f.type
    s2.sendWt pl.val o.peer d.1 d.2 f

/-- A re-send goes out at once where it can be paid for, and else waits for a credit of its plane (R298). -/
def State.resendOrWait (s : State) (o : OutReq) (pl : Plane) (path : BitVec 7) (counted : Bool) : State :=
  if s.canPay pl.val o.peer o.frame.type then s.resendReq o pl path counted
  else s.updOut o.tag (fun o => { o with again := some (pl, path, counted) })

/-- A credit update to a peer's address; `credit_req` asks for shared buffers (R300). It carries job 0 and needs no credit. -/
def State.sendCreditUpdate (s : State) (pl peer : Nat) (mac : BitVec 48) (ip : BitVec 128) (ask : Bool) : State :=
  s.sendWt pl peer mac ip { type := 7, flags := if ask then 4 else 0, origin := pl == 1 }

/-- A waiting request can go: a tag is free, and a credit of its peer where it needs one (R291, R298). -/
def State.mayGo (s : State) (pl : Nat) (r : ReqPlan) : Bool :=
  !r.self && (s.fab pl).outst.length < 32768 && s.canPay pl (s.planPeer r) r.type

/-- A sender whose peer lends it nothing asks for shared buffers (R300). -/
def State.askCredit (s : State) (pl peer : Nat) (mac : BitVec 48) (ip : BitVec 128) : State :=
  (s.updFab pl (fun x => { x with credits := x.credits.upd peer (fun c => { c with asked := true }) })).sendCreditUpdate pl peer mac ip true

/-- A request of an engine goes out when a tag and a credit of its peer are free, and waits otherwise (R291, R298, R300). -/
def State.issueOrWait (s : State) (pl : Plane) (r : ReqPlan) (e : RankEntry) : State :=
  let peer := s.planPeer r
  if s.mayGo pl.val r ∧ ¬ (s.fab pl.val).waiting.any (fun w => s.planPeer w == peer && needsCredit w.type == needsCredit r.type) then (s.issueReq pl r e).1
  else
    let s1 := s.updFab pl.val (fun f => { f with waiting := f.waiting ++ [r] })
    if 256 ≤ peer ∧ ¬ s.canPay pl.val peer r.type ∧ ¬ ((s.fab pl.val).credits.get peer).asked then s1.askCredit pl.val peer e.mac e.ip else s1

/-- Re-sends of a plane that wait for a credit go out against those there are. -/
def State.flushAgain (s : State) (pl : Plane) : State :=
  ((s.fab 0).outst ++ (s.fab 1).outst).foldl (fun s o =>
    match o.again with
    | some (p, path, counted) => if p = pl ∧ s.canPay pl.val o.peer o.frame.type then s.resendReq o pl path counted else s
    | none => s) s

/-- Waiting requests of a plane go out, oldest first, as far as tags and credits allow. -/
def State.flushWaiting (s : State) (pl : Plane) : Nat → State
  | 0 => s
  | n + 1 =>
    match takeFirst (s.mayGo pl.val) (s.fab pl.val).waiting with
    | none => s
    | some (r, rest) =>
      let s1 := s.updFab pl.val (fun f => { f with waiting := rest })
      if r.twin then (s1.issueReq pl r {}).1.flushWaiting pl n else
      match s1.typeDest pl.val r.ten r.rank r.type with
      | some e => (s1.issueReq pl r e).1.flushWaiting pl n
      | none => (s1.rejectOwner r.owner).flushWaiting pl n

/-- Tags or credits of a plane have come free: re-sends go first, then new requests. -/
def State.flushPlane (s : State) (pl : Plane) : State :=
  let s1 := s.flushAgain pl
  s1.flushWaiting pl (s1.fab pl.val).waiting.length

/-! ### Node firmware's own frames (R289, R415, R430, R610) -/

/-- Node firmware sends a type 0xA frame to a rank of a tenancy's job, or to its host. -/
def State.fwSend (s : State) (pl : Plane) (t rank : Nat) (p : List Byte) : State :=
  match s.fwDest pl.val t rank with
  | some e => s.issueOrWait pl { ten := t, rank := rank, type := 0xA, payload := p } e
  | none => s

/-- What stands around a frame of the management port to a tenancy's host: the carriage that `WT_CFG` sets, from the port's own address
(R426, R541); DESIGN CHOICE (log 49): FA's, of the two. -/
def State.mgmtCarriage (s : State) (t : Nat) (pathId : BitVec 7) : Carriage :=
  let e := s.hostEntry t
  (s.fab 0).carriage (s.ownAddr 0xFF 0) e.mac e.ip pathId.toNat

/-- The lowest number of a host's space at the management port that the host has not acknowledged (R288). -/
def ErrLog.fwdFloor (l : ErrLog) (t : Nat) : BitVec 24 :=
  ((l.fwdOut.find? (fun f => f.ten.toNat == t)).map (·.seq)).getD (l.fwdSeq.get t)

/-- A type 0xA frame to a host on the management port. It is kept until it is acknowledged or abandoned. -/
def State.mgmtSend (s : State) (t : Nat) (completion : Bool) (p : List Byte) : State :=
  let l := s.log
  let seq := l.fwdSeq.get t
  let tag : BitVec 16 := 0x8000 ||| l.fwdTag.setWidth 16
  let f : WtFrame := wtSeal { type := 0xA, srcRank := 0xFFFF, dstRank := BitVec.ofNat 16 (0xFFF0 + t), seq := seq, tSend := BitVec.ofNat 32 s.t
                              tag := tag, pathId := pathOf tag, ackFloor := l.fwdFloor t
                              creditGrant := s.grantFor 2 (s.peerOfRank (t * 65536 + 0xFFF0 + t)), payload := p }
  { s with log := { l with fwdSeq := l.fwdSeq.set t (seq + 1), fwdTag := l.fwdTag + 1
                           fwdOut := l.fwdOut ++ [({ seq := seq, ten := BitVec.ofNat 8 t, tFirst := s.t, completion := completion, frame := f } : Fwd)] } }.send
    (.mgmt (s.mgmtCarriage t f.pathId) f)

/-! ### Arrival of a frame -/

def Port.isUp (p : Port) (sub : Nat) : Bool := p.up.getLsbD (sub % 4)
def State.port (s : State) (pl sub : Nat) : Port := (s.fab pl).ports.get (sub / 4)

/-- A frame can arrive: the die works and the sub-port's link is up. -/
def State.linkIn (s : State) (pl sub : Nat) : Bool :=
  !s.cpc.stopped && (s.fab pl).alive && (s.port pl sub).isUp sub && !((s.port pl sub).twin && s.twin.mode == 0)

def State.crcDropped (s : State) (pl : Nat) : State := s.updFab pl (fun f => { f with crcDrop := satInc f.crcDrop })

/-- A frame as the die that receives it holds it: by the twin port or not. -/
def State.stamp (s : State) (pl : Plane) (sub : SubPort) (f : WtFrame) : WtFrame := { f with self := false, twin := (s.port pl.val sub.val).twin }

/-- A MIRROR_DATA frame (R415), the one kind of WT request of a twin port (R453). -/
def isMirror (f : WtFrame) : Bool := f.type == 0xA && f.payload.getD 0 0 == 8

/-- The receiving die drops the frame and counts it in `crc_drop` (R290, R453). DEDUCED (log 49): the acknowledgement of a MIRROR_DATA frame
belongs to that frame (R289), and a twin port takes it in. -/
def State.wtDrops (s : State) (pl : Plane) (sub : SubPort) (f : WtFrame) : Bool :=
  wtBad f (s.fab pl.val).udpMode || ((s.port pl.val sub.val).twin && !(isMirror f || f.type == 6))

/-- Credits and the floor that a good frame brings from its peer (R294, R299). -/
def State.heard (s : State) (pl : Plane) (f : WtFrame) : State :=
  let peer := s.peerOf pl.val f
  let s1 := s.updFab pl.val (fun x => { x with credits := x.credits.upd peer (fun c => { c with granted := f.creditGrant }) })
  let s2 := s1.setSpace peer f.origin ((s1.space peer f.origin).floor f.ackFloor)
  (s2.updFab (s2.spaceHome f.origin) (fun x => { x with
    replay := x.replay.filter (fun r => !(r.peer == peer && r.origin == f.origin) || seqGe r.seq f.ackFloor) })).flushPlane pl

/-- The checks of R284, R290 and R453: the state, and whether the frame goes on. A frame of another type is another command's. -/
def State.wtIn (s : State) (pl : Plane) (sub : SubPort) (f : WtFrame) (ty : BitVec 4) : State × Bool :=
  if !s.linkIn pl.val sub.val then (s, false)
  else if s.wtDrops pl sub f then (s.crcDropped pl.val, false)
  else if f.type ≠ ty then (s, false)
  else (s.heard pl (s.stamp pl sub f), true)

/-- The check of job and rank (R343 step 1, R448); a superseded package does not answer its job addresses (R467). -/
def State.jobGate (s : State) (pl : Nat) (f : WtFrame) : State × Bool :=
  if f.jobId = 0 then (s, true)
  else if s.twin.state = 6 then (s, false)
  else match s.jobTen f.jobId f.jobGen with
    | none => (s.updFab pl (fun x => { x with jobDrop := satInc x.jobDrop }), false)
    | some t =>
      let j := (s.ten t).job
      if j.state = 3 then (s.updFab pl (fun x => { x with revokeDrop := satInc x.revokeDrop }), false)
      else if j.state ≠ 2 then (s.updFab pl (fun x => { x with jobDrop := satInc x.jobDrop }), false)
      else if f.dstRank ≠ j.ownRank then (s.updFab pl (fun x => { x with rankDrop := satInc x.rankDrop }), false)
      else (s, true)

/-- Hop latency of a frame arriving now, and whether the sender's clock is behind (R302, R597, R598). -/
def State.hopOf (s : State) (f : WtFrame) : Nat :=
  let d := (BitVec.ofNat 32 s.t - f.tSend).toNat
  if d < 2 ^ 31 then d else 0

/-- Path allowance (R304). -/
def Fabric.allowance (f : Fabric) : Nat := if f.hopBound = 0 then 110 else 220 + f.hopBound.toNat

/-- A hop latency more than 100 ns above the allowance is recorded, once a millisecond for each sub-port and peer (R304). -/
def State.hopEvent (s : State) (pl sub peer hop : Nat) (f : WtFrame) : State :=
  let fb := s.fab pl
  let key := peer * 64 + sub
  let last := fb.extLogged.find? (fun e => e.1 == key)
  let quiet : Bool := match last with
    | some e => decide (s.t < e.2 + 1000000)
    | none => false
  if hop ≤ fb.allowance + 100 ∨ quiet = true then s else
  ((s.hand { unit := fabUnit pl 0x00 sub, cls := 0x09, severity := 0, jobId := f.jobId, jobGen := f.jobGen
             detail := leBytes 8 fb.allowance ++ leBytes 8 hop ++
               [BitVec.ofNat 8 sub, BitVec.ofNat 8 f.pathId.toNat,
                if peer < 256 then BitVec.ofNat 8 peer else Config.freeByte s.freeCount 0, BitVec.ofNat 8 pl, 0, 0, 0, 0] }).drawn).updFab pl
    (fun x => { x with extLogged := (x.extLogged.filter (fun e => e.1 != key)) ++ [(key, s.t)] })

/-- In Doldrums a request of a job is answered ST_NOT_ADMITTED, and may wake the package (R575, R576). -/
def State.doldrumsRefuse (s : State) (pl : Nat) (f : WtFrame) : State :=
  let s1 := s.answer pl f stNotAdmitted [] false
  if s.cpc.wakeOnJob then s1.wakeBy 3 else s1

/-- A received request up to its execution: the state, and the frame to execute, with its measured hop latency (R290, R293, R294, R448). -/
def State.wtRequest (s : State) (plane : Plane) (sub : SubPort) (f0 : WtFrame) (ty : BitVec 4) : State × Option WtFrame :=
  let pl := plane.val
  let f0 := s.stamp plane sub f0
  let a := s.wtIn plane sub f0 ty
  if !a.2 then (a.1, none) else
  let peer := s.peerOf pl f0
  let hop := s.hopOf f0
  let s0 := a.1.hopEvent pl sub.val peer hop f0
  let s1 := if needsCredit ty || 0xFFF0 ≤ f0.srcRank.toNat then s0.freeBuffer pl peer else s0
  let f := { f0 with hopStamp := BitVec.ofNat 16 (Nat.min hop 0xFFFF), flags := f0.flags &&& 0xFD }
  let sp := s1.space peer f.origin
  let cl := sp.classify f.seq f.ackFloor
  let g := s1.jobGate pl f
  if !g.2 then
    -- a dropped request is recorded as executed (R448)
    (if cl = .new ∧ s1.twin.state ≠ 6 then g.1.seqRecord peer f stJobRevoked else g.1, none)
  else if 2 ≤ s1.cpc.dold.toNat ∧ f.jobId ≠ 0 then (s1.doldrumsRefuse pl f, none)
  else match cl with
    | .ahead =>
      ((s1.updFab pl (fun x => { x with seqFault := satInc x.seqFault })).hand
        { unit := fabUnit pl 0x01 0, cls := 0x04, severity := 0, jobId := f.jobId, jobGen := f.jobGen }, none)
    | .stale => (s1.updFab pl (fun x => { x with dupDrop := satInc x.dupDrop }), none)
    | .dup o =>
      -- where no status of the request is kept, it is free (R293, R294)
      let st := o.getD (freeStatus s1.freeCount)
      let s2 := if o.isNone then s1.drawn else s1
      -- a load that was dropped is not read: its copy gets the status of R448
      if ty = 2 ∧ o ≠ some stJobRevoked then (s2, some { f with flags := f.flags ||| 2 })
      else if o = some seqPending then (s2.updFab (s2.spaceHome f.origin) (fun x => { x with dups := x.dups ++ [(pl, f)] }), none)
      else match (s2.fab (s2.spaceHome f.origin)).replay.find? (fun r => r.peer == peer && r.origin == f.origin && r.seq == f.seq) with
        | some r => (s2.answer pl f r.status r.data true, none)
        | none => (s2.answer pl f st [] true, none)
    | .new =>
      if sp.takenOver ∧ ty = 4 ∧ f.flags.getLsbD 0 then
        ((s1.seqRecord peer f stTargetLost).answer pl f stTargetLost [] false, none)
      else (s1, some f)

/-- A request is accepted for execution: its bit is set (R293). -/
def State.acceptReq (s : State) (pl : Nat) (f : WtFrame) : State :=
  if f.self = true ∨ wtReplay f = true then s else s.seqRecord (s.peerOf pl f) f seqPending

/-- A request executed at once. -/
def State.execReq (s : State) (pl : Nat) (f : WtFrame) (st : Byte) (data : List Byte) : State :=
  (s.acceptReq pl f).wtDone pl f st data

/-! ### The window check (R319 to R322, R335) -/

/-- The request sub-header (R324). -/
structure ReqSub where
  offset : Nat
  window : Nat
  remoteRs : Bool
  length : Nat
  aop : Byte
  atype : Byte
  ret : Bool
  opTag : BitVec 32
  comparand : List Byte
  data : List Byte
deriving DecidableEq, Repr, Inhabited

def reqSub (p : List Byte) : ReqSub :=
  { offset := beVal (slice p 0 6), window := (p.getD 6 0).toNat, remoteRs := (p.getD 7 0).getLsbD 0
    length := beVal (slice p 8 2), aop := p.getD 0xA 0, atype := p.getD 0xB 0, ret := (p.getD 0xC 0).getLsbD 0
    opTag := BitVec.ofNat 32 (beVal (slice p 0x10 4)), comparand := slice p 0x18 8, data := p.drop 32 }

/-- The bytes of a request sub-header with what follows it. -/
def ReqSub.bytes (q : ReqSub) : List Byte :=
  beBytes 6 q.offset ++ [BitVec.ofNat 8 q.window, BitVec.ofNat 8 (b2n q.remoteRs)] ++ beBytes 2 q.length
    ++ [q.aop, q.atype, BitVec.ofNat 8 (b2n q.ret), 0, 0, 0] ++ beBytes 4 q.opTag.toNat ++ [0, 0, 0, 0] ++ padTo 8 q.comparand ++ q.data

/-- The tenancy and window entry a request of the job uses on a die. -/
def State.windowOf (s : State) (pl : Nat) (f : WtFrame) (q : ReqSub) : Option (Nat × Window) :=
  (s.jobTen f.jobId f.jobGen).map (fun t => (t * 256 + q.window, (s.fab pl).windows.get (t * 256 + q.window)))

/-- The first failing check of R321, by its reason code. -/
def windowReason (w : Window) (f : WtFrame) (q : ReqSub) : Option Nat :=
  if !w.valid then some 0
  else if w.jobId ≠ f.jobId ∨ w.jobGen ≠ f.jobGen then some 1
  else if w.length.toNat < q.offset + q.length then some 2
  else if !(if f.type = 1 then w.permW else if f.type = 2 then w.permR else w.permA) then some 3
  else if f.type = 4 ∧ w.space ≠ 0 then some 4
  else if q.remoteRs ≠ (w.space == 1 || w.space == 2) then some 5
  else none

/-- The NPA a request that passes executes at (R321). -/
def windowNpa (w : Window) (q : ReqSub) : Nat := (if w.space = 0 then 0 else 2 ^ 48) + w.base.toNat + q.offset

def State.busyAdd (s : State) (pl key : Nat) (d : Int) : State :=
  s.updFab pl (fun x => { x with windows := x.windows.upd key (fun w => { w with busy := BitVec.ofInt 16 (w.busy.toNat + d) }) })

/-- The package's own number in the tenancy's rack map, for the address of a record. -/
def State.ownPkg (s : State) (pl t : Nat) : Nat :=
  (((List.range 256).find? (fun n => let e := (s.fab pl).rackMap.get (t * 256 + n)
                                     e.valid && e.self)).getD 0)

/-- A refused request is not executed, and its number stays open (R335). -/
def State.refuseReq (s : State) (pl : Nat) (f : WtFrame) : State := s.answer pl f stNotAdmitted [] (wtReplay f)

/-- Sectors of GDDR bytes as their serving channel names them: (channel, local unit, sector). -/
def State.sectorsOf (s : State) (a n : Nat) : List (Nat × Nat × Nat) :=
  (unitPieces a n).flatMap (fun p => let q := s.steer (p.1 / 256)
                                     (secsOf (p.1 % 256) p.2).map (fun k => (q.1, q.2, k)))

/-- The first combining sector that a window store or atomic of a peer touches without a line credit (R267). -/
def State.needLine (s : State) (peer a n : Nat) : Option (Nat × Nat) :=
  ((s.sectorsOf a n).find? (fun x => let c := s.chan x.1
    !(c.image x.2.1 x.2.2).isEmpty && !c.lineHeld.contains (x.2.1 * 4 + x.2.2, peer))).map (fun x => (x.1, x.2.1 * 4 + x.2.2))

/-- Line credits that an accepted request uses up. -/
def State.useLines (s : State) (peer a n : Nat) : State :=
  (s.sectorsOf a n).foldl (fun s x => if (s.chan x.1).lineHeld.isEmpty then s else
    s.updChan x.1 (fun c => { c with lineHeld := c.lineHeld.filter (fun h => h != (x.2.1 * 4 + x.2.2, peer)) })) s

/-- A waiting access of a window request that a plane has accepted. -/
def MemReq.ofPlane (m : MemReq) (pl : Nat) : Bool := match m.asker with
  | .window p _ => p.val == pl
  | _ => false

/-- Requests of a fabric die that a channel has taken and not served: in the die's window queue, or at the controller. -/
def Channel.fromDie (c : Channel) (pl : Nat) : Nat := ((c.queue ++ c.window).filter (fun m => m.ofPlane pl)).length

/-- A fabric die's window queue admits a peer's request: 48 entries, of which 4 are kept for the peer refused longest (R335). -/
def Channel.windowOpen (c : Channel) (pl peer : Nat) : Bool :=
  let refused := c.refusedPeers.filter (fun x => x.1 == pl)
  c.fromDie pl < 44 || (c.fromDie pl < 48 && (refused.isEmpty || refused.head? == some (pl, peer)))

/-- The oldest requests of a window queue go to the controller, against the fabric die's standing credits of 4 (R256, R335). -/
def Channel.takeWindowOf (pl : Nat) : Nat → Channel → Channel
  | 0, c => c
  | n + 1, c =>
    if 4 ≤ (c.queue.filter (fun m => m.ofPlane pl)).length then c else
    match takeFirst (fun m : MemReq => m.ofPlane pl) c.window with
    | none => c
    | some (m, rest) => takeWindowOf pl n { c with queue := c.queue ++ [m], window := rest }

def Channel.takeWindow (c : Channel) : Channel := if c.window.isEmpty then c else Channel.takeWindowOf 1 4 (Channel.takeWindowOf 0 4 c)

/-- The kind of access of a window request. -/
def reqOp (f : WtFrame) (q : ReqSub) : MemOp :=
  if f.type = 1 then .store else if f.type = 2 then .load else .atomic q.aop q.atype q.ret q.comparand

/-- Put a foreign request into a slice's queue of 64, or hold it in the router (R196). -/
def State.foreignPush (s : State) (d : CoreId) (m : MemReq) : State :=
  s.updCore d (fun k => if k.foreign.length < 64 ∧ k.foreignHeld.isEmpty then { k with foreign := k.foreign ++ [m] }
                        else { k with foreignHeld := k.foreignHeld ++ [m] })

/-- A window request after R293: the check of R321, then the queue of the channel of its first unit or of its slice. DESIGN CHOICE (log 49): of
a store with more data than its `length` the first `length` bytes are written, of one with less, what there is. -/
def State.windowRequest (s : State) (pl : Plane) (f : WtFrame) : State :=
  let q := reqSub f.payload
  match s.windowOf pl.val f q with
  | none => s.execReq pl.val f stWindowFault []
  | some (key, w) =>
    match windowReason w f q with
    | some r =>
      (((s.updFab pl.val (fun x => { x with winFault := satInc x.winFault })).hand
        { unit := fabUnit pl.val 0x05 0, cls := 0x06, severity := 0, status := stWindowFault, addrKind := 2
          address := BitVec.ofNat 64 (s.ownPkg pl.val (key / 256) * 2 ^ 56 + q.window * 2 ^ 48 + q.offset)
          jobId := f.jobId, jobGen := f.jobGen, opTag := q.opTag
          detail := padTo 24 ([BitVec.ofNat 8 r] ++ leBytes 2 f.srcRank.toNat) })).execReq pl.val f stWindowFault []
    | none =>
      let a := windowNpa w q
      let m : MemReq := { asker := .window pl f, op := reqOp f q, addr := a, len := q.length, data := q.data.take q.length }
      let peer := s.peerOf pl.val f
      if w.space = 0 then
        let ch := (s.steer (a / 256)).1
        match (if f.type = 2 then none else s.needLine peer a q.length) with
        | some (lc, sec) =>
          (s.updChan lc (fun c => { c with lineAsk := if c.lineAsk.contains (sec, peer) then c.lineAsk else c.lineAsk ++ [(sec, peer)] })).refuseReq pl.val f
        | none =>
          if !(s.chan ch).windowOpen pl.val peer then
            ((s.updChan ch (fun c => { c with refusedPeers := if c.refusedPeers.contains (pl.val, peer) then c.refusedPeers else c.refusedPeers ++ [(pl.val, peer)] })).updFab pl.val
              (fun x => { x with refused := satInc x.refused })).refuseReq pl.val f
          else if f.type = 4 ∧ ¬ f.self ∧ 32768 ≤ (s.fab (s.spaceHome f.origin)).replay.length then s.refuseReq pl.val f
          else (((s.acceptReq pl.val f).busyAdd pl.val key 1).useLines peer a q.length).updChan ch (fun c =>
            Channel.takeWindow { c with window := c.window ++ [m], refusedPeers := c.refusedPeers.filter (· != (pl.val, peer)) })
      else
        match s.rsTarget (a % 2 ^ 48) with
        | some (d, _) => ((s.acceptReq pl.val f).busyAdd pl.val key 1).foreignPush d m
        | none => s.execReq pl.val f stWindowFault []


end Sys2Proof.Machine
end

