-- ==== Sys2Proof/Machine/Gddr.lean ====
section
/-! DEFINITION. The GDDR channels (chapter 9): atomic units, the serving of queued requests, the squall guard, retraining,
temperature, migration, row-group spares and loss. -/

namespace Sys2Proof.Machine

/-! ### Atomic units (R263, R328) -/

/-- The floating-point format of an atomic type. -/
def atomFmt (ty : Nat) : FSpec := if ty = 2 then fp32 else if ty = 3 then bf16 else fp64

/-- Bytes of one element of a group, and of its operand. -/
def atomWidth (ty : Nat) : Nat × Nat :=
  match ty with
  | 0 => (4, 4) | 1 => (8, 8) | 2 => (4, 4) | 3 => (2, 2) | 4 => (8, 8) | 5 => (8, 4) | _ => (16, 8)

/-- The new code of one element under add, min or max. -/
def atomElem (aop ty old new : Nat) : Nat :=
  let w := (atomWidth ty).1 * 8
  if 2 ≤ ty ∧ ty ≤ 4 then
    let f := atomFmt ty
    let a := f.decode old
    let b := f.decode new
    f.code (match aop with | 0 => (fAdd f .rne a b).1 | 1 => (fMin a b).1 | _ => (fMax a b).1)
  else
    let a := toSigned w old
    let b := toSigned ((atomWidth ty).2 * 8) new
    toUnsigned w (match aop with | 0 => a + b | 1 => if b < a then b else a | _ => if a < b then b else a)

/-- A group after an atomic (R263): `old` is the group, `opd` the operand's bytes. -/
def atomGroup (aop ty : Nat) (comparand old opd : List Byte) : List Byte :=
  if aop = 3 then padTo old.length opd
  else if aop = 4 then (if old = padTo old.length comparand then padTo old.length opd else old)
  else
    let w := atomWidth ty
    (List.range (old.length / w.1)).flatMap (fun i =>
      leBytes w.1 (atomElem aop ty (fieldAt old (i * w.1) w.1) (fieldAt opd (i * w.2) w.2)))

/-- An atomic on a group in GDDR: status, old bytes, new bytes. Its sector takes the check of any merge (R262, R263). -/
def State.gddrAtomic (s : State) (a n aop ty : Nat) (comparand opd : List Byte) (w : Who) : State × Byte × List Byte × List Byte :=
  let w := { w with source := 2 }
  let r := s.gddrReadUnit a n w
  if r.2.1 ≠ stDone then (r.1, r.2.1, [], []) else
  let new := atomGroup aop ty comparand r.2.2 opd
  let x := r.1.unitWrite a new w
  (x.1.foreignWrote a n, x.2, r.2.2, new)

/-- One access to GDDR: status, bytes returned, bytes written. A combination that R263 does not list executes nothing. -/
def State.gddrOp (s : State) (a : Nat) (op : MemOp) (len : Nat) (data : List Byte) (w : Who) : State × Byte × List Byte × List Byte :=
  match op with
  | .load => let r := s.gddrRead a len w
             (r.1, r.2.1, r.2.2, [])
  | .store => let r := s.gddrWrite a data w
              (r.1.foreignWrote a data.length, r.2, [], data)
  | .atomic aop ty ret cmp =>
    if !atCombo aop.toNat ty.toNat (Nat.log2 len) || 2 ^ Nat.log2 len != len || a % len != 0 then (s, stWindowFault, [], []) else
    let r := s.gddrAtomic a len aop.toNat ty.toNat cmp data w
    (r.1, r.2.1, if ret then r.2.2.1 else [], r.2.2.2)

/-- Bytes of GDDR as they stand; a combining sector holds its image (R266). -/
def State.gddrPeek (s : State) (a n : Nat) : List Byte :=
  (unitPieces a n).flatMap (fun p =>
    let q := s.steer (p.1 / 256)
    let c := s.chan q.1
    (List.range p.2).map (fun i =>
      let o := p.1 % 256 + i
      match (c.image q.2 (o / 64))[o % 64]? with
      | some b => b
      | none => c.mem.read (c.spared q.2 * 256 + o)))

/-! ### Resident stores across slices -/

/-- A range cut into runs of at most 512 bytes, the payload of a flit (R33): address and length. -/
def pieces512 (a n : Nat) : List (Nat × Nat) := (List.range (ceilDiv n 512)).map (fun i => (a + 512 * i, Nat.min 512 (n - 512 * i)))

/-- A flit of the processor die or a fabric die, which carries a piece of an access to a store (R33, R35). -/
def State.dieFlit (s : State) (d : CoreId) (res : Bool) (off n : Nat) (store last : Bool) (w : Who) : Flit :=
  { dst := BitVec.ofNat 17 (s.logNum d), src := 0x1FFFF, kind := if store then 0 else 1, lenM1 := BitVec.ofNat 9 (n - 1), last := last
    jobId := w.jobId, opTag := w.opTag, resident := res, off := BitVec.ofNat 22 off }

/-- The record of an access at a core's store that fails its local region check when it is made (R88, R204). -/
def State.dieFault (s : State) (d : CoreId) (npa : Nat) (w : Who) : State :=
  s.hand { unit := coreUnit d 0x05, cls := 0x06, severity := 2, status := stWindowFault, addrKind := 1, address := BitVec.ofNat 64 npa
           jobId := w.jobId, jobGen := w.jobGen, opTag := w.opTag }

/-- One piece of an access of the processor die or a fabric die to a core's store, by a flit that meets the acceptance of R35: the status,
and the bytes of a load. -/
def State.diePiece (s : State) (d : CoreId) (res : Bool) (o n : Nat) (store last : Bool) (bs : List Byte) (w : Who) : State × Byte × List Byte :=
  let f := s.dieFlit d res o n store last w
  if !s.flitAccepted d f then ((s.flitDropped d f).drawn, s.dropStatus, if store then [] else s.freeBytes o n)
  else if !res && !(s.core d).banksReady d o n then (s.dieFault d (2 * 2 ^ 48 + o) w, stWindowFault, [])
  else if store then let r := s.storeWrite d res o bs w
                     (r.1, if r.2 then stMemUnc else stDone, [])
  else let r := s.storeRead d res o n w
       (r.1, if r.2.1 then stMemUnc else stDone, r.2.2)

/-- A foreign access of the processor die or a fabric die to resident stores, at its turn: status and bytes. -/
def State.rsServe (s : State) (off : Nat) (op : MemOp) (len : Nat) (data : List Byte) (w : Who) : State × Byte × List Byte :=
  let n := match op with | .store => data.length | _ => len
  (slicePieces off n).foldl (fun (acc : State × Byte × List Byte) p =>
    match acc.1.rsTarget p.1 with
    | none => (acc.1, worse acc.2.1 stWindowFault, acc.2.2)
    | some (d, o) =>
      let r := acc.1.diePiece d true o p.2 (op == .store) (p.1 + p.2 == off + n) (slice data (p.1 - off) p.2) w
      (r.1, worse acc.2.1 r.2.1, acc.2.2 ++ r.2.2)) (s, stDone, [])

/-! ### Flits served at a store (R33 to R35, R191, R194, R196) -/

/-- The answer of core `d` to a store or a load request: a completion notice or the data, with the answering core's own number and
job (R34). DESIGN CHOICE (log 48): `len_m1` is the request's, and `dst_store` and `dst_offset` are 0, for an answer names no store. -/
def State.flitAnswer (s : State) (d : CoreId) (f : Flit) (st : Byte) (data : List Byte) (logged : Bool) : State :=
  if f.src = 0x1FFFF ∨ 1 < f.kind.toNat then s else
  let k := s.core d
  s.sendFlit { dst := f.src, src := BitVec.ofNat 17 (s.logNum d), kind := if f.kind = 1 then 2 else 4, lenM1 := f.lenM1, last := f.last
               jobId := if k.jobValid then k.jobId else 0, opTag := f.opTag, payload := data, req := f.req, part := f.part, err := st
               logged := logged, record := f.record }

/-- Bytes a flit moves. -/
def Flit.len (f : Flit) : Nat := f.lenM1.toNat + 1

/-- A flit's access to a core's store: the status, and the bytes of a load. -/
def State.flitAccess (s : State) (d : CoreId) (f : Flit) : State × Byte × List Byte :=
  let w : Who := { source := 4, opTag := f.opTag, jobId := f.jobId, status := stMemUnc }
  let o := f.off.toNat
  if (if f.resident then rsSize d else wsSize d) < o + f.len then (s, stWindowFault, [])
  else if !f.resident && !(s.core d).banksReady d o f.len then (s, stWindowFault, [])
  else if f.kind = 1 then
    let r := s.storeRead d f.resident o f.len w
    (r.1, if r.2.1 then stMemUnc else stDone, r.2.2)
  else
    let r := s.storeWrite d f.resident o (padTo f.len f.payload) w
    (r.1, if r.2 then stMemUnc else stDone, [])

/-- A flit's access, and its answer: which says whether the access logged an error record, for its operation's flags (R81). -/
def State.flitServe (s : State) (d : CoreId) (f : Flit) : State :=
  let r := s.flitAccess d f
  r.1.flitAnswer d f r.2.1 r.2.2 (r.1.handed.length != s.handed.length)

/-! ### Window requests served (R336, R460) -/

/-- Bytes written at an offset of a window are forwarded to the twin (R460, R463, R469, R471): by the active package of a pair, in a
mirror window or in Cast mode; during the sync, in a mirror window, once the pointer has passed their unit. -/
def State.forwards (s : State) (key : Nat) (w : Window) (off : Nat) : Bool :=
  let t := s.twin
  !t.role && (t.mode == 3 || (t.mode == 1 && w.mirror)) &&
    (t.state == 3 || (t.state == 2 && (!w.mirror || key < t.syncWin || (key == t.syncWin && off / 256 < t.syncUnit))))

/-- A byte of GDDR or of a slice that a store left as it was, for its sector or word is uncorrectable (R210, R262). -/
def State.leftBad (s : State) (npa : Nat) : Bool :=
  let o := npa % 2 ^ 48
  if npa / 2 ^ 48 = 0 then
    let p := s.steer (o / 256)
    let c := s.chan p.1
    let k := o % 256 / 64
    c.lostNow || ((c.image p.2 k).isEmpty && (match rsDecode c.rsMode (c.errsAt p.2 (c.spared p.2) k) with | .bad _ => true | _ => false))
  else match s.rsTarget o with
    | some (d, b) => 2 ≤ ((s.core d).rsErr.get (b / 8)).length
    | none => true

/-- What a window request has written, cut at 256-byte units: all of it, or what an uncorrectable word or sector left of it (R460). -/
def State.wroteParts (s : State) (addr : Nat) (st : Byte) (bs : List Byte) : List (Nat × List Byte) :=
  let runs := if st = stDone then [(addr, bs)] else if st = stMemUnc then
      runsOf ((((List.range bs.length).map (addr + ·)).zip bs).filter (fun x => !s.leftBad x.1)) else []
  runs.flatMap (fun x => (unitPieces x.1 x.2.length).map (fun p => (p.1, slice x.2 (p.1 - x.1) p.2)))

/-- A window request executes at its target and is answered, or waits for the twin's acknowledgement. -/
def State.windowServe (s : State) (pl : Plane) (f : WtFrame) (m : MemReq) : State :=
  let q := reqSub f.payload
  let w : Who := { source := if m.addr / 2 ^ 48 = 0 then 1 else 4, opTag := q.opTag, jobId := f.jobId, jobGen := f.jobGen, status := stMemUnc }
  let r := if m.addr / 2 ^ 48 = 0 then s.gddrOp m.addr m.op m.len m.data w
           else let x := s.rsServe (m.addr % 2 ^ 48) m.op m.len m.data w
                (x.1, x.2.1, x.2.2, if m.op = .store then m.data else [])
  match r.1.windowOf pl.val f q with
  | none => r.1.wtDone pl.val f r.2.1 r.2.2.1
  | some (key, win) =>
    let parts := (r.1.wroteParts m.addr r.2.1 r.2.2.2).filter (fun x => r.1.forwards key win (q.offset + (x.1 - m.addr)))
    if parts.isEmpty then (r.1.busyAdd pl.val key (-1)).wtDone pl.val f r.2.1 r.2.2.1
    else
      -- the answer waits; its status and old values travel in the frame kept with each forward
      parts.foldl (fun s x => s.twinSend (x.1 / 256 % 2) 0x02 (forwardBytes f.jobId f.jobGen x.1 x.2)
        (some { f with status := r.2.1, payload := f.payload.take 32 ++ r.2.2.1 }) pl 0) r.1

/-- The answer of a mirrored request, once its forward is acknowledged or the twin is lost (R460, R463). -/
def State.mirrorAnswer (s : State) (pl : Plane) (f : WtFrame) : State :=
  let s1 := match s.windowOf pl.val f (reqSub f.payload) with
    | some (key, _) => s.busyAdd pl.val key (-1)
    | none => s
  s1.wtDone pl.val { f with status := 0 } f.status (f.payload.drop 32)

/-- The slice serves the oldest request of its foreign queue, and one held in the router takes the freed place (R196). -/
def State.foreignServe (s0 : State) (c : CoreId) : State :=
  match (s0.core c).foreign with
  | [] => s0
  | m :: rest =>
    let s := s0.updCore c (fun k => match k.foreignHeld with
      | h :: t => { k with foreign := rest ++ [h], foreignHeld := t }
      | [] => { k with foreign := rest })
    match m.asker with
    | .window pl f => s.windowServe pl f m
    | .flit f => s.flitServe c f
    | .dma _ _ _ => s

/-- The foreign requests that a slice holds are served: they arrived before the one that now comes (R36, R196). -/
def State.foreignFlush (s : State) (c : CoreId) : State :=
  (List.range ((s.core c).foreign.length + (s.core c).foreignHeld.length)).foldl (fun s _ => s.foreignServe c) s

/-- A foreign access of the processor die or a fabric die to resident stores: status and bytes. It takes its turn in each slice's queue,
behind what arrived before (R196). -/
def State.rsOp (s : State) (off : Nat) (op : MemOp) (len : Nat) (data : List Byte) (w : Who) : State × Byte × List Byte :=
  let n := match op with | .store => data.length | _ => len
  let s1 := (slicePieces off n).foldl (fun s p => match s.rsTarget p.1 with
    | none => s
    | some (d, _) => s.foreignFlush d) s
  s1.rsServe off op len data w

/-- The fabric die reads bytes at an NPA for core `c`: those of stores by its flits (R35, R191, R352), a working store being that of `c`. -/
def State.dieRead (s : State) (c : CoreId) (npa n : Nat) (w : Who) : State × Byte × List Byte :=
  match npa / 2 ^ 48 with
  | 1 => s.rsOp (npa % 2 ^ 48) .load n [] w
  | 2 => (pieces512 (npa % 2 ^ 48) n).foldl (fun (acc : State × Byte × List Byte) p =>
      let r := acc.1.diePiece c false p.1 p.2 false (p.1 + p.2 == npa % 2 ^ 48 + n) [] w
      (r.1, worse acc.2.1 r.2.1, acc.2.2 ++ padTo p.2 r.2.2)) (s, stDone, [])
  | _ => s.npaRead c npa n w

/-- The fabric die writes bytes at an NPA for core `c`. -/
def State.dieWrite (s : State) (c : CoreId) (npa : Nat) (bs : List Byte) (w : Who) : State × Byte :=
  match npa / 2 ^ 48 with
  | 1 => let r := s.rsOp (npa % 2 ^ 48) .store 0 bs w
         (r.1, r.2.1)
  | 2 => (pieces512 (npa % 2 ^ 48) bs.length).foldl (fun (acc : State × Byte) p =>
      let r := acc.1.diePiece c false p.1 p.2 true (p.1 + p.2 == npa % 2 ^ 48 + bs.length) (slice bs (p.1 - npa % 2 ^ 48) p.2) w
      (r.1, worse acc.2 r.2.1)) (s, stDone)
  | _ => s.npaWrite c npa bs w

/-- A queued request is served, and whoever waits for it is answered. -/
def State.serveMem (s : State) (m : MemReq) : State :=
  match m.asker with
  | .window pl f => s.windowServe pl f m
  | .dma c req part =>
    let e := (s.core c).entry ((s.core c).dma.entry.getD 64)
    let r := s.gddrOp (m.addr % 2 ^ 48) m.op m.len m.data ((s.core c).who 0 e.d.opTag)
    let s1 := match m.op, (s.core c).dma.entry with
      | .atomic _ _ _ _, some i => r.1.noteWrites c i [(m.addr % 2 ^ 48, r.2.2.2)]
      | _, _ => r.1
    s1.dmaAnswer c req part r.2.1 r.2.2.1 (r.1.handed.length != s.handed.length)
  | _ => s

/-! ### A channel's stored row groups (R254, R258) -/

/-- The local unit whose codewords stand at the place `pu`: that of a row group moved there, as far as it has been copied, else its own. -/
def Channel.unitAt (c : Channel) (pu : Nat) : Nat :=
  match c.spares.find? (fun e => e.2.toGroup.toNat == pu / 15 && (e.2.assigned || (e.2.copying && pu % 15 < e.2.copied))) with
  | some e => e.2.fromGroup.toNat * 15 + pu % 15
  | none => pu

/-- The 4 KiB of a row group as the device holds them: 15 units of data, 16 check bytes to each, and zeros. The bytes are those of the
codewords written there, each formed for the number of the local unit that stands there, with the standing errors. -/
def Channel.rowGroup (c : Channel) (g : Nat) : List Byte :=
  let flip := fun (es : List SymErr) (base : Nat) (l : List Byte) =>
    (l.zipIdx).map (fun x => es.foldl (fun v e => if e.pos.val = x.2 + base then v ^^^ e.diff else v) x.1)
  let sec := fun (i : Nat) =>
    let pu := g * 15 + i / 4
    let q := c.unitAt pu
    let good := c.mem.readN (pu * 256 + i % 4 * 64) 64
    let es := c.errsAt q pu (i % 4)
    (flip es 2 good, flip es 66 (rsCheck (q * 4 + i % 4) good))
  let all := (List.range 60).map sec
  all.flatMap (·.1) ++ all.flatMap (·.2) ++ List.replicate 16 0

/-! ### Squall guard (R265 to R268) -/

/-- A combining sector is written back whole and leaves combining (R265). -/
def State.squallWriteBack (s : State) (ch key : Nat) : State :=
  s.updChan ch (fun c =>
    let im := c.combining.get key
    if im.isEmpty then c else
    let pu := c.spared (key / 4)
    { c with mem := c.mem.writeN (pu * 256 + key % 4 * 64) im, secErr := Channel.putErrs c.secErr (key / 4) pu (key % 4) []
             combining := c.combining.set key []
             lineAsk := c.lineAsk.filter (fun a => a.1 != key), lineHeld := c.lineHeld.filter (fun a => a.1 != key) })

/-- Symbol errors strike the first sector of a request at the serving channel. -/
def State.strikeFirst (s : State) (m : MemReq) (errs : List SymErr) : State :=
  s.gddrStrike (errs.map (fun e => (m.addr % 2 ^ 48, e)))

/-- Serve the oldest request at a channel (R262, R266). -/
def execGddrRequest (ch : Chan) (errs : List SymErr) (s : State) : Out :=
  let c := (s.chan ch.val).takeWindow
  match c.queue with
  | [] => .next s
  | m :: r => .next (((s.setChan ch.val ({ c with queue := r } : Channel).takeWindow).strikeFirst m errs).serveMem m)

/-- A combining sector with fewer than 8 requests in 1 us leaves combining (R265). -/
def execSquallExit (ch : Chan) (sector : Nat) (s : State) : Out :=
  let c := s.chan ch.val
  if (c.combining.get sector).isEmpty ∨ 8 ≤ (c.recent sector s.t).length then .next s
  else .next (s.squallWriteBack ch.val sector)

/-- One line credit goes to the next package in turn that has asked (R267). -/
def execLineCreditGrant (ch : Chan) (sector : Nat) (s : State) : Out :=
  let c := s.chan ch.val
  let asks := (c.lineAsk.filter (fun a => a.1 == sector)).map (·.2)
  if (c.combining.get sector).isEmpty ∨ c.lineHeld.any (fun a => a.1 == sector) then .next s else
  let later := asks.filter (fun p => c.lineLast < p)
  match (if later.isEmpty then asks else later) with
  | [] => .next s
  | p :: r =>
    let next := r.foldl Nat.min p
    .next (s.updChan ch.val (fun c => { c with
      lineAsk := c.lineAsk.filter (fun a => a != (sector, next)), lineHeld := c.lineHeld ++ [(sector, next)], lineLast := next }))

/-! ### Refresh, retraining, temperature (R261, R269, R276) -/

/-- GDDR_STATUS.state (R278): a retrain reads as 2 whatever the channel does (R269); one that migrates, is migrated or is lost reads so
while it is hot too. -/
def Channel.shown (c : Channel) : BitVec 3 :=
  if c.retraining then 2 else if c.state = 1 ∧ c.heat = 1 then 6 else if c.state = 1 ∧ c.heat = 2 then 7 else c.state

/-- `s` follows `s0`: a channel whose `state` has changed to 4, 5, 6 or 7 raises its source (R512). -/
def State.noteShown (s s0 : State) (ch : Nat) : State :=
  if (s.chan ch).shown ≠ (s0.chan ch).shown ∧ 4 ≤ (s.chan ch).shown.toNat then s.raise (12 + ch) else s

/-- A refresh slice reads the device's on-die ECC reports (R261). -/
def execGddrRefreshSlice (ch : Chan) (deviceCorrected : BitVec 32) (s : State) : Out :=
  .next (s.updChan ch.val (fun c => { c with deviceCorrected := satAdd c.deviceCorrected deviceCorrected.toNat }))

/-- A step of a short retrain of a channel that takes requests; `state` reads 2 until the last (R269). -/
def execGddrRetrain (ch : Chan) (last : Bool) (s : State) : Out :=
  let c := s.chan ch.val
  if c.retraining then .next (if last then (s.setChan ch.val { c with retraining := false }).noteShown s ch.val else s)
  else if (c.state = 1 ∨ c.state = 3) ∧ ¬ last then .next (s.setChan ch.val { c with retraining := true })
  else .next s

/-- A channel's device enters a heat state: it is recorded (R276, R661). -/
def State.heatEnter (s : State) (ch : Nat) (c : Channel) (sev : Byte) : State :=
  ((s.setChan ch c).hand { unit := chanUnit ch 4, cls := 0x07, severity := sev }).noteShown s ch

/-- Exit temperature of a heat state (R276). -/
def heatExitTemp (h : BitVec 2) : Nat := if h = 2 then 100 else 90

/-- The device temperature is read: of every device that is trained and not lost, in each of its states (R276). -/
def execGddrTempRead (ch : Chan) (temp : Byte) (s : State) : Out :=
  let c := { s.chan ch.val with temp := temp }
  let t := temp.toNat
  if c.state = 0 ∨ c.state = 5 ∨ c.dead then .next (s.setChan ch.val c)
  else if 105 < t ∧ c.heat ≠ 2 then .next (s.heatEnter ch.val { c with heat := 2, hotAt := s.t } 3)
  else if 95 < t ∧ c.heat = 0 then .next (s.heatEnter ch.val { c with heat := 1, hotAt := s.t } 1)
  else if c.heat ≠ 0 ∧ heatExitTemp c.heat ≤ t then .next (s.setChan ch.val { c with hotAt := s.t })
  else .next (s.setChan ch.val c)

/-- 100 us of readings below the exit temperature: stopped becomes hot, and hot becomes cool (R276). -/
def execGddrHeatExit (ch : Chan) (s : State) : Out :=
  let c := s.chan ch.val
  if c.heat = 0 ∨ s.t < c.hotAt + 100000 then .next s
  else if c.heat = 2 then .next ((s.setChan ch.val { c with heat := 1, hotAt := s.t }).noteShown s ch.val)
  else .next (s.setChan ch.val { c with heat := 0 })

/-! ### Migration, spares, loss (R270 to R275) -/

/-- Live operations that hold GDDR credits: (core key, operation). -/
def State.gddrOps (s : State) : List (Nat × Nat) :=
  s.cores.flatMap (fun k => (k.2.entries.filter (fun e => e.2.live && !e.2.gddrCred.isEmpty)).map (fun e => (k.1, e.2.op)))

/-- Another channel migrates, is migrated, or is lost (R273, R615). -/
def State.otherMigration (s : State) (ch : Nat) : Bool :=
  s.chans.any (fun x => x.1 != ch && (x.2.state == 3 || x.2.state == 4 || x.2.state == 5))

/-- PKG_STATUS.migrating follows the copies that run (R271, R274). -/
def State.noteMigrating (s : State) : State :=
  { s with pkg := { s.pkg with migrating := s.chans.any (fun x => x.2.state == 3 || x.2.spares.any (fun e => e.2.copying)) } }

/-- A write of `start` in GDDR_MIGRATE (R271, R273). A migration that a loss broke off goes on at its pointer. -/
def State.migrateStart (s : State) (ch : Nat) : State :=
  let c := s.chan ch
  if s.otherMigration ch ∨ c.state = 3 ∨ c.state = 4 then s
  else (s.setChan ch { c with
    migStart := true, migDone := false, state := 3, pointer := if c.state = 5 then c.pointer else 0
    draining := true, shadow := [], oldOps := s.gddrOps }).noteMigrating

def execStart (ch : Chan) (s : State) : Out := .next (s.migrateStart ch.val)

/-- The operations admitted under the earlier bound have ended: the copy begins (R271 step 2). -/
def execMigrationDrained (ch : Chan) (s : State) : Out :=
  let c := s.chan ch.val
  if c.state ≠ 3 ∨ ¬ c.draining ∨ c.oldOps.any (fun x => s.gddrOps.contains x) then .next s
  else .next (s.setChan ch.val { c with draining := false, oldOps := [] })

/-- Copy the four sectors of a local unit to local unit `tq` of a channel, at the place `tpu`: a sector that is uncorrectable or lost
matches no data there (R262, R275). -/
def State.copyUnit (s : State) (ch q : Nat) (lost : Bool) (tch tq tpu : Nat) : State :=
  let pu := (s.chan ch).spared q
  let j := if lost then (s, [0, 1, 2, 3]) else s.gddrJudge ch pu q (s.placeNpa ch q) [0, 1, 2, 3] { source := 4 }
  let bytes := (j.1.chan ch).mem.readN (pu * 256) 256
  j.1.updChan tch (fun c => { c with
    mem := if lost then c.mem else c.mem.writeN (tpu * 256) bytes
    secErr := [0, 1, 2, 3].foldl (fun t k => Channel.putErrs t tq tpu k (if j.2.contains k then noData else [])) c.secErr })

/-- Requests queued at a channel for a local unit are served while the unit is held (R271 step 4). -/
def State.drainUnit (s : State) (ch q : Nat) : State :=
  let mine := fun (m : MemReq) => (s.sectorsOf (m.addr % 2 ^ 48) m.len).any (fun x => x.1 == ch && x.2.1 == q)
  let c := s.chan ch
  let s1 := s.setChan ch { c with queue := c.queue.filter (fun m => !mine m), window := c.window.filter (fun m => !mine m) }
  (c.queue.filter mine ++ c.window.filter mine).foldl State.serveMem s1

/-- One unit is copied, held, drained and released, and `pointer` rises (R271 steps 4 and 5). -/
def execMigrationUnitCopy (ch : Chan) (errs : List (Nat × SymErr)) (s : State) : Out :=
  let c := s.chan ch.val
  if c.state ≠ 3 ∨ c.draining then .next s else
  let l := c.pointer.toNat
  let s0 := [0, 1, 2, 3].foldl (fun s k => s.squallWriteBack ch.val (l * 4 + k)) ((s.gddrStrike errs).drainUnit ch.val l)
  let tgt := migTarget s.pkg.density ch.val l
  let s1 := s0.copyUnit ch.val l (c.migLost || c.dead) tgt.1 tgt.2 ((s0.chan tgt.1).spared tgt.2)
  let s2 := s1.updChan ch.val (fun c => { c with pointer := c.pointer + 1, shadow := [] })
  if l + 1 < uUse s.pkg.density then .next s2
  else .next (((s2.updChan ch.val (fun c => { c with state := 4, migDone := true })).noteMigrating.hand
    { unit := chanUnit ch.val 0, cls := 0x05, severity := 3 }).raise (12 + ch.val))

/-- Node firmware moves a row group to the spare that the controller assigns from the top of the reserve (R274): the first command
on an entry starts the copy, and each further one holds, drains and copies a unit; the last makes the entry valid. -/
def execRowSpareCopy (ch : Chan) (n : Fin 64) (s : State) : Out :=
  let c := s.chan ch.val
  let e := c.spares.get n.val
  let g := e.fromGroup.toNat
  let upd := fun (s : State) (f : RowSpare → RowSpare) => (s.updChan ch.val (fun c => { c with spares := c.spares.upd n.val f })).noteMigrating
  if e.assigned ∨ c.lostNow ∨ uData s.pkg.density / 15 ≤ g then .next s
  else if !e.copying then
    let used := (c.spares.filter (fun x => x.2.assigned || x.2.copying)).length
    .next (upd s (fun e => { e with toGroup := BitVec.ofNat 21 (uData s.pkg.density / 15 - 1 - used), copying := true, copied := 0 }))
  else
    let q := g * 15 + e.copied
    let w := [0, 1, 2, 3].foldl (fun s k => s.squallWriteBack ch.val (q * 4 + k)) (s.drainUnit ch.val q)
    let s1 := w.copyUnit ch.val q false ch.val q (e.toGroup.toNat * 15 + e.copied)
    .next (upd s1 (fun e => if e.copied < 14 then { e with copied := e.copied + 1 }
                            else { e with copying := false, copied := 0, assigned := true, valid := true }))

/-- A request that a lost channel ends. -/
def State.failMem (s : State) (m : MemReq) : State :=
  match m.asker with
  | .window pl f =>
    match s.windowOf pl.val f (reqSub f.payload) with
    | some (key, _) => (s.busyAdd pl.val key (-1)).wtDone pl.val f stMemUnc []
    | none => s.wtDone pl.val f stMemUnc []
  | .dma c req part => s.dmaAnswer c req part stMemUnc []
  | _ => s

/-- A channel is lost unplanned (R275); its temperature refuses no admission any more, and a channel whose device failed training is lost in the same way (R250). A loss while
another channel is migrated or lost cannot be repaired (R615). -/
def State.loseChannel (s : State) (ch : Nat) : State :=
  let c := s.chan ch
  let gone : Channel := { c with
    state := 5, dead := true, heat := 0, retraining := false, queue := [], window := [], combining := [], lineAsk := [], lineHeld := [], draining := false
    oldOps := [], spares := c.spares.map (fun e => (e.1, { e.2 with copying := false })) }
  let s1 := ({ s with pkg := { s.pkg with memoryBroken := s.pkg.memoryBroken || s.otherMigration ch } }.setChan ch gone).noteMigrating
  let s2 := (s1.hand { unit := chanUnit ch 0, cls := 0x05, severity := 3 }).raise (12 + ch)
  (c.queue ++ c.window).foldl State.failMem s2

def execChannelLost (ch : Chan) (s : State) : Out :=
  if (s.chan ch.val).state = 5 ∨ (s.chan ch.val).state = 4 then .next s else .next (s.loseChannel ch.val)

end Sys2Proof.Machine
end

