-- ==== Sys2Proof/Machine/Collective.lean ====
section
/-! DEFINITION. The collective engine (chapter 12): submission, local admission, package sums, shards, chunk and result
frames, checksums, outputs and records, and the ends of R372. -/

namespace Sys2Proof.Machine

/-! ### Descriptors (R350, R351, R353) -/

structure CollBody where
  cop : Nat
  group : Nat
  groupRes : Nat
  localIndex : Nat
  cseq : BitVec 32
  n : Nat
  inFmt : Nat
  outFmt : Nat
  wide : Bool
  agree : Nat
  onFull : Nat
  nfContinue : Bool
  home : Nat
  sbiExp : Int
  opTag : BitVec 32
  spillOff : Nat
  src : Nat
  dst : Nat
  record : Nat
  root : Nat
deriving DecidableEq, Repr, Inhabited

def collBody (b : List Byte) : CollBody :=
  let m := fieldAt b 0xE 1
  { cop := fieldAt b 0 1, group := fieldAt b 1 1 % 16, groupRes := fieldAt b 1 1 / 16, localIndex := fieldAt b 2 2
    cseq := BitVec.ofNat 32 (fieldAt b 4 4), n := fieldAt b 8 4, inFmt := fieldAt b 0xC 1, outFmt := fieldAt b 0xD 1
    wide := bitAt m 0, agree := bitsAt m 1 2, onFull := bitsAt m 3 2, nfContinue := bitAt m 5, home := bitsAt m 6 2
    sbiExp := toSigned 8 (fieldAt b 0xF 1), opTag := BitVec.ofNat 32 (fieldAt b 0x10 4), spillOff := fieldAt b 0x14 4
    src := fieldAt b 0x18 8, dst := fieldAt b 0x20 8, record := fieldAt b 0x28 8, root := fieldAt b 0x30 2 }

def CollDesc.b (d : CollDesc) : CollBody := collBody d.bytes

/-- The body that all local descriptors of a collective share. -/
def Coll.b (c : Coll) : CollBody := collBody ((c.descs.headD {}).bytes)

def CollBody.blocks (x : CollBody) : Nat := ceilDiv x.n 64
def CollBody.reduces (x : CollBody) : Bool := x.cop == 1 || x.cop == 2 || x.cop == 6
def CollBody.gathers (x : CollBody) : Bool := x.cop == 3 || x.cop == 4
def isSumFmt (f : Nat) : Bool := f == 0x20 || f == 0x21 || f == 1 || f == 2 || f == 3

/-- Reserved values and combinations that R350 excludes. -/
def CollBody.bad (x : CollBody) (b : List Byte) (g : Group) : Bool :=
  x.cop == 0 || 6 < x.cop || x.groupRes != 0 || 2 ≤ x.agree || x.onFull == 3 || x.home == 3 || g.localCount.toNat ≤ x.localIndex
    || (if x.cop = 5 then x.n != 0 else x.n == 0 || 2 ^ 28 < x.n || !isSumFmt x.inFmt || (x.cop == 6 && isSbi x.inFmt)
        || (if x.cop = 6 then x.outFmt != 9 else !isSumFmt x.outFmt) || (x.inFmt == 0x21 && !x.wide))
    || x.spillOff % 512 != 0 || x.record % 64 != 0 || x.record / 2 ^ 48 != 2
    || (x.cop == 4 && g.members.toNat ≤ x.root) || (b.drop 0x32).any (· != 0)

/-- First block of a shard: ⌊B k / P⌋. -/
def shardLo (blocks parts k : Nat) : Nat := blocks * k / parts

/-- The blocks, first and past the last, of contributor `j` of `l` in a range of blocks. -/
def subPart (lo hi l j : Nat) : Nat × Nat := (lo + shardLo (hi - lo) l j, lo + shardLo (hi - lo) l (j + 1))

/-- Elements in blocks [a, b) of a vector of `n`. -/
def blockElems (n a b : Nat) : Nat := Nat.min (64 * b) n - Nat.min (64 * a) n

/-- The blocks of its member's vector that a contributor supplies. -/
def CollBody.supplies (x : CollBody) (me l : Nat) : Nat × Nat :=
  if x.cop = 3 ∨ (x.cop = 4 ∧ me = x.root) then subPart 0 x.blocks l x.localIndex
  else if x.cop = 4 ∨ x.cop = 5 then (0, 0) else (0, x.blocks)

/-- The blocks a contributor receives. -/
def CollBody.receives (x : CollBody) (p me l : Nat) : Nat × Nat :=
  if x.cop = 2 then subPart (shardLo x.blocks p me) (shardLo x.blocks p (me + 1)) l x.localIndex
  else if x.cop = 5 then (0, 0) else (0, x.blocks)

/-- Elements a contributor receives: of `max_exp`, one a block (R353). -/
def CollBody.outElems (x : CollBody) (p me l : Nat) : Nat :=
  let r := x.receives p me l
  if x.cop = 6 then r.2 - r.1 else if x.cop = 3 then x.n * p else blockElems x.n r.1 r.2

/-! ### Groups -/

def State.groupKey (t g : Nat) : Nat := t * 16 + g

/-- A group entry; FA and FB hold identical ones (R346). -/
def State.groupOf (s : State) (t g : Nat) : Group := (s.fab 0).groups.get (State.groupKey t g)

def State.updGroup (s : State) (t g : Nat) (f : Group → Group) : State :=
  [0, 1].foldl (fun s pl => s.updFab pl (fun x => { x with groups := x.groups.upd (State.groupKey t g) f })) s

/-- 16-bit ranks, as a member list holds them (R346). -/
def listOf (n : Nat) (b : List Byte) : List (BitVec 16) := (List.range n).map (fun i => BitVec.ofNat 16 (fieldAt b (2 * i) 2))

/-- The member list of a group, as the group was formed with it. -/
def Group.memberList (g : Group) : List Nat := g.list.map BitVec.toNat

/-- The group belongs to the tenancy's ACTIVE job, and its member list could be read. -/
def State.groupOk (s : State) (t : Nat) (g : Group) : Bool :=
  let j := (s.ten t).job
  g.valid && j.state == 2 && g.jobId == j.jobId && g.jobGen == j.jobGen && g.list.length == g.members.toNat

/-! ### Records (R352) -/

/-- A collective record. -/
def collRecord (x : CollBody) (status flags : Byte) (tStart tEnd endBy nonfinite : Nat) (gen : BitVec 16) (checksum : Nat) : List Byte :=
  [status, flags, BitVec.ofNat 8 x.cop, BitVec.ofNat 8 x.group] ++ leBytes 4 x.opTag.toNat ++ leBytes 8 tStart ++ leBytes 8 tEnd
    ++ leBytes 8 endBy ++ leBytes 4 x.cseq.toNat ++ leBytes 4 (Nat.min nonfinite 0xFFFFFFFF) ++ leBytes 2 gen.toNat ++ List.replicate 6 0
    ++ leBytes 8 checksum ++ List.replicate 8 0

/-- The engine writes a record into a contributor's working store. -/
def State.writeRecord (s : State) (d : CollDesc) (bytes : List Byte) : State :=
  match s.phys d.core.toNat with
  | some c => (s.dieWrite c d.b.record bytes { source := 4, opTag := d.b.opTag, jobId := d.jobId, jobGen := d.jobGen }).1
  | none => s

/-- A refused descriptor: its record says so, and its output is untouched (R351). -/
def State.refuseDesc (s : State) (d : CollDesc) (status : Byte) (recOk : Bool) : State :=
  if recOk then s.writeRecord d (collRecord d.b status 4 0 s.t 0 0 0 0) else s

/-- Contributor's core, with the job under which the engine's flits reach its stores (R35) and of its records. -/
def State.descCore (s : State) (d : CollDesc) : Option (CoreId × Who) :=
  (s.phys d.core.toNat).map (fun c => (c, { source := 4, opTag := d.b.opTag, jobId := d.jobId, jobGen := d.jobGen, status := stMemUnc }))

/-! ### Submission (R348 to R351) -/

/-- Bytes of the spill area that each contributor needs: ⌈B ÷ `local_count`⌉ rows, twice that of wide accumulators (R357). -/
def CollBody.spillBytes (x : CollBody) (l : Nat) : Nat :=
  (if x.wide then 1024 else 512) * ceilDiv x.blocks l

/-- A collective may come to spill: it adds, and finds no slots or none enough (R356). -/
def State.maySpill (s : State) (t : Nat) (x : CollBody) : Bool :=
  let need := Nat.min 64 (ceilDiv x.n (if x.wide then 4096 else 8192))
  x.reduces && (x.onFull == 0 || (x.onFull == 1 && [0, 1].any (fun pl => ((s.fab pl).slotQuota.get t).toNat < need)))

/-- The regions of a descriptor in the contributor's stores: contribution, output, and the spill area in row mode (R350, R357, R87). -/
def State.collRegionsOk (s : State) (c : CoreId) (g : Group) (me : Nat) (x : CollBody) : Bool :=
  let l := g.localCount.toNat
  let sup := x.supplies me l
  let nIn := blockElems x.n sup.1 sup.2
  let nOut := x.outElems g.members.toNat me l
  let own := fun (a n : Nat) (p : Perm) => n == 0 || ((a / 2 ^ 48 == 2 || s.ownSlice c a n) && s.regionOk c a n p)
  let spill := 2 * 2 ^ 48 + x.spillOff
  own x.src (streamBytes x.src x.inFmt nIn) .r && own x.dst (streamBytes x.dst x.outFmt nOut) .w
    && (!s.maySpill (s.core c).tenancy.toNat x || (own spill (x.spillBytes l) .w && !(s.core c).touchesGrid spill (x.spillBytes l)))

/-- Descriptors of one collective that must agree (R351). -/
def CollBody.agrees (x y : CollBody) : Bool :=
  x.cop == y.cop && x.n == y.n && x.inFmt == y.inFmt && x.outFmt == y.outFmt && x.wide == y.wide && x.agree == y.agree
    && x.onFull == y.onFull && x.nfContinue == y.nfContinue && x.home == y.home

/-- The die a descriptor is submitted to admits: the home it names, or, where it leaves the choice, one of the two (R46, R351, R355). -/
def State.homeAdmits (s : State) (x : CollBody) : Bool :=
  if x.home = 1 then s.dieAdmits 5 else if x.home = 2 then s.dieAdmits 6 else s.dieAdmits 5 || s.dieAdmits 6

/-- The group has members outside the rack domain, to which `hall_bound_ns` 0 confines collectives (R374). -/
def State.beyondRack (s : State) (t : Nat) (g : Group) : Bool :=
  [0, 1].any (fun pl => (s.fab pl).hallBound == 0) && g.memberList.any (fun r =>
    !((s.fab 0).ranks.get (t * 65536 + r)).inRack && r != (s.ten t).job.ownRank.toNat)

/-- A write reaches the submission area (R348 to R351); of a collective that has ended meanwhile, the descriptor gets its record with the
status (R372). `off` is the offset in the area. -/
def State.collSubmit (s : State) (src off : Nat) (bytes : List Byte) (acc : BitVec 32) : State :=
  if off % 128 ≠ 0 ∨ bytes.length ≠ 128 then
    s.hand { unit := fabUnit 0 0x02 0, cls := 0x0B, severity := 0 }
  else
    let job := (s.phys src).map (fun c => (s.core c).who 4 0)
    let d : CollDesc := { core := BitVec.ofNat 17 src, bytes := bytes, acc := acc, jobId := (job.getD {}).jobId, jobGen := (job.getD {}).jobGen }
    let x := d.b
    let t := off / 4096 % 8
    let g := s.groupOf t x.group
    let refuse := fun (recOk : Bool) =>
      (s.hand { unit := fabUnit 0 0x02 0, cls := 0x06, severity := 2, status := stWindowFault, opTag := x.opTag
                jobId := (s.ten t).job.jobId, jobGen := (s.ten t).job.jobGen }).refuseDesc d stWindowFault recOk
    match s.phys src with
    | none => refuse false
    | some c =>
      let recOk := x.record / 2 ^ 48 == 2 && s.regionOk c x.record 64 .w
      let q := s.collQ.get t
      let me := (g.memberList.findIdx? (· == (s.ten t).job.ownRank.toNat)).getD 0
      if x.bad bytes g || !s.groupOk t g || (s.core c).tenancy.toNat != t || !(s.core c).jobValid || !recOk
          || !s.collRegionsOk c g me x || s.beyondRack t g
          || q.any (fun y => y.b.cseq == x.cseq && (!x.agrees y.b || y.b.group != x.group || y.b.localIndex == x.localIndex)) then refuse recOk
      else if let some e := g.ended.find? (·.1 == x.cseq) then s.writeRecord d (collRecord x e.2 4 0 s.t 0 0 g.gen 0)
      else if 1024 ≤ q.length ∨ ¬ s.homeAdmits x then s.refuseDesc d stNotAdmitted true
      else { s with collQ := s.collQ.set t (q ++ [d]) }

def execCollectiveSubmit (src : BitVec 17) (off : BitVec 15) (bytes : List Byte) (s : State) : Out :=
  .next (s.collSubmit src.toNat off.toNat bytes 0)

/-! ### Numbers of a collective -/

def noExp : Int := -(2 ^ 31)

/-- ⌈log2 n⌉. -/
def ceilLog2 (n : Nat) : Nat := if n ≤ 1 then 0 else Nat.log2 (n - 1) + 1

def accBits (x : CollBody) : Nat := if x.wide then 128 else 64

/-- Blocks of one frame (R368). -/
def perFrame (x : CollBody) : Nat := if x.wide then 3 else 7

/-- ⌊log2 |v|⌋ of a finite nonzero value. -/
def valExp : FVal → Option Int
  | .num _ m e => if m = 0 then none else some (Nat.log2 m + e)
  | _ => none

/-- e_b from the agreed exponent and the number of contributions (R361). -/
def agreedExp (x : CollBody) (n : Nat) (e : Int) : Int :=
  if e = noExp then 0 else
  let v := e + 1 + ceilLog2 n - (if x.wide then 63 else 31)
  if v < -128 then -128 else if 127 < v then 127 else v

/-- A contribution of 64-element blocks: codes and, for SBI, headers. -/
structure Contrib where
  codes : List Nat := []
  heads : List Nat := []
deriving DecidableEq, Repr, Inhabited

/-- Read a contributor's vector of `n` elements: the outcome of the reads (R166, R204, R210). -/
def State.readContrib (s : State) (c : CoreId) (npa fmt n : Nat) (w : Who) : State × Byte × Contrib :=
  if n = 0 then (s, stDone, {}) else
  if !s.regionOk c npa (streamBytes npa fmt n) .r then (s.dieFault c npa w, stWindowFault, {}) else
  let eb := elemBits fmt
  let blocks := ceilDiv n 64
  let bytes := if isSbi fmt then blocks * 8 * eb else ceilDiv (n * eb) 8
  let r := s.dieRead c npa bytes w
  let codes := (List.range n).map (fun i => fieldAt r.2.2 (i * (eb / 8)) (eb / 8))
  if isSbi fmt then
    let h := r.1.dieRead c (sbiHead npa eb blocks) (2 * blocks) w
    (h.1, worse r.2.1 h.2.1, { codes := codes, heads := (List.range blocks).map (fun b => fieldAt h.2.2 (2 * b) 2) })
  else (r.1, r.2.1, { codes := codes })

/-- The value of an element of a contribution. -/
def contribVal (fmt : Nat) (k : Contrib) (i : Nat) : FVal :=
  let c := k.codes.getD i 0
  match elemOf fmt with
  | some (.sbi w) => match FVal.ofInt (toSigned w c) with
    | .num n m _ => .num n m (toSigned 8 (k.heads.getD (i / 64) 0 % 256))
    | v => v
  | some e => elemVal e c
  | none => .zero

/-- A block of a contribution under a block exponent (R360). -/
def contribBlock (x : CollBody) (k : Contrib) (b : Nat) (e : Int) : AccBlock :=
  let idx := (List.range 64).map (64 * b + ·)
  let have_ := fun i => i < k.codes.length
  if isSbi x.inFmt then
    let h := k.heads.getD b 0
    let w := elemBits x.inFmt
    if toSigned 8 (h % 256) ≠ e then { elems := List.replicate 64 0, e := e, nonfinite := 15, ovf := bitAt h 12, nv := true }
    else { elems := idx.map (fun i => if have_ i then toSigned w (k.codes.getD i 0) else 0), e := e, nonfinite := bitsAt h 8 4, ovf := bitAt h 12 }
  else
    let w := if x.wide then 64 else 32
    let ws := idx.map (fun i => if have_ i then cvtSbi w e (contribVal x.inFmt k i) else {})
    { elems := ws.map (fun y => toSigned w y.code), e := e
      nonfinite := Nat.min 15 (ws.filter (·.nonfinite)).length, ovf := ws.any (fun y => y.flags &&& flSAT != 0) }

/-- The largest exponent of a block of a contribution, in every element (R353). -/
def contribExp (x : CollBody) (k : Contrib) (b : Nat) : AccBlock :=
  let m := ((List.range 64).filterMap (fun i => if 64 * b + i < k.codes.length then valExp (contribVal x.inFmt k (64 * b + i)) else none)).foldl
    (fun (a : Int) v => if a < v then v else a) noExp
  { elems := List.replicate 64 m }

/-- Sum of two blocks in the accumulator (R360); `mx`: the larger instead (R353). Where the exponents differ, the sum is unspecified (R386). -/
def AccBlock.plus (mx : Bool) (bits : Nat) (a b : AccBlock) : AccBlock :=
  { elems := (a.elems.zip b.elems).map (fun p => if mx then (if p.1 < p.2 then p.2 else p.1) else wrapInt bits (p.1 + p.2))
    e := a.e, nonfinite := Nat.min 15 (a.nonfinite + b.nonfinite), ovf := a.ovf || b.ovf, nv := a.nv || b.nv
    mixed := a.mixed || b.mixed || (!mx && a.e != b.e) }

/-- The sum of a nonempty list of blocks. -/
def sumBlocks (mx : Bool) (bits : Nat) : List AccBlock → AccBlock
  | [] => {}
  | b :: r => r.foldl (AccBlock.plus mx bits) b

/-- Checksum of consecutive blocks from block `first` (R365). -/
def blocksSum (first : Nat) (bs : List AccBlock) : Nat :=
  checksum ((bs.zipIdx).flatMap (fun p => (p.1.elems.zipIdx).map (fun q => ((first + p.2) * 64 + q.2, q.1))))

/-! ### Frames (R368) -/

/-- The 16-bit header of a block (R165). -/
def AccBlock.head (b : AccBlock) : Nat := toUnsigned 8 b.e + 256 * Nat.min b.nonfinite 15 + 4096 * b2n b.ovf

/-- A collective frame's payload (R368). DESIGN CHOICE (log 44): the block headers and the accumulator elements, which are SBI blocks and no
header fields, go low byte first, as R9 stores them. -/
def collFrame (q : CollSub) (bs : List AccBlock) : List Byte :=
  let fl := b2n q.wide + 2 * b2n q.spilled + 4 * b2n q.rereq + 8 * b2n q.nfAny + 16 * b2n q.abandon + 32 * b2n q.hierNext
  let w := if q.wide then 16 else 8
  beBytes 4 q.cseq.toNat ++ [BitVec.ofNat 8 (q.group + 16 * q.cop), BitVec.ofNat 8 q.stage] ++ beBytes 2 q.gen.toNat
    ++ beBytes 4 q.first ++ [BitVec.ofNat 8 q.blocks, BitVec.ofNat 8 fl, q.astatus, 0] ++ beBytes 8 q.tAdmit ++ beBytes 8 q.checksum
    ++ padTo (ceilDiv (2 * bs.length) 8 * 8) (bs.flatMap (fun b => leBytes 2 b.head))
    ++ bs.flatMap (fun b => b.elems.flatMap (fun v => leBytes w (toUnsigned (8 * w) v)))

def collSub (p : List Byte) : CollSub :=
  let fl := fieldAt p 0xD 1
  { cseq := BitVec.ofNat 32 (beVal (slice p 0 4)), group := fieldAt p 4 1 % 16, cop := fieldAt p 4 1 / 16, stage := fieldAt p 5 1
    gen := BitVec.ofNat 16 (beVal (slice p 6 2)), first := beVal (slice p 8 4), blocks := fieldAt p 0xC 1
    wide := bitAt fl 0, spilled := bitAt fl 1, rereq := bitAt fl 2, nfAny := bitAt fl 3, abandon := bitAt fl 4, hierNext := bitAt fl 5
    astatus := p.getD 0xE 0, tAdmit := beVal (slice p 0x10 8), checksum := beVal (slice p 0x18 8) % 2 ^ 61 }

/-- The frame carries its elements; a re-request carries none. -/
def collHasData (q : CollSub) (p : List Byte) : Bool :=
  let w := if q.wide then 16 else 8
  p.length == 32 + ceilDiv (2 * q.blocks) 8 * 8 + q.blocks * 64 * w

def collBlocks (q : CollSub) (p : List Byte) : List AccBlock :=
  let w := if q.wide then 16 else 8
  let base := 32 + ceilDiv (2 * q.blocks) 8 * 8
  (List.range q.blocks).map (fun b =>
    let h := fieldAt p (32 + 2 * b) 2
    { elems := (List.range 64).map (fun i => toSigned (8 * w) (fieldAt p (base + (b * 64 + i) * w) w))
      e := toSigned 8 (h % 256), nonfinite := bitsAt h 8 4, ovf := bitAt h 12 })

/-! ### Collectives in progress -/

def State.findColl (s : State) (t : Nat) (cseq : BitVec 32) : Option Coll := s.colls.find? (fun c => c.ten == t && c.cseq == cseq)
def State.putColl (s : State) (c : Coll) : State :=
  { s with colls := s.colls.map (fun d => if d.ten = c.ten ∧ d.cseq = c.cseq then { c with badRank := c.badRank || d.badRank } else d) }

def Coll.maxing (c : Coll) : Bool := c.agree || c.b.cop == 6

/-- The plane that carries a collective's frames: its home's, or the one that is up. -/
def State.collPlane (s : State) (c : Coll) : Plane :=
  let p : Plane := if c.home = 0 then 0 else 1
  if s.planeUp p.val then p else otherPlane p

/-! ### The hall shape (R353, R364, R370). DESIGN CHOICE (log 51): in the hierarchical shape the member of a rack domain that reduces, and
later spreads, the shard of an owner elsewhere is the one that the owner's position selects; R364 says only that such members there are. -/

/-- A rank lies in this package's rack domain. -/
def State.inDomain (s : State) (t rank : Nat) : Bool := ((s.fab 0).ranks.get (t * 65536 + rank)).inRack || rank == (s.ten t).job.ownRank.toNat

/-- The rack domains of a member list, as member positions; this package's own first. -/
def State.rackDomains (s : State) (t : Nat) (members : List Nat) : List (List Nat) :=
  let at0 := fun p => members.getD p 0
  let far := (List.range members.length).filter (fun p => !s.inDomain t (at0 p))
  let key := fun p => Config.rackOf t (at0 p)
  (List.range members.length).filter (fun p => s.inDomain t (at0 p)) :: ((far.map key).eraseDups.map (fun k => far.filter (fun p => key p == k)))

/-- The domain's member that stands for shard `k`: its owner, or the one that its number selects. -/
def repIn (d : List Nat) (k : Nat) : Nat := if d.contains k then k else d.getD (k % d.length) 0

def Coll.hierShape (c : Coll) : Bool := !c.doms.isEmpty
def Coll.domOf (c : Coll) (m : Nat) : List Nat := (c.doms.find? (·.contains m)).getD [m]
/-- Frames of a member do not cross the hall; in the flat shape none is told apart. -/
def Coll.near (c : Coll) (m : Nat) : Bool := !c.hierShape || (c.domOf c.me).contains m
/-- Where this member's package sums of shard `k` are reduced. -/
def Coll.target (c : Coll) (k : Nat) : Nat := if c.hierShape then repIn (c.domOf c.me) k else k
/-- The shards there are; a barrier's empty one is member 0's. -/
def Coll.shards (c : Coll) : List Nat := if c.b.cop = 5 then [0] else List.range c.members.length
def Coll.shardsAt (c : Coll) (m : Nat) : List Nat := c.shards.filter (fun k => c.target k == m)
def Coll.shardOf (c : Coll) (k : Nat) : Nat × Nat :=
  (shardLo c.b.blocks c.members.length k, shardLo c.b.blocks c.members.length (k + 1))
/-- This member's shard. -/
def Coll.shard (c : Coll) : Nat × Nat := c.shardOf c.me
/-- Members other than this one. -/
def Coll.others (c : Coll) : List Nat := (List.range c.members.length).filter (· != c.me)
/-- The members that this one's results go to without crossing the hall, and those that stand for them in the other rack domains. -/
def Coll.peers (c : Coll) : List Nat := if c.hierShape then (c.domOf c.me).filter (· != c.me) else c.others
def Coll.reps (c : Coll) : List Nat := (c.doms.filter (fun d => !d.contains c.me)).map (fun d => repIn d c.me)
/-- The members whose chunks make up shard `k` here. -/
def Coll.feeders (c : Coll) (k : Nat) : List Nat :=
  if c.hierShape then c.domOf c.me ++ (if k = c.me then c.reps else []) else List.range c.members.length

/-- Stage numbers on the wire, in the order in which the stages of R370 follow each other; those of the exponent agreement come first. -/
def Coll.stageOf (c : Coll) (ty : BitVec 4) (m : Nat) : Nat :=
  (if c.b.agree = 1 ∧ c.b.cop ≤ 2 ∧ ¬ c.agree then (if c.hierShape then 4 else 2) else 0)
    + (if ty = 8 then b2n (!c.near m) else if c.b.gathers then b2n (c.hierShape && c.near m)
       else if !c.hierShape then 1 else if c.near m then 3 else 2)

/-- The member whose result blocks a frame of member `m` brings. -/
def Coll.origin (c : Coll) (m : Nat) (q : CollSub) : Nat :=
  if !(c.hierShape && c.near m) then m else
  match c.b.cop with
  | 3 => q.first / c.b.blocks | 4 => c.b.root | 5 => 0
  | _ => ((List.range c.members.length).find? (fun k => (c.shardOf k).1 ≤ q.first && q.first < (c.shardOf k).2)).getD m

/-! ### Sending -/

/-- Send one collective frame to a member; a rank that cannot be sent to ends the collective (R447). -/
def State.collSend (s : State) (c : Coll) (ty : BitVec 4) (member : Nat) (q : CollSub) (bs : List AccBlock) (own : OutOwner) : State :=
  let pl := s.collPlane c
  let g := s.groupOf c.ten c.group
  let rank := c.members.getD member 0
  let r : ReqPlan := { ten := c.ten, rank := rank, type := ty, jobId := g.jobId, jobGen := g.jobGen, payload := collFrame q bs, owner := own }
  match s.rankDest pl.val c.ten rank with
  | none => s.rejectOwner r.owner
  | some e => s.issueOrWait pl r e

/-- The sub-header of a frame of a collective. -/
def Coll.subHead (c : Coll) (ty : BitVec 4) (m first blocks tAdmit : Nat) : CollSub :=
  { cseq := c.cseq, group := c.group, cop := c.b.cop, stage := c.stageOf ty m, gen := c.gen, first := first, blocks := blocks
    wide := c.b.wide, spilled := c.spilled || c.anySpilled, rereq := c.rereq, nfAny := c.nfAny, tAdmit := tAdmit }

/-- Cut a range of blocks at frame size. -/
def framesOf (per : Nat) (lo hi : Nat) : List (Nat × Nat) :=
  (List.range (ceilDiv (hi - lo) per)).map (fun i => (lo + i * per, Nat.min per (hi - (lo + i * per))))

/-- Send a range of blocks of a table to a member; at least one frame, so that the member hears of the admission. -/
def State.sendBlocks (s : State) (c : Coll) (ty : BitVec 4) (member : Nat) (tab : Tab AccBlock) (lo hi tAdmit : Nat) (hierNext : Bool) : State :=
  let cuts := framesOf (perFrame c.b) lo hi
  (if cuts.isEmpty then [(lo, 0)] else cuts).foldl (fun s f =>
    let bs := (List.range f.2).map (fun i => tab.get (f.1 + i))
    s.collSend c ty member { c.subHead ty member f.1 f.2 tAdmit with checksum := blocksSum f.1 bs, hierNext := hierNext } bs (.coll c.ten c.cseq)) s

/-! ### Levels (R364, R377) -/

/-- Insert a number into an ascending list. -/
def insAsc (x : Nat) : List Nat → List Nat
  | [] => [x]
  | y :: r => if x ≤ y then x :: y :: r else y :: insAsc x r

/-- The least of some numbers that 99 % of them do not exceed. -/
def p99Exact (l : List Nat) : Nat := (l.foldr insAsc []).getD (ceilDiv (99 * l.length) 100 - 1) 0

/-- Level 3 or 4 of a fabric die: p99 hop latency of the last 10 us to peers of the rack domain, or beyond it, over what it may take. -/
def State.hopLevel (s : State) (pl : Nat) (rack : Bool) : Nat :=
  let f := s.fab pl
  let allow := if rack then f.allowance else f.hallBound.toNat
  if allow = 0 then 0 else
  Nat.min 255 (256 * p99Exact ((f.hops.filter (fun h => s.t < h.1 + 10000 && h.2.2 == rack)).map (·.2.1)) / allow)

/-- The engine measures the five levels of a die. DESIGN CHOICE (log 51): it does so where one of them is used, and at the end of a path
window; levels 0 to 2 are shares of handshakes, which the model does not count, and are free. -/
def State.measureDie (s : State) (pl : Nat) : State :=
  (s.updFab pl (fun f => { f with
    l0 := Config.treeLevel s.freeCount 0, l1 := Config.treeLevel s.freeCount 1, l2 := Config.treeLevel s.freeCount 2
    l3 := BitVec.ofNat 8 (s.hopLevel pl true), l4 := BitVec.ofNat 8 (s.hopLevel pl false) })).drawn

def State.measure (s : State) : State := (s.measureDie 0).measureDie 1

/-- The hall shape after a collective, as member 0 chooses it from its `l4` (R364). DESIGN CHOICE (log 51): once for each collective, at its
local admission. -/
def State.hierNext (s : State) (c : Coll) : Bool :=
  let l4 := s.hopLevel c.home false
  if 192 ≤ l4 then true else if l4 < 96 then false else c.hier

/-- `hier_next` of a result frame that this member sends (R364): member 0's choice in every one; another member passes on what it last heard. -/
def State.hierBit (s : State) (c : Coll) : Bool := if c.me = 0 then c.hierTo else (s.groupOf c.ten c.group).hier

/-- Member 0 applies its choice once it has announced it. -/
def State.hierSet (s : State) (c : Coll) : State := if c.me = 0 then s.updGroup c.ten c.group (fun g => { g with hier := c.hierTo }) else s

/-! ### Bound (R369, R370) -/

/-- Rows of `n` elements at a contributor: in a slice each counts 4, and 256 once. -/
def vecRows (npa fmt n : Nat) : Nat :=
  let r := ceilDiv (n * elemBits fmt) 4096
  if npa / 2 ^ 48 = 1 then 4 * r + 256 else r

/-- One-way delivery bound in the rack domain (R49, R50, R312). -/
def oneWayNs (rate hop : Nat) : Nat := clockless 240 rate + (if hop = 0 then 400 else 510 + hop)

/-- A member lies outside the rack domain. -/
def State.hallMember (s : State) (t : Nat) (members : List Nat) : Bool := members.any (fun r => !s.inDomain t r)

/-- The bound in force: the spilled form once any member is known to spill (R369). -/
def Coll.boundNow (c : Coll) : Nat := if c.spilled || c.anySpilled then c.boundSp else c.bound

/-- Time of a stage: `out` lists for each package, for each of its peers, the blocks of the ranges that it sends there. -/
def stageNs (d per blkB rateB : Nat) (out : List (List (List Nat))) : Nat :=
  d * ceilDiv (maxN (out.flatMap (fun x => x.map (fun p => Nat.max 1 (sumN (p.map (fun n => ceilDiv n per))))))) 16
    + ceilDiv (maxN (out.map (fun x => sumN (x.map sumN) * blkB))) rateB

/-- What each package sends to each peer in the stages of a collective: whether the stage crosses the hall, and the ranges (R353, R364, R370). -/
def Coll.traffic (c : Coll) (x : CollBody) (bl : Nat) : List (Bool × List (List (List Nat))) :=
  let p := c.members.length
  let all := List.range p
  let len := fun k => if x.cop = 5 then 0 else shardLo bl p (k + 1) - shardLo bl p k
  let ks := if x.cop = 5 then [0] else all
  let ds := if c.hierShape then c.doms else [all]
  let each := fun (f : List Nat → Nat → List (List Nat)) => ds.flatMap (fun d => d.map (f d))
  let mates := fun (d : List Nat) (i : Nat) => d.filter (· != i)
  let away := fun (i : Nat) => ds.filter (fun d => !d.contains i)
  let at0 := fun (d : List Nat) (i : Nat) => ks.filter (fun k => repIn d k == i)
  let reduceIn := (false, each (fun d i => (mates d i).map (fun j => (at0 d j).map len)))
  let reduceHall := (true, each (fun d i => ((at0 d i).filter (fun k => !d.contains k)).map (fun k => [len k])))
  let tellHall := (true, each (fun _ i => if ks.contains i then (away i).map (fun _ => [len i]) else []))
  let tellIn := (false, each (fun d i => (mates d i).map (fun _ => (at0 d i).map len)))
  let src := if x.cop = 4 then all.filter (· == x.root) else all
  let giveHall := (true, each (fun _ i => if src.contains i then (away i).map (fun _ => [bl]) else []))
  let giveIn := (false, each (fun d i => (mates d i).map (fun _ => (src.filter (fun k => repIn d k == i)).map (fun _ => bl))))
  if x.gathers then (if c.hierShape then [giveHall, giveIn] else [giveIn])
  else if x.cop = 2 then (if c.hierShape then [reduceIn, reduceHall] else [reduceIn])
  else if c.hierShape then [reduceIn, reduceHall, tellHall, tellIn] else [reduceIn, tellIn]

/-- Blocks added from chunks at the busiest reducing point (R369): each owner adds its shard of every member; in the hierarchical shape a
member adds its rack domain's parts of the shards it stands for, and an owner the other rack domains' sums. -/
def Coll.adds (c : Coll) (x : CollBody) (bl : Nat) : Nat :=
  let p := c.members.length
  let len := fun k => if x.cop = 5 then 0 else shardLo bl p (k + 1) - shardLo bl p k
  let all := List.range p
  if !c.hierShape then maxN (all.map (fun k => p * len k)) else
  maxN (c.doms.flatMap (fun d => d.map (fun i =>
    sumN ((all.filter (fun k => repIn d k == i)).map (fun k => d.length * len k)) + (c.doms.length - 1) * len i)))

/-- The bound of a collective in nanoseconds, as its local admission computes it. -/
def State.collBound (s : State) (c : Coll) : Nat :=
  let x := c.b
  let fb := s.fab c.home
  let rate := (s.dieRate (5 + c.home)).floorRate.toNat
  let p := c.members.length
  let l := c.descs.length
  let cap := 64 * (if x.wide then 4096 else 8192)
  let rounds := if x.reduces then ceilDiv x.n cap else 1
  let n := if x.reduces then Nat.min x.n cap else x.n
  let bl := ceilDiv n 64
  let hall := s.hallMember c.ten c.members
  let one := oneWayNs rate fb.hopBound.toNat
  let dHall := fb.hallBound.toNat + (clockless 240 rate - 240)
  let rowsIn := maxN (c.descs.map (fun d => let q := d.b.supplies c.me l
                                            vecRows d.b.src x.inFmt (blockElems n q.1 q.2)))
  let rowsOut := maxN (c.descs.map (fun d => vecRows d.b.dst x.outFmt (d.b.outElems p c.me l)))
  let m := if x.reduces then l * n + 64 * c.adds x bl else 0
  let tRed := hsNs (64 + (if c.spilled || c.anySpilled then ceilDiv m (32 * l) else ceilDiv m 1024)) rate
  let rateB := if s.pkg.onePlane then 2400 else 4800
  let time := fun (t : List (Bool × List (List (List Nat)))) => sumN (t.map (fun y =>
    stageNs (if y.1 || (hall && !c.hierShape) then dHall else one) (perFrame x) (8 * accBits x) rateB y.2))
  let agree := if x.agree = 1 ∧ x.cop ≤ 2 then tRed + time (c.traffic { x with cop := 1 } bl) else 0
  let tChk := if hall then 2 * dHall else accessNs .remote rate fb.hopBound.toNat false
  hsNs 160 rate + rounds * (hsNs (256 + rowsIn) rate + tRed + time (c.traffic x bl) + agree + hsNs (256 + rowsOut) rate) + tChk

/-! ### Ends (R352, R372) -/

/-- Release the slots of a collective and take it off the list; only a completed one is its group's last (R376), and is kept to answer
re-requests (R366). -/
def State.dropColl (s : State) (c : Coll) (done : Bool) (status : Byte) : State :=
  ({ s with colls := s.colls.filter (fun d => !(d.ten == c.ten && d.cseq == c.cseq))
            doneColls := if done then s.doneColls ++ [{ c with finished := true }] else s.doneColls }.updFab c.home (fun f =>
    { f with slotsUsed := f.slotsUsed.upd c.ten (fun u => BitVec.ofNat 12 (u.toNat - c.slots)) })).updGroup c.ten c.group (fun g =>
    if done then { g with lastCseq := c.cseq } else { g with ended := g.ended ++ [(c.cseq, status)] })

/-- `flags` of a record, without bit 2 (R352). -/
def Coll.flags (c : Coll) (skip ovf : Bool) : Byte :=
  BitVec.ofNat 8 (b2n (c.spilled || c.anySpilled) + 2 * b2n c.rereq + 8 * b2n skip + 16 * b2n c.hier + 32 * b2n ovf)

/-- `abandon` goes to every other member (R372). -/
def State.sendAbandon (s : State) (c : Coll) (status : Byte) : State :=
  c.others.foldl (fun s m => s.collSend c 9 m { c.subHead 9 m 0 0 c.tAdmit with abandon := true, astatus := status } [] .none) s

/-- In Cast mode the lead forwards a contributor's output and record (R471). -/
def State.castColl (s : State) (c : Coll) (d : CollDesc) (status : Byte) (out : Bool) : State :=
  if !s.casting then s else
  match s.descCore d with
  | none => s
  | some (core, w) =>
    let x := d.b
    let n := if out then streamBytes x.dst x.outFmt (x.outElems c.members.length c.me c.descs.length) else 0
    s.castComplete d.core.toNat d.acc status w.jobId w.jobGen
      ((if n = 0 then [] else [(x.dst, s.ownPeek core x.dst n)]) ++ [(x.record, s.ownPeek core x.record 64)])

/-- The record of a checksum mismatch (R366). -/
def State.mismatchRec (s : State) (c : Coll) (sev : Byte) : State :=
  s.hand { unit := fabUnit c.home 0x02 0, cls := 0x0C, severity := sev, jobId := (s.groupOf c.ten c.group).jobId
           jobGen := (s.groupOf c.ten c.group).jobGen, opTag := c.b.opTag }

/-- Every member is known to have admitted the collective: it was accepted (R358). -/
def Coll.accepted (c : Coll) : Bool := (List.range c.members.length).all c.heard.contains

/-- A collective ends early: every local record carries the status (R372); a mismatch that nothing has cured is logged as such (R366). -/
def State.endColl (s : State) (c : Coll) (status : Byte) (abandon : Bool) : State :=
  let s := c.bad.foldl (fun s _ => s.mismatchRec c 2) s
  let fl := c.flags false false ||| (if c.wrote then 0 else 4)
  let t0 := if c.accepted then c.tStart else 0
  let s1 := c.descs.foldl (fun s d => s.writeRecord d (collRecord d.b status fl t0 s.t (if t0 = 0 then 0 else t0 + c.boundNow) 0 c.gen 0)) s
  let s1 := c.descs.foldl (fun s d => s.castColl c d status false) s1
  let s2 := if abandon then s1.sendAbandon c status else s1
  (if status = stChecksum then s2.updFab c.home (fun f => { f with chkFail := satInc f.chkFail }) else s2).dropColl c false status

/-- Collectives that named a rank which cannot be sent to end (R447). -/
def State.endBadColls (s : State) : State := (s.colls.filter (·.badRank)).foldl (fun s c => s.endColl c stWindowFault true) s

/-- Write codes of blocks at a vector's place: elements at their index, SBI headers behind the element area (R166). -/
def State.writeVec (s : State) (c : CoreId) (dst fmt total at0 : Nat) (codes heads : List Nat) (w : Who) : State × Byte :=
  let eb := elemBits fmt / 8
  let put := fun (s : State) (a : Nat) (bs : List Byte) => if s.regionOk c a bs.length .w then s.dieWrite c a bs w else (s.dieFault c a w, stWindowFault)
  let r := put s (dst + at0 * eb) (codes.flatMap (leBytes eb))
  if isSbi fmt then
    let h := put r.1 (sbiHead dst (8 * eb) (ceilDiv total 64) + 2 * (at0 / 64)) (heads.flatMap (leBytes 2))
    (h.1, worse r.2 h.2)
  else r

/-- The output code of a result element, and whether it saturated (R360). -/
def collOut (fmt : Nat) (e v : Int) : Nat × Bool :=
  match elemOf fmt with
  | some (.sbi w) => let y := cvtSbi w 0 (FVal.ofInt v)
                     (y.code, y.flags &&& flSAT != 0)
  | some (.flt f) => match FVal.ofInt v with
    | .num n m _ => ((cvtFlt f false .rne true (.num n m e)).code, false)
    | _ => (0, false)
  | _ => (toUnsigned 32 v, false)

/-- The output codes and header of a result block, and whether a sum saturated on its way out (R353, R360). -/
def outBlock (x : CollBody) (blk : AccBlock) (cnt : Nat) : List Nat × Nat × Bool :=
  if x.reduces then
    let os := blk.elems.map (collOut x.outFmt blk.e)
    let sat := (os.take cnt).any (·.2)
    (os.map (·.1), toUnsigned 8 blk.e + 256 * blk.nonfinite + 4096 * b2n (blk.ovf || sat), sat)
  else if x.inFmt = x.outFmt then (blk.elems.map (toUnsigned (elemBits x.outFmt)), blk.head, false)
  else
    let k : Contrib := { codes := blk.elems.map (toUnsigned (elemBits x.inFmt)), heads := [blk.head] }
    let vs := (List.range 64).map (contribVal x.inFmt k)
    match elemOf x.outFmt with
    | some (.sbi w) => let ws := vs.map (cvtSbi w x.sbiExp)
                       (ws.map (·.code), toUnsigned 8 x.sbiExp + 256 * Nat.min 15 (ws.filter (·.nonfinite)).length + 4096 * b2n (ws.any (fun y => y.flags &&& flSAT != 0)), false)
    | some (.flt f) => (vs.map (fun v => (cvtFlt f false .rne true v).code), 0, false)
    | _ => (List.replicate 64 0, 0, false)

/-- Output elements of result block `b` with their index: of `max_exp` the block has one (R353). -/
def CollBody.outVals (x : CollBody) (b : Nat) (blk : AccBlock) : List (Nat × Int) :=
  if x.cop = 6 then [(b, blk.elems.headD noExp)] else (blk.elems.zipIdx).map (fun q => (b * 64 + q.2, q.1))

/-- Write result block `b` of the vector of member `m` to every local contributor that receives it, and the worst outcome of the writes. -/
def State.writeBlock (s : State) (c : Coll) (m b : Nat) (blk : AccBlock) : State × Byte :=
  let x := c.b
  let p := c.members.length
  let cnt := if x.cop = 6 then 1 else blockElems x.n b (b + 1)
  let o := outBlock x blk cnt
  c.descs.foldl (fun (acc : State × Byte) d =>
    let r := d.b.receives p c.me c.descs.length
    if b < r.1 ∨ r.2 ≤ b then acc else
    match acc.1.descCore d with
    | none => acc
    | some (core, w) =>
      let at0 := if x.cop = 6 then b else if x.cop = 3 then m * x.n + 64 * b else 64 * (b - r.1)
      let full := isSbi x.outFmt && x.cop != 3
      let y := acc.1.writeVec core d.b.dst x.outFmt (d.b.outElems p c.me c.descs.length) at0 (if full then o.1 else o.1.take cnt) [o.2.1] w
      (y.1, worse acc.2 y.2)) (s, stDone)

/-- Result blocks that make up a contributor's output part, with their index. -/
def Coll.partBlocks (c : Coll) (d : CollDesc) : List (Nat × AccBlock) :=
  let r := d.b.receives c.members.length c.me c.descs.length
  if c.b.cop = 3 then c.res.map (fun e => (e.1, e.2)) else c.res.filter (fun e => r.1 ≤ e.1 && e.1 < r.2)

/-- Non-finite contributions over the whole collective, the same count at every member (R352, R363, R367). A `reduce_scatter` has no result
frames, so what the other members' shards count is a free value of the collective, not below what this member knows, and 0 where no
member reports any (DESIGN CHOICE, log 51). -/
def State.nonfiniteAll (s : State) (c : Coll) : Nat :=
  let count := fun (l : Tab AccBlock) => sumN (l.map (fun e => e.2.nonfinite))
  let g := s.groupOf c.ten c.group
  if c.b.cop = 2 ∧ c.nfAny ∧ 1 < c.members.length then
    let known := count c.res + count (c.own.filter (fun e => e.1 < c.shard.1 || c.shard.2 ≤ e.1))
    Nat.max (Nat.max 1 known) (Config.nonfiniteTotal g.jobId.toNat g.jobGen.toNat c.gen.toNat c.cseq.toNat)
  else count c.res

/-- The collective completes: a record for every local contributor (R352, R367, R385, R56). -/
def State.completeColl (s : State) (c : Coll) : State :=
  let x := c.b
  let bound := c.boundNow
  let nf := s.nonfiniteAll c
  let bad := x.reduces && x.cop != 6 && (nf != 0 || c.nfAny)
  let late := c.tStart + bound < s.t
  let s0 := if late then s.hand { unit := fabUnit c.home 0x02 0, cls := 0x09, severity := 0, status := stBoundExceeded
                                  jobId := (s.groupOf c.ten c.group).jobId, jobGen := (s.groupOf c.ten c.group).jobGen, opTag := x.opTag
                                  detail := padTo 24 (leBytes 8 bound ++ leBytes 8 (s.t - c.tStart)) } else s
  let s1 := c.descs.foldl (fun s d =>
    let part := c.partBlocks d
    let ovf := x.reduces && x.cop != 6 && part.any (fun e => e.2.ovf || (outBlock x e.2 64).2.2)
    let st0 := if bad then stNonfinite else if ovf then stScaleOverflow else stDone
    let st := if late then worse st0 stBoundExceeded else st0
    s.writeRecord d (collRecord d.b st (c.flags (bad && !x.nfContinue) ovf) c.tStart s.t
      (c.tStart + bound) nf c.gen (checksum (part.flatMap (fun e => x.outVals e.1 e.2)))) |>.castColl c d st true) s0
  s1.dropColl c true stDone

/-! ### Checksums that do not match (R366) -/

/-- The die asks `who` for `n` blocks from `lo` again: this member's one re-request round covers every chunk found bad before its answers are
in; a mismatch after that, or of a chunk asked for again, ends the collective. `key` names the mismatch. -/
def State.mismatch (s : State) (c : Coll) (key : Nat × Nat × Nat) (ty : BitVec 4) (who : List Nat) (lo n : Nat) : State :=
  let asks := who.flatMap (fun m => (framesOf (perFrame c.b) lo (lo + n)).map (fun f => (m, f)))
  let new := asks.map (fun a => (ty.toNat, a.1, a.2.1))
  let c1 := { c with bad := c.bad ++ [key] }
  if c.asking && (c.asked.isEmpty || new.any c.asked.contains) then s.endColl c1 stChecksum true
  else
    let c2 := { c1 with rereq := true, asking := true, asked := c.asked ++ new }
    let s1 := (s.putColl c2).updFab c.home (fun f => if c.asking then f else { f with chkRetry := satInc f.chkRetry })
    asks.foldl (fun s a => s.collSend c2 ty a.1 (c2.subHead ty a.1 a.2.1 a.2.2 c2.tAdmit) [] (.coll c2.ten c2.cseq)) s1

/-- A mismatch that the re-request has cured is logged with severity 1. -/
def State.cured (s : State) (c : Coll) (key : Nat × Nat × Nat) : State × Coll :=
  if c.bad.contains key then (s.mismatchRec c 1, { c with bad := c.bad.filter (· != key) }) else (s, c)

/-- A chunk asked for again has come. -/
def Coll.came (c : Coll) (ty m : Nat) (q : CollSub) : Coll := { c with asked := c.asked.filter (· != (ty, m, q.first)) }

/-! ### Sums, shards and results -/

/-- Blocks of one round (R354). -/
def CollBody.perRound (x : CollBody) : Nat := if x.wide then 4096 else 8192

/-- Where a spilling package keeps a block of the round: contributor, and offset in its working store (R357). -/
def Coll.spillPlace (c : Coll) (b : Nat) : CollDesc × Nat :=
  let l := c.descs.length
  let r := b % c.b.perRound
  let d := c.descs.getD (r % l) {}
  (d, d.b.spillOff + (if c.b.wide then 1024 else 512) * (r / l))

/-- A spilling package keeps the block's accumulators in a contributor's spill row; with `read`, the row is read first (R204, R210, R357). -/
def State.spillBlock (s : State) (c : Coll) (b : Nat) (blk : AccBlock) (read : Bool) : State × Byte :=
  if !c.spilled then (s, stDone) else
  let p := c.spillPlace b
  let w := accBits c.b / 8
  match s.descCore p.1 with
  | none => (s, stDone)
  | some (core, who) =>
    let a := 2 * 2 ^ 48 + p.2
    if !s.regionOk core a (64 * w) .w then (s.dieFault core a who, stWindowFault) else
    let r := if read then s.dieRead core a (64 * w) who else (s, stDone, [])
    let y := r.1.dieWrite core a (blk.elems.flatMap (fun v => leBytes w (toUnsigned (8 * w) v))) who
    (y.1, worse r.2.1 y.2)

/-- The contributions of one block are added, in a spilling package one row access after another. -/
def State.spillSum (s : State) (c : Coll) (b : Nat) (parts : List AccBlock) : State × Byte :=
  if !c.spilled then (s, stDone) else
  let r := parts.foldl (fun (a : State × Byte × Option AccBlock) p =>
    let v := match a.2.2 with
      | none => p
      | some q => AccBlock.plus c.maxing (accBits c.b) q p
    let y := a.1.spillBlock c b v a.2.2.isSome
    (y.1, worse a.2.1 y.2, some v)) (s, stDone, none)
  (r.1, r.2.1)

/-- The contributions of the local contributors (R360, R361): the outcome of the reads, and the package sums by block. -/
def State.packageSums (s : State) (c : Coll) : State × Byte × Tab AccBlock :=
  let x := c.b
  let ks := c.descs.foldl (fun (acc : State × Byte × List Contrib) d =>
    match acc.1.descCore d with
    | none => acc
    | some (core, w) =>
      let q := d.b.supplies c.me c.descs.length
      let r := acc.1.readContrib core d.b.src x.inFmt (blockElems x.n q.1 q.2) w
      (r.1, worse acc.2.1 r.2.1, acc.2.2 ++ [r.2.2])) (s, stDone, [])
  if ks.2.1 ≠ stDone then (ks.1, ks.2.1, []) else
  let n := c.members.length * c.descs.length
  let parts := fun b =>
    if c.maxing then ks.2.2.map (fun k => contribExp x k b)
    else
      let e := if x.agree = 1 then agreedExp x n (c.exps.get b) else x.sbiExp
      ks.2.2.map (fun k => contribBlock x k b e)
  (List.range x.blocks).foldl (fun (acc : State × Byte × Tab AccBlock) b =>
    let y := acc.1.spillSum c b (parts b)
    (y.1, worse acc.2.1 y.2, acc.2.2 ++ [(b, sumBlocks c.maxing (accBits x) (parts b))])) (ks.1, stDone, [])

/-- The parts that this member supplies to a gather or broadcast: its own vector by block. -/
def State.gatherParts (s : State) (c : Coll) : State × Byte × Tab AccBlock :=
  let x := c.b
  let w := elemBits x.inFmt
  c.descs.foldl (fun (acc : State × Byte × Tab AccBlock) d =>
    match acc.1.descCore d with
    | some (core, who) =>
      let q := d.b.supplies c.me c.descs.length
      let r := acc.1.readContrib core d.b.src x.inFmt (blockElems x.n q.1 q.2) who
      (r.1, worse acc.2.1 r.2.1, acc.2.2 ++ (List.range (q.2 - q.1)).map (fun i =>
        let h := r.2.2.heads.getD i 0
        (q.1 + i, { elems := (List.range 64).map (fun j => toSigned w (r.2.2.codes.getD (64 * i + j) 0))
                    e := toSigned 8 (h % 256), nonfinite := bitsAt h 8 4, ovf := bitAt h 12 })))
    | none => acc) (s, stDone, [])

/-- The chunks taken into shard `k`: those whose blocks lie in it, or, of an empty shard, those without blocks. -/
def Coll.gotOf (c : Coll) (k : Nat) : List (Nat × Nat × Nat × Nat) :=
  let sh := c.shardOf k
  c.got.filter (fun g => if sh.1 = sh.2 then g.2.2.1 == 0 else g.2.2.1 != 0 && sh.1 ≤ g.2.1 && g.2.1 < sh.2)

/-- The chunks of every member that feeds shard `k` are in. -/
def Coll.shardFull (c : Coll) (k : Nat) : Bool :=
  let sh := c.shardOf k
  let gs := c.gotOf k
  (c.feeders k).all (fun m => gs.any (fun g => g.1 == m) && sumN ((gs.filter (fun g => g.1 == m)).map (fun g => g.2.2.1)) == sh.2 - sh.1)

/-- The sum of the checksums of a shard's chunks (R365). -/
def Coll.gotSum (c : Coll) (k : Nat) : Nat := ((sumN ((c.gotOf k).map (fun g => g.2.2.2)) : Nat) : Int) % pMersenne |>.toNat

/-- Store a result block of the vector numbered `m`, with the writes it allows. -/
def State.takeResult (s : State) (c : Coll) (m b : Nat) (blk : AccBlock) : State × Coll × Byte :=
  let key := if c.b.cop = 3 then m * c.b.blocks + b else b
  let c1 := { c with res := c.res.set key blk, arrived := if c.arrived.contains key then c.arrived else c.arrived ++ [key], wrote := true }
  let y := s.writeBlock c1 m b blk
  (y.1, c1, y.2)

/-- Result blocks taken one after another; a write that fails ends the collective. -/
def State.takeResults (s : State) (c : Coll) (m first : Nat) (bs : List AccBlock) : State :=
  let y := (bs.zipIdx).foldl (fun (acc : State × Coll × Byte) p =>
    let r := acc.1.takeResult acc.2.1 m (first + p.2) p.1
    (r.1, r.2.1, worse acc.2.2 r.2.2)) (s, c, stDone)
  if y.2.2 = stDone then y.1.putColl y.2.1 else y.1.endColl y.2.1 y.2.2 true

/-- Agreed exponents arrive. -/
def Coll.takeExps (c : Coll) (first : Nat) (bs : List AccBlock) : Coll :=
  { c with exps := (bs.zipIdx).foldl (fun t p => t.set (first + p.2) (p.1.elems.headD noExp)) c.exps
           arrived := (c.arrived ++ (List.range bs.length).map (first + ·)).eraseDups }

/-- How many result blocks this member waits for. -/
def Coll.expected (c : Coll) : Nat :=
  match c.b.cop with
  | 2 => c.shard.2 - c.shard.1 | 3 => c.b.blocks * c.members.length | 5 => 0 | _ => c.b.blocks

/-- Shard `k` needs nothing more of this member. -/
def Coll.pointDone (c : Coll) (k : Nat) : Bool := if k = c.me then c.shardDone else c.fwd.contains k

/-- Every shard that is reduced here has gone on. -/
def Coll.pointsDone (c : Coll) : Bool := (c.shardsAt c.me).all c.pointDone

/-- Sums of members that differ in their exponent are unspecified (R386). -/
def AccBlock.settle (bits draw : Nat) (b : AccBlock) : AccBlock :=
  if b.mixed then { b with mixed := false, elems := (List.range 64).map (fun i => wrapInt bits (Config.mixedSum draw i).toInt) } else b

def State.settleShard (s : State) (c : Coll) (sh : Nat × Nat) : State × Coll :=
  if c.acc.any (fun e => sh.1 ≤ e.1 && e.1 < sh.2 && e.2.mixed) then
    ({ s with freeCount := s.freeCount + (sh.2 - sh.1) },
     { c with acc := c.acc.map (fun e => if sh.1 ≤ e.1 ∧ e.1 < sh.2 then (e.1, e.2.settle (accBits c.b) (s.freeCount + (e.1 - sh.1))) else e) })
  else (s, c)

/-- The finished sums of shard `k` go on: to the shard's owner outside the rack domain; of this member's own shard, results to the members,
to the local contributors, or both (R353, R364). -/
def State.shardOut (s0 : State) (c0 : Coll) (k : Nat) : State :=
  let sh := c0.shardOf k
  let a := s0.settleShard c0 sh
  let s := a.1
  if k ≠ a.2.me then
    let c := { a.2 with fwd := a.2.fwd ++ [k] }
    (s.putColl c).sendBlocks c 8 k c.acc sh.1 sh.2 c.tStart false
  else
    let c := { a.2 with shardDone := true, heard := List.range a.2.members.length }
    let mute := (c.b.cop = 2 ∧ ¬ c.agree) ∨ (sh.1 = sh.2 ∧ c.b.cop ≠ 5)
    let s1 := s.putColl c
    let s2 := if mute then s1 else (c.peers ++ c.reps).foldl (fun s m => s.sendBlocks c 9 m c.acc sh.1 sh.2 c.tStart (s.hierBit c)) (s1.hierSet c)
    let bs := (List.range (sh.2 - sh.1)).map (fun i => c.acc.get (sh.1 + i))
    if c.agree then s2.putColl (c.takeExps sh.1 bs) else s2.takeResults c c.me sh.1 bs

/-- A full shard is checked and goes on (R366). -/
def State.checkShard (s : State) (c : Coll) (k : Nat) : State :=
  let sh := c.shardOf k
  if c.pointDone k || !c.shardFull k then s else
  let bs := (List.range (sh.2 - sh.1)).map (fun i => c.acc.get (sh.1 + i))
  if !c.maxing && c.gotSum k != blocksSum sh.1 bs then
    let mine := fun (b : Nat) => decide (sh.1 ≤ b) && decide (b < sh.2)
    let c1 := { c with acc := c.acc.filter (fun e => !mine e.1) ++ c.own.filter (fun e => mine e.1), got := c.got.filter (fun g => g.1 == c.me || !mine g.2.1) }
    s.mismatch c1 (8, c.members.length, k) 8 ((c.feeders k).filter (· != c.me)) sh.1 (sh.2 - sh.1)
  else
    let a := s.cured c (8, c.members.length, k)
    a.1.shardOut a.2 k

/-- The shards that are reduced here are looked at, one after another. -/
def State.checkShards (s : State) (c : Coll) : State :=
  (c.shardsAt c.me).foldl (fun s k => match s.findColl c.ten c.cseq with
    | some c => s.checkShard c k
    | none => s) (s.putColl c)

/-- The ranges of blocks of some shards, and one empty range for those that have no block. -/
def Coll.ranges (c : Coll) (ks : List Nat) : List (Nat × Nat) :=
  let rs := ks.map c.shardOf
  rs.filter (fun r => r.1 != r.2) ++ (rs.filter (fun r => r.1 == r.2)).take 1

/-- The package's part of a pass goes out: chunks to where the shards are reduced, its own into the sums here (R353). -/
def State.spread (s : State) (c : Coll) (own : Tab AccBlock) : State :=
  let nf := c.nfAny || (!c.maxing && own.any (fun e => e.2.nonfinite != 0))
  let here : List (Nat × Nat) := c.ranges (c.shardsAt c.me)
  let c1 := { c with own := own, nfAny := nf, acc := own.filter (fun e => here.any (fun r => r.1 ≤ e.1 && e.1 < r.2))
                     got := c.got ++ here.map (fun (r : Nat × Nat) => (c.me, r.1, r.2 - r.1, blocksSum r.1 ((List.range (r.2 - r.1)).map (fun i => own.get (r.1 + i))))) }
  let s2 := c1.others.foldl (fun (s : State) m => (c1.ranges (c1.shardsAt m)).foldl (fun (s : State) (r : Nat × Nat) => s.sendBlocks c1 8 m own r.1 r.2 c1.tAdmit false) s) (s.putColl c1)
  s2.checkShards c1

/-- This member's part of a gather or broadcast goes out, and into its own contributors. In the near stage of a hierarchical `all_gather`
the blocks are numbered through all members (log 51). -/
def State.give (s : State) (c : Coll) (tab : Tab AccBlock) : State :=
  let x := c.b
  let s0 := s.putColl { c with own := tab }
  if tab.isEmpty then s0 else
  let at0 := if c.hierShape ∧ x.cop = 3 then c.me * x.blocks else 0
  let s1 := s0.hierSet c
  let hn := s1.hierBit c
  let s2 := c.peers.foldl (fun s m => s.sendBlocks c 9 m (tab.map (fun e => (at0 + e.1, e.2))) at0 (at0 + x.blocks) c.tAdmit hn) s1
  let s3 := c.reps.foldl (fun s m => s.sendBlocks c 9 m tab 0 x.blocks c.tAdmit hn) s2
  s3.takeResults { c with own := tab } c.me 0 ((List.range x.blocks).map tab.get)

/-- A pass begins: contributions are read and spread; an uncorrectable read ends the collective (R372). -/
def State.startPass (s : State) (c : Coll) : State :=
  if c.b.cop = 5 then s.spread c []
  else if c.b.gathers then
    let r := s.gatherParts c
    if r.2.1 ≠ stDone then r.1.endColl c r.2.1 true else r.1.give c r.2.2
  else
    let r := s.packageSums c
    if r.2.1 ≠ stDone then r.1.endColl c r.2.1 true else r.1.spread c r.2.2

/-! ### Frames of a collective taken in (R359, R366) -/

/-- A chunk is added at the reducing point (R359, R360, R366). -/
def State.addChunk (s0 : State) (c0 : Coll) (q : CollSub) (m : Nat) (bs : List AccBlock) : State :=
  let mx := c0.maxing
  if mx && q.blocks != 0 && blocksSum q.first bs != q.checksum then s0.mismatch c0 (8, m, q.first) 8 [m] q.first q.blocks else
  let a := s0.cured (c0.came 8 m q) (8, m, q.first)
  let s := a.1
  let c := a.2
  if c.got.any (fun g => g.1 == m && g.2.1 == q.first && (g.2.2.1 != 0 || q.blocks == 0)) || c.pointsDone then s.putColl c else
  let y := (bs.zipIdx).foldl (fun (acc : State × Coll × Byte) p =>
    let b := q.first + p.2
    let blk := if (acc.2.1.acc.get b).elems.isEmpty then p.1 else AccBlock.plus mx (accBits c.b) (acc.2.1.acc.get b) p.1
    let r := acc.1.spillBlock c b blk true
    (r.1, { acc.2.1 with acc := acc.2.1.acc.set b blk }, worse acc.2.2 r.2)) (s, c, stDone)
  if y.2.2 ≠ stDone then y.1.endColl y.2.1 y.2.2 true
  else y.1.checkShards { y.2.1 with got := y.2.1.got ++ [(m, q.first, q.blocks, q.checksum)] }

/-- A result that has crossed the hall goes on to this rack domain's other members (R364). -/
def State.collForward (s : State) (c : Coll) (m : Nat) (q : CollSub) (bs : List AccBlock) : State :=
  if c.near m then s else
  let first := if c.b.cop = 3 then m * c.b.blocks + q.first else q.first
  c.peers.foldl (fun s j => s.collSend c 9 j { c.subHead 9 j first q.blocks c.tStart with
    checksum := blocksSum first bs, hierNext := s.hierBit c } bs (.coll c.ten c.cseq)) (s.hierSet c)

/-- A result frame is checked and its blocks are taken (R358, R364, R366). -/
def State.addResult (s0 : State) (c0 : Coll) (q : CollSub) (m : Nat) (bs : List AccBlock) : State :=
  let own := c0.origin m q
  let s1 := if (m = 0 ∨ own = 0) ∧ c0.me ≠ 0 then s0.updGroup c0.ten c0.group (fun g => { g with hier := q.hierNext }) else s0
  if q.blocks != 0 && blocksSum q.first bs != q.checksum then s1.mismatch c0 (9, m, q.first) 9 [m] q.first q.blocks else
  let a := s1.cured (c0.came 9 m q) (9, m, q.first)
  let c := if c0.near m || c0.b.gathers then a.2 else { a.2 with acc := (bs.zipIdx).foldl (fun t p => t.set (q.first + p.2) p.1) a.2.acc }
  let s := a.1.collForward c m q bs
  if c.b.cop = 5 then s.putColl { c with shardDone := true }
  else if c.agree then s.putColl (c.takeExps q.first bs)
  else s.takeResults c own (if c.b.cop = 3 then q.first % c.b.blocks else q.first) bs

/-- A frame of a collective, chunk or result, by its type. -/
def State.takeFrame (s : State) (c : Coll) (ty m : Nat) (q : CollSub) (bs : List AccBlock) : State :=
  if ty = 8 then s.addChunk c q m bs else s.addResult c q m bs

/-- What follows once results have arrived: the second pass after the agreement with the frames held for it, or completion. -/
def State.advanceColl (s : State) (t : Nat) (cseq : BitVec 32) : Nat → State
  | 0 => s
  | fuel + 1 =>
    match s.findColl t cseq with
    | none => s
    | some c =>
      if c.badRank then s.endColl c stWindowFault true
      else if c.agree then
        if c.arrived.length = c.b.blocks ∧ c.pointsDone then
          let s1 := s.startPass { c with
            agree := false, arrived := [], got := [], acc := [], own := [], ownAgreed := c.own, accAgreed := c.acc, shardDone := false, fwd := [], held := [] }
          (c.held.foldl (fun s h => match s.findColl t cseq with
            | some c => s.takeFrame c h.1 h.2.1 h.2.2.1 h.2.2.2
            | none => s) s1).advanceColl t cseq fuel
        else s
      else if c.b.cop = 5 then (if c.shardDone then s.completeColl c else s)
      else if c.arrived.length = c.expected ∧ (c.b.gathers ∨ c.pointsDone) then s.completeColl c
      else s

/-! ### Local admission (R347, R354 to R357) -/

/-- Slots a reducing collective needs (R354). -/
def CollBody.slots (x : CollBody) : Nat := if x.reduces then Nat.min 64 (ceilDiv x.n (if x.wide then 4096 else 8192)) else 0

/-- The home die: as asked, or the one with the lower `l1` + `l2`, FA on a tie (R355); a failed die is no home. -/
def State.pickHome (s : State) (x : CollBody) : Nat :=
  let load := fun pl => (s.fab pl).l1.toNat + (s.fab pl).l2.toNat
  let h := if x.home = 1 then 0 else if x.home = 2 then 1 else if load 1 < load 0 then 1 else 0
  if (s.fab h).alive then h else 1 - h

/-- `a` comes before `b` in serial order. -/
def serialLt (a b : BitVec 32) : Bool := a != b && (b - a).toNat < 2 ^ 31

/-- A collective with the bounds that its local admission computes and it keeps (R42, R616). -/
def State.collBounded (s : State) (c : Coll) : Coll :=
  { c with bound := s.collBound { c with spilled := false, anySpilled := false }, boundSp := s.collBound { c with spilled := true } }

/-- The collective that some descriptors of a group make up on this package. -/
def State.collOf (s : State) (t : Nat) (g : Nat) (cseq : BitVec 32) (descs : List CollDesc) (home : Nat) : Coll :=
  let gr := s.groupOf t g
  let members := gr.memberList
  let me := (members.findIdx? (· == (s.ten t).job.ownRank.toNat)).getD 0
  { ten := t, group := g, cseq := cseq, gen := gr.gen, descs := descs, members := members, me := me, home := home, tAdmit := s.t, tStart := s.t
    hier := gr.hier, doms := if gr.hier && s.hallMember t members then s.rackDomains t members else [], heard := [me] }

/-- Admit a collective on this package, or leave it waiting. -/
def execCollectiveLocalAdmit (t : Ten) (cseq : BitVec 32) (ups : List (CoreId × Upset)) (s : State) : Out :=
  let q := s.collQ.get t.val
  let mine := q.filter (fun d => d.b.cseq == cseq)
  let rest := q.filter (fun d => d.b.cseq != cseq)
  let x := (mine.headD {}).b
  let g := s.groupOf t.val x.group
  if mine.isEmpty || mine.length != g.localCount.toNat || rest.any (fun d => serialLt d.b.cseq cseq)
      || s.colls.any (fun c => c.ten == t.val && c.group == x.group) || !s.groupOk t.val g || s.castShadow then .next s else
  let sm := s.measure
  let home := sm.pickHome x
  if !s.dieAdmits (5 + home) then .next s else
  let fb := s.fab home
  let need := x.slots
  let quota := (fb.slotQuota.get t.val).toNat
  let free := (fb.slotsUsed.get t.val).toNat + need ≤ quota
  let descs := (List.range mine.length).filterMap (fun i => mine.find? (fun d => d.b.localIndex == i))
  let c : Coll := s.collBounded { s.collOf t.val x.group cseq descs home with agree := x.agree == 1 && x.cop ≤ 2 }
  let c := { c with hierTo := sm.hierNext c }
  let s0 := { sm with collQ := s.collQ.set t.val rest }
  if need = 0 ∨ free = true then
    let s1 := (ups.foldl (fun s u => s.upset u.1 [u.2]) s0).updFab home (fun f => { f with slotsUsed := f.slotsUsed.upd t.val (fun u => u + BitVec.ofNat 12 need) })
    let c1 := { c with slots := need }
    .next (({ s1 with colls := s1.colls ++ [c1] }.startPass c1).advanceColl t.val cseq 3)
  else if x.onFull = 2 then
    .next (descs.foldl (fun s d => s.writeRecord d (collRecord d.b stSlotsExhausted 4 0 s.t 0 0 g.gen 0)) s0)
  else if x.onFull = 1 ∧ need ≤ quota then .next s
  else
    let s1 := (ups.foldl (fun s u => s.upset u.1 [u.2]) s0).updFab home (fun f => { f with spills := satInc f.spills })
    let c1 := { c with spilled := true }
    .next (({ s1 with colls := s1.colls ++ [c1] }.startPass c1).advanceColl t.val cseq 3)

/-! ### Frames received (R359, R366, R368) -/

/-- What a frame of member `m` tells of admissions and spilling (R358, R369). -/
def Coll.hear (c : Coll) (ty : BitVec 4) (q : CollSub) (m : Nat) : Coll :=
  let new := if ty = 8 then (if c.near m then [m] else c.domOf m) else if c.b.gathers then [m, c.origin m q] else List.range c.members.length
  { c with tStart := Nat.max c.tStart q.tAdmit, anySpilled := c.anySpilled || q.spilled, nfAny := c.nfAny || q.nfAny, rereq := c.rereq || q.rereq
           heard := c.heard ++ new.filter (fun k => !c.heard.contains k) }

/-- A collective as the stage that a frame of member `m` names saw it: in its sum pass, it still knows the exponent agreement before (R366). -/
def Coll.atStage (c : Coll) (ty : BitVec 4) (m stage : Nat) : Coll :=
  let a := { c with agree := true, own := c.ownAgreed, acc := c.accAgreed }
  if !c.agree ∧ c.b.agree = 1 ∧ c.b.cop ≤ 2 ∧ stage = a.stageOf ty m then a else c

/-- Send blocks again that a member asks for with `rereq`, as it was in the stage the member names (R366). -/
def State.resendBlocks (s : State) (c0 : Coll) (ty : BitVec 4) (m stage first n : Nat) : State :=
  let c := { c0 with rereq := true }.atStage ty m stage
  let tab := if ty = 8 then (if c.near m then c.own else c.acc)
    else if c.b.cop = 3 ∧ c.hierShape ∧ c.near m ∨ c.b.cop = 4 ∧ c.me ≠ c.b.root then c.res
    else if c.b.gathers then c.own else c.acc
  (s.putColl { c0 with rereq := true }).sendBlocks c ty m tab first (first + n) (if ty = 8 ∧ c.near m then c.tAdmit else c.tStart) (s.hierBit c)

/-- Blocks there are to name in a frame of member `m`. -/
def Coll.frameBlocks (c : Coll) (ty : BitVec 4) (m : Nat) : Nat :=
  if c.b.cop = 3 ∧ ty = 9 ∧ c.hierShape ∧ c.near m then c.b.blocks * c.members.length else c.b.blocks

/-- A collective frame up to its collective: answered or dropped on the way, or found. -/
def State.collArrive (s : State) (pl : Plane) (f : WtFrame) : State × Option (Coll × CollSub × Nat) :=
  let q := collSub f.payload
  match s.activeTen f.jobId f.jobGen with
  | none => (s, none)
  | some t =>
    let g := s.groupOf t q.group
    let stale := s.updFab pl.val (fun x => { x with staleDrop := satInc x.staleDrop })
    if !g.valid || g.gen != q.gen then (stale, none) else
    match (s.findColl t q.cseq).orElse (fun _ => s.doneColls.find? (fun c => c.ten == t && c.group == q.group && c.cseq == q.cseq)) with
    | some c =>
      match c.members.findIdx? (· == f.srcRank.toNat) with
      | some m => if c.frameBlocks f.type m < q.first + q.blocks then (stale, none) else (s.execReq pl.val f stDone [], some (c, q, m))
      | none => if c.b.blocks < q.first + q.blocks then (stale, none) else (s.execReq pl.val f stDone [], none)
    | none =>
      if g.ended.any (·.1 == q.cseq) then (s.execReq pl.val f stDone [], none) else (s.refuseReq pl.val f, none)

/-- A frame that has found its collective: a re-request is answered, even after the end; other frames are heard and, by their stage, taken,
held for the next pass, or passed over. -/
def State.collFrameIn (s : State) (c0 : Coll) (ty : BitVec 4) (q : CollSub) (m : Nat) (p : List Byte) : State :=
  let ask := q.rereq && q.blocks != 0 && !collHasData q p
  if c0.finished then (if ask then s.resendBlocks c0 ty m q.stage q.first q.blocks else s) else
  let c := c0.hear ty q m
  if ask then s.resendBlocks c ty m q.stage q.first q.blocks
  else if !collHasData q p then s.putColl c
  else if q.stage = c.stageOf ty m then (s.takeFrame c ty.toNat m q (collBlocks q p)).advanceColl c.ten c.cseq 3
  else if c.agree ∧ q.stage = { c with agree := false }.stageOf ty m then s.putColl { c with held := c.held ++ [(ty.toNat, m, q, collBlocks q p)] }
  else s.putColl c

/-- A frame of type `ty` that does not abandon, on its way to its collective. -/
def State.collFrame (s : State) (pl : Plane) (sub : SubPort) (f : WtFrame) (ty : BitVec 4) : State :=
  if f.payload.length ≥ 14 ∧ (collSub f.payload).abandon then s else
  let r := s.wtRequest pl sub f ty
  match r.2 with
  | none => r.1
  | some f =>
    let a := r.1.collArrive pl f
    match a.2 with
    | none => a.1
    | some (c, q, m) => a.1.collFrameIn c ty q m f.payload

/-- A collective chunk frame (R289, R359, R366, R368). -/
def execCollectiveChunk (pl : Plane) (sub : SubPort) (f : WtFrame) (s : State) : Out := .next (s.collFrame pl sub f 8)

/-- A collective result frame (R358, R364, R366, R368). -/
def execCollectiveResult (pl : Plane) (sub : SubPort) (f : WtFrame) (s : State) : Out := .next (s.collFrame pl sub f 9)

/-- Queued descriptors of a collective that this package has not admitted end with a status: the records are written, and nothing of the
collective is taken later. -/
def State.endQueued (s : State) (t g : Nat) (cseq : BitVec 32) (status : Byte) : State :=
  let q := s.collQ.get t
  let pick := fun (d : CollDesc) => d.b.cseq == cseq && d.b.group == g
  ((q.filter pick).foldl (fun (s : State) d => s.writeRecord d (collRecord d.b status 4 0 s.t 0 0 (s.groupOf t g).gen 0))
    { s with collQ := s.collQ.set t (q.filter (fun d => !pick d)) }).updGroup t g (fun x => { x with ended := x.ended ++ [(cseq, status)] })

/-- A frame with `abandon` ends the collective here with its status, unless its record is written (R372); descriptors that still wait for
their admission end with it. -/
def execAbandon (pl : Plane) (sub : SubPort) (f : WtFrame) (s : State) : Out :=
  if (f.type ≠ 8 ∧ f.type ≠ 9) ∨ ¬ (collSub f.payload).abandon then .next s else
  let r := s.wtRequest pl sub f f.type
  match r.2 with
  | none => .next r.1
  | some f =>
    let q := collSub f.payload
    let wait := (r.1.activeTen f.jobId f.jobGen).filter (fun t =>
      let g := r.1.groupOf t q.group
      g.valid && g.gen == q.gen && (r.1.findColl t q.cseq).isNone && (r.1.collQ.get t).any (fun d => d.b.cseq == q.cseq && d.b.group == q.group))
    match wait with
    | some t =>
      let s1 := r.1.execReq pl.val f stDone []
      .next ((if q.astatus = stChecksum then s1.updFab pl.val (fun f => { f with chkFail := satInc f.chkFail }) else s1).endQueued t q.group q.cseq q.astatus)
    | none =>
      let a := r.1.collArrive pl f
      match a.2 with
      | none => .next a.1
      | some (c, q, _) => .next (if c.finished then a.1 else a.1.endColl c q.astatus false)

/-- A chunk or result frame unanswered for 50 us (R372). -/
def execCollectiveTargetLost (pl : Plane) (tag : BitVec 16) (s : State) : Out :=
  match (s.fab pl.val).outst.find? (fun o => o.tag == tag) with
  | none => .next s
  | some o =>
    match o.owner with
    | .coll t cseq =>
      if o.refusedAt.isSome ∨ s.t < o.tFirst + 50000 then .next s else
      let q := collSub o.frame.payload
      let s1 := ((s.releaseTag tag).hand { unit := fabUnit pl.val 0x02 0, cls := 0x04, severity := 2, status := stTargetLost
                                           jobId := o.frame.jobId, jobGen := o.frame.jobGen }).raise (32 + pl.val)
      let s2 := s1.updGroup t q.group (fun g => if g.valid ∧ g.gen = q.gen then { g with memberLost := true } else g)
      match s2.findColl t cseq with
      | none => .next s2
      | some c => .next (s2.endColl c stTargetLost true)
    | _ => .next s

/-- Every admitted or waiting collective of a group ends with a status, and the other members hear of it (R372). What was kept of the
group's finished ones is given up. -/
def State.endGroupColls (s : State) (t g : Nat) (status : Byte) : State :=
  let run := (s.colls.filter (fun c => c.ten == t && c.group == g)).foldl (fun s c => s.endColl c status true) s
  let seqs := (((run.collQ.get t).filter (fun d => d.b.group == g)).map (·.b.cseq)).eraseDups
  let s1 := seqs.foldl (fun s x =>
    let c := s.collOf t g x ((s.collQ.get t).filter (fun d => d.b.cseq == x && d.b.group == g)) (s.pickHome ((((s.collQ.get t).find? (fun d => d.b.cseq == x)).getD {}).b))
    (s.endQueued t g x status).sendAbandon c status) run
  { s1 with doneColls := s1.doneColls.filter (fun c => !(c.ten == t && c.group == g)) }

/-- A group entry as a register write of one die forms it: the member list is read once, and holds until the entry is formed again (R346).
A newly formed group starts flat (R364). An entry whose `valid` is cleared has every collective of its group ended (R372). -/
def State.groupFormed (s : State) (pl key : Nat) (was : Bool) : State :=
  let x := (s.fab pl).groups.get key
  if !x.valid then (if was then s.endGroupColls (key / 16) (key % 16) stGroupChanged else s) else
  let r := s.gddrRead (x.memberAddr.toNat % 2 ^ 48) (2 * x.members.toNat) { source := 5 }
  r.1.updFab pl (fun f => { f with groups := f.groups.upd key (fun x => { x with
    list := if r.2.1 = stDone then listOf x.members.toNat r.2.2 else [], hier := was && x.hier }) })

end Sys2Proof.Machine
end

