-- ==== Sys2Proof/Machine/Hart.lean ====
section
/-! DEFINITION. The harts of the processor die: registers (R484, R485, R498), taking an exception, physical memory
protection and Sv48 translation (R485), and the tenancy check of R488 with the reads and writes that follow it. -/

namespace Sys2Proof.Machine

/-! ### Registers -/

/-- x0 reads zero. -/
def HartRegs.xr (h : HartRegs) (r : BitVec 5) : BitVec 64 := if r = 0 then 0 else h.x.get r.toNat
def HartRegs.setX (h : HartRegs) (r : BitVec 5) (v : BitVec 64) : HartRegs := if r = 0 then h else { h with x := h.x.set r.toNat v }

/-- A service core (R484). -/
def isService (h : Nat) : Bool := 96 ≤ h

/-- The hart is out of reset and not held: an application core that its job has started, a service core from step 5 of the start on, in a
package that has not stopped (R487, R550, R583). -/
def State.hartLive (s : State) (h : Nat) : Bool :=
  if isService h then decide (6 ≤ s.boot.phase.toNat) && !s.boot.recovery && !s.cpc.stopped else (s.px.apps.get h).running && !(s.px.apps.get h).held

/-- The hart executes: it is live and does not wait for an interrupt. -/
def State.hartRuns (s : State) (h : Nat) : Bool := !(s.hart h).wfi && s.hartLive h

/-- The tenancy of a hart (R487). -/
def State.hartTen (s : State) (h : Nat) : Option Nat :=
  if isService h then none else let a := s.px.apps.get h
                                if a.assigned then some a.tenancy.toNat else none

/-- Read a register field of 64-bit entries by its place in a 64-bit word. -/
def hartField (v : BitVec 64) (lo w : Nat) : Nat := bitsAt v.toNat lo w

/-! ### Exceptions (R485) -/

/-- A hart takes an exception: in S mode where `medeleg` sends it there from S or U, else in M mode. -/
def State.hartTrap (s : State) (h cause : Nat) (tval : BitVec 64) : State :=
  s.updHart h (fun r =>
    if r.mode ≠ 3 ∧ ¬ isService h ∧ r.medeleg.getLsbD cause then
      { r with scause := BitVec.ofNat 64 cause, sepc := r.pc, stval := tval, spp := r.mode == 1, spie := r.sie, sie := false
               mode := 1, pc := r.stvec &&& ~~~ 3 }
    else
      { r with mcause := BitVec.ofNat 64 cause, mepc := r.pc, mtval := tval, mpp := r.mode, mpie := r.mie, mie := false
               mode := 3, pc := r.mtvec &&& ~~~ 3 })

/-- Exception causes of the RISC-V privileged specification. -/
def causeMisaligned (w : Bool) : Nat := if w then 6 else 4
def causeAccess : Perm → Bool → Nat
  | _, true => 1
  | .r, _ => 5
  | _, _ => 7
def causePage : Perm → Bool → Nat
  | _, true => 12
  | .r, _ => 13
  | _, _ => 15

/-- An access of a hart: read, write or atomic, and whether it fetches an instruction. -/
structure HAcc where
  perm : Perm := .r
  fetch : Bool := false
  /-- LR and SC: they fail in space 0x1 as an AMO does (R488) -/
  lrsc : Bool := false
deriving DecidableEq, Repr, Inhabited

/-- The mode an access is made in: `MPRV` gives loads and stores that of `MPP`. -/
def HartRegs.accMode (r : HartRegs) (a : HAcc) : BitVec 2 := if r.mprv ∧ r.mode = 3 ∧ ¬ a.fetch then r.mpp else r.mode

/-! ### Physical memory protection: 16 entries, granularity 4 KiB -/

/-- First byte and the byte past the last of a PMP entry; empty for one that is off. -/
def HartRegs.pmpRange (r : HartRegs) (i : Nat) : Nat × Nat :=
  let a := (r.pmpaddr.get i).toNat % 2 ^ 54
  match bitsAt (r.pmpcfg.get i).toNat 3 2 with
  | 1 => ((if i = 0 then 0 else (r.pmpaddr.get (i - 1)).toNat % 2 ^ 54 / 1024 * 4096), a / 1024 * 4096)
  | 3 =>
    -- NAPOT: the low nine bits read as ones at this granularity
    let b := a ||| 0x1FF
    let k := ((List.range 54).find? (fun j => !bitAt b j)).getD 54
    (b / 2 ^ (k + 1) * 2 ^ (k + 3), (b / 2 ^ (k + 1) + 1) * 2 ^ (k + 3))
  | _ => (0, 0)

/-- The permission of a PMP entry for an access. -/
def pmpPermits (cfg : Byte) (a : HAcc) : Bool :=
  if a.fetch then cfg.getLsbD 2 else match a.perm with
  | .r => cfg.getLsbD 0
  | .w => cfg.getLsbD 1
  | .a => cfg.getLsbD 0 && cfg.getLsbD 1

/-- The lowest-numbered entry that matches a byte decides; without one only M mode passes. -/
def HartRegs.pmpOk (r : HartRegs) (mode : BitVec 2) (pa n : Nat) (a : HAcc) : Bool :=
  match (List.range 16).find? (fun i => let g := r.pmpRange i
                                        g.1 < g.2 && pa < g.2 && g.1 < pa + n) with
  | none => mode == 3
  | some i =>
    let g := r.pmpRange i
    let c := r.pmpcfg.get i
    g.1 ≤ pa && pa + n ≤ g.2 && (pmpPermits c a || (mode == 3 && !c.getLsbD 7))

/-! ### The tenancy check (R488, R494) -/

/-- The resident-store bytes lie in one of the tenancy's bands. -/
def State.bandOk (s : State) (t off n : Nat) : Bool :=
  [off, off + n - 1].all (fun o => match s.rsTarget o with
    | some (d, _) => (match s.bandOf d with | some b => (s.ten t).bands.getLsbD b | none => false)
    | none => false)

/-- The event-concentrator pages of R513, as offsets from the concentrator's start. -/
def ecBase : Nat := 0x000100000000
def timeBase : Nat := 0x000200000000
def collBase : Nat := 0xF00000000000

/-- Event-concentrator page offsets that the cores of a tenancy reach (R513). -/
def State.ecPageOk (s : State) (t h o n : Nat) (a : HAcc) : Bool :=
  let owns := fun (base size limit : Nat) => base ≤ o && o + n ≤ limit &&
    (List.range ((o + n - 1 - base) / size + 1 - (o - base) / size)).all (fun i => (s.ec.groups.get ((o - base) / size + i)).owner.toNat == t)
  if o < 0x1000 then t < 8 && o / 0x100 == t && o % 0x100 + n ≤ 0x100
  else if o < 0x1200 then owns 0x1000 8 0x1200
  else if o < 0x1C00 then owns 0x1400 32 0x1C00
  else if o < 0x1E00 then owns 0x1C00 8 0x1E00 && a.perm == .r
  else 0x8000 ≤ o && o + n ≤ 0x8800 && !isService h

/-- The check of R488 for an application core. -/
def State.tenancyOk (s : State) (h npa n : Nat) (a : HAcc) : Bool :=
  match s.hartTen h with
  | none => false
  | some t =>
    let off := npa % 2 ^ 48
    match npa / 2 ^ 48 with
    | 0 => ((s.ten t).regions.map (·.2)).any (fun g => g.covers off n (if a.fetch then .r else a.perm))
    | 1 => a.perm != .a && !a.lrsc && s.bandOk t off n
    | 3 =>
      if off < 0xC000000 then
        off + n ≤ 0xC000000 && [off, off + n - 1].all (fun o => (s.px.ways.get t).sram.getLsbD (o / 0xC00000))
      else if timeBase ≤ off ∧ off < timeBase + 800 then off / 8 == (timeBase + 8 * h) / 8 && off % 8 + n ≤ 8
      else if ecBase ≤ off ∧ off < ecBase + 0x10000 then s.ecPageOk t h (off - ecBase) n a
      else collBase ≤ off && off < collBase + 0x8000 && (off - collBase) / 0x1000 == t && off % 0x1000 + n ≤ 0x1000
    | _ => false

/-- Bytes of the service cores' private SRAM, at addresses that name nothing else (R484; log 53): their offset there. -/
def sramOf (npa : Nat) : Option Nat :=
  if 8 * 2 ^ 48 ≤ npa ∧ npa < 9 * 2 ^ 48 ∨ npa / 2 ^ 48 ≤ 1 ∨ npa / 2 ^ 48 = 3 then none
  else if Config.serviceSram ≤ npa ∧ npa < Config.serviceSram + 0x800000 then some (npa - Config.serviceSram) else none

/-- What an access of a service core reaches: R488 checks none of it against a tenancy (R486, R494, R513). -/
def State.serviceOk (h npa n : Nat) (a : HAcc) : Bool :=
  let off := npa % 2 ^ 48
  match npa / 2 ^ 48 with
  | 0 => true
  | 1 => a.perm != .a && !a.lrsc
  | 3 =>
    let o := off - ecBase
    off + n ≤ 0xC000000 || (timeBase ≤ off && off + n ≤ timeBase + 800)
      || (ecBase ≤ off && ((0x800 ≤ o && o + n ≤ 0x900) || (0x1000 ≤ o && o + n ≤ 0x1200) || (0x1400 ≤ o && o + n ≤ 0x1C00)
        || (0x1C00 ≤ o && o + n ≤ 0x1E00 && a.perm == .r)))
      || (collBase ≤ off && off + n ≤ collBase + 0x8000)
  | 8 => off % 8 == 0 && n == 8 && !a.fetch
  | _ => match sramOf npa with
    | some o => o + n ≤ 0x800000
    | none => h < 96

/-- The check of an access that translation and PMP have passed: that of R488 for an application core. -/
def State.allowed (s : State) (h npa n : Nat) (a : HAcc) : Bool := if isService h then State.serviceOk h npa n a else s.tenancyOk h npa n a

/-- A failed check: an error record (R488). -/
def State.tenancyRec (s : State) (h npa : Nat) : State :=
  if isService h then s else
  let j := match s.hartTen h with
    | some t => (s.ten t).job
    | none => {}
  s.hand { unit := pxUnit 0 h, cls := 0x06, severity := 0, addrKind := 1
           address := BitVec.ofNat 64 npa, jobId := j.jobId, jobGen := j.jobGen }

/-- The job fields of a hart's records. -/
def State.hartWho (s : State) (h : Nat) : Who :=
  match s.hartTen h with
  | some t => { source := 5, jobId := (s.ten t).job.jobId, jobGen := (s.ten t).job.jobGen }
  | none => { source := 5 }

/-! ### The caches and the memory behind them (R484, R489 to R493) -/

/-- How a hart reaches a line: through its data or its instruction cache, or in the shared cache itself, as an AMO and a walk of the page
table do (R492; log 53). -/
inductive Via where
  | data | fetch | shared
deriving DecidableEq, Repr, Inhabited

/-- What an access comes to: done, not possible, or waiting for a credit of a channel (R489). -/
inductive MemEnd where
  | ok | bad | wait
deriving DecidableEq, Repr, Inhabited

/-- A hardware counter counts. -/
def HartRegs.hpmAdd (r : HartRegs) (k n : Nat) : HartRegs := { r with hpm := r.hpm.upd k (fun v => v + BitVec.ofNat 64 n) }

/-- No credit of the cores' share is free at the channel of a line (R489). -/
def State.lineBusy (s : State) (line : Nat) : Bool := (s.chan (s.steer (line / 4)).1).creditsFree == 0

/-- Bytes of space 0x0 as the cores see them: those of GDDR, with what a data cache holds and has not written back (R492). -/
def State.pxBytes (s : State) (a n : Nat) : List Byte :=
  let d := s.px.dirty.flatMap (·.2)
  ((List.range n).zip (s.gddrPeek a n)).map (fun x => match d.find? (fun c => c.1 == a + x.1) with
    | some c => c.2
    | none => x.2)

/-- A hart's private copy of a line is written back, if it has been stored to; the store is forwarded to GDDR (R485, R492). -/
def State.pxClean (s : State) (h line : Nat) : State :=
  if (s.px.dirty.get h).any (fun c => c.1 / 64 == line) then
    let bs := s.pxBytes (64 * line) 64
    let s1 : State := { s with px := { s.px with dirty := s.px.dirty.upd h (fun l => l.filter (fun c => c.1 / 64 != line)) } }
    ((s1.gddrWrite (64 * line) bs (s.hartWho h)).1).updHart h (fun r => r.hpmAdd 6 1)
  else s

/-- Harts other than `h`, or any hart where `h` is none, whose stores to a line have not been written back. -/
def State.dirtyAt (s : State) (h : Option Nat) (line : Nat) : List Nat :=
  (s.px.dirty.filter (fun d => h != some d.1 && d.2.any (fun c => c.1 / 64 == line))).map (·.1)

/-- The copies of a line that other harts have stored to are written back before hart `h` reaches it, and its own where it reaches it in the
shared cache or fetches it: the private caches are coherent (R484, R492). -/
def State.pxSync (s : State) (h line : Nat) (via : Via) : State × MemEnd :=
  let d := s.dirtyAt (if via = .data then some h else none) line
  if !d.isEmpty && s.lineBusy line then (s, .wait) else (d.foldl (fun s k => s.pxClean k line) s, .ok)

/-- A private cache takes a line, and gives one up where it is full: 1,024 lines (R484). -/
def State.pxFill (s : State) (h line : Nat) (via : Via) : State :=
  let room := fun (l : List Nat) => if l.length < 1024 then l else l.eraseIdx (Config.cachePick line s.freeCount % 1024)
  match via with
  | .shared => s
  | .fetch => (State.drawn { s with px := { s.px with icache := s.px.icache.upd h (fun l => line :: room l) } })
  | .data =>
    let gone := (s.px.dcache.get h).filter (fun l => !(room (s.px.dcache.get h)).contains l)
    let s1 := gone.foldl (fun s l => s.pxClean h l) s
    State.drawn { s1 with px := { s1.px with dcache := s1.px.dcache.upd h (fun l => line :: room l) } }

/-- The ways in which a hart allocates: its tenancy's, and none that serves as SRAM (R491). -/
def State.pxWays (s : State) (h : Nat) : List Nat :=
  match s.hartTen h with
  | none => []
  | some t => (List.range 16).filter (fun w => (s.px.ways.get t).cache.getLsbD w && !s.px.ways.any (fun x => x.2.sram.getLsbD w))

/-- A line is fetched from GDDR into the shared cache, where the hart has a way for it, in the place of the line of its set that the way
held: 196,608 sets (R489 to R491). -/
def State.pxMiss (s : State) (h line : Nat) : State × MemEnd :=
  if s.lineBusy line then (s, .wait) else
  let r := (s.updHart h (fun x => x.hpmAdd 5 1)).gddrRead (64 * line) 64 (s.hartWho h)
  if r.2.1 ≠ stDone then (r.1, .bad) else
  match s.pxWays h with
  | [] => (r.1, .ok)
  | w :: ws =>
    let way := (w :: ws).getD (Config.cachePick line s.freeCount % (ws.length + 1)) w
    let keep := r.1.px.shared.filter (fun x => !(x.1 == way && x.2 % 196608 == line % 196608))
    (State.drawn { r.1 with px := { r.1.px with shared := (way, line) :: keep } }, .ok)

/-- A hart reads a line: in its private cache, in the shared cache in any way, or from GDDR. `flips` bits of one word of the shared copy are
flipped: one is corrected, more drop the line, which is fetched again (R490 to R493). -/
def State.pxLine (s : State) (h line : Nat) (via : Via) (flips : Nat) : State × MemEnd :=
  let y := s.pxSync h line via
  if y.2 ≠ .ok then y else
  let s := y.1
  let mine := match via with | .data => s.px.dcache.get h | .fetch => s.px.icache.get h | .shared => []
  if mine.contains line then (s, .ok) else
  let s := if via = .data then s.updHart h (fun r => r.hpmAdd 4 1) else s
  let m : State × MemEnd := match s.px.shared.find? (fun x => x.2 == line) with
    | none => s.pxMiss h line
    | some (way, _) =>
      if flips = 0 then (s, .ok)
      else if flips = 1 then ({ s with px := { s.px with corrected := satInc s.px.corrected } }, .ok)
      else State.pxMiss (({ s with px := { s.px with refetched := satInc s.px.refetched, shared := s.px.shared.filter (fun x => x.2 != line) } }).hand
        { unit := pxUnit 2 way, cls := 0x01, severity := 1, addrKind := 1, address := BitVec.ofNat 64 (64 * line) }) h line
  if m.2 = .ok then (m.1.pxFill h line via, .ok) else m

/-- A hart stores within a line. The other private copies of it are dropped. A copy in its own data cache takes the bytes, and keeps them or
is written back; else they go through the shared cache to GDDR (R484, R489, R492; log 53). -/
def State.pxStoreLine (s : State) (h a : Nat) (bs : List Byte) (via : Via) : State × MemEnd :=
  let line := a / 64
  let y := s.pxSync h line via
  if y.2 ≠ .ok then y else
  let held := via == .data && (y.1.px.dcache.get h).contains line
  let drop := fun (t : Tab (List Nat)) (me : Bool) => t.map (fun x => (x.1, if me && x.1 == h then x.2 else x.2.filter (fun l => l != line)))
  let s : State := ({ y.1 with px := { y.1.px with icache := drop y.1.px.icache false, dcache := drop y.1.px.dcache (via == Via.data) } }).breakRes a bs.length
  if held && Config.cacheHold line s.freeCount then
    let cells := ((List.range bs.length).map (a + ·)).zip bs
    (State.drawn { s with px := { s.px with dirty := s.px.dirty.upd h (fun l => l.filter (fun c => !(a ≤ c.1 && c.1 < a + bs.length)) ++ cells) } }, .ok)
  else if s.lineBusy line then (y.1, .wait)
  else
    let s := (s.drawn.pxClean h line).updHart h (fun r => if via = .data ∧ ¬ held then r.hpmAdd 4 1 else r)
    let s := s.updHart h (fun r => if ¬ held ∧ ¬ s.px.shared.any (fun x => x.2 == line) then r.hpmAdd 5 1 else r)
    let w := s.gddrWrite a bs (s.hartWho h)
    (w.1.updHart h (fun r => r.hpmAdd 6 1), if w.2 = stDone then .ok else .bad)

/-- A range cut at multiples of `m`: address and length. -/
def cutAt (m a n : Nat) : List (Nat × Nat) :=
  if n = 0 then [] else (List.range ((a + n - 1) / m + 1 - a / m)).map (fun i =>
    let lo := Nat.max a ((a / m + i) * m)
    (lo, Nat.min (a + n) ((a / m + i + 1) * m) - lo))

/-- Bits of an SRAM word flip before it is read (R493). -/
def State.sramStrike (s : State) (npa flips : Nat) : State :=
  if flips = 0 ∨ npa / 2 ^ 48 ≠ 3 then s
  else { s with px := { s.px with sramErr := s.px.sramErr.upd (npa % 2 ^ 48 / 8) (· + flips) } }

/-- A read that has passed every check: space 0x0 line by line, space 0x1 in aligned pieces of 8 bytes, and the SRAM ways (R490, R491). -/
def State.pxRead (s : State) (h npa n flips : Nat) (via : Via) : State × MemEnd × List Byte :=
  let off := npa % 2 ^ 48
  match npa / 2 ^ 48 with
  | 0 =>
    let r := (cutAt 64 off n).foldl (fun (acc : State × MemEnd) p =>
      if acc.2 ≠ .ok then acc else acc.1.pxLine h (p.1 / 64) via (if p.1 = off then flips else 0)) (s, .ok)
    (r.1, r.2, r.1.pxBytes off n)
  | 1 => (cutAt 8 off n).foldl (fun (acc : State × MemEnd × List Byte) p =>
      let r := acc.1.rsOp p.1 .load p.2 [] { s.hartWho h with source := 4 }
      (r.1, if acc.2.1 = .ok ∧ r.2.1 = stDone then .ok else .bad, acc.2.2 ++ padTo p.2 r.2.2)) (s, .ok, [])
  | _ =>
    let r := (s.sramStrike npa flips).sramGet off n (s.hartWho h)
    (r.1, if r.2.1 then .ok else .bad, r.2.2)

/-- A write that has passed every check. -/
def State.pxWrite (s : State) (h npa : Nat) (bs : List Byte) (via : Via) : State × MemEnd :=
  let off := npa % 2 ^ 48
  match npa / 2 ^ 48 with
  | 0 => (cutAt 64 off bs.length).foldl (fun (acc : State × MemEnd) p =>
      if acc.2 = .wait then acc else
      let r := acc.1.pxStoreLine h p.1 (slice bs (p.1 - off) p.2) via
      (r.1, if acc.2 = .bad ∧ r.2 = .ok then .bad else r.2)) (s, .ok)
  | 1 => (cutAt 8 off bs.length).foldl (fun (acc : State × MemEnd) p =>
      let r := acc.1.rsOp p.1 .store 0 (slice bs (p.1 - off) p.2) { s.hartWho h with source := 4 }
      (r.1, if acc.2 = .ok ∧ r.2.1 = stDone then .ok else .bad)) (s, .ok)
  | _ => let r := s.sramPut off bs (s.hartWho h)
         (r.1, if r.2 then .ok else .bad)

/-- Lines that data caches hold and have not written back are written back as the caches choose, where a credit is free (R489, R492). -/
def State.pxSettle (s : State) : State :=
  s.px.dirty.foldl (fun s d => ((d.2.map (fun c => c.1 / 64)).eraseDups).foldl (fun s l =>
    if s.lineBusy l || Config.cacheHold l s.freeCount then s.drawn else s.drawn.pxClean d.1 l) s) s

/-- A core that is reset keeps nothing in its private caches: what it has stored is written back first (log 53). -/
def State.pxFlush (s : State) (h : Nat) : State :=
  let s1 := (((s.px.dirty.get h).map (fun c => c.1 / 64)).eraseDups).foldl (fun s l => s.pxClean h l) s
  { s1 with px := { s1.px with icache := s1.px.icache.erase h, dcache := s1.px.dcache.erase h } }

/-- Bytes that are plain memory for a hart: GDDR, resident stores, SRAM ways. -/
def isPlainNpa (npa : Nat) : Bool := npa / 2 ^ 48 ≤ 1 || (npa / 2 ^ 48 == 3 && npa % 2 ^ 48 < 0xC000000)

/-- Every line that a data cache has stored to is written back, and its hart's private caches are given up. -/
def State.pxFlushAll (s : State) : State := (s.px.dirty.map (·.1)).foldl State.pxFlush s

/-! ### Translation (Sv48) -/

/-- Where a translation ends: an address, a page fault, an access fault, or a wait for a credit. -/
inductive Xlate where
  | pa (npa : Nat) | page | access | wait
deriving DecidableEq, Repr, Inhabited

/-- What a leaf entry of a page table permits. -/
def pteOk (r : HartRegs) (mode : BitVec 2) (pte : Nat) (a : HAcc) : Bool :=
  let u := bitAt pte 4
  let who := if mode = 0 then u else (!u || (r.sum && !a.fetch))
  who && (if a.fetch then bitAt pte 3 else match a.perm with
    | .r => bitAt pte 1 || (r.mxr && bitAt pte 3)
    | _ => bitAt pte 2)

/-- Walk the table from a level downwards. -/
def State.walk (s : State) (h va : Nat) (mode : BitVec 2) (a : HAcc) : Nat → Nat → State × Xlate
  | 0, _ => (s, .page)
  | lvl + 1, ppn =>
    let r := s.hart h
    let at_ := ppn * 4096 + bitsAt va (12 + 9 * lvl) 9 * 8
    if 2 ^ 52 ≤ at_ ∨ ¬ isPlainNpa at_ ∨ ¬ r.pmpOk 1 at_ 8 {} then (s, .access)
    else if !s.tenancyOk h at_ 8 {} then (s.tenancyRec h at_, .access)
    else
      let x := s.pxRead h at_ 8 0 .shared
      if x.2.1 = .wait then (s, .wait) else if x.2.1 = .bad then (x.1, .access) else
      let pte := leVal x.2.2
      let next := bitsAt pte 10 44
      if !bitAt pte 0 || (bitAt pte 2 && !bitAt pte 1) || bitsAt pte 54 10 != 0 then (x.1, .page)
      else if !bitAt pte 1 && !bitAt pte 3 then
        (if bitAt pte 4 || bitAt pte 6 || bitAt pte 7 then (x.1, .page) else x.1.walk h va mode a lvl next)
      else if !pteOk r mode pte a || next % 2 ^ (9 * lvl) != 0 then (x.1, .page)
      else
        let need := 0x40 + (if a.perm = .r then 0 else 0x80)
        let npa := next / 2 ^ (9 * lvl) * 2 ^ (9 * lvl) * 4096 + va % 2 ^ (12 + 9 * lvl)
        if 2 ^ 52 ≤ npa then (x.1, .access)
        else if pte ||| need = pte then (x.1, .pa npa)
        else if !Config.adUpdate then (x.1, .page)
        else if !r.pmpOk 1 at_ 8 { perm := .w } then (x.1, .access)
        else if !x.1.tenancyOk h at_ 8 { perm := .w } then (x.1.tenancyRec h at_, .access)
        else let w := x.1.pxWrite h at_ (leBytes 8 (pte ||| need)) .shared
             (w.1, match w.2 with | .ok => .pa npa | .bad => .access | .wait => .wait)

/-- Translate a virtual address (R485). -/
def State.translate (s : State) (h : Nat) (va : BitVec 64) (a : HAcc) : State × Xlate :=
  let r := s.hart h
  let mode := r.accMode a
  if isService h ∨ mode = 3 ∨ hartField r.satp 60 4 ≠ 9 then
    (if va.toNat < 2 ^ 52 then (s, .pa va.toNat) else (s, .access))
  else if va.toNat / 2 ^ 47 ≠ 0 ∧ va.toNat / 2 ^ 47 ≠ 2 ^ 17 - 1 then (s, .page)
  else s.walk h va.toNat mode a 4 (hartField r.satp 0 44)

/-- An access cut at the page boundary it crosses. -/
def pagePieces (va n : Nat) : List (Nat × Nat) :=
  if va % 4096 + n ≤ 4096 then [(va, n)] else [(va, 4096 - va % 4096), ((va + (4096 - va % 4096)) % 2 ^ 64, n - (4096 - va % 4096))]

/-- What stops an access: an exception's cause, or a wait for a credit, in which the instruction does nothing yet. -/
inductive Stop where
  | cause (c : Nat) | wait
deriving DecidableEq, Repr, Inhabited

/-- Translate, protect and check an access: its physical pieces, or what stops it. -/
def State.hartReach (s : State) (h : Nat) (va : BitVec 64) (n : Nat) (a : HAcc) : State × Except Stop (List (Nat × Nat)) :=
  (pagePieces va.toNat n).foldl (fun (acc : State × Except Stop (List (Nat × Nat))) p =>
    match acc.2 with
    | .error _ => acc
    | .ok l =>
      let x := acc.1.translate h (BitVec.ofNat 64 p.1) a
      match x.2 with
      | .wait => (x.1, .error .wait)
      | .page => (x.1, .error (.cause (causePage a.perm a.fetch)))
      | .access => (x.1, .error (.cause (causeAccess a.perm a.fetch)))
      | .pa npa =>
        let r := x.1.hart h
        if !r.pmpOk (r.accMode a) npa p.2 a then (x.1, .error (.cause (causeAccess a.perm a.fetch)))
        else if !x.1.allowed h npa p.2 a then (x.1.tenancyRec h npa, .error (.cause (causeAccess a.perm a.fetch)))
        else (x.1, .ok (l ++ [(npa, p.2)]))) (s, .ok [])

/-! ### Retiring -/

/-- An instruction retires, and the next is at `pc`. -/
def HartRegs.retiredTo (r : HartRegs) (pc : BitVec 64) : HartRegs :=
  { r with pc := pc, instret := r.instret + 1, cycle := r.cycle + Config.hartHandshakes r.pc r.instret r.cycle }

/-- An instruction of 32 bits retires. -/
def HartRegs.retired (r : HartRegs) : HartRegs := r.retiredTo (r.pc + 4)

/-! ### Interrupts (R485, R510, R521) and the registers software reads (R485) -/

/-- A write of `satp`: a mode that is not Bare or Sv48 leaves it unchanged; the ASID has 16 bits (R485). -/
def HartRegs.putSatp (r : HartRegs) (v : BitVec 64) : HartRegs :=
  if hartField v 60 4 = 0 ∨ hartField v 60 4 = 9 then { r with satp := v } else r

/-- Interrupts that a hart may be given: supervisor and machine timer and external, and the supervisor's software interrupt; `MSIP` is hardwired
to zero (R485). -/
def hartIrqs (h : Nat) : List Nat := if isService h then [11, 7] else [11, 7, 9, 1, 5]

end Sys2Proof.Machine
end

