-- ==== Sys2Proof/Machine/Ec.lean ====
section
/-! DEFINITION. The event concentrator (chapter 18): doorbells and retraction, claim and complete, pending, enable,
priority and threshold, the gust limiter, and delivery. -/

namespace Sys2Proof.Machine

/-! ### Sources, groups, targets (R509 to R512) -/

/-- Sources that can be pending in a group: not 0, not 38 to 63, not 4,095 (R509, R512). -/
def ecReal (g : Nat) : BitVec 64 := if g = 0 then 0x3FFFFFFFFE else if g = 63 then 0x7FFFFFFFFFFFFFFF else BitVec.allOnes 64

/-- Put a pending bit. -/
def Ec.put (e : Ec) (src : Nat) (b : Bool) : Ec :=
  let m := BitVec.ofNat 64 (2 ^ (src % 64))
  { e with pending := e.pending.upd (src / 64) (fun v => (if b then v ||| m else v &&& ~~~ m) &&& ecReal (src / 64)) }

/-- A source's pending bit. -/
def Ec.isPending (e : Ec) (src : Nat) : Bool := (e.pending.get (src / 64)).getLsbD (src % 64)

/-- The source is in service at some target. -/
def Ec.serving (e : Ec) (src : Nat) : Bool := e.targets.any (fun t => t.2.service.contains src)

/-- Owner of a target: the tenancy of its hart, or node firmware (R511). -/
def State.targetOwner (s : State) (t : Nat) : Option Nat := if 192 ≤ t then some 15 else s.hartTen (t / 2)

/-- The gust limiter holds a group (R523). -/
def EcGroup.held (g : EcGroup) (now : Nat) : Bool :=
  match g.holdEnd with
  | some e => now < e
  | none => false

/-- The sources eligible for a target, in ascending order (R517). -/
def State.eligible (s : State) (t : Nat) : List Nat :=
  let tg := s.ec.targets.get t
  s.ec.pending.flatMap (fun p =>
    let g := s.ec.groups.get p.1
    if p.2 &&& tg.enable.get p.1 = 0 ∨ s.targetOwner t ≠ some g.owner.toNat ∨ g.held s.t = true then []
    else ((List.range 64).filter (fun i => (p.2 &&& tg.enable.get p.1).getLsbD i)).filterMap (fun i =>
      let src := p.1 * 64 + i
      if tg.threshold.toNat < (s.ec.prio.get src).toNat ∧ ¬ s.ec.serving src then some src else none))

/-- The interrupt bit a target drives (R521). -/
def State.irq (s : State) (t : Nat) : Bool := !(s.eligible t).isEmpty

/-- Bits of `mip` that read 1 (R485, R494, R510): machine external 11, of both targets on a service core; machine timer 7; supervisor
external 9 and timer 5, on an application core. `MSIP` is hardwired to zero. -/
def State.hartPend (s : State) (h : Nat) : List Nat :=
  (hartIrqs h).filter (fun i =>
    if i = 11 then s.irq (2 * h) || (isService h && s.irq (2 * h + 1))
    else if i = 7 then decide ((s.px.mtimecmp.get h).toNat ≤ s.t)
    else if i = 9 then s.irq (2 * h + 1) || (s.hart h).seip
    else if i = 1 then (s.hart h).ssip
    else decide ((s.hart h).stimecmp.toNat ≤ s.t))

/-- S mode takes interrupt `i`: one of its own, which `mideleg` sends there (R486 leaves a service core no S mode). -/
def HartRegs.toS (r : HartRegs) (h i : Nat) : Bool := !isService h && (i == 9 || i == 5) && r.mideleg.getLsbD i

/-- The interrupt that a hart takes now, by its mode, `mstatus`, `mie` and `mideleg`; machine interrupts first (R521). -/
def State.hartIrq (s : State) (h : Nat) : Option Nat :=
  let r := s.hart h
  if !s.hartLive h then none else
  (s.hartPend h).find? (fun i => r.ienable.getLsbD i &&
    (if r.toS h i then r.mode == 0 || (r.mode == 1 && r.sie) else r.mode != 3 || r.mie))

/-- Where a trap vector sends an interrupt: direct or vectored (R485). -/
def irqVector (tvec : BitVec 64) (i : Nat) : BitVec 64 := (tvec &&& ~~~ 3) + (if tvec.getLsbD 0 then BitVec.ofNat 64 (4 * i) else 0)

/-- A hart takes an interrupt trap. -/
def HartRegs.irqTrap (r : HartRegs) (h i : Nat) : HartRegs :=
  let cause := BitVec.ofNat 64 (2 ^ 63 + i)
  if r.toS h i then
    { r with scause := cause, sepc := r.pc, stval := 0, spp := r.mode == 1, spie := r.sie, sie := false, mode := 1, pc := irqVector r.stvec i, wfi := false }
  else
    { r with mcause := cause, mepc := r.pc, mtval := 0, mpp := r.mode, mpie := r.mie, mie := false, mode := 3, pc := irqVector r.mtvec i, wfi := false }

/-- A hart in WFI resumes on an external interrupt whatever its enables are (R522), and on a timer interrupt that `mie` enables; what its
`mstatus` and `mie` let through it takes (R521). -/
def State.hartSettle (s : State) (h : Nat) : State :=
  let p := s.hartPend h
  let r := s.hart h
  if (s.px.harts.any (fun x => x.1 == h)) && s.hartLive h && !p.isEmpty then
    match s.hartIrq h with
    | some i => s.updHart h (fun r => r.irqTrap h i)
    | none => if r.wfi && p.any (fun i => i == 11 || i == 9 || r.ienable.getLsbD i) then s.updHart h (fun r => { r with wfi := false }) else s
  else s

/-- Every hart takes the interrupts that it is given now. -/
def State.hartsSettle (s : State) : State := (s.px.harts.map (·.1)).foldl State.hartSettle s

/-- After a change at the concentrator: harts take their interrupts or resume (R521, R522), and a source eligible at a service target wakes
the package (R576). -/
def State.ecSettle (s : State) : State :=
  let live := (s.ec.targets.map (·.1)).filter (fun t => t < 200 && s.irq t)
  if live.isEmpty then s else
  let s1 := s.hartsSettle
  if live.any (fun t => 192 ≤ t) then s1.wakeBy 4 else s1

/-! ### Doorbells and retraction (R514 to R516) -/

/-- The block's owner: a tenancy, or node firmware for block 8. -/
def blockOwner (b : Nat) : Nat := if b = 8 then 15 else b

/-- The conditions of R515 on a value written to a doorbell block. -/
def State.ringOk (s : State) (block : Nat) (v : Reg) : Bool :=
  v.toNat < 4095 && v != 0 && (s.ec.groups.get (v.toNat / 64)).owner.toNat == blockOwner block

def State.bellDropped (s : State) : State := { s with ec := { s.ec with bellDrop := satInc s.ec.bellDrop } }

/-- A doorbell or retract write that reaches the concentrator. -/
def State.ring (s : State) (block : Nat) (v : Reg) (set : Bool) : State :=
  if s.ringOk block v then ({ s with ec := s.ec.put v.toNat set }).ecSettle else s.bellDropped

/-- A doorbell or retract write by whoever makes it: an access that no row of R513 admits fails the check of R488; an
access that is not an aligned one of 8 bytes traps on a hart, and is dropped from a compute core (R514), whose access meets R87. -/
def State.bellAccess (s : State) (who : Ringer) (block : Nat) (v : Reg) (aligned set : Bool) : State :=
  match who with
  | .hart h =>
    if !s.hartRuns h.val then s else
    let npa := 3 * 2 ^ 48 + ecBase + 0x100 * block + (if set then 0 else 8)
    let trap := fun (s : State) => (s.hartTrap h.val 7 (Config.freeWord s.freeCount)).drawn
    if !(if isService h.val then block == 8 else s.hartTen h.val == some block) then trap (s.tenancyRec h.val npa)
    else if !aligned then trap s
    else s.ring block v set
  | .core c =>
    -- a compute core's access passes the local region check first (R87, R513)
    let npa := 3 * 2 ^ 48 + ecBase + 0x100 * block + (if set then 0 else 8)
    let k := s.core c
    if !s.regionOk c npa 8 .w then s.hand { unit := coreUnit c 0x03, cls := 0x06, severity := 2, status := stWindowFault, addrKind := 1
                                            address := BitVec.ofNat 64 npa, jobId := k.jobId, jobGen := k.jobGen }
    else if aligned ∧ block < 8 then s.ring block v set else s.bellDropped
  | .host t => if t.val = block then s.ring block v set else s.bellDropped

def execDoorbell (who : Ringer) (block : Fin 9) (v : Reg) (aligned : Bool) (s : State) : Out :=
  .next (s.bellAccess who block.val v aligned true)

def execRetract (who : Ringer) (block : Fin 9) (v : Reg) (aligned : Bool) (s : State) : Out :=
  .next (s.bellAccess who block.val v aligned false)

/-! ### Claim and complete (R518, R519, R523) -/

/-- The source a claim takes: the highest priority, the lowest number among equals. -/
def State.claimPick (s : State) (t : Nat) : Option Nat :=
  match s.eligible t with
  | [] => none
  | x :: r => some (r.foldl (fun b y => if (s.ec.prio.get b).toNat < (s.ec.prio.get y).toNat then y else b) x)

/-- What a read of a target's claim register does, and what it returns. -/
def State.claimRead (s : State) (t : Nat) : State × Nat :=
  match s.claimPick t with
  | none => ({ s with ec := { s.ec with spurious := satInc s.ec.spurious } }, 0xFFF)
  | some src =>
    let g := s.ec.groups.get (src / 64)
    let iv := Nat.min g.interval.toNat 10000
    let e := s.ec.put src false
    (({ s with ec := { e with
        targets := e.targets.upd t (fun x => { x with service := src :: x.service })
        groups := if iv = 0 then e.groups else e.groups.upd (src / 64) (fun x => { x with holdEnd := some (s.t + iv * 100) }) } }).ecSettle, src)

/-- What a write of a target's complete register does. -/
def State.completeWrite (s : State) (t src : Nat) : State :=
  if (s.ec.targets.get t).service.contains src then
    ({ s with ec := { s.ec with targets := s.ec.targets.upd t (fun x => { x with service := x.service.erase src }) } }).ecSettle
  else { s with ec := { s.ec with badComplete := satInc s.ec.badComplete } }

def execClaim (target : Fin 200) (rd : BitVec 5) (s : State) : Out :=
  if !s.hartRuns (target.val / 2) then .next s else
  let r := s.claimRead target.val
  .next (r.1.updHart (target.val / 2) (fun h => h.setX rd (BitVec.ofNat 64 r.2)))

def execComplete (target : Fin 200) (v : Reg) (s : State) : Out :=
  if !s.hartRuns (target.val / 2) then .next s else .next (s.completeWrite target.val (v.toNat % 4096))

/-! ### Words (R526, R527, R529 to R533) -/

/-- A write of a pending word: a 1 acts as a doorbell, a 0 as a retract (R526, R530). -/
def State.pendingWrite (s : State) (g : Nat) (v : Reg) : State :=
  ({ s with ec := { s.ec with pending := s.ec.pending.set g (v &&& ecReal g) } }).ecSettle

def execEcPendingWrite (group : Fin 64) (v : Reg) (s : State) : Out := .next (s.pendingWrite group.val v)

/-- The priorities of one word (R531). -/
def prioWord (p : Tab (BitVec 3)) (g k : Nat) (v : Reg) : Tab (BitVec 3) :=
  (List.range 16).foldl (fun t j => t.set (64 * g + 16 * k + j) (regField v (4 * j) 3)) p

/-- A write of an enable, priority or threshold word (R521). -/
def State.ecConfig (s : State) (w : EcConfig) : State :=
  (match w with
    | .enable t g v => { s with ec := { s.ec with targets := s.ec.targets.upd t.val (fun x => { x with enable := x.enable.set g.val v }) } }
    | .prio g k v => { s with ec := { s.ec with prio := prioWord s.ec.prio g.val k.val v } }
    | .threshold t v => { s with ec := { s.ec with targets := s.ec.targets.upd t.val (fun x => { x with threshold := regField v 0 3 }) } }).ecSettle

def execEcConfigWrite (w : EcConfig) (s : State) : Out := .next (s.ecConfig w)

/-- A unit's event, among those raised, makes its source pending (R512, R520). -/
def execEcSourceEvent (source : BitVec 12) (s : State) : Out :=
  match takeFirst (fun x : Nat => x == source.toNat) s.signals with
  | none => .next s
  | some (x, rest) => .next ({ s with signals := rest, ec := s.ec.put x true }).ecSettle

/-- A gust hold ends (R523). -/
def execGustHoldEnd (group : Fin 64) (s : State) : Out :=
  match (s.ec.groups.get group.val).holdEnd with
  | none => .next s
  | some e =>
    if s.t < e then .next s
    else .next ({ s with ec := { s.ec with groups := s.ec.groups.upd group.val (fun g => { g with holdEnd := none }) } }).ecSettle

/-- A revoke clears what the concentrator holds of a tenancy (R528). -/
def State.ecRevoke (s : State) (t : Nat) : State :=
  let mine := fun (g : Nat) => (s.ec.groups.get g).owner.toNat == t
  { s with ec := { s.ec with
      pending := s.ec.pending.filter (fun p => !mine p.1)
      targets := (List.range 192).foldl (fun ts k =>
        if s.hartTen (k / 2) = some t then ts.upd k (fun x => { x with enable := [], threshold := 7, service := x.service.filter (fun src => !mine (src / 64)) })
        else ts.upd k (fun x => { x with service := x.service.filter (fun src => !mine (src / 64)) })) s.ec.targets
      groups := s.ec.groups.map (fun g => if mine g.1 then (g.1, { g.2 with holdEnd := none }) else g) } }

/-! ### Words as software reads them (R529 to R533) -/

def State.ecGroupWord (s : State) (g : Nat) : Nat :=
  let x := s.ec.groups.get g
  x.interval.toNat + x.owner.toNat * 2 ^ 16 + b2n (x.held s.t) * 2 ^ 20

def State.ecPrioWord (s : State) (g k : Nat) : Nat :=
  sumN ((List.range 16).map (fun j => (s.ec.prio.get (64 * g + 16 * k + j)).toNat * 16 ^ j))

def State.ecTargetWord (s : State) (t : Nat) : Nat :=
  let x := s.ec.targets.get t
  b2n (s.irq t) + (x.service.headD 0) * 16 + x.service.length * 65536

/-- A read of the 8-byte word at an offset of a target's block; a read of claim claims. -/
def State.targetRead (s : State) (t o : Nat) : State × Nat :=
  if o = 0 then s.claimRead t
  else if o = 0x10 then (s, (s.ec.targets.get t).threshold.toNat)
  else if o = 0x18 then (s, s.ecTargetWord t)
  else if 0x200 ≤ o ∧ o < 0x400 then (s, ((s.ec.targets.get t).enable.get ((o - 0x200) / 8)).toNat)
  else (s, 0)

/-- A write of the 8-byte word at an offset of a target's block. -/
def State.targetWrite (s : State) (t o : Nat) (v : Reg) : State :=
  if h : t < 200 then
    if o = 8 then s.completeWrite t (v.toNat % 4096)
    else if o = 0x10 then s.ecConfig (.threshold ⟨t, h⟩ v)
    else if 0x200 ≤ o ∧ o < 0x400 then s.ecConfig (.enable ⟨t, h⟩ ⟨(o - 0x200) / 8 % 64, Nat.mod_lt _ (by decide)⟩ v)
    else s
  else s

/-- Read an 8-byte word of the concentrator's registers by its offset there (R529 to R533). -/
def State.ecRead (s : State) (o : Nat) : State × Nat :=
  if o < 0x200 then (s, (s.ec.pending.get (o / 8)).toNat)
  else if 0x400 ≤ o ∧ o < 0xC00 then (s, s.ecPrioWord ((o - 0x400) / 32) ((o - 0x400) % 32 / 8))
  else if 0xC00 ≤ o ∧ o < 0xE00 then (s, s.ecGroupWord ((o - 0xC00) / 8))
  else if o = 0xE00 then (s, s.ec.bellDrop.toNat + s.ec.spurious.toNat * 2 ^ 16 + s.ec.badComplete.toNat * 2 ^ 32)
  else if 0x10000 ≤ o ∧ o < 0x10000 + 0x400 * 200 then s.targetRead ((o - 0x10000) / 0x400) ((o - 0x10000) % 0x400)
  else (s, 0)

/-- Write an 8-byte word of the concentrator's registers by its offset there. -/
def State.ecWrite (s : State) (o : Nat) (v : Reg) : State :=
  if o < 0x200 then s.pendingWrite (o / 8) v
  else if 0x400 ≤ o ∧ o < 0xC00 then
    s.ecConfig (.prio ⟨(o - 0x400) / 32 % 64, Nat.mod_lt _ (by decide)⟩ ⟨(o - 0x400) % 32 / 8 % 4, Nat.mod_lt _ (by decide)⟩ v)
  else if 0xC00 ≤ o ∧ o < 0xE00 then
    { s with ec := { s.ec with groups := s.ec.groups.upd ((o - 0xC00) / 8) (fun g => { g with interval := regField v 0 14 }) } }
  else if o = 0xE00 then
    { s with ec := { s.ec with
        bellDrop := if regField v 0 16 = 0xFFFF then 0 else s.ec.bellDrop
        spurious := if regField v 16 16 = 0xFFFF then 0 else s.ec.spurious
        badComplete := if regField v 32 16 = 0xFFFF then 0 else s.ec.badComplete } }
  else if 0x10000 ≤ o ∧ o < 0x10000 + 0x400 * 200 then s.targetWrite ((o - 0x10000) / 0x400) ((o - 0x10000) % 0x400) v
  else s

/-- Read an 8-byte word of the pages of R513 as hart `h` sees them. -/
def State.ecPageRead (s : State) (h o : Nat) : State × Nat :=
  if o < 0x1000 then (s, 0)
  else if o < 0x1200 then s.ecRead (o - 0x1000)
  else if 0x1400 ≤ o ∧ o < 0x1C00 then s.ecRead (0x400 + (o - 0x1400))
  else if 0x1C00 ≤ o ∧ o < 0x1E00 then s.ecRead (0xC00 + (o - 0x1C00))
  else if 0x8000 ≤ o ∧ o < 0x8800 then s.targetRead (2 * h + (o - 0x8000) / 0x400) (o % 0x400)
  else (s, 0)

/-- Write an 8-byte word of the pages of R513 as hart `h` sees them. -/
def State.ecPageWrite (s : State) (h o : Nat) (v : Reg) : State :=
  if o < 0x1000 then (if o % 0x100 = 0 then s.ring (o / 0x100) v true else if o % 0x100 = 8 then s.ring (o / 0x100) v false else s)
  else if o < 0x1200 then s.ecWrite (o - 0x1000) v
  else if 0x1400 ≤ o ∧ o < 0x1C00 then s.ecWrite (0x400 + (o - 0x1400)) v
  else if 0x8000 ≤ o ∧ o < 0x8800 then s.targetWrite (2 * h + (o - 0x8000) / 0x400) (o % 0x400) v
  else s

/-- A page word that takes only aligned 8-byte accesses (R514). -/
def ecStrict (o : Nat) : Bool := (o < 0x1000 && o % 0x100 < 16) || (0x8000 ≤ o && o < 0x8800 && o % 0x400 < 16)

end Sys2Proof.Machine
end

