-- ==== Sys2Proof/Machine/App.lean ====
section
/-! DEFINITION. What an application core's access does at its place (R485, R488 to R494), and the memory operations of Xszv (R498 to R500,
R503 to R505). -/

namespace Sys2Proof.Machine

/-! ### Places that are no plain memory (R494) -/

/-- Replace `bs` at byte `o` of an 8-byte word. -/
def mergeWord (w o : Nat) (bs : List Byte) : Nat := leVal ((leBytes 8 w).take o ++ bs ++ (leBytes 8 w).drop (o + bs.length))

/-- An access to the concentrator's pages touches a word that takes only aligned accesses of 8 bytes, and is none (R514). -/
def ecStrictBad (o n : Nat) : Bool := (cutAt 8 o n).any (fun p => ecStrict (p.1 / 8 * 8)) && !(n == 8 && o % 8 == 0)

/-- Read bytes of `mtimecmp`, of the concentrator's pages or of the collective page, word by word; false: an access fault (R514). -/
def State.devRead (s : State) (h off n : Nat) : State × Bool × List Byte :=
  if timeBase ≤ off ∧ off < timeBase + 800 then
    (s, true, (cutAt 8 off n).flatMap (fun p => slice (leBytes 8 (s.px.mtimecmp.get ((p.1 - timeBase) / 8)).toNat) (p.1 % 8) p.2))
  else if ecBase ≤ off ∧ off < ecBase + 0x10000 then
    if ecStrictBad (off - ecBase) n then (s, false, [])
    else (cutAt 8 (off - ecBase) n).foldl (fun (acc : State × Bool × List Byte) p =>
      let r := acc.1.ecPageRead h (p.1 / 8 * 8)
      (r.1, true, acc.2.2 ++ slice (leBytes 8 r.2) (p.1 % 8) p.2)) (s, true, [])
  else (s.drawn, true, s.freeBytes off n)

/-- Write bytes there. A write to the collective page that is not one of 128 bytes is dropped (R349). -/
def State.devWrite (s : State) (h off : Nat) (bs : List Byte) : State × Bool :=
  if timeBase ≤ off ∧ off < timeBase + 800 then
    (State.hartsSettle ((cutAt 8 off bs.length).foldl (fun (s : State) p =>
      { s with px := { s.px with mtimecmp := s.px.mtimecmp.upd ((p.1 - timeBase) / 8) (fun w =>
        BitVec.ofNat 64 (mergeWord w.toNat (p.1 % 8) (slice bs (p.1 - off) p.2))) } }) s), true)
  else if ecBase ≤ off ∧ off < ecBase + 0x10000 then
    let o := off - ecBase
    if ecStrictBad o bs.length then (s, false)
    else ((cutAt 8 o bs.length).foldl (fun (s : State) p =>
      if p.2 = 8 then s.ecPageWrite h p.1 (BitVec.ofNat 64 (leVal (slice bs (p.1 - o) 8)))
      else let r := s.ecPageRead h (p.1 / 8 * 8)
           r.1.ecPageWrite h (p.1 / 8 * 8) (BitVec.ofNat 64 (mergeWord r.2 (p.1 % 8) (slice bs (p.1 - o) p.2)))) s, true)
  else (s.collSubmit 0x1FFFF (off - collBase) bs 0, true)

/-- Read checked bytes of an application core. -/
def State.hartRead (s : State) (h npa n flips : Nat) (via : Via) : State × MemEnd × List Byte :=
  if isPlainNpa npa then s.pxRead h npa n flips via else
  let r := s.devRead h (npa % 2 ^ 48) n
  (r.1, if r.2.1 then .ok else .bad, r.2.2)

/-- Write checked bytes of an application core. -/
def State.hartWrite (s : State) (h npa : Nat) (bs : List Byte) (via : Via) : State × MemEnd :=
  if isPlainNpa npa then s.pxWrite h npa bs via else
  let r := s.devWrite h (npa % 2 ^ 48) bs
  (r.1, if r.2 then .ok else .bad)

/-! ### The parts of one access (R485, R488, R492) -/

def isAmo : AccKind → Bool
  | .fetch | .load | .store | .lr | .sc => false
  | _ => true

def accOf (k : AccKind) : HAcc :=
  match k with
  | .fetch => { fetch := true }
  | .load => {}
  | .store => { perm := .w }
  | .lr => { lrsc := true }
  | .sc => { perm := .w, lrsc := true }
  | _ => { perm := .a }

/-- The value an AMO writes, for words of `w` bits. -/
def amoVal (k : AccKind) (w old v : Nat) : Nat :=
  let a := toSigned w old
  let b := toSigned w v
  match k with
  | .amoAdd => (old + v) % 2 ^ w
  | .amoSwap => v % 2 ^ w
  | .amoAnd => old &&& (v % 2 ^ w)
  | .amoOr => old ||| (v % 2 ^ w)
  | .amoXor => old ^^^ (v % 2 ^ w)
  | .amoMin => if b < a then v % 2 ^ w else old
  | .amoMax => if a < b then v % 2 ^ w else old
  | .amoMinu => if v % 2 ^ w < old then v % 2 ^ w else old
  | .amoMaxu => if old < v % 2 ^ w then v % 2 ^ w else old
  | _ => old

/-- What a load puts into a register: form 0 sign-extends, 1 zero-extends, 2 NaN-boxes into an `f` register. -/
def HartRegs.loadInto (r : HartRegs) (form : Nat) (rd : BitVec 5) (bytes : List Byte) : HartRegs :=
  let w := 8 * bytes.length
  let v := leVal bytes
  if form = 2 then { r with f := r.f.set rd.toNat (BitVec.ofNat 64 (v + (2 ^ 64 - 2 ^ w))), fs := 3 }
  else r.setX rd (if form = 1 then BitVec.ofNat 64 v else BitVec.ofInt 64 (toSigned w v))

/-! ### Xszv registers (R498 to R500) -/

/-- Bytes of an element of a type (R500). -/
def xszvSize (et : BitVec 3) : Nat := match et.toNat with | 0 => 1 | 1 => 2 | 2 => 4 | 3 => 8 | 4 => 2 | 5 => 2 | 6 => 4 | _ => 8
def xszvBytes (w : Bool) : Nat := if w then 16 else 8
def xszvCount (et : BitVec 3) (w : Bool) : Nat := xszvBytes w / xszvSize et

/-- The value of an `f` or `q` register (R498). -/
def HartRegs.vec (h : HartRegs) (w : Bool) (r : BitVec 5) : Nat :=
  if w then (h.f.get (2 * (r.toNat % 16))).toNat + (h.f.get (2 * (r.toNat % 16) + 1)).toNat * 2 ^ 64 else (h.f.get r.toNat).toNat

/-- Write an `f` or `q` register; `FS` becomes Dirty (R499). -/
def HartRegs.setVec (h : HartRegs) (w : Bool) (r : BitVec 5) (v : Nat) : HartRegs :=
  if w then { h with f := (h.f.set (2 * (r.toNat % 16)) (BitVec.ofNat 64 v)).set (2 * (r.toNat % 16) + 1) (BitVec.ofNat 64 (v / 2 ^ 64)), fs := 3 }
  else { h with f := h.f.set r.toNat (BitVec.ofNat 64 v), fs := 3 }

/-- A field that names a `q` register must have bit 4 clear (R500). -/
def qOk (w : Bool) (r : BitVec 5) : Bool := !w || !r.getLsbD 4

/-- Element `i` of a register value. -/
def elemAt (bits v i : Nat) : Nat := bitsAt v (bits * i) bits

/-- A register value from its elements. -/
def packElems (bits : Nat) (l : List Nat) : Nat := l.foldr (fun e acc => e % 2 ^ bits + acc * 2 ^ bits) 0

/-- The illegal-instruction exception of Xszv. -/
def State.xszvIllegal (s : State) (h : Nat) : State := (s.hartTrap h 2 (Config.freeWord s.freeCount)).drawn

/-- An Xszv instruction retires. -/
def State.xszvRetire (s : State) (h : Nat) (g : HartRegs → HartRegs) : State := s.updHart h (fun r => ((g r).retired).hpmAdd 3 1)

/-- The hart has no Xszv, or its floating-point unit is off (R486, R499). -/
def State.xszvOff (s : State) (h : Nat) : Bool := isService h || (s.hart h).fs == 0

/-! ### Xszv memory operations (R503 to R505) -/

/-- What one element access comes to. -/
inductive ElemRes where
  | ok (bytes : List Byte)
  /-- a page or access fault of the address -/
  | fault (cause : Nat)
  /-- the data cannot be read -/
  | lost
  /-- no credit is free: the instruction does nothing yet (R489) -/
  | wait
deriving DecidableEq, Repr, Inhabited

/-- What stops an access as an element sees it. -/
def Stop.elem : Stop → ElemRes
  | .cause c => .fault c
  | .wait => .wait

/-- Load one element. -/
def State.elemLoad (s : State) (h : Nat) (va : BitVec 64) (n flips : Nat) : State × ElemRes :=
  let r := s.hartReach h va n {}
  match r.2 with
  | .error e => (r.1, e.elem)
  | .ok ps =>
    ps.foldl (fun (acc : State × ElemRes) p =>
      match acc.2 with
      | .ok b =>
        let x := acc.1.hartRead h p.1 p.2 flips .data
        (x.1, match x.2.1 with | .ok => .ok (b ++ x.2.2) | .wait => .wait | .bad => if isPlainNpa p.1 then .lost else .fault 5)
      | e => (acc.1, e)) (r.1, .ok [])

/-- Store one element. -/
def State.elemStore (s : State) (h : Nat) (va : BitVec 64) (bs : List Byte) : State × ElemRes :=
  let r := s.hartReach h va bs.length { perm := .w }
  match r.2 with
  | .error e => (r.1, e.elem)
  | .ok ps =>
    let x := ps.foldl (fun (acc : State × ElemRes × List Byte) p =>
      match acc.2.1 with
      | .ok _ =>
        let y := acc.1.hartWrite h p.1 (acc.2.2.take p.2) .data
        (y.1, (match y.2 with | .ok => .ok [] | .wait => .wait | .bad => .lost), acc.2.2.drop p.2)
      | _ => acc) (r.1, .ok [], bs)
    (x.1, x.2.1)

/-- Loads of elements `i` to `i + n - 1` in order, until one does not succeed: the codes read, and what stopped it. -/
def State.elemLoads (s : State) (h : Nat) (va : BitVec 64) (size : Nat) (flips : List (Nat × Nat)) : Nat → Nat → List Nat → State × List Nat × ElemRes
  | _, 0, acc => (s, acc, .ok [])
  | i, n + 1, acc =>
    let x := s.elemLoad h (va + BitVec.ofNat 64 (i * size)) size (((flips.filter (fun e => e.1 == i)).headD (0, 0)).2)
    match x.2 with
    | .ok b => x.1.elemLoads h va size flips (i + 1) n (acc ++ [leVal b])
    | e => (x.1, acc, e)

/-- Stores of the chosen elements in order, until one does not succeed: how far it came, and what stopped it. -/
def State.elemStores (s : State) (h : Nat) (va : BitVec 64) (size v : Nat) (live : Nat → Bool) : Nat → Nat → State × Nat × ElemRes
  | i, 0 => (s, i, .ok [])
  | i, n + 1 =>
    if !live i then s.elemStores h va size v live (i + 1) n else
    let x := s.elemStore h (va + BitVec.ofNat 64 (i * size)) (leBytes size (elemAt (8 * size) v i))
    match x.2 with
    | .ok _ => x.1.elemStores h va size v live (i + 1) n
    | e => (x.1, i, e)

/-- The cause a stopped element raises. -/
def ElemRes.cause (e : ElemRes) (store : Bool) : Nat := match e with | .fault c => c | _ => if store then 7 else 5

/-- Elements before the one that stopped replace those of a register. -/
def HartRegs.vecPart (r : HartRegs) (w : Bool) (rd : BitVec 5) (bits : Nat) (got : List Nat) (rest : Nat → Nat) (n : Nat) : HartRegs :=
  r.setVec w rd (packElems bits ((List.range n).map (fun i => if i < got.length then got.getD i 0 else rest i)))

/-- XLD (R503, R505). -/
def execXld (h : Hart) (et : BitVec 3) (w : Bool) (rd rs1 rs2 : BitVec 5) (errs : AccessErrs) (s : State) : Out :=
  if !s.hartRuns h.val then .next s
  else if s.xszvOff h.val || !qOk w rd then .next (s.xszvIllegal h.val)
  else
    let r := s.hart h.val
    let va := r.xr rs1 + r.xr rs2
    let n := xszvCount et w
    let bits := 8 * xszvSize et
    let x := (s.gddrStrike errs.sectors).elemLoads h.val va (xszvSize et) errs.flips 0 n []
    match x.2.2 with
    | .ok _ => .next (x.1.xszvRetire h.val (fun y => y.setVec w rd (packElems bits x.2.1)))
    | .wait => .next s
    | e =>
      let s1 := if x.2.1.isEmpty then x.1 else x.1.updHart h.val (fun y => y.vecPart w rd bits x.2.1 (elemAt bits (y.vec w rd)) n)
      .next (s1.hartTrap h.val (e.cause false) (va + BitVec.ofNat 64 (x.2.1.length * xszvSize et)))

/-- XLDFF (R504, R505). -/
def execXldff (h : Hart) (et : BitVec 3) (w : Bool) (rd rs1 rs2 : BitVec 5) (errs : AccessErrs) (s : State) : Out :=
  if !s.hartRuns h.val then .next s
  else if s.xszvOff h.val || !qOk w rd then .next (s.xszvIllegal h.val)
  else
    let r := s.hart h.val
    let va := r.xr rs1 + r.xr rs2
    let n := xszvCount et w
    let bits := 8 * xszvSize et
    let x := (s.gddrStrike errs.sectors).elemLoads h.val va (xszvSize et) errs.flips 0 n []
    let trap := fun (e : ElemRes) => x.1.hartTrap h.val (e.cause false) (va + BitVec.ofNat 64 (x.2.1.length * xszvSize et))
    match x.2.2 with
    | .ok _ => .next (x.1.xszvRetire h.val (fun y => { y.setVec w rd (packElems bits x.2.1) with szvff := BitVec.ofNat 64 n }))
    | .lost => .next (trap .lost)
    | .wait => .next s
    | .fault c =>
      if x.2.1.isEmpty then .next (trap (.fault c))
      else .next (x.1.xszvRetire h.val (fun y => { y.vecPart w rd bits x.2.1 (fun _ => 0) n with szvff := BitVec.ofNat 64 x.2.1.length }))

/-- The stores of XST and XSTM. -/
def State.xszvStore (s : State) (h : Nat) (et : BitVec 3) (w : Bool) (rd : BitVec 5) (va : BitVec 64) (live : Nat → Bool) : State :=
  let x := s.elemStores h va (xszvSize et) ((s.hart h).vec w rd) live 0 (xszvCount et w)
  match x.2.2 with
  | .ok _ => x.1.xszvRetire h id
  | .wait => s
  | e => x.1.hartTrap h (e.cause true) (va + BitVec.ofNat 64 (x.2.1 * xszvSize et))

/-- XST (R503, R505). -/
def execXst (h : Hart) (et : BitVec 3) (w : Bool) (rd rs1 rs2 : BitVec 5) (s : State) : Out :=
  if !s.hartRuns h.val then .next s
  else if s.xszvOff h.val || !qOk w rd then .next (s.xszvIllegal h.val)
  else .next (s.xszvStore h.val et w rd ((s.hart h.val).xr rs1 + (s.hart h.val).xr rs2) (fun _ => true))

/-- XSTM (R503, R505). -/
def execXstm (h : Hart) (et : BitVec 3) (w : Bool) (rd rs1 rs2 : BitVec 5) (s : State) : Out :=
  if !s.hartRuns h.val then .next s
  else if s.xszvOff h.val || !qOk w rd || !qOk w rs2 then .next (s.xszvIllegal h.val)
  else
    let m := (s.hart h.val).vec w rs2
    let bits := 8 * xszvSize et
    .next (s.xszvStore h.val et w rd ((s.hart h.val).xr rs1) (fun i => bitAt m (bits * i + bits - 1)))

end Sys2Proof.Machine
end

