-- ==== Sys2Proof/Machine/Rates.lean ====
section
/-! DEFINITION. Rates, floors, breaches and profiles (chapter 2, R37 to R41, R53 to R58; R579, R580, R613, R614). -/

namespace Sys2Proof.Machine

/-- Floor rate of a profile, in M handshakes/s (R37). -/
def floorRateOf (profile : Nat) : Nat := match profile with | 0 => 800 | 1 => 600 | _ => 400
/-- Guard rate: 1.05 times the floor rate (R38, R41). -/
def guardRateOf (profile : Nat) : Nat := match profile with | 0 => 840 | 1 => 630 | _ => 420
/-- Rail ceiling in mV. -/
def ceilMv : Nat := 900
/-- Package budget of a profile in W (R580). -/
def budgetOf (profile : Nat) : Nat := match profile with | 0 => 3600 | 1 => 2400 | _ => 1200

/-- No window request that a plane has accepted waits at a channel or a slice. -/
def State.windowsIdle (s : State) (pl : Nat) : Bool :=
  s.chans.all (fun c => (c.2.queue ++ c.2.window).all (fun m => !m.ofPlane pl))
    && s.cores.all (fun c => (c.2.foreign ++ c.2.foreignHeld).all (fun m => !m.ofPlane pl))

/-- The die holds no admitted work (R58, R573): its operations; the frames, tags held for admitted operations, accepted window requests
and collectives of a fabric die; the accepted host commands and running revokes of the processor die. -/
def State.dieIdle (s : State) (d : Nat) : Bool :=
  if d < 4 then s.cores.all (fun c => c.1 / 21572 != d || c.2.drained)
  else if d = 4 then (List.range 8).all (fun t => (s.ten t).cmds.isEmpty && (s.ten t).revoke.isNone)
  else (s.fab (d - 5)).outst.isEmpty && (s.fab (d - 5)).waiting.isEmpty && (s.fab (d - 5)).tagsUsed.all (fun t => t.2 == 0) && s.windowsIdle (d - 5)
    && s.colls.all (fun c => c.home != d - 5 && (s.collPlane c).val != d - 5)

/-- The core rails of a compute die are up (R573, R577): outside Doldrums, and from step 1 of a wake on, whose waits then run. -/
def State.railsUp (s : State) (d : Nat) : Bool :=
  4 ≤ d || s.cpc.dold.toNat < 2 || (List.range 7).any (fun e => (s.dieRate e).waitNs != 0)

/-- A breach or floor loss stops admission, cancels a held request to resume, and ends the wait of a wake or a die reset: only a
new `resume` lets the die admit again (R53 to R55). -/
def DieRate.breached (r : DieRate) : DieRate :=
  { r with admitting := false, breach := true, mustResume := true, resume := false, lowSince := none, okSince := none, waitNs := 0 }

/-- Nothing but heat-hold, Doldrums or a start that has not released the dies keeps the die from admitting: `NOP` and `STATUS`
are answered all the same (R552, R575, R583). -/
def State.onlyHeat (s : State) (d : Nat) : Bool :=
  let r := s.dieRate d
  (r.heat == 2 || s.cpc.dold != 0 || decide (s.boot.phase.toNat < 9)) && !r.breach && !r.floorLoss && !r.mustResume && !r.switching
    && !s.cpc.stopped && !s.cpc.restarting && s.twin.state != 6

/-- Every band of a compute die is withdrawn (R613). -/
def State.withdrawDie (s : State) (d : Nat) : State :=
  if d < 4 then { s with pkg := { s.pkg with degBands := s.pkg.degBands ||| BitVec.ofNat 64 (0xFFFF * 2 ^ (16 * d)) } } else s

/-- A change of profile begins on every die (R58 step 1). -/
def State.startChange (s : State) (profile : BitVec 2) : State :=
  { s with cpc := { s.cpc with target := some profile }
           dies := (List.range 7).foldl (fun t d => t.upd d (fun r => { r with admitting := false, switching := true })) s.dies }

/-- Node firmware lowers the profile by one step, when it is to and no job entry is LOADING, ACTIVE or DRAINING (R614). -/
def State.lowerProfile (s : State) : State :=
  if s.cpc.lowerDue && s.cpc.target.isNone && decide (s.cpc.active.toNat < 2) && !s.cpc.restarting
    && (List.range 8).all (fun t => let j := (s.ten t).job.state; j != 1 && j != 2 && j != 3)
  then s.startChange (s.cpc.active + 1) else s

/-- The last step of a wake (R577 step 4): the hold on application cores of tenancies whose jobs are ACTIVE ends, and
`state` reads 0. No such core can have run, since entry needs a package with no running job (R572). -/
def State.wakeEnd (s : State) : State :=
  { s with cpc := { s.cpc with dold := 0 }
           px := { s.px with apps := (List.range 96).foldl (fun t h =>
             t.upd h (fun a => if a.assigned && (s.ten a.tenancy.toNat).job.state == 2 then { a with held := false } else a)) s.px.apps } }

/-- Step 4 of a wake follows once no die waits in step 3 any more. -/
def State.wakeGoesOn (s : State) : State :=
  if s.cpc.dold = 3 ∧ (List.range 7).all (fun d => (s.dieRate d).waitNs == 0) then s.wakeEnd else s

/-- A die breaches: a wake that waited for it alone goes on without it. -/
def State.breachDie (s : State) (d : Nat) (note : DieRate → DieRate) : State :=
  let s1 := s.updDie d (fun r => note r.breached)
  if (s.dieRate d).waitNs = 0 then s1 else s1.wakeGoesOn

/-- A floor loss (R54); of the processor die or a fabric die, it has the profile lowered (R614). -/
def State.floorLoss (s : State) (d : Nat) : State :=
  let r := s.dieRate d
  let s := if 4 ≤ d then { s with cpc := { s.cpc with lowerDue := true } } else s
  (((s.breachDie d (fun r => { r with floorLoss := true })).hand
    { unit := dieUnit d, cls := 0x08, severity := 3, detail := padTo 24 (leBytes 2 r.lowest.toNat) }).raise (d + 1)).withdrawDie d

/-- The lowest rate of a compute die's powered cores whose monitors have completed a window. -/
def State.coreRateMin (s : State) (d : Nat) : Option Nat :=
  (s.cores.filter (fun c => c.1 / 21572 == d && c.2.rateSeen)).foldl (fun m c => match m with
    | none => some c.2.rateNow.toNat
    | some x => some (Nat.min x c.2.rateNow.toNat)) none

/-- The rail after one step of the CPC's steering (R38, R39): it stands at the floor voltage at least, since the CPC commands nothing
lower (R650); while the rate of a die that holds work, or that admits and so may hold some at any moment, is below the guard rate the
rail rises, until it is at the ceiling. How far it rises, and where it settles while the rate is high enough, is `want`. -/
def DieRate.steerMv (r : DieRate) (d : Nat) (idle below : Bool) (want : Nat) : Nat :=
  let low := r.lowMv d
  let up := if below && !(idle && !r.admitting) then r.railMv.toNat + 1 else 0
  Nat.min ceilMv (Nat.max (Nat.max low up) want)

/-- The voltage the CPC writes to a steered supply's regulator for a rail: 30 mV above it, for the droop, and never above the ceiling (R650). -/
def DieRate.commandMv (r : DieRate) : Nat := Nat.min ceilMv (r.railMv.toNat + 30)

/-- Every 1 us a die updates `die_rate_min`; the CPC steers its rail between floor and ceiling (R38, R39, R41, R53 to R55). -/
def execDieRateUpdate (d : Die) (own railMv : BitVec 16) (s : State) : Out :=
  if !s.railsUp d.val then .next s else
  let r := s.dieRate d.val
  let rate := if d.val < 4 then (s.coreRateMin d.val).getD r.rateMin.toNat else own.toNat
  let below := decide (rate < r.guardRate.toNat)
  let mv := r.steerMv d.val (s.dieIdle d.val) below railMv.toNat
  let top := mv == ceilMv
  let s1 := s.updDie d.val (fun r => { r with
    rateMin := BitVec.ofNat 16 rate, railMv := BitVec.ofNat 16 mv
    lowest := BitVec.ofNat 16 (Nat.min r.lowest.toNat rate)
    lowSince := if below && top && !r.breach then some (r.lowSince.getD s.t) else none
    okSince := if (r.resume ∨ r.waitNs ≠ 0) ∧ ¬ below then some (r.okSince.getD s.t) else none })
  .next (if top && decide (rate < r.floorRate.toNat) && !r.floorLoss then s1.floorLoss d.val else s1)

/-- A floor breach (R53); after the third of one die within 10 minutes the profile is to be lowered (R614). -/
def execFloorBreach (d : Die) (s : State) : Out :=
  let r := s.dieRate d.val
  match r.lowSince with
  | none => .next s
  | some since =>
    if r.breach ∨ s.t < since + 10000 then .next s else
    let recent := s.t :: r.breaches.filter (fun b => s.t < b + 600000000000)
    let s1 := ((s.breachDie d.val (fun r => { r with breaches := recent })).hand
      { unit := dieUnit d.val, cls := 0x08, severity := 3 }).raise (d.val + 1)
    .next (if 3 ≤ recent.length then { s1 with cpc := { s1.cpc with lowerDue := true } } else s1)

/-- A write of 1 to `resume` (R55). -/
def State.resumeWrite (s : State) (d : Nat) : State :=
  s.updDie d (fun r => if r.breach || r.floorLoss then r else
    { r with resume := true, okSince := if r.guardRate.toNat ≤ r.rateMin.toNat then some s.t else none })

def execResume (d : Die) (s : State) : Out := .next (s.resumeWrite d.val)

/-- A hart leaves reset in M mode at its entry (R487). -/
def State.appStart (s : State) (h : Nat) : State :=
  ({ s with px := { s.px with apps := s.px.apps.upd h (fun a => { a with running := true, held := false }) } }).updHart h
    (fun _ => { ({} : HartRegs) with pc := (s.px.apps.get h).entry.setWidth 64 })

/-- 100 us at or above the guard rate from the write of `resume` (R55), or the time a die reset or a wake waits for (R569, R577). -/
def execAdmissionResume (d : Die) (s : State) : Out :=
  let r := s.dieRate d.val
  match r.okSince with
  | none => .next s
  | some since =>
    if (!r.resume && r.waitNs == 0) || s.t < since + (if r.waitNs = 0 then 100000 else r.waitNs) || !s.mayAdmit d.val then .next s
    else .next (if r.waitNs = 0 then s.reopenDie d.val else (s.reopenDie d.val).wakeGoesOn)

/-- A write of 1 to `min_clear` (R40). -/
def execMinClear (c : CoreId) (s : State) : Out := .next (s.updCore c (fun k => { k with rateMin := 0xFFFF }))

/-- The end of a core's 1,024 ns window (R40). -/
def execRateMonitorWindow (c : CoreId) (rate : BitVec 16) (s : State) : Out :=
  if !s.railsUp c.die.val then .next s else
  .next (s.updCore c (fun k => { k with
    rateNow := rate, rateMin := if rate.toNat < k.rateMin.toNat then rate else k.rateMin, rateSeen := true }))

/-- A write of `request` and `change` in CPC_PROFILE (R579); while a change runs, `change` is ignored (R629). -/
def State.changeWrite (s : State) (request : BitVec 2) : State :=
  let s1 := { s with cpc := { s.cpc with request := request } }
  if request = 3 ∨ (request = 0 ∧ s.pkg.grade = 1) then s1.hand { unit := commonUnit 2 0, cls := 0x0B, severity := 0 }
  else if s.cpc.target.isSome then s1 else s1.startChange request

def execChange (request : BitVec 2) (s : State) : Out := .next (s.changeWrite request)

/-- Steps 2 to 5 of R58 on one die; when every die has switched, `active` reads the new profile and a record reports it (R333, R614). -/
def execDieProfileSwitch (d : Die) (s : State) : Out :=
  match s.cpc.target with
  | none => .next s
  | some p =>
    if !(s.dieRate d.val).switching || !s.dieIdle d.val then .next s else
    let s1 := s.updDie d.val (fun r => { r with
      switching := false, railMv := BitVec.ofNat 16 (floorMv p.toNat d.val), lowSince := none
      okSince := if guardRateOf p.toNat ≤ r.rateMin.toNat then r.okSince else none
      floorRate := BitVec.ofNat 16 (floorRateOf p.toNat), guardRate := BitVec.ofNat 16 (guardRateOf p.toNat) })
    let s2 := s1.admitNow d.val
    if (List.range 7).any (fun d => (s2.dieRate d).switching) then .next s2
    else .next ({ s2 with cpc := { s2.cpc with active := p, target := none, budgetW := BitVec.ofNat 16 (budgetOf p.toNat), lowerDue := false } }.hand
      { unit := commonUnit 2 0, cls := 0x08, severity := 3, detail := padTo 24 [p.setWidth 8] })

/-- The package power over the last 1 ms; above the budget, rails come down, never below the floor voltage that governs the die,
which in a change of profile is that of the profile the die works at (R38, R58, R580). -/
def execPowerBudgetWindow (watts : BitVec 16) (rails : List (Die × BitVec 16)) (s : State) : Out :=
  let s1 := { s with cpc := { s.cpc with powerW := watts } }
  if watts.toNat ≤ s.cpc.budgetW.toNat then .next s1 else
  .next (rails.foldl (fun s x => s.updDie x.1.val (fun r =>
    let low := r.lowMv x.1.val
    let mv := Nat.min r.railMv.toNat (Nat.max low x.2.toNat)
    { r with railMv := BitVec.ofNat 16 mv, lowSince := if mv = ceilMv then r.lowSince else none })) s1)

end Sys2Proof.Machine
end

