-- ==== Sys2Proof/Machine/Repair.lean ====
section
/-! DEFINITION. Spare cores and corrected-error thresholds (R121, R609, R611 to R613), and REMAP_APPLY. -/

namespace Sys2Proof.Machine

/-! ### Retiring and remapping (R611 to R613) -/

/-- The core is out of service, and its band is withdrawn (R613). -/
def State.retire (s : State) (c : CoreId) : State :=
  if s.pkg.retired.contains c then s else
  { s with pkg := { s.pkg with
      retired := s.pkg.retired ++ [c]
      degBands := match s.bandOf c with
        | some b => s.pkg.degBands ||| BitVec.ofNat 64 (2 ^ b)
        | none => s.pkg.degBands } }

/-- The physical core a remap entry names, if it names one. -/
def remapCore (d : CDie) (e : Remap) : Option CoreId :=
  let p := if e.solver then 21504 + e.column.toNat else e.row.toNat * 168 + e.column.toNat
  if h : p < 21572 ∧ e.column.toNat < (if e.solver then 68 else 168) then some ⟨d, ⟨p, h.1⟩⟩ else none

/-- The lowest-numbered position of a mask pair that is neither used nor faulty. -/
def spareCol (used faulty n except : Nat) : Option Nat :=
  (List.range n).find? (fun i => i != except && !bitAt used i && !bitAt faulty i)

/-- Masks of the row or solver entry that a core lies in: used, faulty, positions, the core's own position. -/
def State.masks (s : State) (c : CoreId) : Nat × Nat × Nat × Nat :=
  let m := s.cdie c.die.val
  if isSolver c then (m.svUsed.toNat, m.svFaulty.toNat, 68, c.p.val - 21504)
  else ((m.used.get (c.p.val / 168)).toNat, (m.faulty.get (c.p.val / 168)).toNat, 168, c.p.val % 168)

/-- Write the masks of the row or solver entry that a core lies in. -/
def State.setMasks (s : State) (c : CoreId) (used faulty : Nat) : State :=
  s.updCdie c.die.val (fun m =>
    if isSolver c then { m with svUsed := BitVec.ofNat 68 used, svFaulty := BitVec.ofNat 68 faulty }
    else { m with used := m.used.set (c.p.val / 168) (BitVec.ofNat 168 used), faulty := m.faulty.set (c.p.val / 168) (BitVec.ofNat 168 faulty) })

/-- The band of a core's row is named by a job entry in LOADING, ACTIVE or DRAINING (R612). -/
def State.bandBusy (s : State) (b : Nat) : Bool :=
  (List.range 8).any (fun t => let j := (s.ten t).job
    (j.state == 1 || j.state == 2 || j.state == 3) && j.bands.getLsbD b)

/-- A slice moves to another physical core as a DMA transfer (R612): the copy, or a record when a word cannot be read. -/
def State.moveSlice (s : State) (src dst : CoreId) (logical : Nat) : State :=
  let w : Who := { source := 3 }
  let j := s.judge src true ((s.core src).rsErr.map (·.1)) w
  if j.2.isEmpty then j.1.updCore dst (fun k => { k with rs := (j.1.core src).rs, rsErr := [] })
  else
    let fill : Mem := ((List.range (rsSize dst)).map (fun i => (i, Config.freeByte j.1.freeCount i))).filter (fun e => e.2 != 0)
    ((j.1.drawn.updCore dst (fun k => { k with rs := fill, rsErr := [] })).hand
      { unit := plinthUnit src, cls := 0x02, severity := 3, status := stMemUnc, detail := padTo 24 (leBytes 3 logical) })

/-- Put a remap entry into effect: mask, slices in descending logical column, or retirement (R611 to R613). -/
def State.remap (s : State) (d : CDie) (n : Nat) : State :=
  let e := (s.cdie d.val).remaps.get n
  let mark := fun (s : State) (f : Remap → Remap) => s.updCdie d.val (fun m => { m with remaps := m.remaps.upd n f })
  match remapCore d e with
  | none => mark s (fun e => { e with refused := true })
  | some c =>
    let m := s.masks c
    if !bitAt m.1 m.2.2.2 then mark (s.setMasks c m.1 (m.2.1 ||| 2 ^ m.2.2.2)) (fun e => { e with applied := true })
    else match spareCol m.1 m.2.1 m.2.2.1 m.2.2.2 with
    | none => mark (s.retire c) (fun e => { e with refused := true })
    | some sp =>
      let used := (m.1 - 2 ^ m.2.2.2) ||| 2 ^ sp
      let n0 := if isSolver c then 64 else 160
      let base := if isSolver c then 20480 else c.p.val / 168 * 160
      let s1 := s.setMasks c used (m.2.1 ||| 2 ^ m.2.2.2)
      let moves := ((List.range n0).reverse).filterMap (fun i =>
        match s.physIdx d (base + i), s1.physIdx d (base + i) with
        | some a, some b => if a = b then none else some (a, b, d.val * 2 ^ 15 + base + i)
        | _, _ => none)
      mark (moves.foldl (fun s x => s.moveSlice x.1 x.2.1 x.2.2) s1) (fun e => { e with applied := true })

/-- REMAP_APPLY (R611, R612). -/
def execRemapApply (d : CDie) (n : Fin 256) (ups : List (CoreId × Upset)) (s : State) : Out :=
  let e := (s.cdie d.val).remaps.get n.val
  if !e.valid || e.applied || e.refused then .next s else
  match remapCore d e with
  | none => .next (s.remap d n.val)
  | some c =>
    if (match s.bandOf c with | some b => s.bandBusy b | none => false) then .next s
    else .next ((ups.foldl (fun s u => s.upset u.1 [u.2]) s).remap d n.val)

/-- Node firmware enters a core into the remap table of its die (R611); with no entry left, it retires the core. -/
def State.addRemap (s : State) (c : CoreId) : State :=
  let m := s.cdie c.die.val
  if m.remaps.any (fun e => e.2.valid && remapCore c.die e.2 == some c) then s else
  match (List.range 256).find? (fun i => !(m.remaps.get i).valid) with
  | none => s.retire c
  | some i => s.updCdie c.die.val (fun m => { m with remaps := m.remaps.set i (
      { row := BitVec.ofNat 7 (c.p.val / 168), solver := isSolver c, valid := true
        column := BitVec.ofNat 8 (if isSolver c then c.p.val - 21504 else c.p.val % 168) } : Remap) })

/-- Remap entries of a core's row or solver entry, other than its own, that are still to take a spare: entered, neither applied
nor refused, and their core in use (R121, R611). -/
def State.claimed (s : State) (c : CoreId) : Nat :=
  ((s.cdie c.die.val).remaps.filter (fun e => e.2.valid && !e.2.applied && !e.2.refused &&
    match remapCore c.die e.2 with
    | some x => x != c && isSolver x == isSolver c && (isSolver c || x.p.val / 168 == c.p.val / 168) && bitAt (s.masks x).1 (s.masks x).2.2.2
    | none => false)).length

/-- A spare of the core's row is free for it: neither used nor faulty, nor claimed by a remap entry made before (R121). -/
def State.freeSpare (s : State) (c : CoreId) : Bool :=
  let m := s.masks c
  decide (s.claimed c < ((List.range m.2.2.1).filter (fun i => i != m.2.2.2 && !bitAt m.1 i && !bitAt m.2.1 i)).length)

/-- What node firmware makes of a self-test result (R121). -/
def State.actSelfTest (s : State) (c : CoreId) (pass : BitVec 6) : State :=
  let narrow := pass.getLsbD 0 && pass.getLsbD 1 && pass.getLsbD 2 && pass.getLsbD 5
  let wide := pass.getLsbD 3 && pass.getLsbD 4
  if narrow && wide then s.updCore c (fun k => { k with suspect := false })
  else if s.freeSpare c then s.addRemap c
  else if narrow then s.updCore c (fun k => { k with narrowOnly := true, suspect := false })
  else s.retire c

/-! ### Corrected-error thresholds (R609) -/

/-- Times within the last hour. -/
def inHour (now : Nat) (l : List Nat) : List Nat := l.filter (fun t => now < t + 3600000000000)

/-- A row group with 8 corrections in an hour is entered for a spare; ROW_SPARE_COPY then moves it (R274, R281, R609). -/
def State.spareRow (s : State) (ch g : Nat) : State :=
  let c := s.chan ch
  if (inHour s.t ((c.corrTimes.filter (fun x => x.1 == g)).map (·.2))).length < 8 || c.spares.any (fun e => e.2.fromGroup.toNat == g) then s
  else match (List.range 64).find? (fun i => c.spares.get i == {}) with
    | some i => s.updChan ch (fun c => { c with spares := c.spares.set i { fromGroup := BitVec.ofNat 21 g } })
    | none => s

/-- Four re-executions on a core in an hour set `suspect` (R609). -/
def State.reexecLimit (s : State) (c : CoreId) : State :=
  if (inHour s.t (s.core c).reexecTimes).length < 4 then s else s.updCore c (fun k => { k with suspect := true })

/-- Four scrub corrections of one row of a slice in an hour: a record, and the core is remapped (R609). -/
def State.scrubLimit (s : State) (c : CoreId) (row : Nat) : State :=
  if (inHour s.t (((s.core c).scrubTimes.filter (fun x => x.1 == row)).map (·.2))).length < 4 then s
  else (s.hand { unit := plinthUnit c, cls := 0x01, severity := 3, detail := storeDetail c true (row * 64) 0xFF 5 0 }).addRemap c

end Sys2Proof.Machine
end

