-- ==== Sys2Proof/Machine/Signature.lean ====
section
/-! DEFINITION. ML-DSA-65, the signatures of chapters 15 and 19 (R431, R546, R548, R549), computed as FIPS 204 gives it. PRESUMED (log 7): the
standard's own text stands outside the spec, which names it. -/

namespace Sys2Proof.Machine

/-- A polynomial of 256 coefficients modulo `mlQ`, lowest first. -/
abbrev Poly := List Nat

def mlQ : Nat := 8380417

/-- A residue as the integer nearest to 0. -/
def centred (m x : Nat) : Int := if x % m ≤ m / 2 then ((x % m : Nat) : Int) else ((x % m : Nat) : Int) - m

/-- The residue of an integer. -/
def ofCentred (x : Int) : Nat := (x % (mlQ : Int)).toNat

def polyAdd (a b : Poly) : Poly := List.zipWith (fun x y => (x + y) % mlQ) a b
def polySub (a b : Poly) : Poly := List.zipWith (fun x y => (x + mlQ - y % mlQ) % mlQ) a b

/-- The largest magnitude of a coefficient. -/
def polyNorm (a : Poly) : Nat := maxN (a.map (fun x => (centred mlQ x).natAbs))

/-! ### The number-theoretic transform -/

/-- The exponent of 1753 at place `i` of a transform: twice the reversed bits of `i`, and 1. -/
def nttExp (i : Nat) : Nat := 2 * sumN ((List.range 8).map (fun b => i / 2 ^ b % 2 * 2 ^ (7 - b))) + 1

/-- The values of a polynomial at the odd powers of 1753, whose 512th power is 1. -/
def ntt (w : Poly) : Poly := (List.range 256).map (fun i =>
  let x := 1753 ^ nttExp i % mlQ
  w.foldr (fun c a => (c + x * a) % mlQ) 0)

/-- The polynomial of given values; 8347681 is the inverse of 256. -/
def nttInv (v : Poly) : Poly :=
  let back := (List.range 256).map (fun i => 1753 ^ (512 - nttExp i) % mlQ)
  ((List.range 256).foldl (fun (s : Poly × Poly) _ =>
    (s.1 ++ [8347681 * sumN s.2 % mlQ], List.zipWith (fun x y => x * y % mlQ) s.2 back)) ([], v)).1

/-- The product of two transforms, place by place. -/
def nttMul (a b : Poly) : Poly := List.zipWith (fun x y => x * y % mlQ) a b

/-- A matrix of transforms times a vector of transforms. -/
def matVec (m : List (List Poly)) (v : List Poly) : List Poly :=
  m.map (fun r => (List.zipWith nttMul r v).foldl polyAdd (List.replicate 256 0))

/-! ### Packing and sampling -/

/-- 256 numbers of `w` bits, lowest bits first. -/
def polyPack (w : Nat) (a : List Nat) : List Byte := leBytes (32 * w) (a.foldr (fun x n => x + 2 ^ w * n) 0)
def polyUnpack (w : Nat) (b : List Byte) : List Nat :=
  let n := leVal b
  (List.range 256).map (fun i => n / 2 ^ (w * i) % 2 ^ w)

/-- Coefficients from a stream: three bytes give one where they stand below the modulus. -/
def rejectThree : List Byte → List Nat
  | a :: b :: c :: r =>
    let z := a.toNat + 256 * b.toNat + 65536 * (c.toNat % 128)
    if z < mlQ then z :: rejectThree r else rejectThree r
  | _ => []

/-- `n` values of a list, with 0 where it is short. -/
def takeNat (n : Nat) (l : List Nat) : List Nat := (l ++ List.replicate n 0).take n

/-- The matrix A of a key, 6 by 5, as transforms. -/
def expandA (rho : List Byte) : List (List Poly) :=
  (List.range 6).map (fun r => (List.range 5).map (fun c =>
    takeNat 256 (rejectThree (shake128 1512 (rho ++ [BitVec.ofNat 8 c, BitVec.ofNat 8 r])))))

/-- A short secret polynomial: half bytes below 9 give 4 down to -4. -/
def expandShort (seed : List Byte) (n : Nat) : Poly :=
  takeNat 256 (((shake256 544 (seed ++ leBytes 2 n)).flatMap (fun b => [b.toNat % 16, b.toNat / 16])).filterMap (fun z =>
    if z < 9 then some ((mlQ + 4 - z) % mlQ) else none))

/-- A mask polynomial: 2^19 less a number of 20 bits. -/
def expandMask (seed : List Byte) (n : Nat) : Poly :=
  (polyUnpack 20 (shake256 640 (seed ++ leBytes 2 n))).map (fun v => (2 ^ 19 + mlQ - v) % mlQ)

/-- The challenge: 49 coefficients of 1 or -1, placed by a shuffle that the stream drives. -/
def sampleInBall (c : List Byte) : Poly :=
  let h := shake256 272 c
  let signs := leVal (h.take 8)
  ((List.range 49).foldl (fun (s : Poly × List Byte) t =>
    let i := 207 + t
    let rest := s.2.dropWhile (fun b => i < b.toNat)
    let j := (rest.headD 0).toNat
    ((s.1.set i (s.1.getD j 0)).set j (if bitAt signs t then mlQ - 1 else 1), rest.drop 1)) (List.replicate 256 0, h.drop 8)).1

/-! ### Rounding and hints -/

/-- High and low part of a coefficient: multiples of 2 x 261,888, of which there are 16. -/
def decompose (r : Nat) : Nat × Int :=
  let r0 := centred 523776 (r % mlQ)
  if ((r % mlQ : Nat) : Int) - r0 = mlQ - 1 then (0, r0 - 1) else ((((r % mlQ : Nat) : Int) - r0).toNat / 523776, r0)

def highBits (r : Nat) : Nat := (decompose r).1

/-- The high part that a hint leads to. -/
def useHint (h : Bool) (r : Nat) : Nat :=
  let d := decompose r
  if !h then d.1 else if 0 < d.2 then (d.1 + 1) % 16 else (d.1 + 15) % 16

/-- The places of the hints of six polynomials, then how many there are up to each: 61 bytes. -/
def packHints (h : List (List Bool)) : List Byte :=
  let at_ := h.map (fun p => (List.range 256).filter (fun i => p.getD i false))
  padTo 55 (at_.flatten.map (BitVec.ofNat 8)) ++ (List.range 6).map (fun i => BitVec.ofNat 8 (sumN ((at_.take (i + 1)).map List.length)))

/-- The hints of 61 bytes; none where the counts fall or pass 55, a polynomial's places do not rise, or a place left over is not 0. -/
def unpackHints (b : List Byte) : Option (List (List Bool)) :=
  let ends := ((b.drop 55).take 6).map BitVec.toNat
  let places := (b.take 55).map BitVec.toNat
  let parts := (List.range 6).map (fun i =>
    let lo := if i = 0 then 0 else ends.getD (i - 1) 0
    (places.drop lo).take (ends.getD i 0 - lo))
  let rises := fun (l : List Nat) => (l.zip (l.drop 1)).all (fun p => decide (p.1 < p.2))
  if (0 :: ends).zip ends |>.all (fun p => decide (p.1 ≤ p.2) && decide (p.2 ≤ 55)) then
    if parts.all rises && (places.drop (ends.getD 5 0)).all (· == 0) then
      some (parts.map (fun l => (List.range 256).map (fun i => l.contains i)))
    else none
  else none

/-! ### Keys, signatures, verification -/

/-- What a 32-byte seed gives: rho, the seed of masks, the hash of the public key, s1, s2, t0 and the public key of 1,952 bytes. -/
structure MlKey where
  rho : List Byte
  maskSeed : List Byte
  hash : List Byte
  s1 : List Poly
  s2 : List Poly
  t0 : List Poly
  pk : List Byte
deriving DecidableEq, Repr, Inhabited

def mlKey (seed : List Byte) : MlKey :=
  let h := shake256 128 (seed ++ [6, 5])
  let rho := h.take 32
  let short := slice h 32 64
  let s1 := (List.range 5).map (expandShort short)
  let s2 := (List.range 6).map (fun i => expandShort short (5 + i))
  let t := List.zipWith polyAdd ((matVec (expandA rho) (s1.map ntt)).map nttInv) s2
  let low := fun (x : Nat) => centred 8192 x
  let pk := rho ++ t.flatMap (fun p => polyPack 10 (p.map (fun (x : Nat) => ((x : Int) - low x).toNat / 8192)))
  { rho := rho, maskSeed := h.drop 96, hash := shake256 64 pk, s1 := s1, s2 := s2, t0 := t.map (fun p => p.map (fun x => ofCentred (low x))), pk := pk }

/-- The challenge of a message hash and of high parts. -/
def challenge (mu : List Byte) (w1 : List (List Nat)) : List Byte := shake256 48 (mu ++ w1.flatMap (polyPack 4))

/-- The hash of a message under a key, with an empty context in the pure form. -/
def messageHash (key message : List Byte) : List Byte := shake256 64 (key ++ [0, 0] ++ message)

/-- One attempt at a signature with a mask; none where it must be made again. -/
def signAttempt (k : MlKey) (a : List (List Poly)) (mu : List Byte) (y : List Poly) : Option (List Byte) :=
  let w := (matVec a (y.map ntt)).map nttInv
  let c := challenge mu (w.map (fun p => p.map highBits))
  let ch := ntt (sampleInBall c)
  let times := fun (p : Poly) => nttInv (nttMul ch (ntt p))
  let z := List.zipWith (fun p q => polyAdd p (times q)) y k.s1
  let r := List.zipWith (fun p q => polySub p (times q)) w k.s2
  if 2 ^ 19 - 196 ≤ maxN (z.map polyNorm) ∨ 261888 - 196 ≤ maxN (r.map (fun p => maxN (p.map (fun x => (decompose x).2.natAbs)))) then none else
  let ct := k.t0.map times
  let hints := List.zipWith (fun p q => List.zipWith (fun x t => highBits x != highBits ((x + t) % mlQ)) p q) r ct
  if 261888 ≤ maxN (ct.map polyNorm) ∨ 55 < (hints.flatten.filter id).length then none
  else some (c ++ z.flatMap (fun p => polyPack 20 (p.map (fun x => ofCentred (2 ^ 19 - centred mlQ x)))) ++ packHints hints)

/-- Attempts with one mask after another; FIPS 204 lets a signer give up after 814. -/
def signLoop (k : MlKey) (a : List (List Poly)) (mu seed : List Byte) : Nat → Nat → List Byte
  | 0, _ => []
  | n + 1, i =>
    match signAttempt k a mu ((List.range 5).map (fun r => expandMask seed (5 * i + r))) with
    | some b => b
    | none => signLoop k a mu seed n (i + 1)

/-- The public key of a key seed (R548, R549). -/
@[irreducible] def mldsaPublic (seed : List Byte) : List Byte := (mlKey seed).pk

/-- A signature by the key of a seed, with 32 random bytes: 3,309 bytes (R546, R549, R559). -/
@[irreducible] def mldsaSign (seed rnd message : List Byte) : List Byte :=
  let k := mlKey seed
  let mu := messageHash k.hash message
  signLoop k (expandA k.rho) mu (shake256 64 (k.maskSeed ++ rnd ++ mu)) 814 0

/-- Whether a signature of a message is good under a public key (R546). -/
@[irreducible] def mldsaVerify (key message sig : List Byte) : Bool :=
  if key.length ≠ 1952 ∨ sig.length ≠ 3309 then false else
  match unpackHints (sig.drop 3248) with
  | none => false
  | some h =>
    let z := (List.range 5).map (fun i => (polyUnpack 20 (slice sig (48 + 640 * i) 640)).map (fun v => (2 ^ 19 + mlQ - v) % mlQ))
    let t1 := (List.range 6).map (fun i => (polyUnpack 10 (slice key (32 + 320 * i) 320)).map (fun x => x * 8192 % mlQ))
    let ch := ntt (sampleInBall (sig.take 48))
    let w := (List.zipWith (fun p t => polySub p (nttMul ch (ntt t))) (matVec (expandA (key.take 32)) (z.map ntt)) t1).map nttInv
    let w1 := List.zipWith (List.zipWith useHint) h w
    decide (maxN (z.map polyNorm) < 2 ^ 19 - 196) && challenge (messageHash (shake256 64 key) message) w1 == sig.take 48

end Sys2Proof.Machine
end

