-- ==== Sys2Proof/Machine/Image.lean ====
section
/-! DEFINITION. The map of package control space (R624), and the Mobry image: its layout and the checks of start steps 1
to 5 (R536 to R549, R553), the register records and what they load (R539 to R542), and the attestation report (R559). -/

namespace Sys2Proof.Machine

/-! ### The map of PCS (R624, R625) -/

/-- The block an address lies in, with the offset there; `hole` is inside an extent and names no block. -/
inductive PcsBlock where
  | identity (off : Nat) | cdie (d : CDie) (off : Nat) | core (c : CoreId) (off : Nat) | px (off : Nat)
  | fab (pl : Plane) (off : Nat) | chan (ch : Chan) (off : Nat) | cmb (off : Nat) | cpc (off : Nat) | log (off : Nat)
  | hole | outside
deriving DecidableEq, Repr, Inhabited

def pcsBlock (a : Nat) : PcsBlock :=
  if a < 0x1000 then .identity a
  else if 0x000100000000 ≤ a ∧ a < 0x000140000000 then
    let d : CDie := ⟨(a - 0x000100000000) / 0x10000000 % 4, Nat.mod_lt _ (by decide)⟩
    let off := (a - 0x000100000000) % 0x10000000
    if off < 0x01000000 then .cdie d off
    else if h : (off - 0x01000000) / 0x1000 < 21572 then .core ⟨d, ⟨(off - 0x01000000) / 0x1000, h⟩⟩ (off % 0x1000)
    else .hole
  else if 0x000800000000 ≤ a ∧ a < 0x000810000000 then .px (a - 0x000800000000)
  else if 0x000A00000000 ≤ a ∧ a < 0x000B00000000 then .fab 0 (a - 0x000A00000000)
  else if 0x000B00000000 ≤ a ∧ a < 0x000C00000000 then .fab 1 (a - 0x000B00000000)
  else if 0x000C00000000 ≤ a ∧ a < 0x000C14000000 then .chan ⟨(a - 0x000C00000000) / 0x01000000 % 20, Nat.mod_lt _ (by decide)⟩ (a % 0x01000000)
  else if 0x000E00000000 ≤ a ∧ a < 0x000E00140000 then
    let o := a - 0x000E00000000
    if o < 0x10000 then .hole else if o < 0x20000 then .cmb (o - 0x10000) else if o < 0x100000 then .cpc (o - 0x20000) else .log (o - 0x100000)
  else .outside

/-! ### Layout of the image (R537 to R540) -/

/-- One section of the manifest. -/
structure Sect where
  kind : Nat := 0
  off : Nat := 0
  len : Nat := 0
  digest : List Byte := []
deriving DecidableEq, Repr, Inhabited

/-- ASCII bytes of a label. -/
def asciiBytes (s : String) : List Byte := s.toList.map (fun c => BitVec.ofNat 8 c.toNat)

def digest32 (b : List Byte) : List Byte := shake256 32 b

/-- The manifest bytes an image's header names. -/
def manifestOf (img : List Byte) : List Byte := slice img (fieldAt img 0x08 8) (fieldAt img 0x10 4)

def sectsOf (m : List Byte) : List Sect :=
  (List.range (fieldAt m 4 2)).map (fun i => let e := slice m (64 + 64 * i) 64
    { kind := fieldAt e 0 2, off := fieldAt e 8 8, len := fieldAt e 0x10 8, digest := slice e 0x20 32 })

/-- Bytes of the section of a kind, none when the image has no such section. -/
def sectBytes (img : List Byte) (kind : Nat) : Option (List Byte) :=
  ((sectsOf (manifestOf img)).find? (fun x => x.kind == kind)).map (fun x => slice img x.off x.len)

def requiredKinds : List Nat := [0x03, 0x10, 0x11, 0x20, 0x30, 0x32, 0x33, 0x34, 0x35, 0x36]
def optionalKinds : List Nat := [0x21, 0x31]

def disjointFrom (a b : Nat × Nat) : Bool := a.1 + a.2 ≤ b.1 || b.1 + b.2 ≤ a.1 || a.2 == 0 || b.2 == 0

/-- Pairwise disjoint extents. -/
def allDisjoint : List (Nat × Nat) → Bool
  | [] => true
  | a :: r => r.all (disjointFrom a) && allDisjoint r

/-- Header and manifest are well formed (R536 to R538). -/
def layoutOk (img : List Byte) : Bool :=
  let mo := fieldAt img 0x08 8
  let ml := fieldAt img 0x10 4
  let so := fieldAt img 0x18 8
  let len := fieldAt img 0x20 8
  let m := manifestOf img
  let ss := sectsOf m
  64 ≤ img.length && fieldAt img 0 4 == 0x5A510040 && fieldAt img 4 2 == 1 && len ≤ 67108864 && len ≤ img.length
  && mo % 4096 == 0 && so % 4096 == 0 && so + 3309 ≤ len && 64 ≤ ml && mo + ml ≤ len
  && fieldAt m 0 4 == 0x5A510041 && ml == 64 + 64 * fieldAt m 4 2 && fieldAt m 0x18 8 == len
  && ss.all (fun x => x.off % 4096 == 0 && x.off + x.len ≤ len)
  && allDisjoint ((0, 64) :: (mo, ml) :: (so, 3309) :: ss.map (fun x => (x.off, x.len)))

/-- Section kinds: each required one once, each optional one at most once, no other (R539). -/
def kindsOk (img : List Byte) : Bool :=
  let ks := (sectsOf (manifestOf img)).map (·.kind)
  requiredKinds.all (fun k => ks.count k == 1) && optionalKinds.all (fun k => ks.count k ≤ 1)
    && ks.all (fun k => requiredKinds.contains k || optionalKinds.contains k)

/-! ### Certificates (R546, R547) -/

def rootKey (img : List Byte) : List Byte := slice ((sectBytes img 0x03).getD []) 0 1952
def ownerCert (img : List Byte) : List Byte := slice ((sectBytes img 0x03).getD []) 1952 5392
def deviceCert (img : List Byte) : List Byte := slice ((sectBytes img 0x03).getD []) (1952 + 5392) 5392
def pufHelper (img : List Byte) : List Byte := slice ((sectBytes img 0x03).getD []) (1952 + 2 * 5392) 1024

def certKey (c : List Byte) : List Byte := slice c 0x80 1952
def certSubject (c : List Byte) : List Byte := slice c 0x30 32
def certMeasure (c : List Byte) : List Byte := slice c 0x50 32

/-- A certificate of a kind, signed by a key. -/
def certOk (c : List Byte) (kind : Nat) (issuer : List Byte) : Bool :=
  fieldAt c 0 4 == 0x5A510020 && fieldAt c 4 1 == kind && (if kind = 2 then fieldAt c 5 1 ≤ 1 else fieldAt c 5 1 == 0)
    && slice c 0x10 32 == digest32 issuer && certSubject c == digest32 (certKey c)
    && mldsaVerify issuer (slice c 0 0x820) (slice c 0x820 3309)

/-- The identity seed ξ (R548). -/
def identitySeed (img : List Byte) : List Byte := digest32 (Config.pufResponse (pufHelper img) ++ asciiBytes "SZQ820-IDENTITY")
/-- The identity digest: of the identity public key (R548). -/
def identityDigest (img : List Byte) : List Byte := digest32 (mldsaPublic (identitySeed img))

/-- The 512-bit manifest digest. -/
def manifestDigest (img : List Byte) : List Byte := shake256 64 (manifestOf img)

/-- The fail code of start steps 1 to 4, and the step that fails; 0 where all pass (R550, R553). -/
def imageCheck (img : List Byte) : Nat × Nat :=
  let m := manifestOf img
  if !layoutOk img then (1, 1)
  else if !kindsOk img then (9, 1)
  else if (sectsOf m).any (fun x => digest32 (slice img x.off x.len) != x.digest) then (6, 1)
  else if digest32 (rootKey img) ≠ Config.romRootDigest then (2, 2)
  else if !certOk (ownerCert img) 1 (rootKey img) || certSubject (ownerCert img) != slice m 0x20 32 then (3, 2)
  else if !certOk (deviceCert img) 2 (rootKey img) then (4, 2)
  else if !mldsaVerify (certKey (ownerCert img)) (manifestDigest img) (slice img (fieldAt img 0x18 8) 3309) then (5, 2)
  else if identityDigest img ≠ certSubject (deviceCert img) then (7, 3)
  else if digest32 ((sectBytes img 0x20).getD []) ≠ certMeasure (deviceCert img) then (8, 3)
  else (0, 0)

/-! ### The unit map (R544, R545) -/

def mapBlock (u : List Byte) (d : Nat) : List Byte := slice u (16 + 6176 * d) 6176
def mapRow (u : List Byte) (d r : Nat) : Nat × Nat := let b := slice (mapBlock u d) (48 * r) 48
                                                     (fieldAt b 0 21, fieldAt b 21 21)
def mapSolver (u : List Byte) (d : Nat) : Nat × Nat := let b := slice (mapBlock u d) 6144 32
                                                      (fieldAt b 0 9, fieldAt b 9 9)

def unitMapOk (u : List Byte) : Bool :=
  u.length == 24720 && fieldAt u 0 4 == 0x5A510030 && fieldAt u 4 2 == 4
  && (List.range 4).all (fun d =>
    (List.range 128).all (fun r => let e := mapRow u d r
                                   popBelow e.1 168 == 160 && e.1 &&& e.2 == 0)
    && (let e := mapSolver u d
        popBelow e.1 68 == 64 && e.1 &&& e.2 == 0 && e.1 < 2 ^ 68 && e.2 < 2 ^ 68))

/-! ### Register records (R539, R540, R641) -/

/-- Records of a section, which begin at an offset: (address, value), and where they end. -/
def recordsAt (b : List Byte) (o : Nat) : List (Nat × Nat) × Nat :=
  let n := fieldAt b o 4
  ((List.range n).map (fun i => (fieldAt b (o + 8 + 16 * i) 8, fieldAt b (o + 16 + 16 * i) 8)), o + 8 + 16 * n)

/-- The sections that hold records, with the offset at which they begin. -/
def recordKinds : List (Nat × Nat) := [(0x30, 0), (0x31, 0), (0x32, 8), (0x33, 0), (0x34, 0), (0x36, 0)]

def imageRecords (img : List Byte) (kind : Nat) : List (Nat × Nat) :=
  match recordKinds.find? (fun k => k.1 == kind), sectBytes img kind with
  | some k, some b => (recordsAt b k.2).1
  | _, _ => []

def onesFrom (lo w : Nat) : Nat := (2 ^ w - 1) * 2 ^ lo

/-- The offset is that of a WS_PART_n. R539 does not list it for the tenancy layout, which R197 and R641 say gives it: DEDUCED (log 47),
the tenancy layout may hold records for it. -/
def partReg (o : Nat) : Bool := 0x80 ≤ o && o < 0xC0 && o % 8 == 0

/-- The bits that a record of a section may write at an address, the settings of R641 among them; none where the section may not
write it. DESIGN CHOICE (log 51): a `hop_bound_ns` or `hall_bound_ns` outside its range (R51, R374) stands as it is, for no rule says what
such an image brings. -/
def recordMask (kind a : Nat) : Option Nat :=
  if 2 ^ 63 ≤ a then
    if kind = 0x33 then (if partReg (a - 2 ^ 63) then some (onesFrom 0 7 + onesFrom 8 7 + onesFrom 16 2) else none)
    else if kind ≠ 0x34 ∨ 2 ^ 24 ≤ a - 2 ^ 63 then none
    else if a - 2 ^ 63 = 0x408 then some 0x1F else if a - 2 ^ 63 = 0x400 then some (2 ^ 64 - 1) else none
  else match kind, pcsBlock a with
  | 0x30, .fab _ o =>
    if o = 0x1000 then some (onesFrom 0 60)
    else if 0x1100 ≤ o ∧ o < 0x11C0 ∧ o % 16 = 0 then some 7
    else if o = 0x3000 then some 0xFFFF else none
  | 0x31, .px o => if o = 0x400000 then some 0xF else if o = 0x400008 then some (2 ^ 64 - 1) else none
  | 0x32, .cpc o => if o = 0x18 then some 0xF else none
  | 0x33, .px o =>
    if 0x300000 ≤ o ∧ o < 0x300800 ∧ o % 8 = 0 then
      let r := o % 0x100
      if r = 0 ∨ r = 0x10 ∨ r = 0x18 then some (2 ^ 64 - 1)
      else if r = 8 then some (onesFrom 0 56)
      else if 0x40 ≤ r ∧ r < 0x80 then (if r % 16 = 0 then some (onesFrom 8 48) else some (onesFrom 8 44))
      else none
    else if o = 0x300800 then some 0xFFF
    else if 0x500000 ≤ o ∧ o < 0x500600 ∧ o % 8 = 0 then (if o % 16 = 0 then some 0xF else some (onesFrom 2 50))
    else if 0x501000 ≤ o ∧ o < 0x501040 ∧ o % 8 = 0 then some (onesFrom 0 32)
    else if 0x100C00 ≤ o ∧ o < 0x100E00 ∧ o % 8 = 0 then some 0xF3FFF
    else if 0x200000 ≤ o ∧ o < 0x200100 ∧ o % 32 = 0 then some (3 + onesFrom 8 56)
    else none
  | 0x33, .core _ o => if partReg o then some (onesFrom 0 7 + onesFrom 8 7 + onesFrom 16 2) else none
  | 0x33, .fab _ o =>
    if 0x2000 ≤ o ∧ o < 0x2040 ∧ o % 8 = 0 then some 0xFFFF
    else if 0x3100 ≤ o ∧ o < 0x3140 ∧ o % 8 = 0 then some 0xFFF else none
  | 0x34, .core _ o => if o = 0x408 then some 0x1F else if o = 0x400 then some (2 ^ 64 - 1) else none
  | 0x34, .cdie _ o => if o = 0x200 then some (onesFrom 0 17) else none
  | 0x36, .chan _ o => if o = 0 then some 0xFF else none
  | _, _ => none

/-- A record obeys R540; a record for NUM_DEFAULTS gives 8 to 16 (R187), and the owner of an EC_GROUP_g is a tenancy or node firmware (R511;
DESIGN CHOICE, log 51: another owner fails the start as a record that is not allowed does). -/
def recordOk (kind : Nat) (r : Nat × Nat) : Bool :=
  (match recordMask kind r.1 with
    | some m => r.2 &&& m == r.2
    | none => false)
  && !(kind == 0x33 && (match pcsBlock r.1 with | .px o => 0x100C00 ≤ o && o < 0x100E00 | _ => false)
        && 8 ≤ bitsAt r.2 16 4 && bitsAt r.2 16 4 != 15)
  && !(kind == 0x34 && recordMask kind r.1 == some 0x1F && !(8 ≤ r.2 && r.2 ≤ 16))

/-- Command key entries (R542). -/
def imageKeys (img : List Byte) : List CmdKey :=
  let b := (sectBytes img 0x35).getD []
  (List.range (b.length / 1960)).map (fun i => let e := slice b (1960 * i) 1960
    { index := e.getD 0 0, rights := e.getD 1 0, tenancies := e.getD 2 0, key := slice e 8 1952 })

/-- The address table of a section, behind its records (R541). -/
def imageAddrs (img : List Byte) (kind : Nat) : List AddrEnt :=
  match sectBytes img kind with
  | none => []
  | some b =>
    let o := (recordsAt b 0).2
    (List.range (fieldAt b o 4)).map (fun i => let e := slice b (o + 8 + 32 * i) 32
      { plane := e.getD 0 0, port := e.getD 1 0, sub := e.getD 2 0, mac := BitVec.ofNat 48 (fieldAt e 8 8 % 2 ^ 48)
        ip6 := BitVec.ofNat 128 (fieldAt e 16 16) })

/-- A record gives every physical core its NUM_DEFAULTS, so that the field holds 8 to 16 in every started package (R187). -/
def defaultsGiven (img : List Byte) : Bool :=
  let l := (imageRecords img 0x34).map (·.1)
  l.contains (2 ^ 63 + 0x408) ||
    (let named := (l.filterMap (fun a => match pcsBlock a with | .core c o => if o = 0x408 then some (coreKey c) else none | _ => none)).eraseDups
     named.length == 4 * 21572)

/-- Every record, key and required setting obeys R187 and R539 to R542. -/
def settingsOk (img : List Byte) : Bool :=
  let keys := imageKeys img
  let kb := ((sectBytes img 0x35).getD []).length
  recordKinds.all (fun k => (imageRecords img k.1).all (recordOk k.1)
    && (match sectBytes img k.1 with | some b => (recordsAt b k.2).2 ≤ b.length | none => true))
  && (imageRecords img 0x32).any (fun r => r.1 == 0x000E00020018 && 1 ≤ r.2 && r.2 ≤ 15)
  && (List.range 20).all (fun ch => (imageRecords img 0x36).any (fun r => r.1 == 0x000C00000000 + ch * 0x01000000))
  && defaultsGiven img && kb % 1960 == 0 && 1 ≤ keys.length && keys.length ≤ 16 && keys.all (fun k => k.index.toNat < 16)
  && (keys.map (·.index)).eraseDups.length == keys.length
  && ((sectBytes img 0x10).getD []).length ≤ 8388608 && ((sectBytes img 0x11).getD []).length ≤ 8192
  && fieldAt ((sectBytes img 0x32).getD []) 0 8 < 3

/-! ### What a record loads (R540) -/

/-- Write a value into the same register of every physical core. -/
def State.mapCores (s : State) (f : CoreId → Core → Core) : State :=
  { s with cores := (List.range (4 * 21572)).filterMap (fun k =>
      let c := f (coreOfKey k) (s.cores.get k)
      if c = default then none else some (k, c)) }

/-- A region word pair's base half (R89). -/
def Region.setBase (g : Region) (v : Nat) : Region :=
  { g with base := BitVec.ofNat 52 (v % 2 ^ 52 / 256 * 256), permR := bitAt v 52, permW := bitAt v 53, permA := bitAt v 54, valid := bitAt v 55 }
/-- Its limit half (R90). -/
def Region.setLimit (g : Region) (v : Nat) : Region := { g with limit := BitVec.ofNat 52 (v % 2 ^ 52 / 256 * 256) }

/-- The image fields of a core register. The partitions of a tenancy layout are loaded when a band is given to a job (R197). -/
def imageCore (o v : Nat) (k : Core) : Core :=
  if o = 0x408 then { k with srBits := BitVec.ofNat 5 v } else if o = 0x400 then { k with seed := BitVec.ofNat 64 v } else k

/-- The settable fields of CKPT_CTRL (R420). -/
def Ckpt.setCtrl (c : Ckpt) (v : Nat) : Ckpt :=
  { c with enable := bitAt v 0, mirror := bitAt v 1, periodMs := BitVec.ofNat 24 (bitsAt v 16 24), stepInterval := BitVec.ofNat 24 (bitsAt v 40 24) }

/-- The image fields of a processor-die register. -/
def State.imagePx (s : State) (o v : Nat) : State :=
  if 0x300000 ≤ o ∧ o < 0x300800 then
    let t := (o - 0x300000) / 0x100
    let r := o % 0x100
    s.updTen t (fun n =>
      if r = 0 then { n with bands := BitVec.ofNat 64 v }
      else if r = 8 then { n with queues := BitVec.ofNat 7 v, hostIp6 := bitAt v 7, hostMac := BitVec.ofNat 48 (bitsAt v 8 48) }
      else if r = 0x10 then { n with ip6hi := BitVec.ofNat 64 v }
      else if r = 0x18 then { n with ip6lo := BitVec.ofNat 64 v }
      else if r % 16 = 0 then { n with regions := n.regions.upd ((r - 0x40) / 16) (fun g => g.setBase v) }
      else { n with regions := n.regions.upd ((r - 0x40) / 16) (fun g => g.setLimit v) })
  else if o = 0x300800 then { s with pkg := { s.pkg with quarantineS := BitVec.ofNat 12 v } }
  else if 0x500000 ≤ o ∧ o < 0x500600 then
    { s with px := { s.px with apps := s.px.apps.upd ((o - 0x500000) / 16) (fun a =>
        if o % 16 = 0 then { a with tenancy := BitVec.ofNat 3 v, assigned := bitAt v 3 } else { a with entry := BitVec.ofNat 52 v }) } }
  else if 0x501000 ≤ o ∧ o < 0x501040 then
    { s with px := { s.px with ways := s.px.ways.set ((o - 0x501000) / 8) { cache := BitVec.ofNat 16 v, sram := BitVec.ofNat 16 (bitsAt v 16 16) } } }
  else if 0x100C00 ≤ o ∧ o < 0x100E00 then
    { s with ec := { s.ec with groups := s.ec.groups.upd ((o - 0x100C00) / 8) (fun g =>
        -- groups 0 to 7 are node firmware's (R511)
        { g with interval := BitVec.ofNat 14 v, owner := if o < 0x100C40 then 15 else BitVec.ofNat 4 (bitsAt v 16 4) }) } }
  else if 0x200000 ≤ o ∧ o < 0x200100 then
    s.updCkpt ((o - 0x200000) / 32) (fun c => { c.setCtrl v with timeoutS := BitVec.ofNat 8 (bitsAt v 8 8) })
  else if o = 0x400000 then
    { s with twin := { s.twin with mode := BitVec.ofNat 2 v, initialRole := bitAt v 2, castContinue := bitAt v 3, role := bitAt v 2 } }
  else if o = 0x400008 then { s with twin := { s.twin with twinId := BitVec.ofNat 64 v } }
  else s

/-- The image fields of a fabric-die register. -/
def imageFab (o v : Nat) (f : Fabric) : Fabric :=
  if o = 0x1000 then
    { f with ethertype := BitVec.ofNat 16 v, udpPort := BitVec.ofNat 16 (bitsAt v 16 16), udpMode := bitAt v 32
             vlanId := BitVec.ofNat 12 (bitsAt v 33 12), vlanEn := bitAt v 45, pcp := BitVec.ofNat 3 (bitsAt v 46 3)
             pfcEn := bitAt v 49, hopBound := BitVec.ofNat 10 (bitsAt v 50 10) }
  else if 0x1100 ≤ o ∧ o < 0x11C0 then
    { f with ports := f.ports.upd ((o - 0x1100) / 16) (fun p => { p with mode := BitVec.ofNat 2 v, twin := bitAt v 2 }) }
  else if o = 0x3000 then { f with hallBound := BitVec.ofNat 16 v }
  else if 0x2000 ≤ o ∧ o < 0x2040 then { f with tagQuota := f.tagQuota.set ((o - 0x2000) / 8) (BitVec.ofNat 16 v) }
  else { f with slotQuota := f.slotQuota.set ((o - 0x3100) / 8) (BitVec.ofNat 12 v) }

/-- Apply one register record of the image (R540, R640). -/
def State.applyRecord (s : State) (r : Nat × Nat) : State :=
  if 2 ^ 63 ≤ r.1 then s.mapCores (fun _ => imageCore (r.1 - 2 ^ 63) r.2)
  else match pcsBlock r.1 with
  | .core c o => s.updCore c (imageCore o r.2)
  | .cdie d _ => s.updCdie d.val (fun m => { m with scrubOn := bitAt r.2 0, scrubUs := BitVec.ofNat 16 (bitsAt r.2 1 16), scrubFrom := s.t })
  | .px o => s.imagePx o r.2
  | .fab pl o => s.updFab pl.val (imageFab o r.2)
  | .chan ch _ => s.updChan ch.val (fun c => { c with
      pinRate := BitVec.ofNat 2 r.2, density := bitAt r.2 2, rsMode := bitAt r.2 3, copyShare := BitVec.ofNat 4 (bitsAt r.2 4 4) })
  | .cpc _ => { s with cpc := { s.cpc with hotDuty := BitVec.ofNat 4 r.2 } }
  | _ => s

/-- The value the image gives a register of a core, 0 where no record names it. -/
def State.coreDefault (s : State) (c : CoreId) (reg : Nat) : Nat :=
  s.boot.records.foldl (fun v r =>
    if r.1.toNat = 2 ^ 63 + reg then r.2.toNat
    else match pcsBlock r.1.toNat with
      | .core d o => if d = c ∧ o = reg then r.2.toNat else v
      | _ => v) 0

/-! ### The tenancy layout (R423, R507) -/

def layoutBroken (s : State) : Bool :=
  let ts := List.range 8
  let pairs := ts.flatMap (fun a => (ts.filter (a < ·)).map (fun b => (a, b)))
  let regs := fun (t : Nat) => ((s.ten t).regions.map (·.2)).filter (·.valid)
  pairs.any (fun p => (s.ten p.1).bands &&& (s.ten p.2).bands != 0
    || (regs p.1).any (fun g => (regs p.2).any (fun h => g.base.toNat < h.limit.toNat && h.base.toNat < g.limit.toNat))
    || (s.px.ways.get p.1).sram &&& (s.px.ways.get p.2).sram != 0)
  || [0, 1].any (fun pl => 32768 < sumN (ts.map (fun t => ((s.fab pl).tagQuota.get t).toNat))
    || 3072 < sumN (ts.map (fun t => ((s.fab pl).slotQuota.get t).toNat)))
  || ts.any (fun t => 64 < (s.ten t).queues.toNat)

/-! ### Attestation (R549, R559) -/

/-- The alias seed (R549). -/
def aliasSeedOf (img : List Byte) : List Byte := digest32 (identitySeed img ++ manifestDigest img ++ asciiBytes "SZQ820-ALIAS")

/-- The alias certificate: signed by the identity key, with 32 random bytes, over bytes 0x000 to 0x81F, stored padded to 5,392 bytes (R547). -/
def aliasCertOf (img : List Byte) (now : Nat) (rnd : List Byte) : List Byte :=
  let key := mldsaPublic (aliasSeedOf img)
  let body := leBytes 4 0x5A510020 ++ [3, 0, 0, 0] ++ slice (deviceCert img) 8 8 ++ identityDigest img ++ digest32 key
    ++ digest32 (manifestOf img) ++ leBytes 8 now ++ slice (manifestOf img) 8 8 ++ key
  padTo 5392 (body ++ padTo 3309 (mldsaSign (identitySeed img) rnd body))

/-- The identity and alias exist: steps 1 to 4 have passed. -/
def State.attests (s : State) : Bool := !s.boot.aliasSeed.isEmpty && !s.cpc.stopped

/-- A report for a nonce, with the random bytes the CSB draws: 8,909 bytes, or 14,301 with the device certificate (R559). -/
def State.report (s : State) (nonce : List Byte) (wantDevice : Bool) : List Byte × List Byte :=
  let fresh := (List.range 32).map (Config.csbRandom s.freeCount)
  let b := leBytes 4 0x5A510060 ++ leBytes 2 1 ++ leBytes 2 (b2n s.pkg.substituted + 2 * b2n s.clock.locked + 4 * b2n wantDevice)
    ++ padTo 32 nonce ++ fresh ++ leBytes 8 s.boot.version.toNat ++ leBytes 8 s.boot.fwVersion.toNat ++ padTo 64 s.boot.manifestDigest
    ++ padTo 32 s.boot.identity ++ [BitVec.ofNat 8 s.pkg.grade.toNat, BitVec.ofNat 8 s.cpc.active.toNat, 0, 0, 0, 0, 0, 0]
    ++ leBytes 8 s.t ++ List.replicate 8 0 ++ padTo 5392 s.boot.aliasCert ++ (if wantDevice then padTo 5392 s.boot.deviceCert else [])
  (b ++ padTo 3309 (mldsaSign s.boot.aliasSeed ((List.range 32).map (fun i => Config.csbRandom s.freeCount (32 + i))) b), fresh)

end Sys2Proof.Machine
end

