-- ==== Sys2Proof/Machine/Wt.lean ====
section
/-! DEFINITION. The commands of Weamin transport and rack-domain memory (chapters 10 and 11): window requests, answers,
credits, re-sends, path measurement, and the failure of sub-ports and planes. -/

namespace Sys2Proof.Machine

/-- A received request of one of the window types (R293, R321). A fabric die that admits no new work refuses it (R53, R58, R582, R583). -/
def State.windowFrame (s : State) (pl : Plane) (sub : SubPort) (f : WtFrame) (ty : BitVec 4) : State :=
  let r := s.wtRequest pl sub f ty
  match r.2 with
  | some f => if r.1.dieAdmits (5 + pl.val) then r.1.windowRequest pl f else r.1.refuseReq pl.val f
  | none => r.1

def execWtStore (pl : Plane) (sub : SubPort) (f : WtFrame) (s : State) : Out := .next (s.windowFrame pl sub f 1)
def execLoadRequest (pl : Plane) (sub : SubPort) (f : WtFrame) (s : State) : Out := .next (s.windowFrame pl sub f 2)
def execAtomicRequest (pl : Plane) (sub : SubPort) (f : WtFrame) (s : State) : Out := .next (s.windowFrame pl sub f 4)

/-- A received answer: checked, matched to its request and given to whoever waits (R290, R295, R448). -/
def State.answerFrame (s : State) (pl : Plane) (sub : SubPort) (f : WtFrame) (ty : BitVec 4) : State :=
  let a := s.wtIn pl sub f ty
  if !a.2 then a.1 else
  let g := a.1.jobGate pl.val f
  if !g.2 then g.1 else
  let m := g.1.matchAnswer pl.val f.tag f.seq f.origin f.status (some f.hopStamp.toNat)
  match m.2 with
  | none => m.1
  | some o => (m.1.giveOwner o f.status (if ty = 6 then [] else (f.payload.drop 16).take (beVal (slice f.payload 0 2)))).flushPlane
      (if f.tag.getLsbD 15 then 1 else 0)

def execLoadResponse (pl : Plane) (sub : SubPort) (f : WtFrame) (s : State) : Out := .next (s.answerFrame pl sub f 3)
def execAtomicResponse (pl : Plane) (sub : SubPort) (f : WtFrame) (s : State) : Out := .next (s.answerFrame pl sub f 5)

/-! ### Credits (R299, R300) -/

/-- Where a peer's frames go on a plane: its rank entry, else the address it is kept under. -/
def State.peerAddr (s : State) (pl peer : Nat) : BitVec 48 × BitVec 128 :=
  match (s.fab pl).ranks.find? (fun e => e.2.valid && s.peerOfRank e.1 == peer) with
  | some e => (e.2.mac, e.2.ip)
  | none => (BitVec.ofNat 48 (peer - 256), BitVec.ofNat 128 (peer - 256))

/-- A credit update with `credit_req` is answered where 8 shared buffers are free, which are then lent. DESIGN CHOICE (log 49): without them no
answer goes out, and a credit update that comes while a request for buffers is open is its answer. -/
def execCreditUpdate (pl : Plane) (sub : SubPort) (f : WtFrame) (s : State) : Out :=
  let f := s.stamp pl sub f
  let a := s.wtIn pl sub f 7
  let peer := s.peerOf pl.val f
  if !a.2 then .next a.1
  else if !f.flags.getLsbD 2 then
    .next (if ((a.1.fab pl.val).credits.get peer).asked then
        (a.1.updFab pl.val (fun x => { x with credits := x.credits.upd peer (fun c => { c with base := c.base + 8, asked := false, lastSent := s.t }) })).flushPlane pl
      else a.1)
  else if (a.1.fab pl.val).shared < 8 then .next a.1
  else
    let s1 := a.1.updFab pl.val (fun x => { x with shared := x.shared - 8, credits := x.credits.upd peer (fun c => { c with lent := c.lent + 8, lastUse := s.t }) })
    let dest := s1.replyTo pl.val f
    .next (s1.sendCreditUpdate pl.val peer dest.1 dest.2 false)

/-- 4 or more buffers have been freed for a peer, and no frame has gone to it in the 200 ns since (R300). -/
def execCreditUpdateSend (pl : Plane) (peer : Nat) (s : State) : Out :=
  let c := (s.fab pl.val).credits.get peer
  if c.untold < 4 ∨ s.t < c.fourAt + 200 then .next s else
  let dest := s.peerAddr pl.val peer
  .next (s.sendCreditUpdate pl.val peer dest.1 dest.2 false)

/-- Shared buffers unused for 1 ms return (R300): those lent to the peer, and those that the peer had lent, once none is in use. -/
def execSharedBufferExpiry (pl : Plane) (peer : Nat) (s : State) : Out :=
  let c := (s.fab pl.val).credits.get peer
  let mine := c.lent != 0 && c.lastUse + 1000000 ≤ s.t
  let theirs := c.base != 0 && c.used == c.granted && c.lastSent + 1000000 ≤ s.t
  .next (s.updFab pl.val (fun x => { x with
    shared := if mine then x.shared + c.lent else x.shared
    credits := x.credits.upd peer (fun c => { c with lent := if mine then 0 else c.lent, base := if theirs then 0 else c.base }) }))

/-- A path probe is a new request too, which a die that is not admitting refuses (R46). -/
def execPathProbe (pl : Plane) (sub : SubPort) (f : WtFrame) (s : State) : Out :=
  let r := s.wtRequest pl sub f 0xB
  match r.2 with
  | some f => .next (if r.1.dieAdmits (5 + pl.val) then r.1.execReq pl.val f stDone [] else r.1.refuseReq pl.val f)
  | none => .next r.1

/-! ### Re-sends and the retry budget (R296, R335, R340) -/

/-- When re-send `i` is due, whether on the other plane, and the step of its path_id (R296). -/
def resendPlan (i : Nat) : Option (Nat × Bool × BitVec 7) :=
  match i with
  | 0 => some (2500, false, 1) | 1 => some (5000, true, 0) | 2 => some (10000, false, 2)
  | 3 => some (20000, true, 2) | 4 => some (40000, false, 3) | _ => none

/-- An outstanding request of a die by its tag. -/
def State.outReq (s : State) (pl : Plane) (tag : BitVec 16) : Option OutReq :=
  (s.fab pl.val).outst.find? (fun o => o.tag == tag && tag.getLsbD 15 == (pl.val == 1))

/-- The plane wanted, or the other one when it carries nothing (R306). -/
def State.usePlane (s : State) (pl : Plane) : Plane := if s.planeUp pl.val then pl else otherPlane pl

/-- The same for an outstanding request: one to the twin goes by the twin links. -/
def State.reqPlane (s : State) (o : OutReq) (pl : Plane) : Plane :=
  if o.frame.twin then (if s.twinUp pl.val then pl else otherPlane pl) else s.usePlane pl

/-- A forwarding frame of the management port by its tag: such a frame is named with plane 0 and a tag whose bit 15 is set,
which no request of that plane carries (R610). -/
def State.fwdReq (s : State) (pl : Plane) (tag : BitVec 16) : Option Fwd :=
  if pl = 0 ∧ tag.getLsbD 15 then s.log.fwdOut.find? (fun f => f.frame.tag == tag) else none

/-- A forwarding frame is re-sent when R296 says so. -/
def State.fwdResend (s : State) (pl : Plane) (tag : BitVec 16) : State :=
  match s.fwdReq pl tag with
  | none => s
  | some f =>
    match resendPlan f.resends with
    | none => s
    | some (due, _, _) =>
      if s.t < f.tFirst + due then s else
      { s with log := { s.log with fwdOut := s.log.fwdOut.map (fun x => if x = f then { x with resends := x.resends + 1 } else x) } }.send
        (.mgmt (s.mgmtCarriage f.ten.toNat f.frame.pathId) (wtSeal { f.frame with flags := f.frame.flags ||| 1, tSend := BitVec.ofNat 32 s.t, hopStamp := BitVec.ofNat 16 (Nat.min (s.t - f.tFirst) 0xFFFF),
                                                                                      ackFloor := s.log.fwdFloor f.ten.toNat, creditGrant := s.grantFor 2 (s.peerOfRank (f.ten.toNat * 65536 + 0xFFF0 + f.ten.toNat)) }))

/-- A frame of the management port still unanswered after the re-sends is abandoned (R610). -/
def State.fwdAbandon (s : State) (pl : Plane) (tag : BitVec 16) : State :=
  match s.fwdReq pl tag with
  | none => s
  | some f =>
    if s.t < f.tFirst + 50000 then s else
    { s with log := { s.log with fwdOut := s.log.fwdOut.erase f, fwdLost := if f.completion then s.log.fwdLost else satInc s.log.fwdLost } }

def execResendTimer (pl : Plane) (tag : BitVec 16) (s : State) : Out :=
  match s.outReq pl tag with
  | none => .next (s.fwdResend pl tag)
  | some o =>
    match resendPlan o.resends with
    | none => .next s
    | some (due, other, step) =>
      let dest := s.reqPlane o (if other then otherPlane pl else pl)
      if o.refusedAt.isSome ∨ s.t < o.tFirst + due ∨ o.frame.self then .next s
      else .next ((s.updOut tag (fun o => { o with resends := o.resends + 1 })).resendOrWait o dest (pathOf tag + step) true)

/-- The longest refusal among an operation's requests moves its end-by time later by as much (R335). -/
def Entry.refusedFor (e : Entry) (ns : Nat) : Entry :=
  { e with endBy := e.endBy + (Nat.max e.refusedNs ns - e.refusedNs), refusedNs := Nat.max e.refusedNs ns }

/-- 250 ns after a refusal the request goes out again, or, to the package's own windows, is made again within the package (R317, R335). -/
def execNotAdmittedResend (pl : Plane) (tag : BitVec 16) (s : State) : Out :=
  match s.outReq pl tag with
  | none => .next s
  | some o =>
    match o.refusedAt with
    | none => .next s
    | some r =>
      let dest := s.reqPlane o o.lastPlane
      if s.t < r + 250 then .next s else
      let wait := s.t - o.refusedFrom.getD s.t
      let s1 := match o.owner with
        | .dma c req _ =>
          if (s.core c).dma.outst.any (fun x => x.id == req) then
            s.updCore c (fun k => match k.dma.entry with
              | some i => k.updEntry i (fun e => e.refusedFor wait)
              | none => k)
          else s
        | _ => s
      let s2 := s1.updOut tag (fun o => { o with refusedAt := none, resends := 0, tFirst := s.t })
      .next (if o.frame.self then (if s2.dieAdmits (5 + pl.val) then s2.windowRequest pl o.frame else s2.refuseReq pl.val o.frame)
        else s2.resendOrWait o dest o.frame.pathId false)

/-- The fabric address of a window request. -/
def OutReq.address (o : OutReq) : Nat :=
  let q := reqSub o.frame.payload
  o.pkg * 2 ^ 56 + q.window * 2 ^ 48 + q.offset

/-- A target is declared lost (R340). -/
def State.targetLostReq (s : State) (pl : Nat) (o : OutReq) : State :=
  let mark := fun (x : Fabric) => { x with rackMap := x.rackMap.upd (o.ten * 256 + o.pkg) (fun e => { e with lost := true }) }
  (((((s.updFab 0 mark).updFab 1 mark).updFab pl (fun x => { x with targetLost := satInc x.targetLost })).hand
    { unit := fabUnit pl 0x01 0, cls := 0x04, severity := 2, status := stTargetLost, addrKind := 2, address := BitVec.ofNat 64 o.address
      jobId := o.frame.jobId, jobGen := o.frame.jobGen, opTag := (reqSub o.frame.payload).opTag }).raise (32 + pl)).giveOwner o stTargetLost []

def execRetryBudgetExpiry (pl : Plane) (tag : BitVec 16) (s : State) : Out :=
  match s.outReq pl tag with
  | none => .next (s.fwdAbandon pl tag)
  | some o =>
    if o.refusedAt.isSome ∨ o.frame.self ∨ s.t < o.tFirst + 50000 then .next s else
    match o.owner with
    | .coll _ _ | .mirror _ => .next s
    | .dma _ _ _ => .next (((s.releaseTag tag).targetLostReq pl.val o).flushPlane pl)
    | _ => .next ((s.releaseTag tag).flushPlane pl)

/-! ### Paths (R301 to R303, R305, R306) -/

/-- Sub-ports that a port's mode gives it (R282, R314). -/
def Port.subs (p : Port) : Nat := match p.mode.toNat with | 0 => 0 | 1 => 1 | 2 => 2 | _ => 4

/-- A sub-port carries WT requests: up, not failed, not a twin link. -/
def Port.healthy (p : Port) (sub : Nat) : Bool :=
  sub % 4 < p.subs && p.up.getLsbD (sub % 4) && !p.failed.getLsbD (sub % 4) && !p.twin

/-- `list` of R301: each healthy normal sub-port three times, each healthy hot one once, ascending. -/
def Fabric.pathList (f : Fabric) : List Nat :=
  (List.range 48).flatMap (fun sub =>
    let p := f.ports.get (sub / 4)
    if !p.healthy sub then [] else if p.hot.getLsbD (sub % 4) then [sub] else [sub, sub, sub])

/-- Rebuild a plane's path table, and `one_plane` with it (R303, R306, R617). -/
def State.rebuildPath (s : State) (pl : Nat) : State :=
  let s1 := s.updFab pl (fun f => { f with path := if f.alive then f.pathList else [] })
  { s1 with pkg := { s1.pkg with onePlane := !(s1.planeUp 0 && s1.planeUp 1) } }

/-- Lower edge of the bin at which the cumulative count reaches 99 % (R302). -/
def p99Of (h : List Nat) : Nat :=
  let n := sumN h
  64 * ((List.range 16).find? (fun i => 99 * n ≤ 100 * sumN (h.take (i + 1)))).getD 15

/-- Twice the median. -/
def median2 (l : List Nat) : Nat :=
  let a := l.foldr insAsc []
  let n := a.length
  if n = 0 then 0 else a.getD ((n - 1) / 2) 0 + a.getD (n / 2) 0

/-- Set a bit of a sub-port mask. -/
def setBit (v : BitVec 4) (i : Nat) (b : Bool) : BitVec 4 :=
  if b then v ||| BitVec.ofNat 4 (2 ^ i) else v &&& ~~~ BitVec.ofNat 4 (2 ^ i)

/-- The end of a 100 us window (R302, R303); the next one begins. A window without samples leaves 0, the lowest edge. -/
def execPathTableRebuild (pl : Plane) (s : State) : Out :=
  let f := s.fab pl.val
  if s.t < f.winAt + 100000 then .next s else
  let many := (List.range 48).filter (fun sub => 64 ≤ sumN (f.hist.get sub))
  let med := median2 (many.map (fun sub => p99Of (f.hist.get sub)))
  let ports := (List.range 48).foldl (fun t sub =>
    let h := f.hist.get sub
    let t1 := t.upd (sub / 4) (fun p => if sub % 4 = 0 then { p with p99 := BitVec.ofNat 16 (p99Of h) } else p)
    if sumN h < 64 then t1 else
    t1.upd (sub / 4) (fun p => { p with hot := setBit p.hot (sub % 4) (5 * med < 8 * p99Of h) })) f.ports
  .next (((s.updFab pl.val (fun f => { f with ports := ports, hist := [], winAt := s.t })).measureDie pl.val).rebuildPath pl.val)

/-- Requests last sent on a plane (and sub-port) are re-sent at once, on the same plane or, when it carries nothing more,
on the other, each against a credit of its plane (R298, R306). -/
def State.resendNow (s : State) (pl : Plane) (sub : Option Nat) : State :=
  let all := (s.fab 0).outst ++ (s.fab 1).outst
  (all.filter (fun o => o.lastPlane == pl && o.refusedAt.isNone && !o.frame.self && (match sub with | some x => o.lastSub == x | none => true))).foldl
    (fun s o => s.resendOrWait o (s.reqPlane o pl) o.frame.pathId true) s

/-- Re-sends through a sub-port that are unanswered, with peer and time: those of requests still open, and those of requests that were
answered by another sub-port (R305). DESIGN CHOICE (log 49): they are counted since the peer last answered a request by that sub-port. -/
def State.unheard (s : State) (pl : Plane) (sub : Nat) : List (Nat × Nat) :=
  (((s.fab 0).outst ++ (s.fab 1).outst).flatMap (fun o => (o.tries.filter (fun x => x.1 == pl && x.2.1 == sub)).map (fun x => (o.peer, x.2.2))))
    ++ ((s.fab pl.val).unheard.filter (fun x => x.1 == sub)).map (·.2)

/-- Two re-sends through a sub-port are unanswered, and their peer has answered through another sub-port since (R305). -/
def State.portDeaf (s : State) (pl : Plane) (sub : Nat) : Bool :=
  [0, 1].any (fun q => (s.fab q).answered.any (fun a => (q != pl.val || a.1 % 64 != sub)
    && decide (2 ≤ ((s.unheard pl sub).filter (fun x => x.1 == a.1 / 64 && decide (x.2 < a.2))).length)))

/-- A sub-port goes down (R305, R306); a link reset takes it down without `failed` (R571). -/
def State.subDown (s : State) (pl : Plane) (sub : Nat) (failed linkLost : Bool) : State :=
  let s1 := s.updFab pl.val (fun f => { f with unheard := f.unheard.filter (fun x => x.1 != sub), ports := f.ports.upd (sub / 4) (fun p =>
    { p with failed := if failed then setBit p.failed (sub % 4) true else p.failed
             up := if linkLost then setBit p.up (sub % 4) false else p.up }) })
  let forget := fun (o : OutReq) => { o with tries := o.tries.filter (fun x => !(x.1 == pl && x.2.1 == sub)) }
  let s1 := (s1.updFab 0 (fun f => { f with outst := f.outst.map forget })).updFab 1 (fun f => { f with outst := f.outst.map forget })
  let s2 := if failed then (s1.hand { unit := fabUnit pl.val 0x00 sub, cls := 0x05, severity := 3 }).raise (32 + pl.val) else s1
  (s2.rebuildPath pl.val).resendNow pl (some sub)

/-- DESIGN CHOICE (log 49): that lock is lost, or that 1 ms has brought more than 16 uncorrectable codewords, is what the PCS says of its link,
and comes with the command. -/
def execSubPortDown (pl : Plane) (sub : SubPort) (cause : DownCause) (s : State) : Out :=
  let p := s.port pl.val sub.val
  if !(s.fab pl.val).alive || !p.isUp sub.val || p.failed.getLsbD (sub.val % 4) || (cause == .unanswered && !s.portDeaf pl sub.val) then .next s
  else .next (s.subDown pl sub.val true (cause == .lockLost))

/-- A fabric die fails: the other takes over its sequence spaces and re-sends its requests (R306, R307). -/
def execPlaneTakeover (failed : Plane) (s : State) : Out :=
  if !(s.fab failed.val).alive then .next s else
  let s1 := s.updFab failed.val (fun f => { f with alive := false, path := [], ports := f.ports.map (fun p => (p.1, { p.2 with up := 0 })) })
  let s2 := (s1.hand { unit := fabUnit (otherPlane failed).val 0x01 0, cls := 0x04, severity := 3 }).rebuildPath failed.val
  .next (s2.resendNow failed none)

end Sys2Proof.Machine
end

