-- ==== Sys2Proof/Machine/Ckpt.lean ====
section
/-! DEFINITION. Checkpoint and restore (chapter 14): triggers and the cut, the writing of a generation to the module and
its mirror, commit and abandonment, and the restore. The module itself is outside the package: what is written to it goes
to the outbox, and what a restore reads from it comes with the commands. -/

namespace Sys2Proof.Machine

/-! ### Node firmware's accesses and messages -/

/-- Node firmware reads bytes at an NPA of GDDR, a slice or an SRAM way: whether every word was readable, and the bytes. -/
def State.svcRead (s : State) (npa n : Nat) : State × Bool × List Byte :=
  match npa / 2 ^ 48 with
  | 0 => let r := s.gddrRead (npa % 2 ^ 48) n { source := 5 }
         (r.1, r.2.1 == stDone, r.2.2)
  | 1 => let r := s.rsOp (npa % 2 ^ 48) .load n [] { source := 4 }
         (r.1, r.2.1 == stDone, r.2.2)
  | 3 => if npa % 2 ^ 48 + n ≤ 0xC000000 then s.sramGet (npa % 2 ^ 48) n { source := 5 } else (s, false, List.replicate n 0)
  | _ => (s, false, List.replicate n 0)

/-- Node firmware writes bytes at an NPA of GDDR, a slice or an SRAM way. -/
def State.svcWrite (s : State) (npa : Nat) (bs : List Byte) : State :=
  match npa / 2 ^ 48 with
  | 0 => ((s.gddrWrite (npa % 2 ^ 48) bs { source := 5 }).1).foreignWrote (npa % 2 ^ 48) bs.length
  | 1 => (s.rsOp (npa % 2 ^ 48) .store 0 bs { source := 4 }).1
  | 3 => if npa % 2 ^ 48 + bs.length ≤ 0xC000000 then (s.sramPut (npa % 2 ^ 48) bs { source := 5 }).1 else s
  | _ => s

/-- A package that takes part in checkpoints: not a shadow, nor a standby package beside its active twin (R457, R471). -/
def State.ckptActs (s : State) : Bool := !(s.twin.role && (s.twin.mode == 1 || s.twin.mode == 3)) && !s.cpc.stopped

/-- A service frame is accepted from a valid rank-table entry of the tenancy, under its rank (R427). -/
def State.svcFrom (s : State) (t : Nat) (f : SvcFrom) : Bool :=
  let e := (s.fab f.plane.val).ranks.get (t * 65536 + f.rank.toNat)
  !s.cpc.stopped && f.frame.jobId == 0 && f.rank.toNat < 0xFFF0 && e.valid
    && (if (s.fab f.plane.val).udpMode then e.ip == f.frame.srcIp6 else e.mac == f.frame.srcMac)

/-- A service frame arrives (R289 to R294, R427): checked, numbered and acknowledged like every request; whether it is a new one. -/
def State.svcIn (s : State) (t : Nat) (f : SvcFrom) : State × Bool :=
  if s.linkIn f.plane.val f.sub.val && s.wtDrops f.plane f.sub f.frame then (s.crcDropped f.plane.val, false)
  else if !s.svcFrom t f then (s, false) else
  let r := s.wtRequest f.plane f.sub f.frame 0xA
  match r.2 with
  | none => (r.1, false)
  | some g => (r.1.execReq f.plane.val g stDone [], true)

def State.isRank0 (s : State) (t : Nat) : Bool := (s.ten t).job.ownRank == 0

/-- A message to one rank of the job: on plane 0, or on plane 1 when that carries nothing (log 46). -/
def State.sendSvc (s : State) (t rank : Nat) (p : List Byte) : State := s.fwSend (s.usePlane 0) t rank p

/-- A message to every other package of the job. -/
def State.sendAll (s : State) (t : Nat) (p : List Byte) : State :=
  let j := (s.ten t).job
  ((List.range j.rankCount.toNat).filter (· != j.ownRank.toNat)).foldl (fun s r => s.sendSvc t r p) s

/-! ### The plan (R401, R402) -/

/-- A plan entry (R402). -/
structure PlanEntry where
  shard : BitVec 32 := 0
  replicated : Bool := false
  src : Nat := 0
  dest : Nat := 0
  len : Nat := 0
deriving DecidableEq, Repr, Inhabited

/-- The plan header: whether it was readable, and its 64 bytes. -/
def State.planHead (s : State) (t : Nat) : State × Bool × List Byte := s.svcRead ((s.ckpt t).planAddr.toNat) 64

def State.planWrite (s : State) (t off : Nat) (bs : List Byte) : State := s.svcWrite ((s.ckpt t).planAddr.toNat + off) bs

/-- Plan entries, and the ranks of the replica set in index order. -/
def State.planEntries (s : State) (t : Nat) (head : List Byte) : State × Bool × List PlanEntry × List Nat :=
  let n := fieldAt head 0x24 2
  let e := s.svcRead ((s.ckpt t).planAddr.toNat + 64) (32 * n)
  let r := e.1.svcRead (fieldAt head 0x30 8) (2 * fieldAt head 0x26 2)
  (r.1, e.2.1 && r.2.1, (List.range n).map (fun i => let b := slice e.2.2 (32 * i) 32
      { shard := BitVec.ofNat 32 (fieldAt b 0 4), replicated := bitAt (fieldAt b 4 1) 0, src := fieldAt b 8 8, dest := fieldAt b 0x10 8, len := fieldAt b 0x18 8 }),
    (List.range (fieldAt head 0x26 2)).map (fun i => fieldAt r.2.2 (2 * i) 2))

/-- The rank that writes a shard's data: its own package, or for a replicated shard the member of index s mod R (R411). -/
def writerOf (e : PlanEntry) (reps : List Nat) (own : Nat) : Nat :=
  if e.replicated then reps.getD (e.shard.toNat % Nat.max 1 reps.length) own else own

/-! ### The module's layout (R400, R409, R410, R413) -/

def shardLbas (e : PlanEntry) (own : Bool) : Nat := 1 + (if own then ceilDiv e.len 4096 else 0)

/-- `slot_lbas` of a plan (R400): of a shard that another package of the replica set writes, a header LBA alone (R411). -/
def slotLbas (es : List PlanEntry) (reps : List Nat) (own : Nat) : Nat :=
  65536 * Nat.max 1 (ceilDiv (1 + sumN (es.map (fun e => shardLbas e (writerOf e reps own == own))) + ceilDiv (64 + 64 * es.length) 4096) 65536)

/-- A shard header (R409). -/
def shardHeader (j : Job) (kind : Nat) (verified : Bool) (gen : BitVec 32) (step : BitVec 64) (e : PlanEntry) (writer : Nat) (digest : List Byte) : List Byte :=
  leBytes 4 0x5A510001 ++ [BitVec.ofNat 8 kind, BitVec.ofNat 8 (b2n verified)] ++ leBytes 2 j.jobId.toNat ++ leBytes 2 j.jobGen.toNat
    ++ leBytes 2 j.ownRank.toNat ++ leBytes 4 gen.toNat ++ leBytes 8 step.toNat ++ leBytes 4 e.shard.toNat ++ leBytes 2 writer ++ [0, 0]
    ++ leBytes 8 e.len ++ leBytes 8 e.dest ++ padTo 32 digest ++ List.replicate 48 0

/-- The manifest (R410): entries of (plan entry, kind, header LBA, digest), and `unmirrored`. -/
def manifestBytes (j : Job) (gen : BitVec 32) (step : BitVec 64) (unmirrored : Bool) (l : List (PlanEntry × Nat × Nat × List Byte)) : List Byte × List Byte :=
  let body := l.flatMap (fun x => leBytes 4 x.1.shard.toNat ++ [BitVec.ofNat 8 x.2.1, 0, 0, 0] ++ leBytes 8 x.2.2.1 ++ leBytes 8 x.1.len
    ++ leBytes 8 x.1.dest ++ padTo 32 x.2.2.2)
  let d := digest32 body
  (leBytes 4 0x5A510002 ++ leBytes 4 l.length ++ leBytes 2 j.jobId.toNat ++ leBytes 2 j.jobGen.toNat ++ leBytes 2 j.ownRank.toNat ++ [0, 0]
    ++ leBytes 4 gen.toNat ++ leBytes 4 (b2n unmirrored) ++ leBytes 8 step.toNat ++ d ++ body, d)

/-- A commit record (R413). -/
def commitRecord (j : Job) (origin : Nat) (gen : BitVec 32) (step : BitVec 64) (now : Nat) (digest : List Byte) : List Byte :=
  leBytes 4 0x5A510003 ++ [BitVec.ofNat 8 origin, 0] ++ leBytes 2 j.jobId.toNat ++ leBytes 2 j.jobGen.toNat ++ [0, 0] ++ leBytes 4 gen.toNat
    ++ leBytes 4 j.rankCount.toNat ++ leBytes 8 step.toNat ++ leBytes 8 now ++ padTo 32 digest ++ List.replicate 60 0

/-- The module header (R400). -/
def moduleHeader (j : Job) (twinRank lbas : Nat) : List Byte :=
  leBytes 4 0x5A510000 ++ leBytes 4 1 ++ leBytes 2 j.jobId.toNat ++ leBytes 2 j.jobGen.toNat ++ leBytes 2 j.ownRank.toNat
    ++ leBytes 2 twinRank ++ leBytes 8 lbas

/-- The twin takes copies (R412). -/
def State.mirrors (s : State) (t : Nat) : Bool := (s.ckpt t).mirror && s.twin.mode != 0 && s.twin.state == 3

/-- The twin's rank: a pair shares its rank (R458); that of an independent twin the package is not told, and it is free (log 50). -/
def State.twinRank (s : State) (t : Nat) : Nat :=
  if s.twin.mode = 2 then (Config.freeWord s.freeCount).toNat % 65536 else (s.ten t).job.ownRank.toNat

/-- A MIRROR_DATA message goes to the twin by its link: a service frame, numbered, acknowledged and re-sent as every request (R289, R291 to
R296, R415, R453). -/
def State.sendMirror (s : State) (t slot half lba : Nat) (d : List Byte) : State :=
  let pl : Plane := if s.twinPlane = 1 then 1 else 0
  s.drawn.issueOrWait pl { ten := t, rank := s.twinRank t, type := 0xA, twin := true, owner := .mirror t,
                           payload := [0x08, 1, BitVec.ofNat 8 slot, BitVec.ofNat 8 half, 0] ++ beBytes 8 lba ++ d } {}

/-- The bytes of a slot, from an LBA upwards, are written to the module and sent to the twin (R408, R412). -/
def State.putLbas (s : State) (t slot lbas rel : Nat) (fua : Bool) (b : List Byte) : State :=
  let n := ceilDiv b.length 4096
  (List.range n).foldl (fun s i =>
    let d := padTo 4096 (slice b (4096 * i) 4096)
    let s1 := s.send (.nvmeWrite (256 + slot * lbas + rel + i) fua d)
    if s1.mirrors t then [0, 1].foldl (fun s h => s.sendMirror t slot h (rel + i) (slice d (2048 * h) 2048)) s1
    else s1) s

/-! ### Triggers and the cut (R405, R406) -/

def State.jobActive (s : State) (t : Nat) : Bool := (s.ten t).job.state == 2

/-- The package takes up a generation, of which the step is known once CUT_SET has come; digests that came before are kept (R411). -/
def Ckpt.takeUp (c : Ckpt) (gen : BitVec 32) (step : Option (BitVec 64)) : Ckpt :=
  let notes := if c.nextCut.any (fun x => x.1 == gen) then c.nextNotes else []
  match step with
  | none => { c with gen := gen, state := 1, notes := notes, nextNotes := [], mismatch := false, nextCut := none }
  | some k => { c with gen := gen, state := 2, step := k, phase := .idle, notes := notes, nextNotes := [], mismatch := false, nextCut := none }

/-- Step 2 of a cut on this package: `hold_step`, and S; none where the plan cannot be read. A package that still writes the generation before
takes the new one up when that is through (R406). -/
def State.cutLocal (s : State) (t : Nat) (gen : BitVec 32) : State × Option (BitVec 64) :=
  let h := s.planHead t
  if !h.2.1 then (h.1, none) else
  let step := BitVec.ofNat 64 (fieldAt h.2.2 0 8)
  ((h.1.planWrite t 8 (leBytes 8 (step + 2).toNat)).updCkpt t (fun c =>
    if c.state = 0 ∨ c.state = 1 then c.takeUp gen none else { c with nextCut := some (gen, none), nextNotes := [] }), some step)

/-- Step 4 on this package. -/
def State.cutSetLocal (s : State) (t : Nat) (gen : BitVec 32) (step : BitVec 64) : State :=
  (((s.planWrite t 0x18 (leBytes 4 gen.toNat)).planWrite t 0x10 (leBytes 8 step.toNat)).planWrite t 8 (List.replicate 8 0xFF)).updCkpt t
    (fun c => { (if c.nextCut = some (gen, none) then { c with nextCut := some (gen, some step) }
                 else { c with state := 2, step := step, phase := .idle }) with tCutSet := s.t })

/-- Step 3, once every package has replied. -/
def State.cutDecide (s : State) (t : Nat) : State :=
  let c := s.ckpt t
  let j := (s.ten t).job
  if c.replies.length < j.rankCount.toNat then s else
  let step := BitVec.ofNat 64 (maxN (c.replies.map (fun r => (r.2 + 2).toNat)))
  (s.sendAll t ([0x03] ++ beBytes 4 c.gen.toNat ++ beBytes 8 step.toNat)).cutSetLocal t c.gen step

/-- Rank 0 begins a cut. -/
def State.cutStart (s : State) (t : Nat) : State :=
  let gen := (s.ckpt t).newest + 1
  let s1 := s.updCkpt t (fun c => { c with replies := [], written := [], deferred := false })
  let l := (s1.sendAll t ([0x01] ++ beBytes 4 gen.toNat)).cutLocal t gen
  match l.2 with
  | none => s
  | some st => (l.1.updCkpt t (fun c => { c with replies := [((s.ten t).job.ownRank, st)] })).cutDecide t

/-- A trigger fires, now or once the state is idle again. -/
def State.ckptFire (s : State) (t : Nat) : State :=
  if (s.ckpt t).state = 0 then s.cutStart t else s.updCkpt t (fun c => { c with deferred := true })

/-- The state returns to idle, or goes on to the generation whose cut came meanwhile; a deferred trigger fires (R405, R406). -/
def State.ckptIdle (s : State) (t : Nat) : State :=
  let s1 := s.updCkpt t (fun c => match c.nextCut with
    | some (g, k) => { c with phase := .idle }.takeUp g k
    | none => { c with state := 0, phase := .idle })
  if (s1.ckpt t).state ≠ 0 then s1 else
  if (s1.ckpt t).deferred ∧ (s1.ckpt t).enable ∧ s1.isRank0 t ∧ s1.jobActive t then s1.cutStart t else s1

/-- Triggers act on rank 0 of an ACTIVE job. -/
def State.triggers (s : State) (t : Nat) : Bool :=
  (s.ckpt t).enable && s.isRank0 t && s.jobActive t && s.ckptActs

def execCkptPeriodTrigger (t : Ten) (s : State) : Out :=
  let c := s.ckpt t.val
  let p := s.t / (c.periodMs.toNat * 1000000)
  if !s.triggers t.val || c.periodMs = 0 || p = c.actedPeriod then .next s
  else .next ((s.updCkpt t.val (fun c => { c with actedPeriod := p })).ckptFire t.val)

def execCkptStepPoll (t : Ten) (s : State) : Out :=
  let c := s.ckpt t.val
  if !s.triggers t.val || c.stepInterval = 0 then .next s else
  let h := s.planHead t.val
  let step := BitVec.ofNat 64 (fieldAt h.2.2 0 8)
  if !h.2.1 || step.toNat % c.stepInterval.toNat ≠ 0 || c.actedStep = some step then .next h.1
  else .next ((h.1.updCkpt t.val (fun c => { c with actedStep := some step })).ckptFire t.val)

def execCutQuery (t : Ten) (from0 : SvcFrom) (gen : BitVec 32) (s0 : State) : Out :=
  let r := s0.svcIn t.val from0
  let s := r.1
  if !r.2 || from0.rank ≠ 0 || s.isRank0 t.val || !s.ckptActs then .next s
  else
    let l := s.cutLocal t.val gen
    match l.2 with
    | none => .next l.1
    | some st => .next (l.1.sendSvc t.val 0 ([0x02] ++ beBytes 4 gen.toNat ++ beBytes 8 st.toNat))

def execCutReply (t : Ten) (from0 : SvcFrom) (gen : BitVec 32) (step : BitVec 64) (s0 : State) : Out :=
  let r := s0.svcIn t.val from0
  let s := r.1
  let c := s.ckpt t.val
  if !r.2 || !s.isRank0 t.val || c.state ≠ 1 || c.gen ≠ gen || c.replies.any (fun r => r.1 == from0.rank) then .next s
  else .next ((s.updCkpt t.val (fun c => { c with replies := c.replies ++ [(from0.rank, step)] })).cutDecide t.val)

def execCutSet (t : Ten) (from0 : SvcFrom) (gen : BitVec 32) (step : BitVec 64) (s0 : State) : Out :=
  let r := s0.svcIn t.val from0
  let s := r.1
  let c := s.ckpt t.val
  if !r.2 || from0.rank ≠ 0 || s.isRank0 t.val || !((c.state = 1 && c.gen = gen) || c.nextCut = some (gen, none)) then .next s
  else .next (s.cutSetLocal t.val gen step)

/-! ### Abandonment (R414) -/

/-- The package stops writing, releases its hold and leaves the slot uncommitted. -/
def State.abandonLocal (s : State) (t : Nat) (reason : Byte) : State :=
  let c := s.ckpt t
  let s1 := ((s.planWrite t 8 (List.replicate 8 0xFF)).planWrite t 0x20 (leBytes 4 c.gen.toNat)).planWrite t 0x2A [stAborted, reason]
  (s1.updCkpt t (fun c => { c with
    abandoned := satInc c.abandoned, newest := c.gen
    slots := if c.state = 2 ∧ c.phase ≠ .idle then c.slots.set c.slot {} else c.slots })).ckptIdle t

/-- A generation is abandoned whose cut came while the one before it is still being written. -/
def State.abandonNext (s : State) (t : Nat) (reason : Byte) : State :=
  let gen := ((s.ckpt t).nextCut.map (·.1)).getD 0
  (((s.planWrite t 8 (List.replicate 8 0xFF)).planWrite t 0x20 (leBytes 4 gen.toNat)).planWrite t 0x2A [stAborted, reason]).updCkpt t
    (fun c => { c with abandoned := satInc c.abandoned, newest := gen, nextCut := none, nextNotes := [] })

/-- Rank 0 abandons a generation and tells every package. -/
def State.abandonAll (s : State) (t : Nat) (reason : Byte) : State :=
  (s.sendAll t ([0x07] ++ beBytes 4 (s.ckpt t).gen.toNat ++ [reason])).abandonLocal t reason

/-- ABANDON arrives; on rank 0 the command says that a package of the job is lost. -/
def execCkptAbandon (t : Ten) (from0 : SvcFrom) (gen : BitVec 32) (reason : Byte) (s : State) : Out :=
  let c := s.ckpt t.val
  if s.isRank0 t.val then .next (if (c.state ≠ 1 ∧ c.state ≠ 2) ∨ c.gen ≠ gen then s else if reason = 5 ∧ c.phase ≠ .jobCommit ∧ c.phase ≠ .jobMirror ∧ c.phase ≠ .committing then s.abandonAll t.val 5 else s)
  else
    let r := s.svcIn t.val from0
    let k := r.1.ckpt t.val
    if !r.2 || from0.rank ≠ 0 then .next r.1
    else if k.nextCut.any (fun x => x.1 == gen) then .next (r.1.abandonNext t.val reason)
    else if (k.state ≠ 1 ∧ k.state ≠ 2) || k.gen ≠ gen then .next r.1
    else .next (r.1.abandonLocal t.val reason)

/-- `timeout_s` has passed. -/
def execCkptTimeout (t : Ten) (s : State) : Out :=
  let c := s.ckpt t.val
  let ns := c.timeoutS.toNat * 1000000000
  if c.timeoutS = 0 ∨ c.state ≠ 2 then .next s
  else if s.isRank0 t.val then
    (if s.t < c.tCutSet + ns ∨ c.phase = .jobCommit ∨ c.phase = .jobMirror ∨ c.phase = .committing then .next s else .next (s.abandonAll t.val 1))
  else if c.phase ≠ .written ∨ s.t < c.tWritten + ns then .next s
  else .next (s.abandonLocal t.val 5)

/-! ### Writing a generation (R407 to R413) -/

/-- `a` is newer than `b` (R415). -/
def newerGen (a b : BitVec 32) : Bool := a != b && (a - b).toNat < 2 ^ 31

/-- The slot a generation goes into (R407). -/
def Ckpt.pickSlot (c : Ckpt) : Nat :=
  match [0, 1, 2].find? (fun i => !(c.slots.get i).committed) with
  | some i => i
  | none => [1, 2].foldl (fun b i => if newerGen (c.slots.get b).gen (c.slots.get i).gen then i else b) 0

/-- Header LBA of shard `i` in its slot, by what this package writes of each shard. -/
def headerLba (es : List PlanEntry) (reps : List Nat) (own i : Nat) : Nat :=
  1 + sumN ((es.take i).map (fun e => shardLbas e (writerOf e reps own == own)))

/-- Rank 0 holds PKG_WRITTEN from every package: the job commit record is written (R413). -/
def State.commitDecide (s : State) (t : Nat) : State :=
  let c := s.ckpt t
  let j := (s.ten t).job
  if c.written.length < j.rankCount.toNat then s else
  let d := digest32 ((List.range j.rankCount.toNat).flatMap (fun r => ((c.written.find? (fun w => w.1.toNat == r)).map (·.2)).getD []))
  let h := s.planHead t
  let es := h.1.planEntries t h.2.2
  (es.1.putLbas t c.slot (slotLbas es.2.2.1 es.2.2.2 j.ownRank.toNat) 0 true (padTo 128 (commitRecord j 1 c.gen c.step s.t d))).updCkpt t
    (fun c => { c with jobDigest := d, phase := .jobCommit })

/-- This package's PKG_WRITTEN: to rank 0, or rank 0's own (R408 step 4, R413). -/
def State.reportWritten (s : State) (t : Nat) (st reason : Byte) : State :=
  let c := s.ckpt t
  let s1 := s.updCkpt t (fun c => { c with phase := .written, tWritten := s.t })
  if s.isRank0 t then
    (if st = stDone then (s1.updCkpt t (fun c => { c with written := c.written ++ [((s.ten t).job.ownRank, c.manifestDigest)] })).commitDecide t
     else s1.abandonAll t reason)
  else s1.sendSvc t 0 ([0x05] ++ beBytes 4 c.gen.toNat ++ [st, reason, 0, 0] ++ padTo 32 c.manifestDigest)

/-- A reference record, once the writer's digest is known (R411). -/
def State.putReference (s : State) (t : Nat) (es : List PlanEntry) (reps : List Nat) (i : Nat) (digest : List Byte) : State :=
  let j := (s.ten t).job
  let c := s.ckpt t
  let e := es.getD i {}
  let r := s.svcRead e.src e.len
  let same := r.2.1 && digest32 r.2.2 == digest
  let s1 := r.1.putLbas t c.slot (slotLbas es reps j.ownRank.toNat) (headerLba es reps j.ownRank.toNat i) false
    (shardHeader j 2 same c.gen c.step e (writerOf e reps j.ownRank.toNat) digest)
  if same then s1 else
    (s1.updCkpt t (fun c => { c with mismatch := true })).hand
      { unit := pxUnit 1 0, cls := 0x0D, severity := 2, jobId := j.jobId, jobGen := j.jobGen, detail := padTo 24 (leBytes 4 e.shard.toNat) }

/-- `staged_gen` has reached the generation: shard headers and data are written, and replicas told their digests (R408 step 1, R411). -/
def execStagedGenSeen (t : Ten) (s : State) : Out :=
  let c := s.ckpt t.val
  if c.state ≠ 2 ∨ c.phase ≠ .idle then .next s else
  let h := s.planHead t.val
  if !h.2.1 || fieldAt h.2.2 0x1C 4 ≠ c.gen.toNat then .next h.1 else
  let p := h.1.planEntries t.val h.2.2
  if !p.2.1 then .next p.1 else
  let es := p.2.2.1
  let reps := p.2.2.2
  let j := (s.ten t.val).job
  let own := j.ownRank.toNat
  let slot := c.pickSlot
  let s1 := p.1.updCkpt t.val (fun c => { c with phase := .shards, slot := slot, slots := c.slots.set slot {}, manifestDigest := [] })
  .next ((es.zipIdx).foldl (fun s x =>
    let e := x.1
    if writerOf e reps own = own then
      let r := s.svcRead e.src e.len
      let d := digest32 r.2.2
      let s2 := r.1.putLbas t.val slot (slotLbas es reps own) (headerLba es reps own x.2) false
        (padTo 4096 (shardHeader j 1 false c.gen c.step e own d) ++ r.2.2)
      let s3 := if r.2.1 then s2 else s2.updCkpt t.val (fun c => { c with mismatch := true })
      if e.replicated then (reps.filter (· != own)).foldl (fun s m =>
          s.sendSvc t.val m ([0x04] ++ beBytes 4 c.gen.toNat ++ beBytes 4 e.shard.toNat ++ d)) s3 else s3
    else match (s.ckpt t.val).notes.find? (fun n => n.1 == e.shard) with
      | some n => s.putReference t.val es reps x.2 n.2
      | none => s) s1)

/-- The writer's digest of a replicated shard arrives, of the generation being written or of the next (R411). -/
def execDigestNote (t : Ten) (from0 : SvcFrom) (gen shard : BitVec 32) (digest : List Byte) (s0 : State) : Out :=
  let r := s0.svcIn t.val from0
  let s := r.1
  let c := s.ckpt t.val
  let next := c.gen ≠ gen && c.nextCut.any (fun x => x.1 == gen)
  if !r.2 || !s.ckptActs || (c.state ≠ 1 && c.state ≠ 2) || (c.gen ≠ gen && !next)
      || (if next then c.nextNotes else c.notes).any (fun n => n.1 == shard) then .next s
  else
    let h := s.planHead t.val
    let p := h.1.planEntries t.val h.2.2
    match (p.2.2.1.zipIdx).find? (fun x => x.1.shard == shard && x.1.replicated) with
    | none => .next p.1
    | some (e, i) =>
      if !h.2.1 || !p.2.1 || writerOf e p.2.2.2 (s.ten t.val).job.ownRank.toNat ≠ from0.rank.toNat then .next p.1 else
      if next then .next (p.1.updCkpt t.val (fun c => { c with nextNotes := c.nextNotes ++ [(shard, digest)] })) else
      let s1 := p.1.updCkpt t.val (fun c => { c with notes := c.notes ++ [(shard, digest)] })
      .next (if c.phase = .shards then s1.putReference t.val p.2.2.1 p.2.2.2 i digest else s1)

/-- The slot of a generation that is committed (R407). -/
def Ckpt.committedSlot (c : Ckpt) : Slot :=
  { gen := c.gen, step := c.step, committed := true, manifestDigest := c.manifestDigest, result := 0, commitSeen := true }

/-- The commit of a generation on this package: `last_gen`, `last_status`, the slot (R413). -/
def State.committed (s : State) (t : Nat) : State :=
  let c := s.ckpt t
  ((s.planWrite t 0x2A [stDone, 0]).updCkpt t (fun c => { c with
    lastGen := c.gen, newest := c.gen
    slots := c.slots.set c.slot c.committedSlot
    records := c.records ++ [(c.gen, c.jobDigest)] })).ckptIdle t |> fun s' => if c.state = 2 then s' else s

/-- MIRROR_DATA messages of a tenancy that the twin has not acknowledged, and so not confirmed as flushed (R412). -/
def State.mirrorOpen (s : State) (t : Nat) : Bool :=
  [0, 1].any (fun pl => (s.fab pl).outst.any (fun o => o.owner == .mirror t) || (s.fab pl).waiting.any (fun r => r.owner == .mirror t))

/-- The job commit record stands, in both copies where there are two: COMMIT goes out (R413 step 3). -/
def State.commitGo (s : State) (t : Nat) : State :=
  let c := s.ckpt t
  (s.sendAll t ([0x06] ++ beBytes 4 c.gen.toNat ++ beBytes 8 c.step.toNat ++ padTo 32 c.jobDigest)).committed t

/-- The package's part is written: PKG_WRITTEN, with a replica mismatch where there was one (R408, R411). -/
def State.partWritten (s : State) (t : Nat) : State :=
  s.reportWritten t (if (s.ckpt t).mismatch then stAborted else stDone) (if (s.ckpt t).mismatch then 3 else 0)

/-- What waited for the twin's confirmation goes on once no message is unconfirmed (R408 step 4, R413 step 2). -/
def State.mirrorsDone (s : State) : State :=
  (List.range 8).foldl (fun s t =>
    let c := s.ckpt t
    if c.state ≠ 2 ∨ s.mirrorOpen t then s
    else match c.phase with
      | .mirror => s.partWritten t
      | .jobMirror => s.commitGo t
      | _ => s) s

/-- The twin is gone: its messages are given up, and nothing waits for it (R412). -/
def State.mirrorsLost (s : State) : State :=
  let drop := fun (f : Fabric) => { f with outst := f.outst.filter (fun o => !o.frame.twin), waiting := f.waiting.filter (fun r => !r.twin) }
  ((s.updFab 0 drop).updFab 1 drop).mirrorsDone

def execAcknowledgement (pl : Plane) (sub : SubPort) (f : WtFrame) (s : State) : Out := .next (s.answerFrame pl sub f 6).mirrorsDone

/-- The module has flushed an LBA of the twin's: the two messages that brought it are acknowledged, which confirms the copy. DESIGN CHOICE
(log 50): a failed flush is not confirmed. -/
def State.mirrorFlushed (s : State) (ok : Bool) : State :=
  match s.twin.flushing with
  | [] => s
  | x :: r =>
    let s1 := { s with twin := { s.twin with flushing := r } }
    if ok then x.foldl (fun s y => s.wtDone y.1.val y.2 stDone []) s1 else s1

/-- The module has completed the commands of the present phase of a tenancy's generation (R408). -/
def State.phaseDone (s : State) (t : Ten) (ok : Bool) : State :=
  let c := s.ckpt t.val
  match c.phase with
  | .idle | .written | .mirror | .jobMirror => s
  | .committing => (if ok then s.committed t.val else s.ckptIdle t.val)
  | .jobCommit =>
    if !ok then (s.abandonAll t.val 2)
    else if s.mirrorOpen t.val then (s.updCkpt t.val (fun c => { c with phase := .jobMirror }))
    else (s.commitGo t.val)
  | ph =>
    if !ok then (s.reportWritten t.val stAborted 2) else
    match ph with
    | .shards =>
      let h := s.planHead t.val
      let p := h.1.planEntries t.val h.2.2
      let own := (s.ten t.val).job.ownRank.toNat
      if p.2.2.1.any (fun e => writerOf e p.2.2.2 own != own && !c.notes.any (fun n => n.1 == e.shard)) then s
      else ((p.1.send .nvmeFlush).updCkpt t.val (fun c => { c with phase := .flush1 }))
    | .flush1 =>
      let s1 := s.planWrite t.val 0x20 (leBytes 4 c.gen.toNat)
      let h := s1.planHead t.val
      let p := h.1.planEntries t.val h.2.2
      let es := p.2.2.1
      let reps := p.2.2.2
      let j := (s.ten t.val).job
      let own := j.ownRank.toNat
      let l := (es.zipIdx).foldl (fun (acc : State × List (PlanEntry × Nat × Nat × List Byte)) x =>
        let mine := writerOf x.1 reps own == own
        let r := if mine then acc.1.svcRead x.1.src x.1.len else (acc.1, true, [])
        let d := if mine then digest32 r.2.2 else ((c.notes.find? (fun n => n.1 == x.1.shard)).map (·.2)).getD []
        (r.1, acc.2 ++ [(x.1, if mine then 1 else 2, headerLba es reps own x.2, d)])) (p.1, [])
      let m := manifestBytes j c.gen c.step (!s.mirrors t.val) l.2
      ((l.1.putLbas t.val c.slot (slotLbas es reps own) (headerLba es reps own es.length) false m.1).updCkpt t.val
        (fun c => { c with phase := .manifest, manifestDigest := m.2 }))
    | .manifest => ((s.send .nvmeFlush).updCkpt t.val (fun c => { c with phase := .flush2 }))
    | _ => (if s.mirrorOpen t.val then s.updCkpt t.val (fun c => { c with phase := .mirror }) else s.partWritten t.val)

/-- Node firmware awaits a completion of the module (R512). -/
def State.awaitsModule (s : State) (own : Option Ten) : Bool :=
  match own with
  | none => !s.twin.flushing.isEmpty
  | some t => (s.ckpt t.val).state == 2 && (match (s.ckpt t.val).phase with
    | .idle | .written | .mirror | .jobMirror => false
    | _ => true)

/-- The module reports a completion or an error: of a tenancy's generation, or of its flush of the twin's oldest LBA. It raises source 35 (R512). -/
def execNvmeCompletion (own : Option Ten) (ok : Bool) (s : State) : Out :=
  if !s.awaitsModule own then .next (if ok then s else s.raise 35) else
  match own with
  | none => .next ((s.raise 35).mirrorFlushed ok)
  | some t => .next ((s.raise 35).phaseDone t ok)

/-- A package reports that it has written its part, or why it has not (R413, R414). -/
def execPkgWritten (t : Ten) (from0 : SvcFrom) (gen : BitVec 32) (status reason : Byte) (digest : List Byte) (s0 : State) : Out :=
  let r := s0.svcIn t.val from0
  let s := r.1
  let c := s.ckpt t.val
  if !r.2 || !s.isRank0 t.val || c.state ≠ 2 || c.gen ≠ gen || c.written.any (fun w => w.1 == from0.rank) then .next s
  else if status ≠ stDone then .next (s.abandonAll t.val reason)
  else .next ((s.updCkpt t.val (fun c => { c with written := c.written ++ [(from0.rank, digest)] })).commitDecide t.val)

/-- COMMIT arrives: the generation is committed, and its slot is kept so (R407); the package copy of the commit record is written (R408 step 5). -/
def execCommit (t : Ten) (from0 : SvcFrom) (gen : BitVec 32) (step : BitVec 64) (digest : List Byte) (s0 : State) : Out :=
  let r := s0.svcIn t.val from0
  let s := r.1
  let c := s.ckpt t.val
  if !r.2 || from0.rank ≠ 0 || s.isRank0 t.val || c.state ≠ 2 || c.phase ≠ .written || c.gen ≠ gen then .next s
  else
    let h := s.planHead t.val
    let p := h.1.planEntries t.val h.2.2
    .next ((p.1.putLbas t.val c.slot (slotLbas p.2.2.1 p.2.2.2 (s.ten t.val).job.ownRank.toNat) 0 true (padTo 128 (commitRecord (s.ten t.val).job 0 gen step s.t digest))).updCkpt t.val
      (fun c => { c with phase := .committing, jobDigest := digest, slots := c.slots.set c.slot c.committedSlot }))

/-- Region, slot, half and LBA of a MIRROR_DATA payload (R415). -/
def mirrorKey (p : List Byte) : Nat × Nat × Nat × Nat := ((p.getD 1 0).toNat, (p.getD 2 0).toNat, (p.getD 3 0).toNat, beVal (slice p 5 8))

/-- The LBA of the module for a place of a region (R400). -/
def State.regionLba (s : State) (lbas region slot lba : Nat) : Nat := 256 + (if region = 1 then 3 * lbas else 0) + slot * lbas + lba

/-- Half an LBA from the twin: both halves together are written into the region named, at the same slot position, and flushed; the
acknowledgement, which confirms them, waits for that (R412, R415, R468). DESIGN CHOICE (log 50): on a port that is no twin port the message is a
service frame like others, and mirrors nothing; one that names no half of an LBA of a region does nothing either. -/
def execMirrorData (from0 : SvcFrom) (region slot half : Byte) (_lba : BitVec 64) (s : State) : Out :=
  let pl := from0.plane
  if !(s.port pl.val from0.sub.val).twin then .next (s.svcIn (((List.range 8).find? (fun t => s.svcFrom t from0)).getD 0) from0).1 else
  let r := s.wtRequest pl from0.sub from0.frame 0xA
  match r.2 with
  | none => .next r.1
  | some g =>
    if s.twin.mode = 0 ∨ 1 < region.toNat ∨ 2 < slot.toNat ∨ 1 < half.toNat ∨ g.payload.length ≠ 2061 then .next (r.1.execReq pl.val g stDone []) else
    let s1 := r.1.acceptReq pl.val g
    let k := mirrorKey g.payload
    match takeFirst (fun x : Plane × WtFrame => let y := mirrorKey x.2.payload
                                               y.1 == k.1 && y.2.1 == k.2.1 && y.2.2.2 == k.2.2.2 && y.2.2.1 != k.2.2.1) s1.twin.mirrored with
    | none => .next { s1 with twin := { s1.twin with mirrored := s1.twin.mirrored ++ [(pl, g)] } }
    | some (x, rest) =>
      let t := ((List.range 8).find? (fun t => (s.ten t).job.state != 0)).getD 0
      let h := s1.planHead t
      let p := h.1.planEntries t h.2.2
      let lba := s.regionLba (slotLbas p.2.2.1 p.2.2.2 (s.ten t).job.ownRank.toNat) k.1 k.2.1 k.2.2.2
      let a := x.2.payload.drop 13
      let b := g.payload.drop 13
      .next (({ p.1 with twin := { p.1.twin with mirrored := rest, flushing := p.1.twin.flushing ++ [[x, (pl, g)]] } }.send
        (.nvmeWrite lba false (if k.2.2.1 = 0 then b ++ a else a ++ b))).send .nvmeFlush)

/-! ### Restore (R416 to R419) -/

/-- A restore begins: every package reads its slots, to judge them (R416). -/
def State.restoreStart (s : State) (t : Nat) : State :=
  let h := s.planHead t
  let p := h.1.planEntries t h.2.2
  let n := slotLbas p.2.2.1 p.2.2.2 (s.ten t).job.ownRank.toNat
  (([(0, 1), (256, n), (256 + n, n), (256 + 2 * n, n)].foldl (fun s x => s.send (.nvmeRead x.1 x.2)) p.1)).updCkpt t
    (fun c => { c with state := 3, views := [], records := [], dones := [], waitShards := [], earlyShards := [], restoreBad := false
                       restoreGen := 0, passedOver := 0, passReason := 0xFF, restoreStatus := 0 })

/-- A manifest entry (R410). -/
structure ManEntry where
  data : Bool
  len : Nat
  digest : List Byte
deriving DecidableEq, Repr, Inhabited

/-- The entries of a slot's manifest. -/
def slotEntries (c : SlotCopy) : List ManEntry :=
  (List.range (fieldAt c.manifest 4 4)).map (fun i => let b := slice c.manifest (64 + 64 * i) 64
                                                     ⟨b.getD 4 0 == 1, fieldAt b 16 8, slice b 32 32⟩)

/-- The manifest has a valid `magic` and `manifest_digest` (R410). -/
def hasManifest (c : SlotCopy) : Bool :=
  fieldAt c.manifest 0 4 == 0x5A510002 && digest32 (slice c.manifest 64 (64 * fieldAt c.manifest 4 4)) == slice c.manifest 32 32

/-- Shard `i` of the slot is a reference, or its data has its digest. -/
def shardOk (c : SlotCopy) (i : Nat) (e : ManEntry) : Bool := !e.data || digest32 ((c.data.getD i []).take e.len) == e.digest

/-- A slot's copy judged (R416), `other` being the other copy: the first result that applies. -/
def judgeCopy (c other : SlotCopy) : Byte :=
  let es := (slotEntries c).zipIdx
  if !hasManifest c then 3
  else if es.any (fun x => let b := c.headers.getD x.2 []
                           fieldAt b 0x0C 4 != fieldAt c.manifest 16 4 || fieldAt b 0x10 8 != fieldAt c.manifest 24 8) then 1
  else if es.any (fun x => !shardOk c x.2 x.1 && !shardOk other x.2 x.1) then 2
  else 0

/-- The commit record of a copy: its generation and job digest (R413). -/
def slotRecord (c : SlotCopy) : Option (BitVec 32 × List Byte) :=
  if fieldAt c.commit 0 4 = 0x5A510003 then some (BitVec.ofNat 32 (fieldAt c.commit 12 4), slice c.commit 36 32) else none

/-- What the package finds in one slot: where the module header names another job, or a shard fails its digest, the twin's copy is judged
(R416). -/
def slotView (foreign : Bool) (own twin : SlotCopy) : SlotView :=
  let spoilt := hasManifest own && (slotEntries own).zipIdx.any (fun x => !shardOk own x.2 x.1)
  let c := if foreign || (spoilt && !twin.manifest.isEmpty) then twin else own
  let gen := BitVec.ofNat 32 (fieldAt c.manifest 16 4)
  { gen := gen, step := BitVec.ofNat 64 (fieldAt c.manifest 24 8), result := judgeCopy c (if foreign then twin else if c = own then twin else own)
    commitSeen := (if foreign then [twin] else [own, twin]).any (fun x => ((slotRecord x).map (·.1)) == some gen)
    manifestDigest := padTo 32 (slice c.manifest 32 32) }

/-- The judgements of a package's three slots, and the commit records found (R416, R417). -/
def restoreJudged (f : RestoreFound) (job : BitVec 16) : List SlotView × List (BitVec 32 × List Byte) :=
  let foreign := fieldAt f.header 8 2 != job.toNat
  let own := fun i => f.own.getD i {}
  let twin := fun i => f.twin.getD i {}
  ([0, 1, 2].map (fun i => slotView foreign (own i) (twin i)),
   [0, 1, 2].flatMap (fun i => (if foreign then [] else (slotRecord (own i)).toList) ++ (slotRecord (twin i)).toList))

/-- The result that the packages report for a generation: 0 where every package holds it valid, else the first other result. -/
def viewResult (views : List (BitVec 16 × List SlotView)) (g : BitVec 32) : Nat :=
  views.foldl (fun r v => if r ≠ 0 then r else
    match v.2.find? (fun x => x.gen == g && x.result != 3) with
    | some x => x.result.toNat
    | none => 3) 0

/-- The manifest digests of a generation, in rank order. -/
def viewDigests (views : List (BitVec 16 × List SlotView)) (n : Nat) (g : BitVec 32) : List Byte :=
  (List.range n).flatMap (fun r => match views.find? (fun v => v.1.toNat == r) with
    | some v => ((v.2.find? (fun x => x.gen == g)).map (·.manifestDigest)).getD []
    | none => [])

/-- Generations of which a commit record has been found, newest first (R417). -/
def committedGens (c : Ckpt) : List (BitVec 32) :=
  let l := (c.records.map (·.1) ++ c.views.flatMap (fun v => (v.2.filter (·.commitSeen)).map (·.gen))).eraseDups
  l.foldr insNew []
where insNew (x : BitVec 32) : List (BitVec 32) → List (BitVec 32)
  | [] => [x]
  | y :: r => if newerGen x y then x :: y :: r else y :: insNew x r

/-- The result code of a committed generation; a job digest that does not match counts as mixed. DESIGN CHOICE (log 50): where rank 0 knows of
the commit record from another package's view alone, it has no record to compare with, and the digest excludes nothing. -/
def judgeGen (c : Ckpt) (n : Nat) (g : BitVec 32) : Nat :=
  let r := viewResult c.views g
  if r ≠ 0 then r
  else match c.records.find? (fun x => x.1 == g) with
    | some x => if digest32 (viewDigests c.views n g) = x.2 then 0 else 1
    | none => 0

/-- This package's answer to RESTORE_GO (R417), and rank 0's end of the restore (R418, R419). -/
def State.restoreEnd (s : State) (t : Nat) : State :=
  let c := s.ckpt t
  let j := (s.ten t).job
  if c.dones.length < j.rankCount.toNat then s else
  let st := if c.dones.any (fun d => d.2 != stDone && d.2 != stNoGeneration) then stAborted else c.restoreStatus
  let step := match c.views.flatMap (·.2) |>.find? (fun v => v.gen == c.restoreGen) with
    | some v => v.step.toNat
    | none => 0
  let rep := [st, c.passReason] ++ leBytes 2 c.passedOver ++ leBytes 4 c.restoreGen.toNat ++ leBytes 8 step ++ leBytes 8 s.t ++ List.replicate 8 0
  ((s.send (.restoreReport t rep)).updCkpt t (fun c => { c with report := rep })).ckptIdle t

def State.restoreAnswer (s : State) (t : Nat) : State :=
  let c := s.ckpt t
  let st := if c.restoreGen = BitVec.allOnes 32 then stNoGeneration else if c.restoreBad then stAborted else stDone
  let s1 := if st = stDone then s.updCkpt t (fun c => { c with lastGen := c.restoreGen }) else s
  if s.isRank0 t then (s1.updCkpt t (fun c => { c with dones := c.dones ++ [((s.ten t).job.ownRank, st)] })).restoreEnd t
  else (s1.sendSvc t 0 ([0x0C] ++ beBytes 4 c.restoreGen.toNat ++ [st])).ckptIdle t

/-- The next piece of a reference shard: complete, the shard is checked against the reference digest and written (R417). -/
def State.shardPiece (s : State) (t : Nat) (x : BitVec 16 × BitVec 32 × BitVec 64 × List Byte) : State :=
  let h := s.planHead t
  let p := h.1.planEntries t h.2.2
  match p.2.2.1.find? (fun e => e.shard == x.2.1), (s.ckpt t).waitShards.find? (fun w => w.shard == x.2.1) with
  | some e, some w =>
    let got := w.got ++ x.2.2.2
    if writerOf e p.2.2.2 (s.ten t).job.ownRank.toNat ≠ x.1.toNat then p.1
    else if got.length < e.len then
      p.1.updCkpt t (fun c => { c with waitShards := c.waitShards.map (fun y => if y.shard = x.2.1 then { y with got := got } else y) })
    else
      let s1 := if digest32 (got.take e.len) = w.digest then p.1.svcWrite e.dest (got.take e.len) else p.1.updCkpt t (fun c => { c with restoreBad := true })
      let s2 := s1.updCkpt t (fun c => { c with waitShards := c.waitShards.filter (fun y => y.shard != x.2.1) })
      if (s2.ckpt t).waitShards.isEmpty then s2.restoreAnswer t else s2
  | _, _ => p.1

/-- Pieces that have come are taken, each in its turn. -/
def State.drainShards (s : State) (t : Nat) : Nat → State
  | 0 => s
  | n + 1 =>
    match takeFirst (fun x => (s.ckpt t).waitShards.any (fun w => w.shard == x.2.1 && w.got.length == x.2.2.1.toNat)) (s.ckpt t).earlyShards with
    | none => s
    | some (x, rest) => ((s.updCkpt t (fun c => { c with earlyShards := rest })).shardPiece t x).drainShards t n

/-- RESTORE_GO on this package: the generation is one that is committed (R407). Data shards go to their destinations, and the writer of a replicated shard sends it to its
replicas. `data` is what the module, or the twin's mirror, holds: a shard's data, or a reference record's digest. -/
def State.restoreGoLocal (s : State) (t : Nat) (gen : BitVec 32) (data : List (BitVec 32 × List Byte)) : State :=
  let s0 := s.updCkpt t (fun c => { c with
    restoreGen := gen, slots := c.slots.map (fun x => (x.1, if x.2.gen = gen ∧ gen ≠ 0 then { x.2 with committed := true } else x.2)) })
  if gen = BitVec.allOnes 32 then s0.restoreAnswer t else
  let h := s0.planHead t
  let p := h.1.planEntries t h.2.2
  let own := (s.ten t).job.ownRank.toNat
  let s1 := p.2.2.1.foldl (fun s e =>
    match data.find? (fun d => d.1 == e.shard) with
    | none => s.updCkpt t (fun c => { c with restoreBad := true })
    | some d =>
      if writerOf e p.2.2.2 own = own then
        let b := d.2.take e.len
        let s2 := s.svcWrite e.dest b
        if e.replicated then (p.2.2.2.filter (· != own)).foldl (fun s m =>
            (List.range (ceilDiv b.length 3968)).foldl (fun s i =>
              s.sendSvc t m ([0x0B] ++ beBytes 4 e.shard.toNat ++ beBytes 8 (3968 * i) ++ slice b (3968 * i) 3968)) s) s2
        else s2
      else s.updCkpt t (fun c => { c with waitShards := c.waitShards ++ [{ shard := e.shard, digest := d.2 }] })) p.1
  if (s1.ckpt t).waitShards.isEmpty then s1.restoreAnswer t else s1.drainShards t (s1.ckpt t).earlyShards.length

/-- Rank 0 has every view: it chooses the generation (R417, R418). What it restores itself comes with its own RESTORE_GO. -/
def State.restoreDecide (s : State) (t : Nat) : State :=
  let c := s.ckpt t
  let j := (s.ten t).job
  let n := j.rankCount.toNat
  if c.views.length < n then s else
  let gs := committedGens c
  let passed := gs.takeWhile (fun g => judgeGen c n g != 0)
  let pick := (gs.drop passed.length).head?
  let reason := match passed with
    | [] => 0xFF
    | g :: _ => judgeGen c n g
  let gen := pick.getD (BitVec.allOnes 32)
  let st := match pick with
    | none => stNoGeneration
    | some _ => if passed.any (fun g => judgeGen c n g == 1) then stMixedGeneration else stDone
  let s1 := (s.sendAll t ([0x0A] ++ beBytes 4 gen.toNat)).updCkpt t (fun c => { c with
    restoreGen := gen, restoreStatus := st, passedOver := passed.length, passReason := BitVec.ofNat 8 reason
    newest := match gs with | g :: _ => g | [] => c.newest })
  if pick.isNone then s1.restoreGoLocal t gen [] else s1

/-- A package's judgements of its slots (R416): its own, from what it has read of its module and of its twin's mirror; or another package's, at
rank 0. -/
def execRestoreView (t : Ten) (from0 : SvcFrom) (views0 : List SlotView) (found : RestoreFound) (s : State) : Out :=
  let c := s.ckpt t.val
  let own := (s.ten t.val).job.ownRank
  if from0.rank = own then
    if c.state ≠ 3 ∨ c.views.any (fun v => v.1 == own) then .next s else
    let j := restoreJudged found (s.ten t.val).job.jobId
    let views := j.1
    let s1 := s.updCkpt t.val (fun c => { c with
      records := j.2
      slots := (views.zipIdx).foldl (fun t x => t.set x.2 { gen := x.1.gen, step := x.1.step, committed := x.1.commitSeen
                                                            manifestDigest := x.1.manifestDigest, result := x.1.result, commitSeen := x.1.commitSeen }) c.slots })
    if s.isRank0 t.val then .next ((s1.updCkpt t.val (fun c => { c with views := c.views ++ [(own, views)] })).restoreDecide t.val)
    else .next ((s1.updCkpt t.val (fun c => { c with views := [(own, views)] })).sendSvc t.val 0 (viewBytes views))
  else
    let r := s.svcIn t.val from0
    let c := r.1.ckpt t.val
    if !r.2 || !r.1.isRank0 t.val || c.state ≠ 3 || c.views.any (fun v => v.1 == from0.rank) then .next r.1
    else .next ((r.1.updCkpt t.val (fun c => { c with views := c.views ++ [(from0.rank, views0)] })).restoreDecide t.val)

/-- RESTORE_GO, with what this package's module holds of the generation. -/
def execRestoreGo (t : Ten) (from0 : SvcFrom) (gen : BitVec 32) (data : List (BitVec 32 × List Byte)) (s : State) : Out :=
  let c := s.ckpt t.val
  if s.isRank0 t.val then
    (if c.state ≠ 3 ∨ ¬ c.waitShards.isEmpty ∨ c.views.length < (s.ten t.val).job.rankCount.toNat ∨ gen ≠ c.restoreGen ∨ c.dones.any (fun d => d.1 == 0) then .next s
     else .next (s.restoreGoLocal t.val gen data))
  else
    let r := s.svcIn t.val from0
    let c := r.1.ckpt t.val
    if !r.2 || from0.rank ≠ 0 || c.state ≠ 3 || !c.waitShards.isEmpty then .next r.1
    else .next (r.1.restoreGoLocal t.val gen data)

/-- A piece of a reference shard from its writer comes: it waits until it is the next one of its shard (R417). -/
def execShardData (t : Ten) (from0 : SvcFrom) (shard : BitVec 32) (off : BitVec 64) (data : List Byte) (s0 : State) : Out :=
  let r := s0.svcIn t.val from0
  if !r.2 || (r.1.ckpt t.val).state ≠ 3 then .next r.1 else
  let s := r.1.updCkpt t.val (fun c => { c with earlyShards := c.earlyShards ++ [(from0.rank, shard, off, data)] })
  .next (s.drainShards t.val (s.ckpt t.val).earlyShards.length)

def execRestoreDone (t : Ten) (from0 : SvcFrom) (gen : BitVec 32) (status : Byte) (s0 : State) : Out :=
  let r := s0.svcIn t.val from0
  let s := r.1
  let c := s.ckpt t.val
  if !r.2 || !s.isRank0 t.val || c.state ≠ 3 || c.restoreGen ≠ gen || c.dones.any (fun d => d.1 == from0.rank) then .next s
  else .next ((s.updCkpt t.val (fun c => { c with dones := c.dones ++ [(from0.rank, status)] })).restoreEnd t.val)

end Sys2Proof.Machine
end

