-- ==== Sys2Proof/Machine/Flit.lean ====
section
/-! DEFINITION. The flits of the die mesh and the armature (R33 to R36): how one is taken, accepted or dropped, served and answered,
and the transfers that a unit makes by them within one step. -/

namespace Sys2Proof.Machine

/-- The oldest flit from one core to another, if it has the kind that arrives (R36). -/
def State.flitTake (s : State) (src dst : BitVec 17) (kind : BitVec 4) : Option (Flit × State) :=
  match takeFirst (fun f : Flit => f.src == src && f.dst == dst) s.mesh with
  | some (f, rest) => if f.kind = kind then some (f, { s with mesh := rest }) else none
  | none => none

/-- The mesh's own answer to a flit whose destination no core has (log 38): it comes as if from there. -/
def State.flitLost (s : State) (f : Flit) : State :=
  if f.src = 0x1FFFF ∨ 1 < f.kind.toNat then s else
  s.sendFlit { dst := f.src, src := f.dst, kind := if f.kind = 1 then 2 else 4, lenM1 := f.lenM1, last := f.last, jobId := f.jobId
               opTag := f.opTag, req := f.req, part := f.part, err := stWindowFault, record := f.record }

/-- A flit that reads or writes arrives: a working store is reached at once, a slice through its foreign queue (R191, R196). -/
def State.flitRequest (s : State) (src dst : BitVec 17) (kind : BitVec 4) : State :=
  match s.flitTake src dst kind with
  | none => s
  | some (f, s1) =>
    match s1.phys dst.toNat with
    | none => s1.flitLost f
    | some d =>
      if !s1.flitAccepted d f then
        ((s1.flitDropped d f).flitAnswer d f s1.dropStatus (if kind = 1 then s1.freeBytes f.off.toNat f.len else []) true).drawn
      else if f.resident then s1.foreignPush d { asker := .flit f, op := if kind = 1 then .load else .store, addr := f.off.toNat, len := f.len, data := f.payload }
      else
        s1.flitServe d f

/-- A load's data or a store's completion comes back to the core that asked. -/
def State.flitBack (s : State) (src dst : BitVec 17) (kind : BitVec 4) : State :=
  match s.flitTake src dst kind with
  | none => s
  | some (f, s1) =>
    match s1.phys dst.toNat with
    | none => s1
    | some d =>
      if !s1.flitAccepted d f then
        let s2 := s1.flitDropped d f
        if f.record then s2 else (s2.dmaAnswer d f.req f.part s1.dropStatus (if kind = 2 then s1.freeBytes f.off.toNat f.len else []) true).drawn
      else if f.record then s1 else s1.dmaAnswer d f.req f.part f.err f.payload f.logged

/-- The oldest flit of a pair of cores arrives, whatever its kind. -/
def State.flitArrive (s : State) (src dst : BitVec 17) : State :=
  match s.mesh.find? (fun f => f.src == src && f.dst == dst) with
  | none => s
  | some f => if f.kind = 2 ∨ f.kind = 4 then s.flitBack src dst f.kind else s.flitRequest src dst f.kind

/-- The flits that one core has sent to another before now arrive first (R36). -/
def State.meshFlush (s : State) (src dst : BitVec 17) : State :=
  (s.mesh.filter (fun f => f.src == src && f.dst == dst)).foldl (fun s _ => s.flitArrive src dst) s

/-- The record of an access by the mesh that failed the local region check where it was made (R88, R204). -/
def State.meshFault (s : State) (c d : CoreId) (res : Bool) (off : Nat) (tag : BitVec 32) : State :=
  let w := (s.core c).who 2 tag
  s.hand { unit := engUnit c 3, cls := 0x06, severity := 2, status := stWindowFault, addrKind := 1
           address := BitVec.ofNat 64 (if res then (s.storeNpa d true off).getD 0 else 2 * 2 ^ 48 + off), jobId := w.jobId, jobGen := w.jobGen, opTag := tag }

/-- A unit of core `c` reads or writes bytes of core `d` by the mesh, in flits of at most 512 bytes, and goes on once they are answered:
the status, and the bytes read (R33, R35, R36, R196, R204, R210). -/
def State.meshMove (s : State) (c d : CoreId) (write res : Bool) (off n : Nat) (bs : List Byte) (tag : BitVec 32) : State × Byte × List Byte :=
  let a := BitVec.ofNat 17 (s.logNum c)
  let b := BitVec.ofNat 17 (s.logNum d)
  let s1 := (s.meshFlush a b).meshFlush b a
  let s0 := if res then s1.foreignFlush d else s1
  (List.range (ceilDiv n 512)).foldl (fun (acc : State × Byte × List Byte) i =>
    let k := Nat.min 512 (n - 512 * i)
    let f := acc.1.coreFlit c b.toNat (if write then 0 else 1) res (off + 512 * i) k (512 * (i + 1) ≥ n) tag (slice bs (512 * i) k) 0 0
    if acc.2.1 ≠ stDone then acc
    else if !acc.1.flitAccepted d f then
      ((acc.1.flitDropped d f).drawn, acc.1.dropStatus, if write then [] else acc.2.2 ++ acc.1.freeBytes (off + 512 * i) k)
    else
      let r := acc.1.flitAccess d f
      (if r.2.1 = stWindowFault then r.1.meshFault c d res (off + 512 * i) tag else r.1, r.2.1, if write then [] else acc.2.2 ++ r.2.2)) (s0, stDone, [])

/-- Read bytes at an NPA, those of another core's slice by the mesh. -/
def State.npaFetch (s : State) (c : CoreId) (npa n : Nat) (w : Who) : State × Byte × List Byte :=
  if npa / 2 ^ 48 ≠ 1 ∨ s.ownSlice c npa n then s.npaRead c npa n w else
  (slicePieces (npa % 2 ^ 48) n).foldl (fun (acc : State × Byte × List Byte) p =>
    match acc.1.rsTarget p.1 with
    | none => (acc.1, worse acc.2.1 stWindowFault, acc.2.2)
    | some (d, o) =>
      let r := if d = c then acc.1.npaRead c (2 ^ 48 + p.1) p.2 w else acc.1.meshMove c d false true o p.2 [] w.opTag
      (r.1, worse acc.2.1 r.2.1, acc.2.2 ++ padTo p.2 r.2.2)) (s, stDone, [])

/-- Write bytes at an NPA, those of another core's slice by the mesh. -/
def State.npaStore (s : State) (c : CoreId) (npa : Nat) (bs : List Byte) (w : Who) : State × Byte :=
  if npa / 2 ^ 48 ≠ 1 ∨ s.ownSlice c npa bs.length then s.npaWrite c npa bs w else
  (slicePieces (npa % 2 ^ 48) bs.length).foldl (fun (acc : State × Byte) p =>
    let b := slice bs (p.1 - npa % 2 ^ 48) p.2
    match acc.1.rsTarget p.1 with
    | none => (acc.1, worse acc.2 stWindowFault)
    | some (d, o) =>
      if d = c then let r := acc.1.npaWrite c (2 ^ 48 + p.1) b w
                    (r.1, worse acc.2 r.2)
      else let r := acc.1.meshMove c d true true o p.2 b w.opTag
           (r.1, worse acc.2 r.2.1)) (s, stDone)

end Sys2Proof.Machine
end

