-- ==== Sys2Proof/Machine/Linear.lean ====
section
/-! DEFINITION. The arithmetic of the solver engine (R217, R219, R229 to R234): quotients, roots, norms, the factorisations of `chol` and
`qr`, triangular solves and the vectors of CGLS. Every operation rounds to nearest even (R221). The spec fixes the order of a norm and no
other: the order in which the terms of a sum join is free (log 8). -/

namespace Sys2Proof.Machine

/-- A quotient rounded once: a long integer quotient with a sticky last bit (R241). -/
def fDiv (f : FSpec) (r : Rnd) (a b : FVal) : FVal × Flags :=
  match a, b with
  | .nan x, _ => (.nan x, 0)
  | _, .nan x => (.nan x, 0)
  | .inf n, .inf _ => let _ := n
                      (.nan 1, flNV)
  | .inf n, y => (.inf (n != y.isNeg), 0)
  | .num n _ _, .inf k => (.num (n != k) 0 0, 0)
  | .num n1 m1 e1, .num n2 m2 e2 =>
    if m2 = 0 then (if m1 = 0 then (.nan 1, flNV) else (.inf (n1 != n2), flDZ)) else
    let k := 66 + Nat.log2 m2
    let q := m1 * 2 ^ k / m2
    f.arith r (.num (n1 != n2) (2 * q + b2n (m1 * 2 ^ k % m2 != 0)) (e1 - e2 - k - 1))

/-- The integer square root of `n`, bit by bit from bit `b - 1` down. -/
def isqrt (n : Nat) : Nat → Nat → Nat
  | 0, r => r
  | b + 1, r => isqrt n b (if (r + 2 ^ b) * (r + 2 ^ b) ≤ n then r + 2 ^ b else r)

/-- A square root rounded once; of a negative value it is invalid (R221, R230). -/
def fSqrt (f : FSpec) (r : Rnd) (a : FVal) : FVal × Flags :=
  match a with
  | .num n m e =>
    if m = 0 then (a, 0) else if n then (.nan 1, flNV) else
    let k := 2 * (f.fw + 3) + (e % 2).toNat
    let q := m * 2 ^ k
    let s := isqrt q (Nat.log2 q / 2 + 1) 0
    f.arith r (.num false (2 * s + b2n (s * s != q)) ((e - k) / 2 - 1))
  | .inf n => if n then (.nan 1, flNV) else (a, 0)
  | v => (v, 0)

/-- The norm of a vector (R230): 64 partial sums of squares in the order of R141, added pairwise, and the root. DEDUCED (log 8): a square
joins its partial sum by one multiply-add of a cell. -/
def normOf (f : FSpec) (xs : List FVal) : FVal × Flags :=
  let or2 := fun (a b : FVal × Flags) (z : FVal × Flags) => (z.1, a.2 ||| b.2 ||| z.2)
  let part := fun (l : Nat) => ((xs.zipIdx).filter (fun y => y.2 % 64 == l)).foldl (fun a y =>
    or2 a a (fFma f .rne y.1 y.1 a.1)) ((FVal.zero, 0) : FVal × Flags)
  let half := fun (q : List (FVal × Flags)) => (List.range (q.length / 2)).map (fun t =>
    let a := q.getD (2 * t) (.zero, 0)
    let b := q.getD (2 * t + 1) (.zero, 0)
    or2 a b (fAdd f .rne a.1 b.1))
  let sum := (half (half (half (half (half (half ((List.range 64).map part))))))).headD (.zero, 0)
  or2 sum sum (fSqrt f .rne sum.1)

/-- The convergence ratio of two vectors (R229, R230): one FP64 division of norms, 0 for a zero denominator. -/
def ratio (num den : List FVal) : BitVec 64 × Flags :=
  let a := normOf fp64 num
  let b := normOf fp64 den
  let q := if b.1.isZero then (FVal.zero, 0) else fDiv fp64 .rne a.1 b.1
  (BitVec.ofNat 64 (fp64.code q.1), a.2 ||| b.2 ||| q.2)

/-! ### Sums whose order is free (log 8) -/

/-- Which sum, and how far it is: the choice the engine makes there. -/
abbrev Order := List Nat → Nat → Nat

/-- A term of a sum: a value, or a product that a cell's multiply-add takes up. -/
inductive Term where
  | val (v : FVal)
  | prod (a b : FVal)
deriving DecidableEq, Repr

/-- Two terms join in a cell: an addition, a multiply-add, or a product rounded first and then a multiply-add. -/
def Term.join (f : FSpec) (k : Nat) : Term → Term → FVal × Flags
  | .val a, .val b => fAdd f .rne a b
  | .val a, .prod b c => fFma f .rne b c a
  | .prod b c, .val a => fFma f .rne b c a
  | .prod a b, .prod c d =>
    let p := if k % 2 = 0 then ((a, b), (c, d)) else ((c, d), (a, b))
    let m := fMul f .rne p.1.1 p.1.2
    let z := fFma f .rne p.2.1 p.2.2 m.1
    (z.1, m.2 ||| z.2)

/-- The last term of a sum. -/
def Term.value (f : FSpec) : Term → FVal × Flags
  | .val v => (v, 0)
  | .prod a b => fMul f .rne a b

/-- A sum of terms, two of which join at a time; `pick` says which. -/
def sumTerms (f : FSpec) (pick : Nat → Nat) : Nat → List Term → FVal × Flags
  | _, [] => (.zero, 0)
  | _, [t] => t.value f
  | _, [a, b] => Term.join f (pick 0) a b
  | 0, _ => (.zero, 0)
  | k + 1, l =>
    let i := pick (3 * k + 1) % l.length
    let rest := l.eraseIdx i
    let j := pick (3 * k + 2) % rest.length
    let x := Term.join f (pick (3 * k + 3)) (l.getD i (.val .zero)) (rest.getD j (.val .zero))
    let y := sumTerms f pick k (.val x.1 :: rest.eraseIdx j)
    (y.1, x.2 ||| y.2)

/-- The sum of some terms. -/
def addUp (f : FSpec) (pick : Nat → Nat) (l : List Term) : FVal × Flags := sumTerms f pick l.length l

/-- The products of two vectors' elements, as terms. -/
def prods (a b : List FVal) : List Term := (a.zip b).map (fun p => .prod p.1 p.2)

/-- An inner product. -/
def dot (f : FSpec) (pick : Nat → Nat) (a b : List FVal) : FVal × Flags := addUp f pick (prods a b)

/-- A quotient, by the divide unit, or by the reciprocal that it forms once for a column (free, log 8). -/
def quotient (f : FSpec) (pick : Nat) (a b : FVal) : FVal × Flags :=
  if pick % 2 = 0 then fDiv f .rne a b
  else
    let r := fDiv f .rne (FVal.ofInt 1) b
    let p := fMul f .rne a r.1
    (p.1, r.2 ||| p.2)

/-- A list of results, with the flags of all. -/
def gather (l : List (FVal × Flags)) : List FVal × Flags := (l.map (·.1), l.foldl (fun a y => a ||| y.2) 0)

/-! ### Triangular solves -/

/-- Forward substitution with a lower triangle: each element is what is left of the right side over the diagonal. -/
def lowerSolve (f : FSpec) (o : Order) (tag : List Nat) (el : Nat → Nat → FVal) (b : List FVal) : List FVal × Flags :=
  (b.zipIdx).foldl (fun (acc : List FVal × Flags) p =>
    let r := addUp f (o (tag ++ [p.2])) (.val p.1 :: (acc.1.zipIdx).map (fun y => .prod (el p.2 y.2).neg y.1))
    let q := fDiv f .rne r.1 (el p.2 p.2)
    (acc.1 ++ [q.1], acc.2 ||| r.2 ||| q.2)) ([], 0)

/-- Back substitution with an upper triangle: forward substitution from the last unknown on. -/
def upperSolve (f : FSpec) (o : Order) (tag : List Nat) (el : Nat → Nat → FVal) (b : List FVal) : List FVal × Flags :=
  let n := b.length
  let r := lowerSolve f o tag (fun i k => el (n - 1 - i) (n - 1 - k)) b.reverse
  (r.1.reverse, r.2)

/-- Element of a matrix of rows. -/
def matAt (m : List (List FVal)) (i j : Nat) : FVal := (m.getD i []).getD j .zero

/-! ### Cholesky (R219, R234) -/

/-- Row `i` of the factor L of H = L Lᵀ after those above; none where its pivot is not positive. -/
def cholRow (f : FSpec) (o : Order) (h : Nat → Nat → FVal) (ls : List (List FVal)) (i : Nat) : Option (List FVal) × Flags :=
  let row := (List.range i).foldl (fun (acc : List FVal × Flags) j =>
    let s := addUp f (o [0, i, j]) (.val (h i j) :: prods (acc.1.map FVal.neg) (ls.getD j []))
    let q := quotient f (o [1, i, j] 0) s.1 (matAt ls j j)
    (acc.1 ++ [q.1], acc.2 ||| s.2 ||| q.2)) ([], 0)
  let d := addUp f (o [0, i, i]) (.val (h i i) :: prods (row.1.map FVal.neg) row.1)
  if d.1.le .zero then (none, row.2 ||| d.2)
  else
    let r := fSqrt f .rne d.1
    (some (row.1 ++ [r.1]), row.2 ||| d.2 ||| r.2)

/-- The factor of H by rows; none where a pivot is not positive (R234). -/
def cholFactor (f : FSpec) (o : Order) (h : Nat → Nat → FVal) (n : Nat) : Option (List (List FVal)) × Flags :=
  (List.range n).foldl (fun (acc : Option (List (List FVal)) × Flags) i =>
    match acc.1 with
    | none => acc
    | some ls =>
      let r := cholRow f o h ls i
      (r.1.map (fun row => ls ++ [row]), acc.2 ||| r.2)) (some [], 0)

/-- The solution of L Lᵀ x = b. -/
def cholSolve (f : FSpec) (o : Order) (tag : List Nat) (l : List (List FVal)) (b : List FVal) : List FVal × Flags :=
  let y := lowerSolve f o (2 :: tag) (matAt l) b
  let x := upperSolve f o (3 :: tag) (fun i k => matAt l k i) y.1
  (x.1, y.2 ||| x.2)

/-! ### Householder QR with the rows streamed (R219, R234, R242) -/

/-- The triangle R with its right side, and a block of rows of A with theirs. -/
structure QrStep where
  top : List (List FVal)
  rows : List (List FVal)
  flags : Flags := 0
deriving DecidableEq, Repr, Inhabited

/-- One reflection: column `k` of a block is folded into the triangle; a column of norm 0 with its diagonal stands. DEDUCED (log 8): the
reflection takes the sign that adds magnitudes; where the diagonal is zero, either sign. -/
def reflect (f : FSpec) (o : Order) (blk : Nat) (q : QrStep) (k : Nat) : QrStep :=
  let d := matAt q.top k k
  let col := q.rows.map (fun r => r.getD k .zero)
  let z := normOf f (d :: col)
  if z.1.isZero then { q with flags := q.flags ||| z.2 } else
  let neg := if d.isZero then o [4, blk, k] 0 % 2 == 1 else d.isNeg
  let alpha := if neg then z.1 else z.1.neg
  let v0 := fSub f .rne d alpha
  let s := if o [5, blk, k] 0 % 2 = 0 then fMul f .rne z.1 (if neg then v0.1.neg else v0.1)
           else addUp f (o [5, blk, k]) [.prod z.1 z.1, .prod z.1 (if neg then d.neg else d)]
  let width := (q.top.getD k []).length
  (List.range (width - (k + 1))).foldl (fun (q : QrStep) i =>
    let j := k + 1 + i
    let c := q.rows.map (fun r => r.getD j .zero)
    let w := addUp f (o [6, blk, k, j]) (.prod v0.1 (matAt q.top k j) :: prods col c)
    let t := quotient f (o [7, blk, k, j] 0) w.1 s.1
    let u := fFma f .rne t.1.neg v0.1 (matAt q.top k j)
    let y := gather ((col.zip c).map (fun p => fFma f .rne t.1.neg p.1 p.2))
    { top := q.top.set k ((q.top.getD k []).set j u.1), rows := (q.rows.zip y.1).map (fun p => p.1.set j p.2)
      flags := q.flags ||| w.2 ||| t.2 ||| u.2 ||| y.2 })
    { q with top := q.top.set k ((q.top.getD k []).set k alpha), flags := q.flags ||| z.2 ||| v0.2 ||| s.2 }

/-- A block of rows is folded into the triangle, column by column. -/
def qrBlock (f : FSpec) (o : Order) (n : Nat) (q : QrStep) (blk : Nat) (rows : List (List FVal)) : QrStep :=
  (List.range n).foldl (reflect f o blk) { q with rows := rows }

/-- Rows of A, with the right side as their last element, become the triangle R and its right side: 512 rows at a time (R242, DEDUCED, log 8);
none where a Householder norm, and with it the diagonal, is zero at the end (R234). -/
def qrFactor (f : FSpec) (o : Order) (n : Nat) (a : List (List FVal)) : Option (List (List FVal)) × Flags :=
  let width := (a.headD []).length
  let r := (List.range ((a.length + 511) / 512)).foldl (fun q b => qrBlock f o n q b ((a.drop (512 * b)).take 512))
    ({ top := List.replicate n (List.replicate width .zero), rows := [] } : QrStep)
  (if (List.range n).any (fun k => (matAt r.top k k).isZero) then none else some r.top, r.flags)

/-- The solution of R x = c. -/
def qrSolve (f : FSpec) (o : Order) (tag : List Nat) (r : List (List FVal)) (c : List FVal) : List FVal × Flags :=
  upperSolve f o (3 :: tag) (matAt r) c

/-! ### Vectors -/

/-- a + k b, element by element, by one multiply-add each. -/
def axpy (k : FVal) (b a : List FVal) : List FVal × Flags := gather ((a.zip b).map (fun p => fFma fp64 .rne k p.2 p.1))

/-- a - b, element by element. -/
def vecSub (a b : List FVal) : List FVal × Flags := gather ((a.zip b).map (fun p => fSub fp64 .rne p.1 p.2))

/-- a + b, element by element (R232, R233). -/
def vecSum (a b : List FVal) : List FVal × Flags := gather ((a.zip b).map (fun p => fAdd fp64 .rne p.1 p.2))

/-- b - A x, row by row. -/
def residualOf (o : Order) (tag : List Nat) (a : List (List FVal)) (x b : List FVal) : List FVal × Flags :=
  gather (((a.zip b).zipIdx).map (fun p => addUp fp64 (o (tag ++ [p.2])) (.val p.1.2 :: prods (p.1.1.map FVal.neg) x)))

/-- Aᵀ r, element by element; `n` columns. -/
def adjointOf (o : Order) (tag : List Nat) (a : List (List FVal)) (n : Nat) (r : List FVal) : List FVal × Flags :=
  gather ((List.range n).map (fun j => dot fp64 (o (tag ++ [j])) (a.map (fun row => row.getD j .zero)) r))

/-- FP64 codes of values, and values of codes. -/
def codes64 (l : List FVal) : List (BitVec 64) := l.map (fun v => BitVec.ofNat 64 (fp64.code v))
def values64 (l : List (BitVec 64)) : List FVal := l.map (fun v => fp64.decode v.toNat)

/-- Values rounded to FP32, in which a factor is computed under `fp32_factor` (R232). -/
def toFp32 (l : List FVal) : List FVal × Flags := gather (l.map (fun v => fp32.arith .rne v))

end Sys2Proof.Machine
end

