-- ==== Sys2Proof/Machine/Matrix.lean ====
section
/-! DEFINITION. The matrix engine (chapter 4): one command is the end of one tile pass (R100, R101, R116). -/

namespace Sys2Proof.Machine

/-- The accumulator's format (R104, R105, R107). -/
def MxBody.accElem (x : MxBody) : Elem :=
  if x.aFmt = 8 then .int 32 else if x.aFmt = 1 then .flt fp64 else .flt fp32

def Elem.bits : Elem → Nat
  | .flt f => 1 + f.ew + f.fw
  | .int w => w
  | _ => 32

/-- Values of the rows of one operand that a pass reads, as the store holds them. -/
def State.mxRows (s : State) (c : CoreId) (segs : List (Nat × Nat)) : List (List Byte) :=
  segs.map (fun g => s.ownPeek c g.1 g.2)

/-- Element (outer, inner) of rows read in either layout: `tr` says that the rows run along the outer index. DESIGN CHOICE (log 48): 6-bit
elements pack one after another along the stored row also where that does not run along K. -/
def rowElem (rows : List (List Byte)) (bits : Nat) (tr : Bool) (outer inner : Nat) : Nat :=
  if tr then packedCode (rows.getD inner []) bits outer else packedCode (rows.getD outer []) bits inner

/-- A product, sum or scaling of the matrix engine: SAT and FLUSH belong to `convert` (R108). A tiny inexact one sets UF, as R179 gives
accumulators (DEDUCED, log 19: R108 keeps UF to `convert` as well). -/
def mxOp (y : FVal × Flags) : FVal × Flags := (y.1, y.2 &&& ~~~ (flSAT ||| flFLUSH))

/-- The pairwise sums of R104, widths 32 to 1, each rounded to FP32. -/
def treeSum : Nat → List FVal → FVal × Flags
  | 0, q => (q.headD .zero, 0)
  | n + 1, q =>
    let r := (List.range (q.length / 2)).map (fun t => mxOp (fAdd fp32 .rne (q.getD (2 * t) .zero) (q.getD (2 * t + 1) .zero)))
    let x := treeSum n (r.map (·.1))
    (x.1, r.foldl (fun a y => a ||| y.2) x.2)

/-- One K group added to a narrow accumulator (R104 to R106). `av` and `bv` are the group's codes, fewer than 32 beyond k. DESIGN CHOICE
(log 44): with a scale byte of 0xFF, which makes s a NaN, the flags of the group's products and sums stand. -/
def mxGroup (x : MxBody) (ea eb : Elem) (acc : FVal) (av bv : List Nat) (sa sb : Nat) : FVal × Flags :=
  let ab := av.zip bv
  if x.aFmt = 8 then
    let sum : Int := ab.foldl (fun t p => t + toSigned 8 p.1 * toSigned 8 p.2) 0
    (FVal.ofInt (wrapInt 32 ((FVal.toInt .rne acc).1 + sum)), 0)
  else
    let q : FVal × Flags :=
      if x.aFmt = 0x15 then
        let sum : Int := ab.foldl (fun t p => t + toSigned 8 p.1 * toSigned 8 p.2) 0
        (.num (sum < 0) sum.natAbs (-12), 0)
      else
        let prods := ab.map (fun p => FVal.mul (elemVal ea p.1) (elemVal eb p.2))
        let t := treeSum 5 (prods.map (·.1) ++ List.replicate (32 - prods.length) .zero)
        (t.1, prods.foldl (fun a y => a ||| y.2) t.2)
    let s : FVal × Flags :=
      if isMx x.aFmt then
        if sa = 0xFF ∨ sb = 0xFF then (.nan 3, 0) else mxOp (fScale fp32 .rne q.1 ((sa : Int) + sb - 254))
      else (q.1, 0)
    let r := mxOp (fAdd fp32 .rne acc s.1)
    (r.1, q.2 ||| s.2 ||| r.2)

/-- The fused multiply-adds of a wide path, k ascending (R107). -/
def mxWide (f : FSpec) (r : Rnd) (acc : FVal) (ab : List (Nat × Nat)) : FVal × Flags :=
  ab.foldl (fun (a : FVal × Flags) p => let y := mxOp (fFma f r (f.decode p.1) (f.decode p.2) a.1)
                                       (y.1, a.2 ||| y.2)) (acc, 0)

/-- What an element is before `convert`: `alpha` applied (R104, R105, R107). -/
def mxAlpha (x : MxBody) (mode : Nat) (acc : FVal) : FVal × Flags :=
  if !x.useAlpha then (acc, 0)
  else if x.aFmt = 8 then mxOp (fMul fp32 .rne acc (fp32.decode x.alpha))
  else if x.aFmt = 1 then mxOp (fMul fp64 (arithRnd mode fp64) acc (fp32.decode x.alpha))
  else if x.aFmt = 2 then mxOp (fMul fp32 (arithRnd mode fp32) acc (fp32.decode x.alpha))
  else mxOp (fMul fp32 .rne acc (fp32.decode x.alpha))

/-- `convert` of one element (R104, R105): an INT8 result without `alpha` is written as it is. DESIGN CHOICE (log 44): so is a `gemm_acc`
result of exactly -2^31, which R105 wraps with no flag, though R169 limits an INT32 output to -(2^31 - 1). -/
def mxConvert (x : MxBody) (d : Desc) (seed : BitVec 64) (srDef idx : Nat) (v : FVal) : Written :=
  if x.aFmt = 8 ∧ ¬ x.useAlpha then
    let i := (FVal.toInt .rne v).1
    { code := toUnsigned 32 i, zero := i == 0 }
  else match elemOf x.cFmt with
    | none => {}
    | some e =>
      let n := if d.srBits = 0 then srDef else d.srBits
      cvtOut e d.ieeeOvf (outRnd d.mode x.cFmt (.sto n (laneBits seed d.tensorId idx n))) v

/-- An accumulator as it is kept between passes. -/
def accCode (e : Elem) (v : FVal) : BitVec 64 :=
  match e with
  | .flt f => BitVec.ofNat 64 (f.code v)
  | _ => BitVec.ofNat 64 (toUnsigned 32 (FVal.toInt .rne v).1)

def accVal (e : Elem) (c : BitVec 64) (made : Nat) : FVal :=
  match elemVal e (c.toNat % 2 ^ e.bits) with
  | .nan _ => .nan made
  | v => v

/-- Where a pass stands: tile row and column, rows and columns inside M × N, pass. -/
structure MxAt where
  ti : Nat
  tj : Nat
  rn : Nat
  cn : Nat
  p : Nat
deriving DecidableEq, Repr, Inhabited

def MxBody.at (x : MxBody) (tile pass : Nat) : MxAt :=
  let ti := tile / x.tilesN
  let tj := tile % x.tilesN
  ⟨ti, tj, Nat.min 16 (x.m - ti * 16), Nat.min 16 (x.n - tj * 16), pass⟩

/-- Segments of `c_in` or C of a tile. -/
def MxBody.tileSegs (x : MxBody) (a : MxAt) : List (Nat × Nat) :=
  let b := elemBits x.cFmt
  (List.range a.rn).map (fun i => (x.c + (a.ti * 16 + i) * x.ldc + a.tj * 16 * b / 8, (a.cn * b + 7) / 8))

/-- Everything one pass reads. -/
def MxBody.passSegs (x : MxBody) (a : MxAt) : List (Nat × Nat) :=
  x.aSegs a.ti a.p ++ x.bSegs a.tj a.p
    ++ x.aScaleSegs a.ti a.p ++ x.bScaleSegs a.tj a.p
    ++ (if x.acc ∧ a.p = 0 then x.tileSegs a else [])

/-- The accumulators after a pass (codes, NaNs made), and the flags of its arithmetic. DESIGN CHOICE (log 44): the padding of R100, +0 beyond
M and N, is multiplied with nothing, so that +0 against an infinity of the other operand sets no NV. -/
def State.mxPass (s : State) (c : CoreId) (d : Desc) (x : MxBody) (a : MxAt) (run : MxRun) : List FVal × Flags :=
  let ar := s.mxRows c (x.aSegs a.ti a.p)
  let br := s.mxRows c (x.bSegs a.tj a.p)
  let as := s.mxRows c (x.aScaleSegs a.ti a.p)
  let bs := s.mxRows c (x.bScaleSegs a.tj a.p)
  let cin := if x.acc ∧ a.p = 0 then s.mxRows c (x.tileSegs a) else []
  let ae := x.accElem
  let ea := (elemOf x.aFmt).getD .uint32
  let eb := (elemOf x.bFmt).getD .uint32
  let kn := Nat.min 256 (x.k - a.p * 256)
  let one := fun (i j : Nat) =>
    let start : FVal := if a.p = 0 then (if x.acc then elemVal ae (packedCode (cin.getD i []) ae.bits j) else .zero)
                        else accVal ae (run.acc.getD (i * 16 + j) 0) (run.made.getD (i * 16 + j) 0)
    let av := fun (t : Nat) => rowElem ar (elemBits x.aFmt) x.aT i t
    let bv := fun (t : Nat) => rowElem br (elemBits x.bFmt) (!x.bT) j t
    if x.wide then
      let f := if x.aFmt = 1 then fp64 else fp32
      mxWide f (arithRnd d.mode f) start ((List.range kn).map (fun t => (av t, bv t)))
    else
      (List.range (ceilDiv kn 32)).foldl (fun (acc : FVal × Flags) g =>
        let ts := (List.range (Nat.min 32 (kn - 32 * g))).map (32 * g + ·)
        let r := mxGroup x ea eb acc.1 (ts.map av) (ts.map bv)
          ((as.getD i []).getD g 0).toNat ((bs.getD j []).getD g 0).toNat
        (r.1, acc.2 ||| r.2)) (start, 0)
  let all := (List.range 16).flatMap (fun i => (List.range 16).map (fun j =>
    if i < a.rn ∧ j < a.cn then one i j else (FVal.zero, 0)))
  (all.map (·.1), (all.foldl (fun f y => f ||| y.2) (0 : Flags)))

/-- The elements of a finished tile, row by row: index in C, and what `convert` gives. -/
def State.mxOut (s : State) (c : CoreId) (d : Desc) (x : MxBody) (a : MxAt) (acc : List FVal) : List (Nat × Written) × Flags :=
  let k := s.core c
  let l := (List.range a.rn).flatMap (fun i => (List.range a.cn).map (fun j =>
    let idx := (a.ti * 16 + i) * x.n + a.tj * 16 + j
    let v := mxAlpha x d.mode (acc.getD (i * 16 + j) .zero)
    (idx, mxConvert x d k.seed k.srBits.toNat idx v.1, v.2)))
  (l.map (fun y => (y.1, y.2.1)), (l.foldl (fun f y => f ||| y.2.2) (0 : Flags)))

/-- The tile header of R103. -/
def tileHeader (tensor : BitVec 32) (row col fmt pass half : Nat) : BitVec 128 :=
  BitVec.ofNat 128 (tensor.toNat + 2 ^ 32 * (row % 65536) + 2 ^ 48 * (col % 65536) + 2 ^ 64 * fmt + 2 ^ 72 * pass + 2 ^ 80 * half)

/-- The tile-queue slots of a finished tile (R103): its 16 × 16 elements row by row, an FP64 tile in two halves.
DESIGN CHOICE (log 44): an element of the tile outside M × N holds code 0. -/
def tileSlots (d : Desc) (x : MxBody) (a : MxAt) (codes : List Nat) : List TileSlot :=
  let full := (List.range 256).map (fun q => if q / 16 < a.rn ∧ q % 16 < a.cn then codes.getD (q / 16 * a.cn + q % 16) 0 else 0)
  let b := elemBits x.cFmt
  if x.cFmt = 1 then
    [⟨tileHeader d.tensorId a.ti a.tj 1 0xFF 0, packCodes b (full.take 128)⟩, ⟨tileHeader d.tensorId a.ti a.tj 1 0xFF 1, packCodes b (full.drop 128)⟩]
  else [⟨tileHeader d.tensorId a.ti a.tj x.cFmt 0xFF 0, packCodes b full⟩]

/-- `detail` of a matrix residue record (R118). -/
def mxDetail (x : MxBody) (a : MxAt) (pass : Nat) (unit : Byte) : List Byte :=
  leBytes 2 a.ti ++ leBytes 2 a.tj ++ [BitVec.ofNat 8 a.p, BitVec.ofNat 8 x.aFmt, BitVec.ofNat 8 pass, unit] ++ List.replicate 16 0

/-- The record of a first-NaN trap (R181). -/
def State.trapRec (s : State) (c : CoreId) (e : Entry) (npa idx cause sev : Nat) : State :=
  let w := (s.core c).who 0 e.d.opTag
  s.hand { unit := engUnit c e.d.engine, cls := 0x0E, severity := BitVec.ofNat 8 sev, status := stNanTrap, addrKind := 1
           address := BitVec.ofNat 64 npa, jobId := w.jobId, jobGen := w.jobGen, opTag := w.opTag
           detail := leBytes 4 e.d.tensorId.toNat ++ [BitVec.ofNat 8 e.d.engine, BitVec.ofNat 8 e.d.opcode, BitVec.ofNat 8 cause, 0]
             ++ leBytes 8 idx ++ List.replicate 8 0 }

/-- The first trap element of a tile (R180). -/
def firstTrap (l : List (Nat × Written)) : Option (Nat × Nat) :=
  (l.filterMap (fun y => y.2.trap.map (fun t => (y.1, t)))).head?

/-- NPA of the byte that holds element `idx` of C. -/
def MxBody.elemNpa (x : MxBody) (idx : Nat) : Nat := x.c + idx / x.n * x.ldc + idx % x.n * elemBits x.cFmt / 8

/-- Whether the tile queue has room for a finished tile (R94). -/
def Core.tileRoom (k : Core) (x : MxBody) : Bool := k.tileQueue.length + (if x.cFmt = 1 then 2 else 1) ≤ 8

/-- The operation ends with its output unspecified. -/
def State.mxSpoil (s : State) (c : CoreId) (i : Nat) (x : MxBody) (st : Byte) : State :=
  ((s.scramble c x.cSegs).finish c i st).updCore c (fun k => { k with mx := none })

/-- The results of a pass take effect: accumulators kept, or the finished tile written and counted (R101, R104, R180). -/
def State.mxCommit (s : State) (c : CoreId) (i : Nat) (run : MxRun) : State :=
  let e := (s.core c).entry i
  let d := e.d
  let x := d.mx
  let a := x.at run.tile run.pass
  let r := (s.tileView c false).mxPass c d x a run
  let s1 := s.updCore c (fun k => k.updEntry i (fun e => { e with health := { e.health with flags := e.health.flags ||| r.2 } }))
  if run.pass + 1 < x.passes then
    if e.abortReq then s1.mxSpoil c i x e.abortStatus
    else (s1.updCore c (fun k => { k with mx := some { run with pass := run.pass + 1
                                                                acc := r.1.map (accCode x.accElem)
                                                                made := r.1.map FVal.cause } })).tileSeen s1 c false []
  else
    let o := s.mxOut c d x a r.1
    let s2 := s1.updCore c (fun k => k.updEntry i (fun e =>
      { e with health := (o.1.foldl (fun h y => h.count (y.2.elem y.1)) { e.health with flags := e.health.flags ||| o.2 }) }))
    let ws := (x.tileSegs a).zipIdx.map (fun g => (g.1.1, packCodes (elemBits x.cFmt) ((o.1.drop (g.2 * a.cn)).take a.cn |>.map (·.2.code))))
    let w := { (s.core c).who 1 d.opTag with status := if e.abortReq then 0 else stMemUnc }
    let q := s.core c
    let s3 : State × Bool := if q.tileq then
        ((s2.updCore c (fun k => { k with tileQueue := k.tileQueue ++ tileSlots d x a (o.1.map (·.2.code)) })).tileSeen s2 c false [], false)
      else let r := s2.ownMerge c ws w
           (if r.2 then r.1 else (r.1.noteWrites c i ws).tileSeen s2 c false ws, r.2)
    let trap := if d.nanTrap then firstTrap o.1 else none
    if e.abortReq then
      (match trap with
       | some t => s3.1.trapRec c e (x.elemNpa t.1) t.1 t.2 0
       | none => s3.1).mxSpoil c i x e.abortStatus
    else if s3.2 then s3.1.mxSpoil c i x stMemUnc
    else match trap with
      | some t => ((s3.1.trapRec c e (x.elemNpa t.1) t.1 t.2 2).finish c i stNanTrap).updCore c (fun k => { k with mx := none })
      | none =>
        if run.tile + 1 < x.tilesM * x.tilesN then s3.1.updCore c (fun k => { k with mx := some { entry := i, tile := run.tile + 1 } })
        else (s3.1.finish c i stDone).updCore c (fun k => { k with mx := none })

/-- The checks that a pass has (R114, R118): integer ones for INT8 and MXINT8, of the fma steps on the wide paths, of products, sums and
roundings on the others; `alpha` and the conversion of the last pass multiply and round. -/
def MxBody.hasCheck (x : MxBody) (final : Bool) (f : Finding) : Bool :=
  let int := x.aFmt == 8
  let scaled := final && x.useAlpha
  match f.check.toNat with
  | 0 => (!x.wide && !int && x.aFmt != 0x15) || scaled
  | 1 => !x.wide && !int
  | 2 => if int then scaled else if x.wide then final else true
  | 3 => int || x.aFmt == 0x15
  | 4 => x.wide
  | 5 => !int || scaled
  | _ => false

/-- The end of a tile pass of the running matrix operation (R116): a re-executed pass reads its operands again. DESIGN CHOICE (log 44): a
mismatch at a boundary where an operand word reads uncorrectable, with no abort, gives way to it: the operation ends with
ST_MEMORY_UNCORRECTABLE, nothing is re-executed, and the mismatch is neither logged nor counted. -/
def State.mxEnd (s : State) (c : CoreId) (i : Nat) (run : MxRun) (mis0 : Option Mismatch) : State :=
  let e := (s.core c).entry i
  let x := e.d.mx
  let mis := mis0.bind (misFits false (x.hasCheck (run.pass + 1 == x.passes)))
  let a := x.at run.tile run.pass
  let w := { (s.core c).who 1 e.d.opTag with status := if e.abortReq then 0 else stMemUnc }
  let v := verdict mis e
  let r := s.ownJudge c (x.passSegs a) w
  let r2 := if !r.2 && v.redone then r.1.ownJudge c (x.passSegs a) w else r
  let s1 := match mis with
    | some m => if r.2 && !e.abortReq then r2.1 else r2.1.mismatched c i 0x01 false m v (fun pass f => mxDetail x a pass f.unit)
    | none => r2.1
  if r2.2 then s1.mxSpoil c i x (if e.abortReq then e.abortStatus else stMemUnc)
  else match v with
    | .clean | .corrected => s1.mxCommit c i run
    | .failed _ => s1.mxSpoil c i x stResidueFault
    | .recorded _ => s1.mxSpoil c i x e.abortStatus

/-- MATRIX_TILE_PASS_END (R116): a full tile queue holds the engine (R94) until an abort stops it (R92). -/
def execMatrixTilePassEnd (c : CoreId) (mis : Option Mismatch) (ups : List Upset) (s0 : State) : Out :=
  match (s0.core c).mx with
  | none => .next s0
  | some run =>
    let k := s0.core c
    let e := k.entry run.entry
    let s := s0.upset c ups
    if !e.busy then .next s0
    else if k.tileq && run.pass + 1 == e.d.mx.passes && !k.tileRoom e.d.mx then
      .next (if e.abortReq then s0.mxSpoil c run.entry e.d.mx e.abortStatus else s0)
    else .next ((s.mxEnd c run.entry run mis).noteRecords s c run.entry)

end Sys2Proof.Machine
end

