-- ==== Sys2Proof/Machine/Solver.lean ====
section
/-! DEFINITION. The solver engine (chapter 8): methods, products, norms, ratios, steps, deadlines, caps, history, fallback, teams and
reports. Its arithmetic is in Linear.lean. -/

namespace Sys2Proof.Machine

/-! ### Predictions (R237 to R239) -/

/-- The rate by which handshake terms of a prediction are counted: under `optimistic` the core's own rate (R239). -/
def State.predRate (s : State) (c : CoreId) (x : SvBody) : Nat :=
  let k := s.core c
  if x.optimistic && k.rateSeen && k.rateNow != 0 then k.rateNow.toNat else (s.dieRate c.die.val).floorRate.toNat

/-- Bound of one product of the solve, at the prediction's rate. -/
def State.predProd (s : State) (c : CoreId) (d : Desc) (l : Nat) : Nat :=
  s.prodBound c d (s.predRate c d.sv) (s.dieRate c.die.val).floorRate.toNat l

/-- A count of the solve as a predicted time. -/
def State.predNs (s : State) (c : CoreId) (d : Desc) (fixed : Nat) (x : SvCount) : Nat :=
  s.svNs (s.predRate c d.sv) (s.dieRate c.die.val).floorRate.toNat d (s.gddrNeed (s.planOf c d) d) fixed x

/-- Predicted time of the next piece of work when the entry moves to RUNNING (R238). -/
def State.predStart (s : State) (c : CoreId) (d : Desc) : Nat :=
  let x := d.sv
  if x.op = 1 ∨ x.op = 2 then
    (if x.fp32 then s.predNs c d 160 ((svFactor x).add (svRefine x)) else s.predNs c d 160 (svWhole x 0 0 0))
  else s.predNs c d 0 (svIter x (s.predProd c d 0) (s.predProd c d 1) (s.predProd c d 2))

/-- Predicted time of the next iteration (R238). -/
def State.predIter (s : State) (c : CoreId) (d : Desc) : Nat :=
  let x := d.sv
  if x.op = 1 ∨ x.op = 2 then s.predNs c d 0 (svRefine x)
  else s.predNs c d 0 (svIter x (s.predProd c d 0) (s.predProd c d 1) (s.predProd c d 2))

/-- Predicted time of what is left of a factorisation at a panel boundary, or of an iteration at a product boundary (R238). -/
def State.predRest (s : State) (c : CoreId) (d : Desc) (v : SvRun) : Nat :=
  let x := d.sv
  if x.op = 1 ∨ x.op = 2 then
    let whole := s.predStart c d
    whole - v.panels * (if x.n ≤ 64 then whole else ceilDiv (whole * 64) x.n)
  else
    let pf := if v.stage = 1 then 0 else s.predProd c d 0
    let one := svIter { x with op := 3 } (s.predProd c d 0) (s.predProd c d 1) 0
    let cur := svIter { x with op := 3 } pf (s.predProd c d 1) 0
    let last : SvCount := { hs := ceilDiv (4 * x.n) 64, prod := s.predProd c d 2 }
    if v.took then s.predNs c d 0 { last with prod := s.predProd c d 1 }
    else if v.stage = 4 then s.predNs c d 0 last
    else if 1 < v.stage then s.predIter c d
    else if x.op = 3 then s.predNs c d 0 cur
    else s.predNs c d 0 ((cur.add (SvCount.times (x.innerCap - v.innerNow - 1) one)).add last)

/-- The deadline leaves no room for work of `pred` nanoseconds and the fallback (R238). -/
def State.tooLate (s : State) (d : Desc) (c : CoreId) (pred : Nat) : Bool :=
  d.sv.deadline != 0 && d.sv.deadline < s.t + pred + s.predNs c d 0 (svFallback d.sv)

/-! ### Endings -/

def State.updSv (s : State) (c : CoreId) (f : SvRun → SvRun) : State := s.updCore c (fun k => { k with sv := k.sv.map f })

/-- The team unit aborts the lent entries (R243). -/
def State.abortLent (s : State) (c : CoreId) (i : Nat) : State :=
  (s.members c i).foldl (fun s m => ((s.core m).lent.filter (fun j => ((s.core m).entry j).live)).foldl (fun s j => s.abortEntry m j stAborted) s) s

/-- The engine is done with the solve; work of its team that is still going is aborted. -/
def State.svFinish (s : State) (c : CoreId) (i : Nat) (st : Byte) : State := (s.abortLent c i).finish c i st

/-- Sticky flags of the engine's arithmetic: NV, DZ and OF only (R221). -/
def State.svFlags (s : State) (c : CoreId) (i : Nat) (f : Flags) : State :=
  s.updCore c (fun k => k.updEntry i (fun e => { e with health := { e.health with flags := e.health.flags ||| (f &&& (flNV ||| flDZ ||| flOF)) } }))

/-- The solve ends with x and the history untouched (R243 to R245): completion-record flag bit 2. -/
def State.svUntouched (s : State) (c : CoreId) (i : Nat) (st : Byte) : State :=
  (s.updCore c (fun k => k.updEntry i (fun e => { e with recFlags := e.recFlags ||| 4 }))).svFinish c i st

/-- FP64 values as bytes. -/
def f64Bytes (l : List (BitVec 64)) : List Byte := l.flatMap (fun v => leBytes 8 v.toNat)

/-- Size in bytes of the header and slots before slot `k` of a history region (R240). -/
def histSlot (n k : Nat) : Nat := 0x40 + k * (64 * ceilDiv (8 * n) 64)

/-- The history header of R240. -/
structure Hist where
  signature : Nat := 0
  n : Nat := 0
  count : Nat := 0
  newest : Nat := 0
  t0 : Nat := 0
  t1 : Nat := 0
deriving DecidableEq, Repr, Inhabited

def histOf (b : List Byte) : Hist :=
  ⟨fieldAt b 0 8, fieldAt b 8 4, fieldAt b 0xC 1, fieldAt b 0xD 1, fieldAt b 0x10 8, fieldAt b 0x18 8⟩

def Hist.bytes (h : Hist) : List Byte :=
  leBytes 8 h.signature ++ leBytes 4 h.n ++ [BitVec.ofNat 8 h.count, BitVec.ofNat 8 h.newest, 0, 0] ++ leBytes 8 h.t0 ++ leBytes 8 h.t1
    ++ List.replicate 32 0

def State.svWho (s : State) (c : CoreId) (d : Desc) : Who := { (s.core c).who 2 d.opTag with status := stMemUnc }

/-- Write the history after a solve (R240), its header as it stood given: one count where both slots are valid, the new solution in the
slot that is not the newest, the new header. The update ends at the first write that fails. -/
def State.histUpdate (s : State) (c : CoreId) (i : Nat) (d : Desc) (h : Hist) (x : List (BitVec 64)) : State × Byte :=
  let b := d.sv
  let w := s.svWho c d
  let live := h.count == 1 || h.count == 2
  let same := live && h.signature == b.signature && h.n == b.n
  let slot := if live then 1 - h.newest % 2 else 0
  let h1 : Hist := { signature := b.signature, n := b.n, count := if same then 2 else 1, newest := slot
                     t0 := if slot = 0 then b.tValid else if same then h.t0 else 0, t1 := if slot = 1 then b.tValid else if same then h.t1 else 0 }
  let r0 := if h.count = 2 then s.npaStore c b.hist ({ h with count := 1 } : Hist).bytes w else (s, stDone)
  if r0.2 ≠ stDone then r0 else
  let r1 := r0.1.npaStore c (b.hist + histSlot b.n slot) (f64Bytes x) w
  if r1.2 ≠ stDone then r1 else (r1.1.noteWrites c i [(b.hist, h1.bytes), (b.hist + histSlot b.n slot, f64Bytes x)]).npaStore c b.hist h1.bytes w

/-- The status of a finished solve, the rejected warm start with it (R14, R236). -/
def State.svStatus (s : State) (c : CoreId) (st : Byte) : Byte :=
  if ((s.core c).sv.map (·.warmRejected)) == some true then worse st stWarmRejected else st

/-- A solution goes out: x, the history where asked, the report's figures, the status (R231, R236, R240, R246). The history's header is read
before anything is written; a write that fails ends the solve as R210 gives. -/
def State.svWrite (s : State) (c : CoreId) (i : Nat) (x : List (BitVec 64)) (rho : BitVec 64) (path : Nat) (st : Byte) (tDec : Nat) : State :=
  let e := (s.core c).entry i
  let d := e.d
  let b := d.sv
  let keep := b.keepHist && (s.svStatus c st == stDone || s.svStatus c st == stDeadlinePartial)
  let r : State × Byte × List Byte := if keep then s.npaFetch c b.hist 0x40 (s.svWho c d) else (s, stDone, [])
  if r.2.1 ≠ stDone then r.1.svUntouched c i stMemUnc else
  let w := r.1.npaStore c b.x (f64Bytes x) (s.svWho c d)
  if w.2 ≠ stDone then w.1.svFinish c i stMemUnc else
  let u := if keep then w.1.histUpdate c i d (histOf r.2.2) x else (w.1, stDone)
  let s1 := (u.1.noteWrites c i [(b.x, f64Bytes x)]).updSv c (fun v => { v with
    rho := rho, path := BitVec.ofNat 8 path, tDecided := tDec, notes := if keep ∧ u.2 = stDone then v.notes ||| 8 else v.notes })
  if u.2 ≠ stDone then s1.svFinish c i stMemUnc else
  let s2 := s1.updCore c (fun k => k.updEntry i (fun e => { e with
    summary := if d.sumEn then BitVec.ofNat 32 (fp32.code (fp32.arith .rne (fp64.decode rho.toNat)).1) else e.summary }))
  s2.svFinish c i (s2.svStatus c st)

/-- What the fallback writes: the elements, the flags, the path of the report, and whether linear became hold (R241). -/
def shiftElems (b : SvBody) (h : Hist) (x1 x0 : List Nat) (m : List Nat) : List (BitVec 64) × Flags × Nat × Bool :=
  let hold := (x1.map (BitVec.ofNat 64), (0 : Flags))
  match b.shiftMode with
  | 0 => (hold.1, 0, 3, false)
  | 1 =>
    let t1 := if h.newest % 2 = 1 then h.t1 else h.t0
    let t0 := if h.newest % 2 = 1 then h.t0 else h.t1
    if h.count = 1 ∨ t1 = t0 then (hold.1, 0, 3, true) else
    let num := fp64.arith .rne (FVal.ofInt ((b.tValid : Int) - t1))
    let den := fp64.arith .rne (FVal.ofInt ((t1 : Int) - t0))
    let f := fDiv fp64 .rne num.1 den.1
    let r := (x1.zip x0).map (fun p =>
      let a := fp64.decode p.1
      let dlt := fSub fp64 .rne a (fp64.decode p.2)
      let y := fFma fp64 .rne dlt.1 f.1 a
      (BitVec.ofNat 64 (fp64.code y.1), dlt.2 ||| y.2))
    (r.map (·.1), r.foldl (fun a y => a ||| y.2) f.2, 4, false)
  | _ =>
    let t := b.transDim
    let r := (List.range b.n).map (fun j =>
      let row := j % t
      let base := j / t * t
      let y := (List.range t).foldl (fun (a : FVal × Flags) k =>
        let z := fFma fp64 .rne (fp64.decode (m.getD (row * t + k) 0)) (fp64.decode (x1.getD (base + k) 0)) a.1
        (z.1, a.2 ||| z.2)) (.zero, 0)
      (BitVec.ofNat 64 (fp64.code y.1), y.2))
    (r.map (·.1), r.foldl (fun a y => a ||| y.2) 0, 5, false)

/-- FP64 words of a byte string. -/
def words64 (b : List Byte) (n : Nat) : List Nat := (List.range n).map (fun i => fieldAt b (8 * i) 8)

/-- The fallback (R241): x from the history, or ST_DEADLINE_EMPTY with x untouched. `cause` 0 deadline, 1 pivot failure,
2 `shift_only` (R246). -/
def State.svShift (s : State) (c : CoreId) (i : Nat) (cause : Nat) : State :=
  let e := (s.core c).entry i
  let d := e.d
  let b := d.sv
  let w := s.svWho c d
  let tDec := if cause = 0 then s.t else 0
  let sum := fun (s : State) => s.updCore c (fun k => k.updEntry i (fun e => { e with summary := if d.sumEn then 0x7FC00000 else e.summary }))
  let r := s.npaFetch c b.hist 0x40 w
  if r.2.1 ≠ stDone then r.1.svUntouched c i stMemUnc else
  let h := histOf r.2.2
  if h.count = 0 ∨ h.signature ≠ b.signature then
    ((sum r.1).updSv c (fun v => { v with rho := BitVec.ofNat 64 fp64.nanCode, path := 6, cause := BitVec.ofNat 8 cause, tDecided := tDec })).svUntouched c i stDeadlineEmpty
  else
    let newest := h.newest % 2
    let r1 := r.1.npaFetch c (b.hist + histSlot b.n newest) (8 * b.n) w
    let r0 := if b.shiftMode = 1 ∧ h.count = 2 then r1.1.npaFetch c (b.hist + histSlot b.n (1 - newest)) (8 * b.n) w else (r1.1, stDone, [])
    let rm := if b.shiftMode = 2 then r0.1.npaFetch c b.trans (8 * b.transDim * b.transDim) w else (r0.1, stDone, [])
    if r1.2.1 ≠ stDone ∨ r0.2.1 ≠ stDone ∨ rm.2.1 ≠ stDone then rm.1.svUntouched c i stMemUnc else
    let y := shiftElems b h (words64 r1.2.2 b.n) (words64 r0.2.2 b.n) (words64 rm.2.2 (b.transDim * b.transDim))
    let wr := rm.1.npaStore c b.x (f64Bytes y.1) w
    if wr.2 ≠ stDone then wr.1.svFinish c i stMemUnc else
    let s1 := (sum wr.1).noteWrites c i [(b.x, f64Bytes y.1)]
    let s2 := s1.updSv c (fun v => { v with rho := BitVec.ofNat 64 fp64.nanCode, path := BitVec.ofNat 8 y.2.2.1, cause := BitVec.ofNat 8 cause
                                            tDecided := tDec, notes := if y.2.2.2 then v.notes ||| 4 else v.notes })
    let s3 := s2.svFlags c i y.2.1
    s3.svFinish c i (s3.svStatus c stDeadlineShifted)

/-! ### Team products (R226, R227) -/

/-- Descriptors of the list, each made to wait for the one before: (lent entry, descriptor). -/
def chainList (lent : List Nat) (ds : List Desc) : List (Nat × Desc) :=
  (lent.zip ds).zipIdx.map (fun y =>
    let q := y.1.2
    let ctl : Byte := (BitVec.ofNat 8 (fieldAt q 3 1) &&& 0xFE) ||| (if y.2 = 0 then 0 else 1)
    (y.1.1, q.take 3 ++ [ctl] ++ slice q 4 4 ++ [BitVec.ofNat 8 (lent.getD (y.2 - 1) 0)] ++ q.drop 9))

/-- Issue what is left of a member's list into its lent entries, in order (R227 step 2); `off` is where the team block stands, of which row
1 + 8 × list + place holds a descriptor (R226). A descriptor that R70 refuses is not issued. -/
def State.issueList (s : State) (m : CoreId) (off l : Nat) : State :=
  let k := s.core m
  let all := (chainList k.lent (teamList k.teamBlock l)).zipIdx
  let have0 := (k.lent.filter (fun i => (k.entry i).code != .free)).length
  ((all.drop have0).foldl (fun (acc : State × Bool) y =>
    if acc.2 then
      let at0 := off + 512 * (1 + 8 * l + y.2)
      if acc.1.descBad m at0 y.1.2 then (acc.1, false) else
      let r := acc.1.admitEntry m y.1.1 at0 y.1.2 true
      (r.1, r.2.isSome)
    else acc) (s, true)).1

/-- What a solve has read, and how far it is: what its free values depend on. -/
def SvRun.data (v : SvRun) : List Byte := v.given ++ leBytes 4 v.iter ++ leBytes 4 v.inner ++ [BitVec.ofNat 8 v.stage]

/-- The order of the solve's sums. -/
def SvRun.order (v : SvRun) : Order := Config.solverOrder v.given

/-- The vector of a team product (R227, R233), by its stage. -/
def SvRun.input (v : SvRun) (l i : Nat) : BitVec 64 :=
  (match l with | 0 => v.p | 2 | 5 => v.x | 4 => v.trialX | _ => v.r).getD i (Config.solverInput v.data i)

/-- Bytes of a vector of FP64 values. -/
def vecBytes (f : Nat → BitVec 64) (off n : Nat) : List Byte := (List.range n).map (fun j =>
  BitVec.ofNat 8 ((f ((off + j) / 8)).toNat / 256 ^ ((off + j) % 8)))

/-- The list of a member's team block that a stage runs (R226, R233). -/
def stageList (stage : Nat) : Nat := if stage = 4 then 2 else if stage = 5 then 0 else if stage = 6 ∨ stage = 7 then 1 else stage

/-- Start the product of a stage (R227 steps 1 and 2): each member's input slice by the mesh, then its list. A transfer that fails ends the
solve (R204, R210, R244). -/
def State.startProduct (s : State) (c : CoreId) (d : Desc) (v : SvRun) (l : Nat) : State :=
  let r := (s.team c d.sv).foldl (fun (acc : State × Byte) m =>
    if acc.2 ≠ stDone then acc else
    let blk := (acc.1.core m.1).teamBlock
    let x := acc.1.meshMove c m.1 true false (fieldAt blk 8 4) (fieldAt blk 0x10 4) (vecBytes (v.input l) (fieldAt blk 0xC 4) (fieldAt blk 0x10 4)) d.opTag
    if x.2.1 ≠ stDone then (x.1, x.2.1) else (x.1.issueList m.1 d.sv.teamOff (stageList l), stDone)) (s, stDone)
  let s1 := r.1.updSv c (fun _ => { v with stage := l, product := [] })
  if r.2 ≠ stDone then s1.svUntouched c v.entry r.2 else s1

/-- A member's part in a product (R226): whether its list is of kind sum, where its output goes, its bytes. -/
structure TeamOut where
  sum : Bool
  dst : Nat
  bytes : List Byte
deriving DecidableEq, Repr, Inhabited

/-- The result vector of a finished product (R227 step 4), and its flags: outputs placed, or added to a vector that starts at +0, in ascending
member. -/
def productResult (outs : List TeamOut) : List (BitVec 64) × Flags :=
  let m : Mem × Flags := outs.foldl (fun m o =>
    if o.sum then (List.range (o.bytes.length / 8)).foldl (fun m i =>
      let a := o.dst + 8 * i
      let y := fAdd fp64 .rne (fp64.decode (leVal (m.1.readN a 8))) (fp64.decode (fieldAt o.bytes (8 * i) 8))
      (m.1.writeN a (leBytes 8 (fp64.code y.1)), m.2 ||| y.2)) m
    else (m.1.writeN o.dst o.bytes, m.2)) ([], 0)
  ((List.range (maxN (outs.map (fun o => o.dst + o.bytes.length)) / 8)).map (fun i => BitVec.ofNat 64 (leVal (m.1.readN (8 * i) 8))), m.2)

def passes (rho : BitVec 64) (tol : Nat) : Bool := (fp64.decode rho.toNat).le (fp64.decode tol)

/-- FP64 words of a byte string, as values. -/
def vals64 (b : List Byte) (n : Nat) : List FVal := (words64 b n).map fp64.decode

/-- Bytes of the vector b, g or y among what a solve has read, and of the operands before it. -/
def SvRun.vecB (v : SvRun) (d : Desc) : List Byte := v.given.drop (32 * d.len + (if d.sv.iterative then 0 else sumN (d.sv.rowsA.map (·.2))))

/-- b or y of a team solve. -/
def SvRun.rhs (v : SvRun) (d : Desc) : List FVal := vals64 (v.vecB d) d.sv.m

/-- The step of `lm` is accepted (R233): the trial's residual has the lower norm; a step of `gn` is. -/
def SvRun.accepts (v : SvRun) (d : Desc) : Bool × Flags :=
  if d.sv.op ≠ 5 then (true, 0) else
  let off := fun (f : List (BitVec 64)) =>
    let r := vecSub (v.rhs d) (values64 f)
    let z := normOf fp64 r.1
    (z.1, r.2 ||| z.2)
  let a := off v.trialF
  let b := off v.resid
  (a.1.lt b.1, a.2 ||| b.2)

/-- CGLS begins at the residual's adjoint: the first iteration of `cgls`, or the linearised step of an outer iteration (R233). -/
def SvRun.begin (v : SvRun) (n : Nat) : SvRun :=
  { v with s := v.grad, p := v.grad, innerBase := v.grad, delta := List.replicate n 0, innerNow := 0, took := false }

/-- The damping term of `lm`'s system (R233). -/
def SvRun.damping (v : SvRun) : FVal := fp64.decode v.lambda.toNat

/-- A forward product q is in: CGLS goes along its direction by γ over ‖q‖², with λ‖p‖² under `lm` (R219, R233; the steps of CGLS, log 8). -/
def SvRun.along (v : SvRun) (d : Desc) (q : List FVal) : SvRun × Flags :=
  let o := fun k => v.order [k, v.iter, v.inner]
  let p := values64 v.p
  let gam := dot fp64 (o 10) (values64 v.s) (values64 v.s)
  let qq := dot fp64 (o 11) q q
  let pp := dot fp64 (o 12) p p
  let den := if d.sv.op = 5 then fFma fp64 .rne v.damping pp.1 qq.1 else qq
  let al := fDiv fp64 .rne gam.1 den.1
  let x := axpy al.1 p (values64 (if d.sv.op = 3 then v.x else v.delta))
  let r := axpy al.1.neg q (values64 v.r)
  let f := gam.2 ||| qq.2 ||| (if d.sv.op = 5 then pp.2 ||| den.2 else 0) ||| al.2 ||| x.2 ||| r.2
  (if d.sv.op = 3 then { v with trialX := codes64 x.1, r := codes64 r.1 } else { v with delta := codes64 x.1, r := codes64 r.1 }, f)

/-- An adjoint product is in: the new adjoint s of the residual, less λδ under `lm`, and the next direction. -/
def SvRun.across (v : SvRun) (d : Desc) (y : List FVal) : SvRun × Flags :=
  let o := fun k => v.order [k, v.iter, v.inner]
  let s := if d.sv.op = 5 then axpy v.damping.neg (values64 v.delta) y else (y, 0)
  let old := dot fp64 (o 10) (values64 v.s) (values64 v.s)
  let new := dot fp64 (o 13) s.1 s.1
  let be := fDiv fp64 .rne new.1 old.1
  let p := axpy be.1 (values64 v.p) s.1
  ({ v with s := codes64 s.1, p := codes64 p.1 }, s.2 ||| new.2 ||| be.2 ||| p.2)

/-- ρ of an inner CGLS: against where its outer iteration began (R233). -/
def SvRun.innerRho (v : SvRun) : BitVec 64 × Flags := ratio (values64 v.s) (values64 v.innerBase)

/-- What follows a product whose result is in (R219, R229, R233): the run, flags, and the next product's stage, 3 where the iteration is
complete. -/
def SvRun.takeProduct (v : SvRun) (d : Desc) : SvRun × Flags × Nat :=
  let b := d.sv
  let y := values64 v.result
  match v.stage with
  | 7 => ({ v with base := v.result }, 0, 5)
  | 5 => let r := vecSub (v.rhs d) y
         ({ v with r := codes64 r.1 }, r.2, 6)
  | 2 => let r := vecSub (v.rhs d) y
         ({ v with resid := v.result, r := codes64 r.1 }, r.2, 6)
  | 4 =>
    let v1 := { v with trialF := v.result }
    let a := v1.accepts d
    if a.1 then
      let r := vecSub (v.rhs d) y
      ({ v1 with took := true, r := codes64 r.1 }, a.2 ||| r.2, 6)
    else (v1, a.2, 3)
  | 6 =>
    let v1 := { v with grad := v.result, base := if v.base.isEmpty then v.result else v.base }
    if v.took then (v1, 0, 3) else (v1.begin b.n, 0, 0)
  | 0 => let a := v.along d y
         (a.1, a.2, 1)
  | 1 =>
    let a := v.across d y
    if b.op = 3 then ({ a.1 with grad := a.1.s }, a.2, 3) else
    let v1 := { a.1 with inner := v.inner + 1, innerNow := v.innerNow + 1 }
    let q := v1.innerRho
    if v1.innerNow ≥ b.innerCap ∨ passes q.1 b.tol then
      let x := vecSum (values64 v.x) (values64 v.delta)
      ({ v1 with trialX := codes64 x.1 }, a.2 ||| q.2 ||| x.2, 4)
    else (v1, a.2 ||| q.2, 0)
  | _ => (v, 0, 3)

/-- The engine keeps `n` bytes of its own, a factor or its vectors, in the core's slice (R220); which bytes, and at which row, no rule says:
they are free, and leave what the descriptor names as it is (log 8). -/
def State.svKeep (s : State) (c : CoreId) (v : SvRun) (n : Nat) : State :=
  let d := ((s.core c).entry v.entry).d
  let named := s.extents c d ++ [d.recordExt]
  let at0 := 512 * (Config.solverPlace v.given % ((rsSize c - n) / 512 + 1))
  let free := fun (o : Nat) => match s.storeNpa c true o with
    | some a => !named.any (fun e => e.npa ≤ a && a < e.npa + e.len)
    | none => true
  let l := (List.range n).filterMap (fun k => if free (at0 + k) then some (at0 + k, Config.solverFactor v.data k) else none)
  let pas := l.map (·.1)
  (s.updCore c (fun k => k.putPhys true l ((wordsOf pas).filter (fun w => !(partWords pas).contains w)))).noteWrites c v.entry
    (runsOf (l.filterMap (fun x => (s.storeNpa c true x.1).map (·, x.2))))

/-- Bytes of the vectors of an iteration: three of n and two of m elements. -/
def SvBody.vectors (x : SvBody) : Nat := 8 * (3 * x.n + 2 * x.m)

/-- After a product, its result read: the next one of the iteration, or the iteration is complete (R229, R233). -/
def State.nextProduct (s : State) (c : CoreId) (d : Desc) (v : SvRun) : State :=
  let a := v.takeProduct d
  let s1 := (s.svFlags c v.entry a.2.1).svKeep c a.1 d.sv.vectors
  if a.2.2 = 3 then s1.updSv c (fun _ => { a.1 with stage := 3 }) else s1.startProduct c d a.1 a.2.2

/-- The result of a product as a vector: of a list of kind sum it starts at +0; else an element that no member supplies is free (log 8). -/
def resultVec (v : SvRun) (len : Nat) (outs : List TeamOut) (r : List (BitVec 64)) : List (BitVec 64) :=
  (List.range len).map (fun i =>
    if outs.any (fun o => o.sum || (o.dst ≤ 8 * i && 8 * i < o.dst + o.bytes.length)) then r.getD i 0 else Config.solverInput v.data i)

/-- TEAM_PRODUCT_DONE (R227): member `j`'s last descriptor is DONE; one that ends FAILED, or is aborted, ends the solve (R244). -/
def execTeamProductDone (c : CoreId) (member : Fin 1280) (s : State) : Out :=
  match (s.core c).sv with
  | none => .next s
  | some v =>
    let e := (s.core c).entry v.entry
    let d := e.d
    let mem := s.team c d.sv
    match mem[member.val]? with
    | none => .next s
    | some m =>
      let km := s.core m.1
      let bad := (km.lent.map (fun i => km.entry i)).find? (fun x => x.code == .failed || x.code == .aborted)
      let l := stageList v.stage
      let n := (teamList km.teamBlock l).length
      let out := km.lent.take n
      if !e.busy || v.stage = 3 || (v.product.any (fun p => p.1 == member.val)) || n = 0 then .next s
      else match bad with
        | some f => .next (s.svUntouched c v.entry f.status)
        | none =>
          if (km.lent.filter (fun i => (km.entry i).code != .free)).length < n then .next (s.issueList m.1 d.sv.teamOff l)
          else if !out.all (fun i => (km.entry i).code == .done) then .next s
          else
            let blk := km.teamBlock
            let r := s.meshMove c m.1 false false (fieldAt blk 0x14 4) (fieldAt blk 0x1C 4) [] d.opTag
            if r.2.1 ≠ stDone then .next ((r.1.svUntouched c v.entry r.2.1).noteRecords s c v.entry) else
            let s1 := r.1.updCore m.1 (fun k => { k with entries := k.entries.filter (fun y => !k.lent.contains y.1) })
            let got := v.product ++ [(member.val, r.2.2)]
            if got.length < mem.length then .next ((s1.updSv c (fun v => { v with product := got })).noteRecords s c v.entry)
            else
              let outs := (mem.zipIdx).map (fun y =>
                let b := (s.core y.1.1).teamBlock
                (⟨bitAt (fieldAt b 4 1) l, fieldAt b 0x18 4, ((got.find? (fun p => p.1 == y.2)).map (·.2)).getD []⟩ : TeamOut))
              let p := productResult outs
              .next (((s1.svFlags c v.entry p.2).nextProduct c d { v with
                product := [], result := resultVec v (if l = 1 then d.sv.n else d.sv.m) outs p.1 }).noteRecords s c v.entry)

/-! ### Running a solve -/

/-- ρ is lower than the best so far; a NaN is lower than nothing, and anything is lower than a NaN (R231). -/
def betterRho (new old : BitVec 64) : Bool :=
  let a := fp64.decode new.toNat
  let b := fp64.decode old.toNat
  !a.isNan && (b.isNan || a.lt b)

/-- The operand of a direct solve that stands at place `i` of the rows of A or H. -/
def SvRun.matElem (v : SvRun) (d : Desc) (i : Nat) : FVal := fp64.decode (fieldAt v.given (32 * d.len + 8 * i) 8)

/-- A or H of a direct solve, by rows, and its vector b or g. -/
def SvRun.rows (v : SvRun) (d : Desc) : List (List FVal) :=
  (List.range (if d.sv.op = 1 then d.sv.m else d.sv.n)).map (fun i => (List.range d.sv.n).map (fun j => v.matElem d (i * d.sv.n + j)))
def SvRun.side (v : SvRun) (d : Desc) : List FVal := vals64 (v.vecB d) (if d.sv.op = 1 then d.sv.m else d.sv.n)

/-- Element of a symmetric matrix; where its two places differ, which of them the engine reads is free (R219, log 8). -/
def symAt (o : Order) (h : List (List FVal)) (i j : Nat) : FVal :=
  if matAt h i j = matAt h j i ∨ o [8, i, j] 0 % 2 = 0 then matAt h i j else matAt h j i

/-- The factor of a direct solve, in FP32 under `fp32_factor`, and of `qr` in FP64 with its right side beside it; none where it meets a pivot
that is not positive or a Householder norm of zero (R219, R232, R234). -/
def SvRun.factor (v : SvRun) (d : Desc) : Option (List (List FVal)) × Flags :=
  let b := d.sv
  let m := v.rows d
  let narrow := m.map toFp32
  let a := if b.fp32 then narrow.map (·.1) else m
  let fl := if b.fp32 then narrow.foldl (fun f y => f ||| y.2) 0 else 0
  let f := if b.fp32 then fp32 else fp64
  let r := if b.op = 2 then cholFactor f v.order (symAt v.order a) b.n
           else qrFactor f v.order b.n (if b.fp32 then a else (a.zip (v.side d)).map (fun y => y.1 ++ [y.2]))
  (r.1, fl ||| r.2)

/-- The solution of a direct solve in FP64 (R219). -/
def SvRun.solve (v : SvRun) (d : Desc) (l : List (List FVal)) : List FVal × Flags :=
  if d.sv.op = 2 then cholSolve fp64 v.order [] l (v.side d)
  else qrSolve fp64 v.order [] l (l.map (fun r => r.getD d.sv.n .zero))

/-- A refinement step (R232): the FP64 residual, the correction by the FP32 factor, added in FP64. DEDUCED (log 8): the first step starts from
x = 0, and the correction of `qr` solves Rᵀ R δ = Aᵀ r, which R234 calls Cholesky-based. -/
def SvRun.refine (v : SvRun) (d : Desc) (l : List (List FVal)) : List FVal × Flags :=
  let x := values64 v.x
  let res := residualOf v.order [20, v.iter] (v.rows d) x (v.side d)
  let dl : List FVal × Flags :=
    if d.sv.op = 2 then cholSolve fp64 v.order [v.iter] l res.1
    else
      let g := adjointOf v.order [21, v.iter] (v.rows d) d.sv.n res.1
      let y := lowerSolve fp64 v.order [2, v.iter] (fun i k => matAt l k i) g.1
      let z := qrSolve fp64 v.order [v.iter] l y.1
      (z.1, g.2 ||| y.2 ||| z.2)
  let z := vecSum x dl.1
  (z.1, res.2 ||| dl.2 ||| z.2)

/-- The iterate after an iteration: refined, or the point that the step reaches where it is taken (R232, R233); its flags. -/
def SvRun.advance (v : SvRun) (d : Desc) : SvRun × Flags :=
  let b := d.sv
  if !b.iterative then
    let y := v.refine d ((v.factor d).1.getD [])
    ({ v with x := codes64 y.1 }, y.2)
  else if b.op = 5 then
    let ten := fp64.decode 0x4024000000000000
    let q := if v.took then fDiv fp64 .rne v.damping ten else fMul fp64 .rne v.damping ten
    ({ v with x := if v.took then v.trialX else v.x, resid := if v.took then v.trialF else v.resid, lambda := BitVec.ofNat 64 (fp64.code q.1) }, q.2)
  else ({ v with x := v.trialX }, 0)

/-- ρ of the iterate as it stands (R229). -/
def SvRun.ratioNow (v : SvRun) (d : Desc) : BitVec 64 × Flags :=
  if d.sv.iterative then ratio (values64 v.grad) (values64 v.base) else
  let res := residualOf v.order [30, v.iter] (v.rows d) (values64 v.x) (v.side d)
  if d.sv.op = 2 then
    let q := ratio res.1 (v.side d)
    (q.1, res.2 ||| q.2)
  else
    let a := adjointOf v.order [31, v.iter] (v.rows d) d.sv.n res.1
    let b := adjointOf v.order [32] (v.rows d) d.sv.n (v.side d)
    let q := ratio a.1 b.1
    (q.1, res.2 ||| a.2 ||| b.2 ||| q.2)

/-- The deadline leaves no room for the next piece: the latest iterate where it passes `accept_tol`, else the fallback (R238). -/
def State.svLate (s : State) (c : CoreId) (i : Nat) (v : SvRun) : State :=
  let d := ((s.core c).entry i).d
  if v.hasIterate && passes v.rho d.sv.acceptTol then s.svWrite c i v.x v.rho 2 stDeadlinePartial s.t
  else s.svShift c i 0

/-- An iteration is complete (R229, R231, R238). -/
def State.svIterate (s : State) (c : CoreId) (i : Nat) (v0 : SvRun) : State :=
  let d := ((s.core c).entry i).d
  let b := d.sv
  let a := v0.advance d
  let v := { a.1 with iter := v0.iter + 1 }
  let r := v.ratioNow d
  let best := !v.hasIterate || betterRho r.1 v.bestRho
  let v1 : SvRun := { v with rho := r.1, hasIterate := true, innerNow := 0, bestX := if best then v.x else v.bestX, bestRho := if best then r.1 else v.bestRho }
  let s1 := ((s.updSv c (fun _ => v1)).updCore c (fun k => { k with iteration := BitVec.ofNat 16 v1.iter })).svFlags c i (a.2 ||| r.2)
  if passes r.1 b.tol then s1.svWrite c i v1.x r.1 0 stDone 0
  else if b.iterCap ≤ v1.iter then s1.svWrite c i v1.bestX v1.bestRho 1 stCapReached 0
  else if s1.tooLate d c (s1.predIter c d) then s1.svLate c i v1
  else if b.op = 3 then s1.startProduct c d v1 0
  else if b.iterative then (if v1.took then s1.startProduct c d (v1.begin b.n) 0 else s1.startProduct c d v1 2)
  else s1

/-- Read the problem of a solve (R219): A or H row by row, and the vector. -/
def State.svRead (s : State) (c : CoreId) (d : Desc) (w : Who) : State × Byte × List Byte :=
  d.sv.inputs.foldl (fun (a : State × Byte × List Byte) p =>
    if a.2.1 ≠ stDone then a else let r := a.1.npaFetch c p.1 p.2 w
                                  (r.1, r.2.1, a.2.2 ++ r.2.2)) (s, stDone, [])

/-- Begin a solve that has moved to RUNNING (R236, R238): the start vector is the newest solution of a history of this signature. `cgls` first
forms the residual there and its adjoint, and from a start vector that of b too (R229). -/
def State.svStart (s : State) (c : CoreId) (i : Nat) : State :=
  let d := ((s.core c).entry i).d
  let b := d.sv
  let v0 : SvRun := { entry := i, x := List.replicate b.n 0, lambda := BitVec.ofNat 64 b.lambda0
                      notes := if b.fp32 && !b.iterative && b.op != 0x10 then 16 else 0 }
  let s0 := s.updCore c (fun k => { k with sv := some v0, svOpcode := BitVec.ofNat 8 b.op, iteration := 0 })
  if b.op = 0x10 then s0.svShift c i 2 else
  let warm := b.warm && b.iterative
  let r : State × Byte × List Byte := if warm then s0.npaFetch c b.hist 0x40 (s.svWho c d) else (s0, stDone, [])
  if r.2.1 ≠ stDone then r.1.svUntouched c i stMemUnc else
  let h := histOf r.2.2
  let fits := warm && h.signature == b.signature && h.count != 0
  let v1 : SvRun := if !warm || fits then v0 else { v0 with warmRejected := true, notes := v0.notes ||| 2 }
  let s1 := r.1.updSv c (fun _ => v1)
  if s1.tooLate d c (s1.predStart c d) then s1.svShift c i 0 else
  let x : State × Byte × List Byte := if fits then s1.npaFetch c (b.hist + histSlot b.n (h.newest % 2)) (8 * b.n) (s.svWho c d) else (s1, stDone, [])
  let p := if x.2.1 = stDone then x.1.svRead c d (s.svWho c d) else (x.1, x.2.1, [])
  if p.2.1 ≠ stDone then p.1.svUntouched c i stMemUnc else
  let v2 : SvRun := { v1 with
    given := d ++ p.2.2 ++ x.2.2, x := if fits then (words64 x.2.2 b.n).map (BitVec.ofNat 64) else v1.x
    notes := if fits then v1.notes ||| 1 else v1.notes }
  if !b.iterative then p.1.updSv c (fun _ => v2) else
  let v3 : SvRun := { v2 with r := codes64 (v2.rhs d) }
  (p.1.svKeep c v3 b.vectors).startProduct c d v3 (if b.op ≠ 3 then 2 else if fits then 7 else 6)

/-- A direct solve's factorisation is complete (R220, R229, R234): its factor stands in the slice, or with n above 512 in the workspace; or
the next refinement step is. -/
def State.svFactored (s : State) (c : CoreId) (i : Nat) (v : SvRun) : State :=
  let d := ((s.core c).entry i).d
  let b := d.sv
  let fa := v.factor d
  match fa.1 with
  | none => (s.svFlags c i (flNV ||| fa.2)).svShift c i 1
  | some l =>
    let bytes := (List.range (8 * b.n * (b.n + 1))).map (Config.solverFactor v.data)
    let s0 := if v.factored then s else s.svFlags c i fa.2
    let r := if v.factored then (s0, stDone)
             else if b.worksInGddr then
               let y := s0.npaStore c b.work bytes (s.svWho c d)
               (y.1.noteWrites c i [(b.work, bytes)], y.2)
             else (s0.svKeep c v (4 * b.n * (b.n + 1)), stDone)
    if r.2 ≠ stDone then r.1.svUntouched c i stMemUnc else
    let v1 : SvRun := { v with factored := true }
    if b.fp32 then r.1.svIterate c i v1
    else
      let a := v1.solve d l
      let v2 := { v1 with x := codes64 a.1 }
      let q := v2.ratioNow d
      ((r.1.updSv c (fun _ => v2)).svFlags c i (a.2 ||| q.2)).svWrite c i v2.x q.1 0 stDone 0

/-- SOLVE_DEADLINE_CHECK (R238): between iterations, or with `atPanel` at a panel or product boundary. -/
def execSolveDeadlineCheck (c : CoreId) (atPanel : Bool) (s : State) : Out :=
  match (s.core c).sv with
  | none => .next s
  | some v =>
    let i := v.entry
    let e := (s.core c).entry i
    let d := e.d
    let b := d.sv
    if !e.busy || e.abortReq then .next s
    else if atPanel then
      if (b.iterative && (v.stage = 3 || v.product ≠ [])) || (!b.iterative && v.factored) then .next s else
      let v1 := if b.iterative then v else { v with panels := v.panels + 1 }
      let s1 := s.updSv c (fun _ => v1)
      .next ((if b.optimistic && s.tooLate d c (s.predRest c d v1) then s1.svLate c i v1 else s1).noteRecords s c i)
    else if b.iterative then .next (if v.stage = 3 then (s.svIterate c i v).noteRecords s c i else s)
    else .next ((s.svFactored c i v).noteRecords s c i)

/-- SOLVER_CHECK_STEP (R243, R245): the operands read, the residues, an abort. -/
def execSolverCheckStep (c : CoreId) (mis0 : Option Mismatch) (ups : List Upset) (s0 : State) : Out :=
  match (s0.core c).sv with
  | none => .next s0
  | some v =>
    let i := v.entry
    let e := (s0.core c).entry i
    if !e.busy then .next s0 else
    let s := s0.upset c ups
    let r := s.svRead c e.d { s.svWho c e.d with status := if e.abortReq then 0 else stMemUnc }
    let s1 := r.1
    let mis := mis0.bind (misFits false (fun f => f.check.toNat ≤ 5))
    let vd := verdict mis e
    let unc := r.2.1 ≠ stDone
    let s2 := match mis with
      | some m => if unc ∧ ¬ e.abortReq then s1
                  else s1.mismatched c i 0x06 false m vd (fun pass f => List.replicate 6 0 ++ [BitVec.ofNat 8 pass, f.unit] ++ List.replicate 16 0)
      | none => s1
    let s3 := if e.abortReq then s2.svUntouched c i e.abortStatus
      else if unc then s2.svUntouched c i stMemUnc
      else match vd with
        | .failed _ => s2.svUntouched c i stResidueFault
        | _ => s2
    .next (s3.noteRecords s c i)

end Sys2Proof.Machine
end

