-- ==== Sys2Proof/Machine/Lanes.lean ====
section
/-! DEFINITION. What the lanes of the vector engine compute for one element: chisel chains (R133, R134), carve programs
(R137 to R139), segment reductions (R141), key order (R142), bucket numbers (R144) and summaries (R147, R148). -/

namespace Sys2Proof.Machine

/-- A value in a lane: integers keep their exact two's-complement value. -/
inductive LVal where
  | flt (v : FVal)
  | int (i : Int)
deriving DecidableEq, Repr, Inhabited

def LVal.fval : LVal → FVal
  | .flt v => v
  | .int i => FVal.ofInt i

/-- The value of an element code of a format that needs no header. -/
def codeVal (fmt code scale : Nat) : LVal :=
  match elemOf fmt with
  | some (.int w) => .int (toSigned w code)
  | some .uint32 => .int code
  | some (.sbi w) => .int (toSigned w code)
  | some (.mx f) => .flt (mxVal (.mx f) code scale)
  | some .mxint8 => .flt (mxVal .mxint8 code scale)
  | some (.flt f) => .flt (f.decode code)
  | none => .int 0

/-- A value converted to INT32 in a stage (R134, R172): an integer is already one. -/
def toStageInt : LVal → Int × Flags
  | .int i => (i, 0)
  | .flt v => let w := cvtInt 32 .rne false v
              (toSigned 32 w.code, w.flags)

/-- A value as an operand of a floating-point stage: widened, or rounded in the descriptor's mode (R134). -/
def toStageFlt (f : FSpec) (r : Rnd) (v : LVal) : FVal × Flags := f.arith r v.fval

/-- Format of a stage's working format; none for INT32. -/
def stageFmt (wfmt : Nat) : Option FSpec := if wfmt = 0 then some fp32 else if wfmt = 1 then some fp64 else none

/-- A value converted by a `cvt` to a format code or lane format (R133, R169, R170): not written, so -0 and FLUSH stay. -/
def cvtTo (e : Elem) (ieee : Bool) (mode : Nat) (v : LVal) : LVal × Flags :=
  match e with
  | .flt f => let w := cvtFlt f ieee (arithRnd mode f) false v.fval
              (.flt (match f.decode w.code with | .nan _ => .nan (w.trap.getD 0) | y => y), w.flags)
  | .int b => match v with
    | .int i => if -(2 ^ (b - 1) : Int) < i ∧ i < 2 ^ (b - 1) then (.int i, 0) else
        let w := cvtInt b .rne false (FVal.ofInt i)
        (.int (toSigned b w.code), w.flags)
    | .flt y => let w := cvtInt b .rne false y
                (.int (toSigned b w.code), w.flags)
  | _ => (v, 0)

/-- A signed 8-bit immediate. -/
def simm8 (n : Nat) : Int := toSigned 8 n

/-- Integer scaling of `scale2`: left shifts wrap, right shifts round toward minus infinity (R134). -/
def intScale (w : Nat) (i k : Int) : Int := if 0 ≤ k then wrapInt w (i * 2 ^ k.toNat) else Int.fdiv i (2 ^ (-k).toNat)

/-- `scale2` of an integer that is not exact (R179): bits shifted out to the right, or a left shift that wraps. -/
def intScaleInexact (w : Nat) (i k : Int) : Bool := if 0 ≤ k then wrapInt w (i * 2 ^ k.toNat) != i * 2 ^ k.toNat else i % 2 ^ (-k).toNat != 0

/-- Flags of `scale2` of an integer: NX where it is not exact, and UF where a nonzero value becomes 0 (R179). -/
def intScaleFlags (w : Nat) (a imm : Int) : Flags :=
  flIf (intScaleInexact w a imm) flNX ||| flIf (intScaleInexact w a imm && a != 0 && intScale w a imm == 0) flUF

/-- An SBI input element of a chain: element, and its block's header (R165, R168). -/
structure SbiIn where
  elem : Int := 0
  header : Nat := 0
deriving DecidableEq, Repr, Inhabited

/-- `from_sbi` (R133, R168). -/
def fromSbi (b : SbiIn) (imm : Int) : FVal × Flags :=
  if simm8 (b.header % 256) ≠ imm then (.nan 1, flNV)
  else (.num (b.elem < 0) b.elem.natAbs imm, flIf (bitsAt b.header 8 4 != 0) flNV ||| flIf (bitAt b.header 12) flOF)

/-- What a chain reads for one element: the three streams, SBI streams apart, and the constants. -/
structure ChainIn where
  vals : List LVal := []
  sbi : List SbiIn := []
  consts : List Nat := []
deriving DecidableEq, Repr, Inhabited

/-- An operand of a stage (R132): a stream, a constant in the stage's own reading, or an earlier result. -/
def chainOperand (x : ChainIn) (wfmt : Nat) (res : List LVal) (sel : Nat) : LVal :=
  if sel < 3 then x.vals.getD sel (.int 0)
  else if sel < 8 then
    let c := x.consts.getD (sel - 4) 0
    if wfmt = 2 then .int (toSigned 32 c) else .flt (fp32.decode c)
  else res.getD (sel - 8) (.int 0)

/-- One floating-point stage on operands already in the working format. -/
def fltStage (f : FSpec) (r : Rnd) (kind : Nat) (imm : Int) (a b c : FVal) : FVal × Flags :=
  match kind with
  | 2 => fAdd f r a b
  | 3 => fSub f r a b
  | 4 => fMul f r a b
  | 5 => fFma f r a b c
  | 6 => fMin a b
  | 7 => fMax a b
  | 8 => (a.abs, 0)
  | 9 => (a.neg, 0)
  | 0xA => fScale f r a imm
  | 0xB => (.num false (b2n (a.lt b)) 0, 0)
  | 0xC => (.num false (b2n (a.eq b)) 0, 0)
  | _ => (a, 0)

/-- The result of one INT32 stage (R134): it wraps. -/
def intStage (kind : Nat) (imm a b c : Int) : Int :=
  match kind with
  | 2 => wrapInt 32 (a + b)
  | 3 => wrapInt 32 (a - b)
  | 4 => wrapInt 32 (a * b)
  | 5 => wrapInt 32 (a * b + c)
  | 6 => if b < a then b else a
  | 7 => if a < b then b else a
  | 8 => wrapInt 32 (Int.ofNat a.natAbs)
  | 9 => wrapInt 32 (-a)
  | 0xA => intScale 32 a imm
  | 0xB => if a < b then 1 else 0
  | 0xC => if a = b then 1 else 0
  | _ => a

/-- One chain stage (R133, R134): its result and the flags it sets. `sel` converts only the operand it takes. -/
def chainStage (ieee : Bool) (mode : Nat) (x : ChainIn) (res : List LVal) (st : Stage) : LVal × Flags :=
  let op := fun (sel : Nat) => chainOperand x st.wfmt res sel
  let imm := simm8 st.imm
  let src : LVal × Flags :=
    if st.kind = 0xF then let y := fromSbi (x.sbi.getD st.a {}) imm
                          (.flt y.1, y.2)
    else if st.kind = 0xD then ((if (op st.a).fval.isZero then op st.c else op st.b), 0)
    else (op st.a, 0)
  match stageFmt st.wfmt with
  | some f =>
    let r := arithRnd mode f
    let a := toStageFlt f r src.1
    let fl := src.2 ||| a.2
    if st.kind = 1 then
      match elemOf st.imm with
      | some e => let y := cvtTo e ieee mode (.flt a.1)
                  (y.1, fl ||| y.2)
      | none => (.flt a.1, fl)
    else if st.kind = 0xE then
      let w := cvtSbi 32 imm a.1
      (.flt (match FVal.ofInt (toSigned 32 w.code) with | .num n m _ => .num n m imm | y => y), fl ||| (w.flags &&& ~~~ flFLUSH))
    else
      let two := st.reads.contains st.b && st.kind != 0xD && st.reads.length ≥ 2
      let b := if two then toStageFlt f r (op st.b) else (.zero, 0)
      let c := if st.kind = 5 then toStageFlt f r (op st.c) else (.zero, 0)
      let y := fltStage f r st.kind imm a.1 b.1 c.1
      (.flt y.1, fl ||| b.2 ||| c.2 ||| y.2)
  | none =>
    let a := toStageInt src.1
    let fl := src.2 ||| a.2
    if st.kind = 1 then
      match elemOf st.imm with
      | some e => let y := cvtTo e ieee mode (.int a.1)
                  (y.1, fl ||| y.2)
      | none => (.int a.1, fl)
    else if st.kind = 0xE then
      let w := cvtSbi 32 imm (FVal.ofInt a.1)
      (.flt (match FVal.ofInt (toSigned 32 w.code) with | .num n m _ => .num n m imm | y => y), fl ||| (w.flags &&& ~~~ flFLUSH))
    else
      let two := st.kind != 0xD && st.reads.length ≥ 2
      let b := if two then toStageInt (op st.b) else (0, 0)
      let c := if st.kind = 5 then toStageInt (op st.c) else (0, 0)
      (.int (intStage st.kind imm a.1 b.1 c.1), fl ||| b.2 ||| c.2 ||| (if st.kind = 0xA then intScaleFlags 32 a.1 imm else 0))

/-- All stages in order: the last result and the flags. -/
def chainEval (ieee : Bool) (mode : Nat) (x : ChainIn) (sts : List Stage) : LVal × Flags :=
  let r := sts.foldl (fun (acc : List LVal × Flags) st =>
    let y := chainStage ieee mode x acc.1 st
    (acc.1 ++ [y.1], acc.2 ||| y.2)) ([], 0)
  (r.1.getLastD (.int 0), r.2)

/-! ### Carve -/

/-- Element format of a carve lane type (R136). -/
def laneElem (ty : Nat) : Elem :=
  match ty with
  | 0 => .int 32 | 1 => .flt fp32 | 2 => .flt fp64 | 3 => .flt bf16 | 4 => .flt fp16 | 5 => .flt e4m3 | 6 => .flt e5m2 | _ => .int 8

def laneBitsOf (ty : Nat) : Nat := match ty with | 2 => 64 | 0 | 1 => 32 | 3 | 4 => 16 | _ => 8

/-- A lane value's code in a lane type. -/
def laneCode (ty : Nat) (v : LVal) : Nat :=
  match laneElem ty, v with
  | .flt f, y => f.code y.fval
  | .int w, .int i => toUnsigned w i
  | .int w, .flt y => toUnsigned w (FVal.toInt .rne y).1
  | _, _ => 0

/-- The value of a code in a lane type; `why` is the cause of a NaN (R181). -/
def laneVal (ty code why : Nat) : LVal :=
  match laneElem ty with
  | .flt f => .flt (match f.decode code with | .nan _ => .nan why | y => y)
  | .int w => .int (toSigned w code)
  | _ => .int 0

/-- One element's share of the sixteen registers: 32-bit words, or the element's part of them in a packed type; the cause of a NaN that
each holds (R181); the flags set. -/
structure Lane where
  regs : List Nat := List.replicate 16 0
  why : List Nat := List.replicate 16 0
  flags : Flags := 0
deriving DecidableEq, Repr, Inhabited

def Lane.code (r : Lane) (ty v : Nat) : Nat := if ty = 2 then r.regs.getD v 0 + 2 ^ 32 * r.regs.getD (v + 1) 0 else r.regs.getD v 0
def Lane.val (r : Lane) (ty v : Nat) : LVal := laneVal ty (r.code ty v) (r.why.getD v 0)
def Lane.put (r : Lane) (ty v c why : Nat) (fl : Flags) : Lane :=
  { regs := if ty = 2 then (r.regs.set v (c % 2 ^ 32)).set (v + 1) (c / 2 ^ 32 % 2 ^ 32) else r.regs.set v (c % 2 ^ laneBitsOf ty)
    why := r.why.set v why, flags := r.flags ||| fl }

/-- A carve program's constants: eight words, and a free high word for `const` 7 in FP64. -/
structure CarveEnv where
  ty : Nat := 0
  ieee : Bool := false
  mode : Nat := 0
  ks : List Nat := []
  /-- position of the element within its lane: its index in the stream modulo `pack` (DESIGN CHOICE, log 48) -/
  pos : Nat := 0
  /-- formats of the inputs -/
  fmts : List Nat := []
  /-- what stands where the spec names no eighth constant (log 2) -/
  beyond : Nat := 0
deriving DecidableEq, Repr, Inhabited

/-- One floating-point carve operation with a rounded result. -/
def carveFlt (f : FSpec) (r : Rnd) (op : Nat) (imm : Int) (a b c : FVal) : FVal × Flags :=
  match op with
  | 1 => fAdd f r a b
  | 2 => fSub f r a b
  | 3 => fMul f r a b
  | 4 => fFma f r a b c
  | 5 => fMin a b
  | 6 => fMax a b
  | 7 => (a.abs, 0)
  | 8 => (a.neg, 0)
  | 0x15 => fScale f r a imm
  | _ => (a, 0)

/-- `rint` (R139): to an integral value in the descriptor's rounding mode, in every lane type. A nonzero value that becomes zero sets UF
and NX (R179). -/
def carveRint (mode : Nat) (a : FVal) : FVal × Flags :=
  match a with
  | .num n m e => let k := roundMag (match mode with | 1 => .rtz | 2 => .rup | 3 => .rdn | _ => .rne) n m e 0
                  (if e ≥ 0 then a else .num n k.1 0, flIf k.2 flNX ||| flIf (k.2 && k.1 == 0) flUF)
  | y => (y, 0)

/-- One integer carve operation; wraps (R139). DESIGN CHOICE (log 48): `scale2` by a negative `imm` rounds toward minus infinity, as it
does in an INT32 stage (R134). -/
def carveInt (w op : Nat) (imm a b c : Int) : Int :=
  match op with
  | 1 => wrapInt w (a + b)
  | 2 => wrapInt w (a - b)
  | 3 => wrapInt w (a * b)
  | 4 => wrapInt w (a * b + c)
  | 5 => if b < a then b else a
  | 6 => if a < b then b else a
  | 7 => wrapInt w (Int.ofNat a.natAbs)
  | 8 => wrapInt w (-a)
  | 0x15 => intScale w a imm
  | _ => a

/-- A comparison of two lane values (R139, R173). -/
def laneCmp (op : Nat) (a b : LVal) : Bool :=
  match a, b with
  | .int i, .int j => if op = 9 then i < j else if op = 0xA then i ≤ j else i == j
  | _, _ => if op = 9 then a.fval.lt b.fval else if op = 0xA then a.fval.le b.fval else a.fval.eq b.fval

/-- One carve instruction (R139). -/
def carveStep (x : CarveEnv) (acc : Lane) (w : Carve) : Lane :=
  let b := laneBitsOf x.ty
  let g := acc.code x.ty
  let v := acc.val x.ty
  -- bits that stand in a register as they stood in another keep the cause of a NaN
  let put := fun (c : Nat) => acc.put x.ty w.vd c ((([w.va, w.vb, w.vc].find? (fun r => g r == c)).map (acc.why.getD · 0)).getD 0) 0
  let ones := 2 ^ b - 1
  let imm6 := toSigned 6 w.imm
  let sh := w.imm % 32
  match w.op with
  | 0 => acc
  | 9 | 0xA | 0xB => put (if laneCmp w.op (v w.va) (v w.vb) then ones else 0)
  | 0xC => put ((g w.va &&& g w.vb) ||| ((ones ^^^ g w.va) &&& g w.vc))
  | 0xD => put (g w.va &&& g w.vb)
  | 0xE => put (g w.va ||| g w.vb)
  | 0xF => put (g w.va ^^^ g w.vb)
  | 0x10 => put (g w.va * 2 ^ sh % 2 ^ b)
  | 0x11 => put (g w.va / 2 ^ sh)
  | 0x12 => put (toUnsigned b (Int.fdiv (toSigned b (g w.va)) (2 ^ sh)))
  | 0x13 =>
    let y := cvtTo (laneElem (w.imm % 8)) x.ieee x.mode (v w.va)
    acc.put (w.imm % 8) w.vd (laneCode (w.imm % 8) y.1) y.1.fval.cause y.2
  | 0x14 =>
    let k := w.imm % 8
    if x.ty = 2 then put (x.ks.getD k 0 + 2 ^ 32 * (if k = 7 then x.beyond else x.ks.getD (k + 1) 0))
    else put (bitsAt (x.ks.getD k 0) (x.pos * b) b)
  | _ =>
    match laneElem x.ty with
    | .flt f =>
      let y := if w.op = 0x16 then carveRint x.mode (v w.va).fval
               else carveFlt f (arithRnd x.mode f) w.op imm6 (v w.va).fval (v w.vb).fval (v w.vc).fval
      acc.put x.ty w.vd (f.code y.1) y.1.cause y.2
    | .int n =>
      let y := put (toUnsigned n (carveInt n w.op imm6 (toSigned n (g w.va)) (toSigned n (g w.vb)) (toSigned n (g w.vc))))
      if w.op = 0x15 then { y with flags := y.flags ||| intScaleFlags n (toSigned n (g w.va)) imm6 } else y
    | _ => acc

/-- An input converted to the lane type (R137, R169, R170): its code, the cause of a NaN, flags. `same`: it has the lane's format, and
stands as it is. -/
def laneIn (ty : Nat) (same ieee : Bool) (mode : Nat) (v : LVal) : Nat × Nat × Flags :=
  match laneElem ty with
  | .flt f =>
    let y : FVal × Flags := match f.kind, v.fval with
      | .e4m3, .num n m e => f.arith (arithRnd mode f) (.num n m e)
      | .e4m3, w => if same then (w, 0) else let z := cvtTo (.flt f) ieee mode (.flt w)
                                             (z.1.fval, z.2)
      | _, a => f.arith (arithRnd mode f) a
    (f.code y.1, y.1.cause, y.2)
  | .int w => match v with
    | .int i => if same then (toUnsigned w i, 0, 0) else
        let y := cvtInt w .rne false (FVal.ofInt i)
        (y.code, 0, y.flags)
    | .flt y => let z := cvtInt w .rne false y
                (z.code, 0, z.flags)
  | _ => (0, 0, 0)

/-- One element through a carve program (R137): the value left in `v14`. -/
def carveEval (x : CarveEnv) (ins : List (Option LVal)) (p : List Carve) : LVal × Flags :=
  let st := if x.ty = 2 then 2 else 1
  let r0 := (ins.zipIdx).foldl (fun (acc : Lane) y =>
    match y.1 with
    | some v => let c := laneIn x.ty (elemOf (x.fmts.getD y.2 0) == some (laneElem x.ty)) x.ieee x.mode v
                acc.put x.ty (y.2 * st) c.1 c.2.1 c.2.2
    | none => acc) {}
  let r := p.foldl (carveStep x) r0
  (r.val x.ty 14, r.flags)

/-! ### Segment reductions and summaries -/

/-- Sixteen partial sums, then pairwise (R141); `f` none for INT32. -/
def sumOrder (f : Option FSpec) (r : Rnd) (xs : List LVal) : LVal × Flags :=
  let add := fun (a b : LVal) => match f with
    | some f => let y := fAdd f r a.fval b.fval
                (LVal.flt y.1, y.2)
    | none => (LVal.int (wrapInt 32 ((toStageInt a).1 + (toStageInt b).1)), (0 : Flags))
  let zero : LVal := match f with | some _ => .flt .zero | none => .int 0
  let lanes := (List.range 16).map (fun l =>
    ((xs.zipIdx).filter (fun y => y.2 % 16 == l)).foldl (fun (a : LVal × Flags) y => let z := add a.1 y.1
                                                                                   (z.1, a.2 ||| z.2)) (zero, (0 : Flags)))
  let half := fun (q : List (LVal × Flags)) => (List.range (q.length / 2)).map (fun t =>
    let a := q.getD (2 * t) (zero, 0)
    let b := q.getD (2 * t + 1) (zero, 0)
    let z := add a.1 b.1
    (z.1, a.2 ||| b.2 ||| z.2))
  (half (half (half (half lanes)))).headD (zero, 0)

/-- Minimum or maximum of the elements of a segment; an empty one yields an infinity (R141). -/
def extreme (isMin : Bool) (xs : List LVal) : LVal × Flags :=
  match xs with
  | [] => (.flt (.inf (!isMin)), 0)
  | x :: r => r.foldl (fun (a : LVal × Flags) y =>
      match a.1, y with
      | .int i, .int j => (.int (if isMin then (if j < i then j else i) else (if i < j then j else i)), a.2)
      | u, v => let z := if isMin then fMin u.fval v.fval else fMax u.fval v.fval
                (.flt z.1, a.2 ||| z.2)) (x, 0)

/-- The stage format that an input format widens to (R141): none for INT32. -/
def widenFmt (fmt : Nat) : Option FSpec := if fmt = 8 ∨ fmt = 9 then none else if fmt = 1 then some fp64 else some fp32

/-- Key order of R142: NaNs last, -0 equal to +0. -/
def keyLt (fmt a b : Nat) : Bool :=
  if fmt = 0xA then a < b
  else if fmt = 9 then toSigned 32 a < toSigned 32 b
  else let x := fp32.decode a
       let y := fp32.decode b
       if x.isNan then false else if y.isNan then true else x.lt y

/-- Insert a (key, payload) pair after every pair that does not sort after it: equal keys keep their order. -/
def insertKey (fmt : Nat) (k : Nat × Nat) : List (Nat × Nat) → List (Nat × Nat)
  | [] => [k]
  | y :: r => if keyLt fmt k.1 y.1 then k :: y :: r else y :: insertKey fmt k r

/-- A block of keys in ascending order, stable (R142). -/
def sortKeys (fmt : Nat) (l : List (Nat × Nat)) : List (Nat × Nat) := l.foldl (fun acc k => insertKey fmt k acc) []

/-- A key's bucket (R144). -/
def bucketOf (key aux : Nat) : Nat := key * 0x6C8E9CF5 % 2 ^ 32 / 2 ^ (32 - aux)

/-- Value of a written element for a summary. -/
def OutElem.val (fmt : Nat) (w : OutElem) : LVal :=
  match elemOf fmt with
  | some (.sbi b) => .flt (match FVal.ofInt (toSigned b w.code) with | .num n m _ => .num n m w.ex | y => y)
  | _ => codeVal fmt w.code w.ex.toNat

/-- The scalar summary of R147 and R148, its roundings to FP32 and FP64 in the descriptor's mode (R174); `free` stands for the value of a
kind that has no element to choose from. DESIGN CHOICE
(log 44): its additions and roundings set no flag in `health` or VX_FLAGS, for no rule names one for them. -/
def vxSummary (kind fmt mode : Nat) (l : List OutElem) (free : BitVec 32) : BitVec 32 :=
  let vs := l.map (OutElem.val fmt)
  let fvs := vs.map LVal.fval
  let nan : BitVec 32 := 0x7FC00000
  let code := fun (v : FVal) => BitVec.ofNat 32 (fp32.code (fp32.arith (arithRnd mode fp32) v).1)
  let best := fun (pick : FVal → FVal → FVal) => if fvs.any FVal.isNan then nan else
    match fvs with | [] => free | x :: r => code (r.foldl pick x)
  match kind with
  | 0 => BitVec.ofNat 32 l.length
  | 1 => if fvs.any FVal.isNan then nan else
      match fvs with | [] => free | x :: r => code (r.foldl (fun a b => (fMax a b.abs).1) x.abs)
  | 2 => best (fun a b => (fMax a b).1)
  | 3 => best (fun a b => (fMin a b).1)
  | 4 => if fvs.any FVal.isNan then nan else
      if fmt = 1 then code (sumOrder (some fp64) (arithRnd mode fp64) vs).1.fval
      else code (sumOrder (some fp32) (arithRnd mode fp32) (vs.map (fun v => .flt (fp32.arith .rne v.fval).1))).1.fval
  | 5 => BitVec.ofNat 32 (fvs.filter (fun v => !v.isZero)).length
  | 6 => match l.find? (fun w => !(w.val fmt).fval.isZero) with
    | some w => BitVec.ofNat 32 w.idx
    | none => 0xFFFFFFFF
  | 7 => BitVec.ofNat 32 (l.filter (·.nonfinite)).length
  | _ => BitVec.ofNat 32 (l.filter (fun w => w.ex == 1)).length

end Sys2Proof.Machine
end

