-- ==== Sys2Proof/Machine/Vector.lean ====
section
/-! DEFINITION. The vector engine (chapter 5): one command is the end of one tile (R129, R131, R153). -/

namespace Sys2Proof.Machine

/-- One element a tile writes: linear index, NPA of the byte that holds it, what the conversion gave, its scale byte,
block exponent, or miss mark. -/
structure VxElem where
  idx : Nat := 0
  npa : Nat := 0
  w : Written := {}
  ex : Int := 0
deriving DecidableEq, Repr, Inhabited

/-- What one execution of a tile comes to. -/
structure VxRes where
  segs : List (Nat × Nat) := []
  writes : List (Nat × List Byte) := []
  elems : List VxElem := []
  flags : Flags := 0
  /-- an access made on data fails the region check: its NPA (R88) -/
  bad : Option Nat := none
  next : Option VxRun := none
  /-- slots taken from the tile queue (R94) -/
  took : Nat := 0
deriving DecidableEq, Repr, Inhabited

/-- Rounding of the output conversion of element `idx` (R174 to R177). -/
def State.vxRnd (s : State) (c : CoreId) (d : Desc) (fmt idx : Nat) : Rnd :=
  let k := s.core c
  let n := if d.srBits = 0 then k.srBits.toNat else d.srBits
  outRnd d.mode fmt (.sto n (laneBits k.seed d.tensorId idx n))

/-- The output conversion of one element to a format without blocks: UINT32 bits pass unchanged (R659). -/
def State.vxOut (s : State) (c : CoreId) (d : Desc) (fmt idx : Nat) (v : LVal) : Written :=
  if fmt = 0xA then
    match v with
    | .int i => { code := toUnsigned 32 i, zero := toUnsigned 32 i == 0 }
    | .flt _ => {}
  else match elemOf fmt with
    | some e => cvtOut e d.ieeeOvf (s.vxRnd c d fmt idx) v.fval
    | none => {}

/-- A 32-bit word of one of the core's own stores. -/
def State.ownWord (s : State) (c : CoreId) (npa : Nat) : Nat := leVal (s.ownPeek c npa 4)

/-- Whether bytes lie in the core's own stores and pass the region check (R88, R126). -/
def State.ownOk (s : State) (c : CoreId) (npa n : Nat) (p : Perm) : Bool :=
  s.regionOk c npa n p && (npa / 2 ^ 48 == 2 || s.ownSlice c npa n)

/-- An address moved by a signed distance; a negative result names nothing. -/
def npaPlus (base : Nat) (d : Int) : Nat := if (base : Int) + d < 0 then 15 * 2 ^ 48 else ((base : Int) + d).toNat

/-! ### Streaming opcodes: chain and carve -/

/-- Bytes of elements `lo` to `lo + cnt - 1` of a packed stream; `lo` is a multiple of 8 elements. -/
def streamSeg (base fmt lo cnt : Nat) : Nat × Nat := (base + lo * elemBits fmt / 8, (cnt * elemBits fmt + 7) / 8)

/-- Segments that a tile of a stream reads: elements, and the block headers of an SBI stream. -/
def VxBody.streamSegs (x : VxBody) (i lo cnt : Nat) : List (Nat × Nat) :=
  let f := x.inFmt i
  streamSeg (x.inAddr i) f lo cnt ::
    (if isSbi f then [(sbiHead (x.inAddr i) (elemBits f) (ceilDiv x.n 64) + 2 * (lo / 64), 2 * ceilDiv cnt 64)] else [])
    ++ (if i = 0 ∧ isMx f then [(x.in2 + lo / 32, ceilDiv cnt 32)] else [])

/-- The streams a chain or carve program reads: stream 2 carries scales when input 0 is MX (R163). -/
def VxBody.streams (x : VxBody) : List Nat :=
  [0] ++ (if x.in1 = 0 then [] else [1]) ++ (if x.in2 = 0 ∨ isMx x.f0 then [] else [2])

/-- Tiles waiting in the queue, as elements of stream 0: their codes, format and slots (R94, R103). -/
def Core.queuedTile (k : Core) : Option (Nat × List Nat × Nat) :=
  match k.tileQueue with
  | [] => none
  | a :: r =>
    let f := bitsAt a.header.toNat 64 8
    let b := elemBits f
    if f = 1 then match r with
      | [] => none
      | a2 :: _ => some (f, (List.range 128).map (packedCode a.elems b) ++ (List.range 128).map (packedCode a2.elems b), 2)
    else some (f, (List.range 256).map (packedCode a.elems b), 1)

/-- Values of stream `i` for a tile. -/
def State.streamVals (s : State) (c : CoreId) (x : VxBody) (i lo cnt : Nat) : List LVal :=
  let f := x.inFmt i
  let g := streamSeg (x.inAddr i) f lo cnt
  let b := s.ownPeek c g.1 g.2
  let sc := if isMx f then s.ownPeek c (x.in2 + lo / 32) (ceilDiv cnt 32) else []
  (List.range cnt).map (fun j => codeVal f (packedCode b (elemBits f) j) (sc.getD (j / 32) 0).toNat)

/-- Header of block `b` of an SBI stream. -/
def State.sbiHeader (s : State) (c : CoreId) (base w blocks b : Nat) : Nat :=
  leVal (s.ownPeek c (sbiHead base w blocks + 2 * b) 2)

/-- Write a tile of a streaming output: blocks of an MX or SBI format as R163, R164, R166 and R167 give. -/
def State.streamOut (s : State) (c : CoreId) (d : Desc) (lo : Nat) (vals : List LVal) : List (Nat × List Byte) × List VxElem :=
  let x := d.vx
  let cnt := vals.length
  let bits := elemBits x.fo
  let base := x.out + lo * bits / 8
  let at0 := fun (j : Nat) => base + j * bits / 8
  if isMx x.fo then
    let e := (elemOf x.fo).getD .uint32
    let blks := (List.range (ceilDiv cnt 32)).map (fun b =>
      let vs := ((vals.drop (32 * b)).take 32).map LVal.fval
      let rs := (List.range vs.length).map (fun j => s.vxRnd c d x.fo (lo + 32 * b + j))
      cvtMx e rs vs)
    let codes := blks.flatMap (fun b => let cs := b.2.map (·.code)
                                       cs ++ List.replicate (32 - cs.length) 0)
    ([(base, packCodes bits codes), (x.auxAddr + lo / 32, blks.map (fun b => BitVec.ofNat 8 b.1))],
     ((blks.flatMap (fun b => b.2.map (fun w => (w, b.1)))).zipIdx).map (fun y => ⟨lo + y.2, at0 y.2, y.1.1, y.1.2⟩))
  else if isSbi x.fo then
    -- the closing `to_sbi` gives elements of the output's width, with its limits (R167; log 19)
    let imm := match d.stages.getLast? with | some l => simm8 l.imm | none => 0
    let ws := vals.map (fun v => cvtSbi bits imm v.fval)
    let hdr := sbiHead x.out bits (ceilDiv x.n 64)
    let pad := fun (cs : List Nat) => cs ++ List.replicate (ceilDiv cs.length 64 * 64 - cs.length) 0
    let hs := (List.range (ceilDiv cnt 64)).flatMap (fun b =>
      let w := (ws.drop (64 * b)).take 64
      leBytes 2 (toUnsigned 8 imm + 256 * Nat.min 15 (w.filter (·.nonfinite)).length + 4096 * b2n (w.any (fun y => y.flags &&& flSAT != 0))))
    ([(base, packCodes bits (pad (ws.map (·.code)))), (hdr + 2 * (lo / 64), hs)],
     (ws.zipIdx).map (fun y => ⟨lo + y.2, at0 y.2, y.1, imm⟩))
  else
    let ws := (vals.zipIdx).map (fun y => s.vxOut c d x.fo (lo + y.2) y.1)
    ([(base, packCodes bits (ws.map (·.code)))], (ws.zipIdx).map (fun y => ⟨lo + y.2, at0 y.2, y.1, 0⟩))

/-- A tile of `chain` or `carve` (R132 to R139). What an element's stages or instructions set of SAT counts for the element (R183). DESIGN
CHOICE (log 48): a selector of stream 2 while that carries the scales of input 0 gives 0. DESIGN CHOICE (log 44): with the tile queue enabled these two opcodes take a queued tile as
stream 0; its tensor id and coordinates are taken with it and no operation of the lanes reads them (R94). -/
def State.vxStream (s : State) (c : CoreId) (d : Desc) (run : VxRun) : VxRes :=
  let x := d.vx
  let lo := run.tile * 256
  let cnt := Nat.min 256 (x.n - lo)
  let q := if (s.core c).tileq then (s.core c).queuedTile else none
  let strs := if q.isSome then x.streams.tail else x.streams
  let ins := (List.range 3).map (fun i =>
    if i = 0 ∧ q.isSome then match q with
      | some t => (t.2.1.take cnt).map (fun cd => codeVal t.1 cd 127)
      | none => []
    else if strs.contains i then s.streamVals c x i lo cnt else [])
  let sbi := fun (i j : Nat) =>
    if isSbi (x.inFmt i) ∧ strs.contains i then
      ({ elem := match (ins.getD i []).getD j (.int 0) with | .int z => z | .flt _ => 0
         header := s.sbiHeader c (x.inAddr i) (elemBits (x.inFmt i)) (ceilDiv x.n 64) ((lo + j) / 64) } : SbiIn)
    else {}
  let one := fun (j : Nat) =>
    if x.op = 1 then
      let sts := if isSbi x.fo then d.stages.dropLast else d.stages
      let cin : ChainIn := { vals := (List.range 3).map (fun i => (ins.getD i []).getD j (.int 0)), sbi := (List.range 3).map (fun i => sbi i j)
                             consts := (List.range 4).map (fun i => fieldAt d (0x80 + 4 * i) 4) }
      if isSbi x.fo then
        -- the last stage is to_sbi: its operand, in its working format, is what the output conversion reads
        let r := sts.foldl (fun (acc : List LVal × Flags) st => let y := chainStage d.ieeeOvf d.mode cin acc.1 st
                                                             (acc.1 ++ [y.1], acc.2 ||| y.2)) ([], 0)
        match d.stages.getLast? with
        | some l =>
          let v := chainOperand cin l.wfmt r.1 l.a
          (match stageFmt l.wfmt with
           | some f => let y := toStageFlt f (arithRnd d.mode f) v
                       (LVal.flt y.1, r.2 ||| y.2)
           | none => let y := toStageInt v
                     (LVal.int y.1, r.2 ||| y.2))
        | none => (.int 0, 0)
      else chainEval d.ieeeOvf d.mode cin sts
    else
      let ty := x.mode % 8
      let env : CarveEnv := { ty := ty, ieee := d.ieeeOvf, mode := d.mode, ks := (List.range 8).map (fun i => fieldAt d (0x60 + 4 * i) 4)
                              pos := j % lanePack ty, fmts := (match q with | some t => t.1 | none => x.f0) :: [x.f1, x.f2], beyond := (Config.freeWord s.freeCount).toNat % 2 ^ 32 }
      carveEval env ((List.range 3).map (fun i => if strs.contains i ∨ (i = 0 ∧ q.isSome) then (ins.getD i [])[j]? else none)) d.carve
  let vals := (List.range cnt).map one
  let o := s.streamOut c d lo (vals.map (·.1))
  { segs := strs.flatMap (fun i => x.streamSegs i lo cnt), writes := o.1
    elems := (o.2.zip vals).map (fun y => { y.1 with w := { y.1.w with flags := y.1.w.flags ||| y.2.2 } })
    flags := vals.foldl (fun f y => f ||| y.2) 0, took := match q with | some t => t.2.2 | none => 0
    next := if lo + 256 < x.n then some { run with tile := run.tile + 1 } else none }

/-! ### Irregular opcodes -/

/-- Codes of `cnt` elements from element `lo` of a stream without blocks. -/
def State.codesAt (s : State) (c : CoreId) (base fmt lo cnt : Nat) : List Nat :=
  let g := streamSeg base fmt lo cnt
  let b := s.ownPeek c g.1 g.2
  (List.range cnt).map (packedCode b (elemBits fmt))

/-- Signed index `i` of the index list. -/
def State.indexAt (s : State) (c : CoreId) (x : VxBody) (i : Nat) : Int := toSigned 32 (s.ownWord c (x.auxAddr + 4 * i))

/-- Codes written at bit places of the output, as bytes; of a byte that two records of half a byte share, the other half stands. -/
def State.bitWrites (s : State) (c : CoreId) (bits : Nat) (recs : List (Nat × List Nat)) : List (Nat × List Byte) :=
  let half := fun (r : Nat × List Nat) => bits * r.2.length < 8
  ((recs.filter (fun r => !half r)).map (fun r => (r.1 / 8, packCodes bits r.2)))
    ++ (((recs.filter half).map (·.1 / 8)).eraseDups.map (fun a =>
      let at_ := fun (h : Nat) => match (recs.filter half).find? (fun r => r.1 == 8 * a + 4 * h) with
        | some r => r.2.headD 0
        | none => bitsAt (leVal (s.ownPeek c a 1)) (4 * h) 4
      (a, [BitVec.ofNat 8 (at_ 0 + 16 * at_ 1)])))

/-- A tile of `gather` or `scatter` (R140). An element's linear index is its place in the output tensor (R177); of a record that a later entry
of the tile overwrites, the flags are left (R149). Places are counted in bits, for a record of one FP4 element fills half a byte. -/
def State.vxRecords (s : State) (c : CoreId) (d : Desc) (run : VxRun) : VxRes :=
  let x := d.vx
  let te := x.tileEntries
  let i0 := run.tile * te
  let cnt := Nat.min te (x.nAux - i0)
  let inW := x.recLen * elemBits x.f0
  let outW := x.recLen * elemBits x.fo
  -- entry: source, destination, both as NPA and bit in it, output record
  let place := fun (base : Nat) (b : Int) => (npaPlus base (Int.fdiv b 8), (b % 8).toNat)
  let ents := (List.range cnt).map (fun j =>
    let i := i0 + j
    let k := s.indexAt c x i
    if x.op = 3 then (place x.in0 (k * inW), place x.out (i * outW : Nat), i)
    else (place x.in0 (i * inW : Nat), place x.out (k * outW), toUnsigned 64 k))
  let ok := fun (e : (Nat × Nat) × (Nat × Nat) × Nat) =>
    if x.op = 3 then s.ownOk c e.1.1 x.recBytes .r else s.ownOk c e.2.1.1 (ceilDiv outW 8) .w
  let good := ents.takeWhile ok
  let bad := (ents.drop good.length).head?.map (fun e => if x.op = 3 then e.1.1 else e.2.1.1)
  let all := good.map (fun e =>
    let b := leVal (s.ownPeek c e.1.1 x.recBytes)
    let toBit := e.2.1.1 * 8 + e.2.1.2
    (toBit, (List.range x.recLen).map (fun j =>
      let idx := e.2.2 * x.recLen + j
      (⟨idx, (toBit + j * elemBits x.fo) / 8, s.vxOut c d x.fo idx (codeVal x.f0 (bitsAt b (e.1.2 + j * elemBits x.f0) (elemBits x.f0)) 127), 0⟩ : VxElem))))
  let recs := ((all.zip good).zipIdx.filter (fun e => x.op = 3 || !(good.drop (e.2 + 1)).any (fun f => f.2.2 == e.1.2.2.2))).map (·.1.1)
  let elems := recs.flatMap (·.2)
  { segs := (x.auxAddr + 4 * i0, 4 * cnt) :: good.map (fun e => (e.1.1, x.recBytes))
    writes := if x.op = 3 then [(x.out + i0 * outW / 8, packCodes (elemBits x.fo) (elems.map (·.w.code)))]
              else s.bitWrites c (elemBits x.fo) (recs.map (fun r => (r.1, r.2.map (·.w.code))))
    elems := elems, flags := (all.flatMap (·.2)).foldl (fun f y => f ||| y.w.flags) 0, bad := bad
    next := if i0 + te < x.nAux then some { run with tile := run.tile + 1 } else none }

/-- A tile of `seg_reduce` (R141): the segments that end within its 256 elements, the last tile taking what is left. DESIGN CHOICE (log 48):
offsets are taken as they stand; a segment that starts before `in0` or ends beyond `n` reads there where the core may, and one whose end is
not above its start is empty. -/
def State.vxSegs (s : State) (c : CoreId) (d : Desc) (run : VxRun) : VxRes :=
  let x := d.vx
  let last := x.n ≤ (run.tile + 1) * 256
  let hi : Int := (run.tile + 1) * 256
  let segs := (List.range x.nAux).filter (fun g =>
    let e := s.indexAt c x (g + 1)
    (run.tile == 0 || (hi - 256 < e)) && (last || e ≤ hi))
  let one := fun (g : Nat) =>
    let a := s.indexAt c x g
    let e := s.indexAt c x (g + 1)
    let n := (e - a).toNat
    let off := (a * elemBits x.f0 % 8).toNat
    (g, npaPlus x.in0 (Int.fdiv (a * elemBits x.f0) 8), (off + n * elemBits x.f0 + 7) / 8, off, n)
  let all := segs.map one
  let good := all.takeWhile (fun y => y.2.2.2.2 == 0 || s.ownOk c y.2.1 y.2.2.1 .r)
  let bad := (all.drop good.length).head?.map (·.2.1)
  let res := good.map (fun y =>
    let b := leVal (s.ownPeek c y.2.1 y.2.2.1)
    let vs := (List.range y.2.2.2.2).map (fun j => codeVal x.f0 (bitsAt b (y.2.2.2.1 + j * elemBits x.f0) (elemBits x.f0)) 127)
    let f := widenFmt x.f0
    let r := if x.mode = 0 then sumOrder f (match f with | some g => arithRnd d.mode g | none => .rne) vs else extreme (x.mode == 1) vs
    (y.1, s.vxOut c d x.fo y.1 r.1, r.2))
  { segs := (x.auxAddr, 4 * (x.nAux + 1)) :: good.map (fun y => (y.2.1, y.2.2.1))
    writes := if elemBits x.fo < 8 then
        -- FP4 results of neighbouring segments share bytes: write the whole run of this tile
        (match res with
         | [] => []
         | r0 :: _ => [(x.out + r0.1 / 2, packCodes 4 ((if r0.1 % 2 = 1 then [((s.ownPeek c (x.out + r0.1 / 2) 1).headD 0).toNat % 16] else [])
                          ++ res.map (·.2.1.code)))])
      else res.map (fun r => (x.out + r.1 * elemBits x.fo / 8, leBytes (elemBits x.fo / 8) r.2.1.code))
    elems := res.map (fun r => ⟨r.1, x.out + r.1 * elemBits x.fo / 8, r.2.1, 0⟩)
    flags := res.foldl (fun f r => f ||| r.2.2) 0, bad := bad
    next := if last then none else some { run with tile := run.tile + 1 } }

/-- A tile of `sort32`: eight blocks of 32 keys (R142). -/
def State.vxSort (s : State) (c : CoreId) (d : Desc) (run : VxRun) : VxRes :=
  let x := d.vx
  let lo := run.tile * 256
  let cnt := Nat.min 256 (x.n - lo)
  let keys := s.codesAt c x.in0 x.f0 lo cnt
  let pay := if x.in1 = 0 then List.replicate cnt 0 else s.codesAt c x.in1 0xA lo cnt
  let kp := keys.zip pay
  let sorted := (List.range (ceilDiv cnt 32)).flatMap (fun b => sortKeys x.f0 ((kp.drop (32 * b)).take 32))
  let ws := (sorted.zipIdx).map (fun y => s.vxOut c d x.fo (lo + y.2) (codeVal x.f0 y.1.1 127))
  let g := streamSeg x.out x.fo lo cnt
  { segs := streamSeg x.in0 x.f0 lo cnt :: (if x.in1 = 0 then [] else [(x.in1 + 4 * lo, 4 * cnt)])
    writes := (g.1, packCodes (elemBits x.fo) (ws.map (·.code))) ::
      (if x.in1 = 0 then [] else [(x.out + elemBytes x.fo x.n + 4 * lo, packCodes 32 (sorted.map (·.2)))])
    elems := (ws.zipIdx).map (fun y => ⟨lo + y.2, g.1 + y.2 * elemBits x.fo / 8, y.1, 0⟩)
    next := if lo + 256 < x.n then some { run with tile := run.tile + 1 } else none }

/-- Merge two ascending runs until `left` keys are consumed (R129, R143): keys taken of each, whether the next key of run 1 is matched by the
last one taken of run 0, and the keys written. -/
def setMerge (fmt mode : Nat) : Nat → Nat → List Nat → List Nat → Nat × Nat × Bool × List Nat
  | 0, _, _, _ => (0, 0, false, [])
  | f + 1, left, r0, r1 =>
    if left = 0 then (0, 0, false, []) else
    match r0, r1 with
    | [], [] => (0, 0, false, [])
    | a :: r, [] =>
      let y := setMerge fmt mode f (left - 1) r []
      (y.1 + 1, y.2.1, y.2.2.1, if mode = 0 then y.2.2.2 else a :: y.2.2.2)
    | [], b :: r =>
      let y := setMerge fmt mode f (left - 1) [] r
      (y.1, y.2.1 + 1, y.2.2.1, if mode = 0 ∨ mode = 2 then y.2.2.2 else b :: y.2.2.2)
    | a :: ra, b :: rb =>
      if keyLt fmt a b ∨ (mode = 3 ∧ ¬ keyLt fmt b a) then
        let y := setMerge fmt mode f (left - 1) ra (b :: rb)
        (y.1 + 1, y.2.1, y.2.2.1, if mode = 0 then y.2.2.2 else a :: y.2.2.2)
      else if keyLt fmt b a then
        let y := setMerge fmt mode f (left - 1) (a :: ra) rb
        (y.1, y.2.1 + 1, y.2.2.1, if mode = 0 ∨ mode = 2 then y.2.2.2 else b :: y.2.2.2)
      else if left = 1 then (1, 0, true, if mode = 2 then [] else [a])
      else
        let y := setMerge fmt mode f (left - 2) ra rb
        (y.1 + 1, y.2.1 + 1, y.2.2.1, if mode = 2 then y.2.2.2 else a :: y.2.2.2)

/-- A tile of `set_op`: 256 consumed keys (R129, R143). -/
def State.vxSet (s : State) (c : CoreId) (d : Desc) (run : VxRun) : VxRes :=
  let x := d.vx
  let n0 := Nat.min 256 (x.n - run.in0)
  let n1 := Nat.min 256 (x.nAux - run.in1)
  let pre := b2n run.matched
  let ks0 := (List.range n0).map (fun j => s.ownWord c (x.in0 + 4 * (run.in0 + j)))
  let ks1 := (List.range n1).map (fun j => s.ownWord c (x.in1 + 4 * (run.in1 + j)))
  let m := setMerge x.f0 x.mode 256 (256 - pre) ks0 (ks1.drop pre)
  let b := elemBits x.fo
  let ws := (m.2.2.2.zipIdx).map (fun y => s.vxOut c d x.fo (run.out + y.2) (codeVal x.f0 y.1 127))
  let npa := fun (j : Nat) => x.out + (run.out + j) * b / 8
  let bad := ((List.range ws.length).map npa).find? (fun a => !s.ownOk c a (Nat.max 1 (b / 8)) .w)
  let odd := b < 8 ∧ run.out % 2 = 1
  let codes := (if odd then [((s.ownPeek c (npa 0) 1).headD 0).toNat % 16] else []) ++ ws.map (·.code)
  let in0 := run.in0 + m.1
  let in1 := run.in1 + pre + m.2.1
  { segs := [(x.in0 + 4 * run.in0, 4 * m.1), (x.in1 + 4 * run.in1, 4 * (pre + m.2.1))]
    writes := if ws.isEmpty then [] else [(npa 0, packCodes b codes)]
    elems := (ws.zipIdx).map (fun y => ⟨run.out + y.2, npa y.2, y.1, 0⟩), bad := bad
    next := if in0 < x.n ∨ in1 < x.nAux then some { run with tile := run.tile + 1, out := run.out + ws.length, in0 := in0, in1 := in1, matched := m.2.2.1 } else none }

/-- A tile of `hash_probe`: 256 keys (R144). DESIGN CHOICE (log 48): of two slots that hold the key, the lower one counts. -/
def State.vxHash (s : State) (c : CoreId) (d : Desc) (run : VxRun) : VxRes :=
  let x := d.vx
  let lo := run.tile * 256
  let cnt := Nat.min 256 (x.n - lo)
  let keys := s.codesAt c x.in0 0xA lo cnt
  let probe := fun (key : Nat) =>
    let bk := x.auxAddr + 128 * bucketOf key x.aux
    let hit := if key = 0xFFFFFFFF then none else (List.range 16).find? (fun j => s.ownWord c (bk + 4 * j) == key)
    match hit with
    | some j => (s.ownWord c (bk + 64 + 4 * j), (0 : Int))
    | none => (0xFFFFFFFF, 1)
  let vs := keys.map probe
  { segs := (x.in0 + 4 * lo, 4 * cnt) :: keys.map (fun k => (x.auxAddr + 128 * bucketOf k x.aux, 128))
    writes := [(x.out + 4 * lo, packCodes 32 (vs.map (·.1)))]
    elems := (vs.zipIdx).map (fun y => ⟨lo + y.2, x.out + 4 * (lo + y.2), { code := y.1.1, zero := y.1.1 == 0 }, y.1.2⟩)
    next := if lo + 256 < x.n then some { run with tile := run.tile + 1 } else none }

/-- A tile of `scatter_add_sbi` (R145): records added one after another to the destination as it then stands. DESIGN CHOICE (log 48): a
negative index fails the region check, and one that names a record beyond `n` is added wherever the core may write. -/
def State.vxAddSbi (s : State) (c : CoreId) (d : Desc) (run : VxRun) : VxRes :=
  let x := d.vx
  let te := x.tileEntries
  let i0 := run.tile * te
  let cnt := Nat.min te (x.nAux - i0)
  let sb := ceilDiv (x.nAux * x.recLen) 64
  let db := ceilDiv x.n 64
  let hdr := sbiHead x.out 64 db
  let last := x.nAux ≤ i0 + te
  let ents := (List.range cnt).map (fun j =>
    let k := s.indexAt c x (i0 + j)
    (i0 + j, k, npaPlus x.out (k * (8 * x.recLen))))
  let good := ents.takeWhile (fun e => 0 ≤ e.2.1 && s.ownOk c e.2.2 (8 * x.recLen) .w && s.ownOk c e.2.2 (8 * x.recLen) .r
    && s.ownOk c (hdr + 2 * (e.2.1.toNat * x.recLen / 64)) 2 .w)
  let bad := (ents.drop good.length).head?.map (·.2.2)
  -- the destination's words and headers as they change: keyed by NPA
  let m := good.foldl (fun (acc : Tab Nat × List Nat × Flags) e =>
    let h := s.sbiHeader c x.in0 32 sb (e.1 * x.recLen / 64)
    let ha := hdr + 2 * (e.2.1.toNat * x.recLen / 64)
    let cur := fun (t : Tab Nat) (a n : Nat) => match t.find? (fun y => y.1 == a) with
      | some y => y.2
      | none => leVal (s.ownPeek c a n)
    let put := fun (t : Tab Nat) (a v : Nat) => Tab.ins a v (Tab.erase t a)
    let hv := cur acc.1 ha 2
    let nf := fun (v : Nat) => hv - 256 * bitsAt hv 8 4 + 256 * v
    if simm8 (h % 256) ≠ simm8 x.mode then (put acc.1 ha (nf 15), acc.2.1 ++ [ha], acc.2.2 ||| flNV)
    else
      let src := s.codesAt c x.in0 0x20 (e.1 * x.recLen) x.recLen
      let t := (src.zipIdx).foldl (fun t y =>
        let a := e.2.2 + 8 * y.2
        put t a (toUnsigned 64 (toSigned 64 (cur t a 8) + toSigned 32 y.1))) acc.1
      (put t ha (nf (Nat.min 15 (bitsAt hv 8 4 + bitsAt h 8 4))), acc.2.1 ++ [ha], acc.2.2)) ([], [], 0)
  let isHdr := fun (a : Nat) => m.2.1.contains a
  -- elements of the last block beyond n stand at 0 when the operation is over, and count nowhere (R166)
  let beyond := if last ∧ bad.isNone then (List.range (db * 64 - x.n)).map (fun j => x.out + 8 * (x.n + j)) else []
  let words := m.1.filter (fun y => !isHdr y.1 && (y.1 - x.out) / 8 < x.n)
  { segs := (x.auxAddr + 4 * i0, 4 * cnt) :: good.flatMap (fun e =>
      [(x.in0 + e.1 * x.recLen * 4, 4 * x.recLen), (sbiHead x.in0 32 sb + 2 * (e.1 * x.recLen / 64), 2),
       (e.2.2, 8 * x.recLen), (hdr + 2 * (e.2.1.toNat * x.recLen / 64), 2)])
    writes := m.1.map (fun y => (y.1, leBytes (if isHdr y.1 then 2 else 8) y.2)) ++ beyond.map (fun a => (a, List.replicate 8 0))
    elems := words.map (fun y => ⟨(y.1 - x.out) / 8, y.1, { code := y.2, zero := y.2 == 0 }, simm8 x.mode⟩)
    flags := m.2.2, bad := bad
    next := if last then none else some { run with tile := run.tile + 1 } }

/-- One execution of the next tile. -/
def State.vxTile (s : State) (c : CoreId) (d : Desc) (run : VxRun) : VxRes :=
  match d.vx.op with
  | 1 | 2 => s.vxStream c d run
  | 3 | 4 => s.vxRecords c d run
  | 5 => s.vxSegs c d run
  | 6 => s.vxSort c d run
  | 7 => s.vxSet c d run
  | 8 => s.vxHash c d run
  | _ => s.vxAddSbi c d run

/-- Output regions of an operation, in whole bytes, for an ending that leaves them unspecified: the records a `scatter` names, and as many
keys as a `set_op` can write (R140, R143). -/
def State.vxOutSegs (s : State) (c : CoreId) (d : Desc) : List (Nat × Nat) :=
  let x := d.vx
  let fixed := (d.vxExtents.filter (fun e => e.perm == .w)).map (fun e => (e.npa, e.len))
  if x.op = 4 then
    let w := x.recLen * elemBits x.fo
    let n := ceilDiv w 8
    (((List.range x.nAux).map (fun i => npaPlus x.out (Int.fdiv (s.indexAt c x i * w) 8))).filter (fun a => s.ownOk c a n .w)).map (fun a => (a, n))
  else if x.op = 7 ∧ x.mode ≠ 3 then
    ((List.range (if x.mode = 0 then Nat.min x.n x.nAux else if x.mode = 2 then x.n else x.n + x.nAux)).map (fun j => x.out + j * elemBits x.fo / 8)).filterMap (fun a =>
      if s.ownOk c a (Nat.max 1 (elemBits x.fo / 8)) .w then some (a, Nat.max 1 (elemBits x.fo / 8)) else none)
  else fixed

/-- `detail` of a vector residue record (R154). -/
def vxDetail (d : Desc) (run : VxRun) (pass : Nat) (f : Finding) : List Byte :=
  leBytes 4 run.tile ++ [f.unit, BitVec.ofNat 8 pass, BitVec.ofNat 8 d.opcode, f.stage] ++ List.replicate 16 0

/-- A chain stage has the check (R151): 0 product, 1 add, 2 round or conversion, 3 integer add, 7 comparator. -/
def Stage.hasCheck (st : Stage) (check : Nat) : Bool :=
  let int := st.wfmt == 2
  match check with
  | 0 => !int && (st.kind == 4 || st.kind == 5)
  | 1 => !int && (st.kind == 2 || st.kind == 3 || st.kind == 5)
  | 2 => true
  | 3 => int && (st.kind == 2 || st.kind == 3 || st.kind == 5)
  | 7 => st.kind == 6 || st.kind == 7 || st.kind == 0xB || st.kind == 0xC
  | _ => false

/-- A carve instruction has the check (R151). -/
def Carve.hasCheck (ty : Nat) (w : Carve) (check : Nat) : Bool :=
  let int := ty == 0 || ty == 7
  let sum := w.op == 1 || w.op == 2 || w.op == 4
  match check with
  | 0 => !int && (w.op == 3 || w.op == 4)
  | 1 => !int && sum
  | 2 => w.op == 0x13 || w.op == 0x16 || (!int && ((1 ≤ w.op && w.op ≤ 4) || w.op == 0x15))
  | 3 => int && sum
  | 7 => w.op == 5 || w.op == 6 || (9 ≤ w.op && w.op ≤ 0xB)
  | _ => false

/-- The opcode has the check (R151, R154): at a stage or instruction of its program, or, with stage 0xFF, in what every tile does: the
conversion of inputs and outputs, the sums of segments, integer adds, comparators where keys are compared, tile sums where keys or records
are moved, and the additions of a summary. -/
def Desc.vxChecks (d : Desc) (f : Finding) : Bool :=
  let x := d.vx
  let n := f.check.toNat
  let sums := d.sumEn && x.sumKind == 4
  if f.stage = 0xFF then
    match n with
    | 1 => (x.op == 5 && x.mode == 0 && (widenFmt x.f0).isSome) || sums
    | 2 => x.op ≤ 7 || sums
    | 3 => (x.op == 5 && x.mode == 0 && (widenFmt x.f0).isNone) || x.op == 9
    | 6 => x.op == 3 || x.op == 4 || x.op == 6 || (x.op == 7 && x.mode == 3)
    | 7 => (x.op == 5 && x.mode != 0) || (6 ≤ x.op && x.op ≤ 8)
    | _ => false
  else match x.op with
    | 1 => d.stages[f.stage.toNat]?.any (fun st => st.hasCheck n)
    | 2 => d.carve[f.stage.toNat]?.any (fun w => w.hasCheck (x.mode % 8) n)
    | _ => false

/-- The vector operation is over: its flags join VX_FLAGS (R149), its summary is formed (R147). -/
def State.vxOver (s : State) (c : CoreId) (i : Nat) (st : Byte) : State :=
  let e := (s.core c).entry i
  let sum := vxSummary e.d.vx.sumKind e.d.vx.fo e.d.mode e.written ((Config.freeWord s.freeCount).extractLsb' 0 32)
  ((s.finish c i st).updCore c (fun k => { (k.updEntry i (fun e => { e with summary := if e.d.sumEn then sum else e.summary })) with
    vx := none, vxFlags := k.vxFlags ||| e.health.flags })).drawn

def State.vxSpoil (s : State) (c : CoreId) (i : Nat) (d : Desc) (st : Byte) : State := (s.scramble c (s.vxOutSegs c d)).vxOver c i st

/-- Elements written join those of the tiles before; one written again stands once, as it was written last (R183). -/
def outAdd (old new : List OutElem) : List OutElem :=
  new.foldl (fun l y => (l.filter (fun z => z.idx < y.idx)) ++ y :: l.filter (fun z => y.idx < z.idx)) old

/-- Count what a tile writes (R183). An opcode whose destinations data give may write an element in more than one tile: its counts are those
of the elements as they stand. -/
def Entry.vxCount (e : Entry) (r : VxRes) : Entry :=
  let h : Health := { e.health with flags := e.health.flags ||| r.flags }
  let new := r.elems.map (fun y => y.w.elem y.idx y.ex)
  if e.d.vx.op = 4 ∨ e.d.vx.op = 9 then
    let all := outAdd e.written new
    { e with written := all, health := all.foldl Health.count { flags := new.foldl (fun f y => f ||| y.flags) h.flags } }
  else { e with written := if e.d.sumEn then e.written ++ new else e.written, health := new.foldl Health.count h }

/-- The trap element of lowest linear index (R180): its element and cause. -/
def vxTrap (l : List VxElem) : Option (VxElem × Nat) :=
  l.foldl (fun (a : Option (VxElem × Nat)) y => match y.w.trap, a with
    | some t, none => some (y, t)
    | some t, some b => if y.idx < b.1.idx then some (y, t) else a
    | none, _ => a) none

/-- The results of a tile that has passed its checks are written and counted (R131, R180). -/
def State.vxCommit (s : State) (c : CoreId) (i : Nat) (run : VxRun) (r : VxRes) : State :=
  let e := (s.core c).entry i
  let d := e.d
  let w := { (s.core c).who 2 d.opTag with status := if e.abortReq then 0 else stMemUnc }
  let m := s.ownMerge c r.writes w
  if m.2 then m.1.vxSpoil c i d (if e.abortReq then e.abortStatus else stMemUnc) else
  let s1 := ((m.1.noteWrites c i r.writes).updCore c (fun k =>
    { (k.updEntry i (fun e => e.vxCount r)) with vx := some (r.next.getD run), tileQueue := k.tileQueue.drop r.took })).tileSeen s c true r.writes
  let trap := if d.nanTrap then vxTrap r.elems else none
  if e.abortReq then
    (match trap with
     | some t => s1.trapRec c e t.1.npa t.1.idx t.2 0
     | none => s1).vxSpoil c i d e.abortStatus
  else match trap with
    | some t => (s1.trapRec c e t.1.npa t.1.idx t.2 2).vxOver c i stNanTrap
    | none => match r.next with
      | some _ => s1
      | none => s1.vxOver c i stDone

/-- The end of a vector tile (R153): a re-executed tile reads its inputs again. An access made on data that fails its check ends the
operation at this boundary (R88). DESIGN CHOICE (log 44): a mismatch of a tile that also makes such an access, or reads an uncorrectable
word, with no abort, gives way to it, without a record, a count or a re-execution. -/
def State.vxEnd (s : State) (c : CoreId) (i : Nat) (run : VxRun) (mis0 : Option Mismatch) : State :=
  let e := (s.core c).entry i
  let d := e.d
  let mis := mis0.bind (misFits true d.vxChecks)
  let r := (s.tileView c true).vxTile c d run
  let w := { (s.core c).who 2 d.opTag with status := if e.abortReq then 0 else stMemUnc }
  let v := verdict mis e
  let j := s.ownJudge c r.segs w
  let j2 := if !j.2 && r.bad.isNone && v.redone then j.1.ownJudge c r.segs w else j
  let s1 := match mis with
    | some m => if (j.2 || r.bad.isSome) && !e.abortReq then j2.1 else j2.1.mismatched c i 0x02 true m v (vxDetail d run)
    | none => j2.1
  if j2.2 then s1.vxSpoil c i d (if e.abortReq then e.abortStatus else stMemUnc)
  else match r.bad with
    | some a =>
      let wh := (s.core c).who 0 d.opTag
      (s1.hand { unit := engUnit c 1, cls := 0x06, severity := 2, status := stWindowFault, addrKind := 1, address := BitVec.ofNat 64 a
                 jobId := wh.jobId, jobGen := wh.jobGen, opTag := d.opTag }).vxSpoil c i d (if e.abortReq then e.abortStatus else stWindowFault)
    | none => match v with
      | .clean | .corrected => s1.vxCommit c i run r
      | .failed _ => s1.vxSpoil c i d stResidueFault
      | .recorded _ => s1.vxSpoil c i d e.abortStatus

/-- With the tile queue enabled, a chain or carve program waits for the tile it takes (R94). -/
def Core.vxHeld (k : Core) (d : Desc) : Bool := k.tileq && (d.vx.op == 1 || d.vx.op == 2) && k.queuedTile.isNone

/-- VECTOR_TILE_END (R153): an operation that waits for a tile stops for an abort only (R92). -/
def execVectorTileEnd (c : CoreId) (mis : Option Mismatch) (ups : List Upset) (s0 : State) : Out :=
  match (s0.core c).vx with
  | none => .next s0
  | some run =>
    let k := s0.core c
    let e := k.entry run.entry
    let s := s0.upset c ups
    if !e.busy then .next s0
    else if k.vxHeld e.d then .next (if e.abortReq then s0.vxSpoil c run.entry e.d e.abortStatus else s0)
    else .next ((s.vxEnd c run.entry run mis).noteRecords s c run.entry)

end Sys2Proof.Machine
end

