-- ==== Sys2Proof/Machine/ControlUnit.lean ====
section
/-! DEFINITION. The control unit's engine-issue instructions and the operation table's own steps (R66, R69, R75, R81, R93). -/

namespace Sys2Proof.Machine

/-- What a solver core has sent to the members of a team before now arrives before it reads their team blocks (R36, R224). -/
def State.teamFlush (s : State) (c : CoreId) (d : Desc) : State :=
  let a := BitVec.ofNat 17 (s.logNum c)
  if d.engine = 3 then (s.team c d.sv).foldl (fun s m => (s.meshFlush a (BitVec.ofNat 17 m.2)).meshFlush (BitVec.ofNat 17 m.2) a) s else s

/-- The descriptor as EISS reads it: the state after, whether a word is uncorrectable, the bytes (R70, R210). -/
def State.readDesc (s : State) (c : CoreId) (off : Nat) : State × Bool × Desc :=
  let k := s.core c
  let n := ((k.peekWs c (off + 2) 1).headD 0).toNat
  let len := if 1 ≤ n ∧ n ≤ 16 ∧ off % 512 + 32 * n ≤ 512 then 32 * n else 32
  let r := s.storeRead c false off len (k.who 0 0)
  (if r.2.1 then r.1 else r.1.teamFlush c r.2.2, r.2.1, r.2.2)

/-- EISS (R69, R70, R75). -/
def execEiss (c : CoreId) (rd rs1 : BitVec 5) (pick : Fin 64) (ups : List Upset) (s : State) : Out :=
  let k := s.core c
  let off := (k.x rs1).toNat
  if !k.cuReady then .next s
  else if off % 32 ≠ 0 then .next (s.cuIllegal c)
  else if wsSize c < off + 32 ∨ ¬ k.banksReady c off 32 then .next (s.cuTrap c 5 off)
  else
    let r := (s.upset c ups).readDesc c off
    if r.2.1 then .next (r.1.cuTrap c 5 off)
    else if r.1.descBad c off r.2.2 then .next (r.1.cuIllegal c)
    else
      let a := r.1.admitEntry c pick.val off r.2.2 false
      .next (a.1.updCore c (fun k => k.retire rd (match a.2 with
        | some i => BitVec.ofNat 32 i
        | none => BitVec.ofNat 32 (0x80000000 + stNotAdmitted.toNat))))

/-- ENEXT (R69): delivers the oldest undelivered entry, or waits for it to end. -/
def execEnext (c : CoreId) (rd : BitVec 5) (s : State) : Out :=
  let k := s.core c
  if !k.cuReady then .next s
  else if k.order.isEmpty then .next (s.updCore c (fun k => k.retire rd 0xFFFFFFFF))
  else match k.headEnded with
    | some (i, _) => if s.castFull c then .next (s.updCore c (fun k => { k with wait := .enext rd })) else .next (s.deliver c rd i)
    | none => .next (s.updCore c (fun k => { k with wait := .enext rd }))

/-- ETEST (R69). -/
def execEtest (c : CoreId) (rd : BitVec 5) (s : State) : Out :=
  let k := s.core c
  if !k.cuReady then .next s
  else .next (s.updCore c (fun k => k.retire rd (match k.order with
    | [] => 0xFFFFFFFF
    | i :: _ => BitVec.ofNat 32 ((k.entry i).code.num + i * 256))))

/-- EABORT (R92, R93). -/
def execEabort (c : CoreId) (rd rs1 rs2 : BitVec 5) (s : State) : Out :=
  let k := s.core c
  let i := (k.x rs1).toNat % 64
  let e := k.entry i
  if !k.cuReady then .next s
  else if e.code = .free ∨ e.d.opTag ≠ k.x rs2 ∨ e.code = .done then .next (s.updCore c (fun k => k.retire rd (BitVec.ofNat 32 stDoneAlready.toNat)))
  else if e.live then .next ((s.updCore c (fun k => { k with wait := .eabort rd i e.op })).abortEntry c i stAborted)
  else .next (s.updCore c (fun k => k.retire rd (BitVec.ofNat 32 e.status.toNat)))

/-- ESUM (R69). -/
def execEsum (c : CoreId) (rd rs1 : BitVec 5) (s : State) : Out :=
  let k := s.core c
  if !k.cuReady then .next s
  else .next (s.updCore c (fun k => k.retire rd (k.sums.get ((k.x rs1).toNat % 8))))

/-- WFI (R66): waits until an entry leaves ADMITTED or RUNNING. -/
def execWfi (c : CoreId) (s : State) : Out :=
  let k := s.core c
  if !k.cuReady then .next s
  else .next (s.updCore c (fun k => { k with wait := .wfi }))

/-- No earlier operation of the same engine is still waiting or running (R75, R76). -/
def Core.engineFree (k : Core) (e : Entry) : Bool :=
  k.entries.all (fun y => !(y.2.live && y.2.d.engine == e.d.engine && y.2.op < e.op))

/-- The engine takes the entry up. -/
def State.engineStart (s : State) (c : CoreId) (i : Nat) : State :=
  match ((s.core c).entry i).d.engine with
  | 0 => s.updCore c (fun k => { k with mx := some { entry := i }, mxOld := [] })
  | 1 => s.updCore c (fun k => { k with vx := some { entry := i }, vxOld := [] })
  | 2 => s.updCore c (fun k => { k with dma := { entry := some i, nextReq := k.dma.nextReq } })
  | _ => s.svStart c i

/-- OP_START (R75): an admitted operation whose engine is free and whose dependency is satisfied moves to RUNNING. -/
def execOpStart (c : CoreId) (entry : Fin 64) (s : State) : Out :=
  let k := s.core c
  let e := k.entry entry.val
  if e.code ≠ .admitted ∨ e.dep ≠ .none ∨ ¬ k.engineFree e then .next s
  else .next ((s.updCore c (fun k => k.updEntry entry.val (fun e => { e with code := .running }))).engineStart c entry.val)

/-- How a finished entry leaves RUNNING: an abort that took effect, a kind F status, or DONE (R74). -/
def Entry.endCode (e : Entry) (st : Byte) : EntryCode :=
  if e.abortReq && st == e.abortStatus then .aborted else if isF st then .failed else .done

/-- Output regions of an operation that an abort reached after its engine had finished (R92). -/
def State.spoilOutputs (s : State) (c : CoreId) (d : Desc) : State :=
  match d.engine with
  | 0 => s.scramble c d.mx.cSegs
  | 1 => s.scramble c (s.vxOutSegs c d)
  | 2 => s.dmaScramble c d
  | _ => s.scramble c [(d.sv.x, 8 * d.sv.n)]

/-- OP_END (R75, R81): an entry whose engine has finished leaves RUNNING, with all that follows. A solve leaves it when no lent entry of its
team is live (R225, R243). -/
def execOpEnd (c : CoreId) (entry : Fin 64) (s : State) : Out :=
  let e := (s.core c).entry entry.val
  match e.outcome with
  | none => .next s
  | some st =>
    if e.code ≠ .running ∨ (e.d.engine = 3 ∧ s.lentLive c entry.val) then .next s
    else if e.abortReq ∧ st ≠ e.abortStatus ∧ ¬ isF st then
      .next ((s.spoilOutputs c e.d).endEntry c entry.val { code := .aborted, status := e.abortStatus })
    else .next (s.endEntry c entry.val { code := e.endCode st, status := st })

end Sys2Proof.Machine
end

