-- ==== Sys2Proof/Machine/CoreRegs.lean ====
section
/-! DEFINITION. Writes to a core's registers that act (R94, R95, R120, R197, R198, R203, R204), and the control unit's own
fetches, loads and stores (R66, R67). -/

namespace Sys2Proof.Machine

/-! ### CORE_CTRL (R94, R95) -/

/-- Entry numbers in issue order. -/
def Core.issueOrder (k : Core) : List Nat :=
  (k.entries.foldl (fun (acc : List (Nat × Nat)) e => insOp (e.2.op, e.1) acc) []).map (·.2)
where insOp (x : Nat × Nat) : List (Nat × Nat) → List (Nat × Nat)
  | [] => [x]
  | y :: r => if x.1 ≤ y.1 then x :: y :: r else y :: insOp x r

/-- Every entry of a core is aborted in issue order. -/
def State.abortAll (s : State) (c : CoreId) (st : Byte) : State := ((s.core c).issueOrder).foldl (fun s i => s.abortEntry c i st) s

/-- A write of `abort_all` (R95): the field reads 1 until the last entry that it aborts has ended. -/
def State.abortAllWrite (s : State) (c : CoreId) : State :=
  (s.abortAll c stAborted).updCore c (fun k => { k with abortAll := k.entries.any (fun e => e.2.live && e.2.abortReq) })

def execAbortAll (c : CoreId) (s : State) : Out := .next (s.abortAllWrite c)

/-- `halt_cu` stops the control unit at the next instruction boundary; cleared, it lets a control unit run that has not trapped. -/
def State.setHalt (s : State) (c : CoreId) (v : Bool) : State :=
  s.updCore c (fun k => { k with haltCu := v, cuRunning := if v then k.cuRunning else !k.cuTrapped })

def execHaltCu (c : CoreId) (v : Bool) (s : State) : Out := .next (s.setHalt c v)

/-- `tileq_enable` (R94): a write that sets it while `job_valid` is 1 is ignored. DESIGN CHOICE (log 44): a write that clears it is taken
even then, since R94 speaks only of setting. -/
def State.setTileq (s : State) (c : CoreId) (v : Bool) : State :=
  s.updCore c (fun k => if v ∧ k.jobValid then k else { k with tileq := v })

def execTileqEnable (c : CoreId) (v : Bool) (s : State) : Out := .next (s.setTileq c v)

/-! ### Self-test (R120, R121) -/

/-- A start of self-test takes effect only in tile quarantine. DESIGN CHOICE (log 48): `done`, the pass bits and `fail_tiles` keep the last
run's values until the run ends, and a start while self-test runs is passed over. -/
def State.selfTestStart (s : State) (c : CoreId) : State :=
  s.updCore c (fun k => if k.tileq ∧ ¬ k.selfBusy then { k with selfBusy := true } else k)

def execMxSelftestStart (c : CoreId) (s : State) : Out := .next (s.selfTestStart c)

/-- Self-test has finished; node firmware acts on the result (R121). -/
def execSelftestDone (c : CoreId) (pass : BitVec 6) (failTiles : BitVec 16) (s : State) : Out :=
  if !(s.core c).selfBusy then .next s else
  .next ((s.updCore c (fun k => { k with selfBusy := false, selfDone := true, selfPass := pass, failTiles := failTiles })).actSelfTest c pass)

/-! ### Partitions and banks (R197, R198, R202 to R204) -/

/-- A write to WS_PART_n (R197, R198): only while drained, and not when it makes two valid entries overlap. -/
def State.partWrite (s : State) (c : CoreId) (n : Nat) (v : Reg) : State :=
  let k := s.core c
  let p := partOf v
  if isSolver c || !k.drained then s
  else if k.parts.any (fun e => e.1 != n && p.overlaps e.2) then s.hand { unit := coreUnit c 0x04, cls := 0x0B, severity := 0 }
  else s.updCore c (fun k => { k with parts := k.parts.set n p })

def execWsPartWrite (c : CoreId) (n : Fin 8) (v : Reg) (s : State) : Out := .next (s.partWrite c n.val v)

/-- Banks that a valid partition covers (R203). -/
def Core.bankKept (k : Core) (b : Nat) : Bool :=
  (k.parts.map (·.2)).any (fun p => p.valid && p.baseRow.toNat < 16 * (b + 1) && 16 * b < p.baseRow.toNat + p.rows.toNat)

/-- A write to WS_BANK_POWER (R203, R204): a bank powered down loses its content, one powered up is to be cleared. -/
def State.bankWrite (s : State) (c : CoreId) (v : Reg) : State :=
  let k := s.core c
  if isSolver c || !k.drained then s else
  let want := fun (b : Nat) => v.getLsbD b || (k.bankOn.getLsbD b && k.bankKept b)
  let mask := fun (f : Nat → Bool) => BitVec.ofNat 6 (sumN ((List.range 6).map (fun b => b2n (f b) * 2 ^ b)))
  let lost := (List.range 6).filter (fun b => k.bankOn.getLsbD b && !want b)
  s.updCore c (fun k => { k with
    bankOn := mask want, bankReady := mask (fun b => k.bankReady.getLsbD b && want b && k.bankOn.getLsbD b)
    ws := lost.foldl (fun m b => m.clear (b * 8192) ((b + 1) * 8192)) k.ws
    wsErr := k.wsErr.filter (fun e => !lost.contains (e.1 / 1024)) })

def execWsBankPowerWrite (c : CoreId) (v : Reg) (s : State) : Out := .next (s.bankWrite c v)

/-- A powered bank has been cleared (R204). -/
def execBankReady (c : CoreId) (bank : Fin 6) (s : State) : Out :=
  let k := s.core c
  if !k.bankOn.getLsbD bank.val || k.bankReady.getLsbD bank.val then .next s else
  .next (s.updCore c (fun k => { k with
    bankReady := k.bankReady ||| BitVec.ofNat 6 (2 ^ bank.val), ws := k.ws.clear (bank.val * 8192) ((bank.val + 1) * 8192)
    wsErr := k.wsErr.filter (fun e => e.1 / 1024 != bank.val) }))

/-! ### Control-unit fetches, loads and stores (R66, R67, R199, R210, R539) -/

/-- Store and offset of a control-unit address; none where it reaches nothing (R67). -/
def cuPlace (c : CoreId) (a n : Nat) : Option (Bool × Nat) :=
  if a + n ≤ wsSize c then some (false, a)
  else if 0x10000000 ≤ a ∧ a - 0x10000000 + n ≤ rsSize c then some (true, a - 0x10000000)
  else none

/-- An instruction fetch from the control-unit firmware, which no load or store reaches (R539). -/
def cuFirmwareAt (a n : Nat) : Bool := 0x20000000 ≤ a && a + n ≤ 0x20002000

/-- A fetch, load or store of the control unit. A fetch reads the slice or the firmware memory; `r` is the destination of a load and the source of a
store. A load puts its value into the register, zero-extended for the unsigned forms; the pc is the instruction's own matter. -/
def State.cuLoadStore (s : State) (c : CoreId) (k : AccKind) (size : Fin 3) (zeroExt : Bool) (addr : BitVec 32) (r : BitVec 5) (ups : List Upset) : State :=
  let n := 2 ^ size.val
  let a := addr.toNat
  if !(s.core c).cuReady || !(k == .fetch || k == .load || k == .store) then s
  else if k ≠ .fetch ∧ a % n ≠ 0 then s.cuTrap c (if k = .store then 6 else 4) a
  else if k = .fetch ∧ cuFirmwareAt a n then s
  else
    let cause := if k = .fetch then 1 else if k = .store then 7 else 5
    match cuPlace c a n with
    | none => s.cuTrap c cause a
    | some (res, o) =>
      if (k == .fetch && !res) || (!res && !(s.core c).banksReady c o n) then s.cuTrap c cause a else
      let s0 := s.upset c ups
      let w := (s0.core c).who 0 0
      if k = .store then
        let x := s0.storeWrite c res o (leBytes n ((s0.core c).x r).toNat) w
        if x.2 then x.1.cuTrap c cause a else x.1.updCore c Core.counted
      else
        let x := s0.storeRead c res o n w
        if x.2.1 then x.1.cuTrap c cause a
        else if k = .fetch then x.1
        else x.1.updCore c (fun q => q.counted.setX r
          (if zeroExt then BitVec.ofNat 32 (leVal x.2.2) else BitVec.ofInt 32 (toSigned (8 * n) (leVal x.2.2))))

end Sys2Proof.Machine
end

