-- ==== Sys2Proof/Machine/Host.lean ====
section
/-! DEFINITION. Host queues, signed commands and jobs (chapter 15, with R323, R343, R373, R558): the acceptance of a host
frame, the checks of a command, and the effect of each. Fields of a host payload are little-endian, as in every in-package
structure (R9). -/

namespace Sys2Proof.Machine

/-! ### Codes, rights, bounds (R431) -/

/-- A command's code, the bit of `rights` it needs (none for an unsigned command), and its bound at Full in microseconds without blob terms. -/
structure CmdRow where
  code : Nat
  right : Option Nat
  us : Nat
deriving DecidableEq, Repr, Inhabited

def cmdRows : List CmdRow :=
  [⟨0x01, none, 2⟩, ⟨0x02, none, 10⟩, ⟨0x03, none, 10⟩, ⟨0x04, none, 5⟩, ⟨0x05, none, 20⟩, ⟨0x06, none, 2⟩,
   ⟨0x10, some 0, 90⟩, ⟨0x11, some 0, 270⟩, ⟨0x12, some 0, 95⟩, ⟨0x13, some 0, 80⟩, ⟨0x14, some 0, 75⟩,
   ⟨0x18, some 1, 80⟩, ⟨0x19, some 1, 80⟩, ⟨0x1A, some 1, 80⟩, ⟨0x1B, some 1, 80⟩, ⟨0x28, some 2, 0⟩]

def cmdRow (code : Nat) : Option CmdRow := cmdRows.find? (fun r => r.code == code)

/-- Body bytes of a command, with the reserved bytes that bring it to a multiple of 8. -/
def bodyLenOk (code n : Nat) : Bool :=
  n % 8 == 0 && (match code with
    | 0x02 => 8 ≤ n && n ≤ 744 | 0x03 => n == 16 | 0x06 => n == 8
    | 0x10 => n == 56 | 0x11 => n == 48 | 0x12 => n == 8 | 0x18 => n == 32 | 0x19 => n == 48 | 0x1A => n == 40 | 0x1B => n == 48
    | 0x28 => n == 48 | _ => n == 0)

/-- Bytes of the body that no field uses: (offset, length). -/
def bodyReserved (code : Nat) : List (Nat × Nat) :=
  match code with
  | 0x03 => [(12, 4)] | 0x06 => [(2, 6)] | 0x10 => [(7, 1), (52, 4)] | 0x12 => [(4, 4)] | 0x18 => [(1, 7)] | 0x19 => [(1, 1)] | _ => []

def allZero (b : List Byte) : Bool := b.all (· == 0)

/-! ### A command's parts (R428, R432, R433) -/

def HostCmd.bodyLen (c : HostCmd) : Nat := fieldAt c.payload 6 2
def HostCmd.num (c : HostCmd) (off n : Nat) : Nat := fieldAt c.payload (8 + off) n
def HostCmd.bytes (c : HostCmd) (off n : Nat) : List Byte := slice c.payload (8 + off) n
def HostCmd.sig (c : HostCmd) (off n : Nat) : Nat := fieldAt c.payload (8 + c.bodyLen + off) n
/-- The signed message: from `code` to the end of `t_expire`. -/
def HostCmd.message (c : HostCmd) : List Byte := slice c.payload 4 (4 + c.bodyLen + 0x20)
def HostCmd.digest (c : HostCmd) : List Byte := digest32 c.message

/-! ### Registers the commands report (R422, R444) -/

def Job.words (j : Job) : List Nat :=
  [j.jobId.toNat + j.jobGen.toNat * 2 ^ 16 + j.state.toNat * 2 ^ 32 + b2n j.running * 2 ^ 35,
   j.ownRank.toNat + j.rankCount.toNat * 2 ^ 16, j.bands.toNat, j.tState]

def Ckpt.statusWord (c : Ckpt) : Nat :=
  c.lastGen.toNat + c.state.toNat * 2 ^ 32 + b2n c.deferred * 2 ^ 34 + b2n c.moduleOk * 2 ^ 35 + c.abandoned.toNat * 2 ^ 48

/-! ### Bounds (R429, R431) -/

/-- Nanoseconds of a bound given in microseconds at Full. -/
def State.usNs (s : State) (us : Nat) : Nat := 1000 * ceilDiv (us * 800) (floorRateOf s.cpc.active.toNat)

def bandCount (b : Nat) : Nat := ((List.range 64).filter (fun i => bitAt b i)).length

/-- Bound of a command; none for IMAGE_WRITE. JOB_START hashes its descriptor and its program. -/
def State.cmdBound (s : State) (c : HostCmd) : Option Nat :=
  match cmdRow c.code.toNat with
  | none => some 0
  | some r =>
    let blob := fun (n : Nat) => ceilDiv n 8000
    match c.code.toNat with
    | 0x28 => none
    | 0x10 => some (s.usNs (r.us + blob (64 * c.num 8 4)))
    | 0x11 =>
      let d := s.gddrPeek (c.num 0 8 % 2 ^ 48) 0x30
      let len := fieldAt d 0x20 4
      some (s.usNs (r.us + blob (c.num 8 8 + len) + ceilDiv (len * (1284 * bandCount (fieldAt d 8 8))) 2400000))
    | 0x19 => some (s.usNs (r.us + blob (2 * c.num 4 4)))
    | 0x1A => some (s.usNs (r.us + blob 2048))
    | 0x1B => some (s.usNs (r.us + blob (64 * c.num 4 4)))
    | _ => some (s.usNs r.us)

/-! ### Completions (R56, R430, R436) -/

/-- The payload of a completion (R430). -/
def completion (queue : Nat) (cid : BitVec 16) (status reason : Byte) (result tAccept tEnd : Nat) (data : List Byte) : List Byte :=
  [0x21, BitVec.ofNat 8 queue] ++ leBytes 2 cid.toNat ++ [status, reason] ++ leBytes 2 data.length
    ++ leBytes 8 result ++ leBytes 8 tAccept ++ leBytes 8 tEnd ++ data

/-- One completion frame, by the way the command came. -/
def State.hostReply (s : State) (t : Nat) (port : Option Plane) (queue : Nat) (cid : BitVec 16) (status reason : Byte) (result tAccept : Nat) (data : List Byte) : State :=
  let p := completion queue cid status reason result tAccept s.t data
  match port with
  | some pl => s.fwSend (s.usePlane pl) t (0xFFF0 + t) p
  | none => s.mgmtSend t true p

/-- How a command ends: its status, the reason, what it returns, and whether it was verified. -/
structure Done where
  status : Byte := 0
  reason : Byte := 0
  result : Nat := 0
  data : List Byte := []
  verified : Bool := false
deriving DecidableEq, Repr, Inhabited

/-- A command completes: it leaves its queue, its digest is kept with its outcome, and the completion goes out. -/
def State.cmdDone (s : State) (t : Nat) (c : HostCmd) (d : Done) : State :=
  let late := c.endBy != 0 && c.endBy < s.t
  let st := if late then worse d.status stBoundExceeded else d.status
  let s1 := if late then s.hand { unit := pxUnit 0x01 0, cls := 0x09, severity := 0, status := stBoundExceeded
                                  detail := padTo 24 (leBytes 8 (c.endBy - c.tAccept) ++ leBytes 8 (s.t - c.tAccept)) } else s
  let s2 := s1.updTen t (fun n => { n with
    cmds := n.cmds.erase c
    digests := if d.verified then
        n.digests ++ [{ digest := c.digest, expire := c.sig 0x18 8, status := st, reason := d.reason }]
      else n.digests })
  s2.hostReply t c.port c.queue c.cid st d.reason d.result c.tAccept d.data

/-! ### Checks (R434, R436) -/

/-- What the checks before the blobs say of a command. -/
inductive Check where
  | ok | bad (reason : Byte) | replay (status reason : Byte) | full
deriving DecidableEq, Repr, Inhabited

/-- A window entry from its three words. -/
def windowWord (w0 w1 w2 : Nat) : Window :=
  { jobId := BitVec.ofNat 16 w0, jobGen := BitVec.ofNat 16 (bitsAt w0 16 16), space := BitVec.ofNat 2 (bitsAt w0 32 2)
    permR := bitAt w0 34, permW := bitAt w0 35, permA := bitAt w0 36, mirror := bitAt w0 37, valid := bitAt w0 38
    base := BitVec.ofNat 48 w1, length := BitVec.ofNat 48 w2 }

/-- The values of a body that a command's form allows: what R319 gives the words of a window, and the sizes of rank tables and groups (R345,
R439, R446). -/
def HostCmd.valuesOk (c : HostCmd) : Bool :=
  match c.code.toNat with
  | 0x10 => c.num 8 4 != 0 && c.num 8 4 ≤ 65536 && c.num 4 2 < c.num 8 4
  | 0x18 => c.num 8 8 < 2 ^ 39 && c.num 16 8 < 2 ^ 48 && c.num 24 8 < 2 ^ 48 && c.num 16 8 % 256 == 0 && c.num 24 8 % 256 == 0
              && (windowWord (c.num 8 8) (c.num 16 8) (c.num 24 8)).space != 3
  | 0x19 => c.num 0 1 < 16 && c.num 2 2 != 0 && c.num 2 2 ≤ 4095 && c.num 4 4 != 0 && c.num 4 4 ≤ 65536
  | 0x1B => c.num 0 4 + c.num 4 4 ≤ 65536
  | _ => true

/-- Check 9: the form of the command. -/
def HostCmd.formOk (c : HostCmd) : Bool :=
  match cmdRow c.code.toNat with
  | none => false
  | some r =>
    (c.payload.getD 1 0).toNat < 64 && (c.payload.getD 5 0).toNat < 2 && c.signed == r.right.isSome && bodyLenOk c.code.toNat c.bodyLen
      && c.payload.length == 8 + c.bodyLen + (if c.signed then 3341 else 0)
      && (bodyReserved c.code.toNat).all (fun x => allZero (c.bytes x.1 x.2))
      && (!c.signed || allZero (slice c.payload (8 + c.bodyLen + 1) 7))
      && c.valuesOk

/-- The command key a command names, where it is valid for the tenancy and holds the right. -/
def State.cmdKey (s : State) (t : Nat) (c : HostCmd) : Option CmdKey :=
  match cmdRow c.code.toNat with
  | some ⟨_, some r, _⟩ => s.boot.keys.find? (fun k => k.index.toNat == c.sig 0 1 && (bitAt k.rights.toNat 3 || bitAt k.tenancies.toNat t) && bitAt k.rights.toNat r)
  | _ => none

/-- Live entries of a tenancy's replay cache. -/
def State.liveDigests (s : State) (t : Nat) : List CmdDigest := (s.ten t).digests.filter (fun d => s.t ≤ d.expire)

/-- The checks of R434 down to the signature, in their order; a package whose layout breaks R423 refuses every JOB_LOAD (R424). -/
def State.preCheck (s : State) (t : Nat) (c : HostCmd) : Check :=
  if c.code == 0x10 && s.boot.layoutBad then .bad 12
  else if !c.formOk then .bad 9
  else if !c.signed then .ok
  else match s.cmdKey t c with
  | none => .bad 2
  | some k =>
    if c.sig 0x08 8 ≠ 0 ∧ c.sig 0x08 8 ≠ fieldAt s.boot.identity 0 8 then .bad 3
    else if s.t + 1000000 < c.sig 0x10 8 ∨ c.sig 0x18 8 < s.t then .bad 4
    else match (s.liveDigests t).find? (fun d => d.digest == c.digest) with
    | some d => .replay d.status d.reason
    | none =>
      if 256 ≤ (s.liveDigests t).length then .full
      else if mldsaVerify k.key c.message (slice c.payload (8 + c.bodyLen + 0x20) 3309) then .ok else .bad 1

/-- Entries of the replay cache whose commands have expired are given up. -/
def State.pruneDigests (s : State) (t : Nat) : State := s.updTen t (fun n => { n with digests := n.digests.filter (fun d => s.t ≤ d.expire) })

/-- A command that the checks end. Reasons 1 to 4 are logged (R434). -/
def State.failCheck (s : State) (t : Nat) (c : HostCmd) : Check → State
  | .ok => s
  | .bad r =>
    let s1 := if 1 ≤ r.toNat ∧ r.toNat ≤ 4 then
        s.hand { unit := commonUnit 0x00 0, cls := 0x0A, severity := 0, status := stWindowFault
                 detail := padTo 24 [BitVec.ofNat 8 (c.sig 0 1), c.code, r] }
      else s
    s1.cmdDone t c { status := stWindowFault, reason := r }
  | .replay st r => s.cmdDone t c { status := st, reason := r }
  | .full => s.cmdDone t c { status := stNotAdmitted }

/-- The next command a tenancy executes, if it has the code: one that has begun, else a verified JOB_REVOKE, else the oldest
(R429). While a revoke drains, nothing starts. -/
def State.nextCmd (s : State) (t code : Nat) : Option HostCmd :=
  let n := s.ten t
  if n.revoke.isSome || s.cpc.stopped then none else
  let pick : Option HostCmd := match n.cmds.find? (·.started) with
    | some c => some c
    | none => match n.cmds.find? (fun (c : HostCmd) => c.code == 0x12 && s.preCheck t c == .ok) with
      | some c => some c
      | none => n.cmds.head?
  pick.filter (fun c => c.code.toNat == code)

/-- Execute the tenancy's next command if it has the code: the checks down to the signature, then its effect. -/
def State.runCmd (s : State) (t code : Nat) (act : State → HostCmd → State) : State :=
  match s.nextCmd t code with
  | none => s
  | some c =>
    let s1 := s.pruneDigests t
    if c.started then act s1 c else
    match s1.preCheck t c with
    | .ok => act s1 c
    | r => s1.failCheck t c r

/-- `n` bytes at an NPA lie in one of the tenancy's GDDR regions, which permits the access (R431, R435). -/
def State.tenCovers (s : State) (t npa n : Nat) (p : Perm) : Bool :=
  npa / 2 ^ 48 == 0 && ((s.ten t).regions.map (·.2)).any (fun g => g.covers npa n p)

/-- A blob, read once (R437): the state, and its bytes, or how the command ends. -/
def State.blob (s : State) (t npa n : Nat) (digest : List Byte) : State × Except Done (List Byte) :=
  if !s.tenCovers t npa n .r then (s, .error { status := stWindowFault, reason := 6, verified := true }) else
  let r := s.svcRead npa n
  if !r.2.1 then (r.1, .error { status := stMemUnc, verified := true })
  else if digest32 r.2.2 ≠ digest then (r.1, .error { status := stWindowFault, reason := 5, verified := true })
  else (r.1, .ok r.2.2)

/-- Check 8 for a command that needs the job in one of some states (R450). -/
def State.stateCheck (s : State) (t : Nat) (states : List Nat) : Option Done :=
  let st := (s.ten t).job.state.toNat
  if states.contains st then none
  else if st = 3 ∨ st = 4 then some { status := stJobRevoked, verified := true }
  else some { status := stWindowFault, reason := 8, verified := true }

def doneV : Done := { verified := true }
def failV (reason : Byte) : Done := { status := stWindowFault, reason := reason, verified := true }

/-! ### HOST_COMMAND (R426 to R430, R552, R575, R583) -/

/-- A host command's header names the tenancy (R426). -/
def hostTen (f : WtFrame) : Option Nat :=
  if f.jobId = 0 ∧ f.jobGen = 0 ∧ 0xFFF0 ≤ f.srcRank.toNat ∧ f.srcRank.toNat < 0xFFF8 ∧ f.dstRank = 0xFFFF then some (f.srcRank.toNat - 0xFFF0) else none

/-- The frame comes from the address of a configured host. -/
def State.hostFrom (s : State) (t : Nat) (f : WtFrame) : Bool :=
  let n := s.ten t
  n.queues != 0 && (if n.hostIp6 then f.srcIp6.toNat == n.ip6hi.toNat * 2 ^ 64 + n.ip6lo.toNat else f.srcMac == n.hostMac)

/-- End-by time of a command accepted now (R429); 0 without a bound. -/
def State.cmdEnd (s : State) (t : Nat) (c : HostCmd) : Nat :=
  let n := s.ten t
  match s.cmdBound c with
  | none => 0
  | some b =>
    if c.code = 0x12 then
      match n.cmds.find? (·.started) with
      | some x => if x.endBy = 0 then 0 else s.t + b + (x.endBy - s.t)
      | none => s.t + b + (match n.revoke with | some x => x.endBy - s.t | none => (n.cmds.head?.map (fun x => x.endBy - s.t)).getD 0)
    else if n.cmds.any (fun x => x.endBy == 0) then 0
    else Nat.max s.t n.lastEnd + b

/-- Accepted commands of a queue pair that have not completed (R429): those that wait, and the revoke that drains. -/
def State.queueLoad (s : State) (t queue : Nat) : Nat :=
  ((s.ten t).cmds.filter (fun c => c.queue == queue)).length + b2n ((s.ten t).revoke.any (fun c => c.code == 0x12 && c.queue == queue))

/-- A host command reaches node firmware. -/
def State.hostAccept (s : State) (t : Nat) (port : Option Plane) (p : List Byte) : State :=
  let queue := (p.getD 1 0).toNat % 64
  let cid := BitVec.ofNat 16 (fieldAt p 2 2)
  let code := p.getD 4 0
  let refuse := fun (s : State) (st reason : Byte) => s.hostReply t port queue cid st reason 0 0 []
  if (cmdRow code.toNat).isNone ∨ (s.ten t).queues.toNat ≤ queue then refuse s stWindowFault 9
  else if code ≠ 0x01 ∧ code ≠ 0x04 ∧ s.cpc.dold ≠ 0 then (refuse s stNotAdmitted 0).wakeBy 2
  else if ¬ s.dieAdmits 4 ∧ ¬ ((code = 0x01 ∨ code = 0x04) ∧ s.onlyHeat 4) then refuse s stNotAdmitted 0
  else if code ≠ 0x01 ∧ code ≠ 0x04 ∧ ¬ s.boot.ready then refuse s stNotAdmitted 0
  else if 32 ≤ s.queueLoad t queue then refuse s stNotAdmitted 0
  else
    let c : HostCmd := { queue := queue, cid := cid, code := code, signed := (p.getD 5 0).getLsbD 0, payload := p, tAccept := s.t, port := port }
    let e := s.cmdEnd t c
    (s.updTen t (fun n => { n with cmds := n.cmds ++ [{ c with endBy := e }], lastEnd := if e = 0 then n.lastEnd else e })).raise 36

/-- A host frame on the management port: the checks of R290 and the sequence space of the host, without a counter. The
credits of the port are kept under key 2. -/
def State.mgmtRequest (s : State) (f0 : WtFrame) : State × Option WtFrame :=
  let f := { f0 with self := false, twin := false }
  let peer := s.peerOf 0 f
  let s1 := (s.setSpace peer f.origin ((s.space peer f.origin).floor f.ackFloor)).freeBuffer 2 peer
  let t := f.srcRank.toNat - 0xFFF0
  let ack := fun (s : State) (st : Byte) (again : Bool) => s.send (.mgmt (s.mgmtCarriage t f.pathId)
    (wtSeal { type := 6, flags := if again then 2 else 0, srcRank := f.dstRank, dstRank := f.srcRank, tag := f.tag, seq := f.seq, origin := f.origin
              pathId := f.pathId, hopStamp := BitVec.ofNat 16 (Nat.min (s.hopOf f) 0xFFFF), tSend := BitVec.ofNat 32 s.t, status := st
              creditGrant := s.grantFor 2 peer, ackFloor := s.log.fwdFloor t }))
  match (s1.space peer f.origin).classify f.seq f.ackFloor with
  | .new => (ack (s1.seqRecord peer f stDone) stDone false, some f)
  | .dup o => ((ack s1 (o.getD (freeStatus s1.freeCount)) true).drawn, none)
  | _ => (s1, none)

/-- A type 0xA frame by its kind (R427): a host command is queued; an unknown kind is dropped. -/
def State.hostKind (s : State) (t : Nat) (port : Option Plane) (f : WtFrame) : State :=
  if f.payload.getD 0 0 = 0x20 then s.hostAccept t port f.payload else s

/-- A type 0xA frame's kind is one that is not dropped (R427); kind 0x22 is no such kind, so a package ignores it (R610). -/
def kindKnown (k : Byte) : Bool := (1 ≤ k.toNat && k.toNat ≤ 0x0C) || k == 0x20 || k == 0x21

def execHostCommand (port : Option (Plane × SubPort)) (f : WtFrame) (s : State) : Out :=
  match port with
  | some (pl, sub) =>
    let a := s.wtIn pl sub f 0xA
    let drop := Host.Outcome.next (a.1.updFab pl.val (fun x => { x with hostDrop := satInc x.hostDrop }))
    if !a.2 then .next a.1 else
    match hostTen f with
    | none =>
      let kind := f.payload.getD 0 0
      -- a frame of a job meets the check of R448 first; one of kind 0x01 to 0x0C does so as its own command
      let g := if f.jobId = 0 ∨ (1 ≤ kind.toNat ∧ kind.toNat ≤ 0x0C) then (a.1, some f) else s.wtRequest pl sub f 0xA
      match g.2 with
      | none => .next g.1
      | some _ =>
        if !kindKnown kind then .next (g.1.crcDropped pl.val)
        else if kind ≠ 0x20 then .next g.1 else .next (g.1.updFab pl.val (fun x => { x with hostDrop := satInc x.hostDrop }))
    | some t =>
      if !s.hostFrom t f then drop
      else if !kindKnown (f.payload.getD 0 0) then .next (a.1.crcDropped pl.val) else
      let r := s.wtRequest pl sub f 0xA
      match r.2 with
      | some f =>
        -- a fabric die that admits no new request refuses it (R46); in Doldrums node firmware answers (R575)
        if r.1.dieAdmits (5 + pl.val) || r.1.cpc.dold != 0 then .next ((r.1.execReq pl.val f stDone []).hostKind t (some pl) f)
        else .next (r.1.refuseReq pl.val f)
      | none => .next r.1
  | none =>
    if s.cpc.stopped || wtBad f (s.fab 0).udpMode || f.type != 0xA || f.payload.getD 0 0 != 0x20 then .next s else
    match hostTen f with
    | none => .next s
    | some t =>
      if !s.hostFrom t f then .next s else
      let r := s.mgmtRequest f
      match r.2 with
      | some f => .next (r.1.hostKind t none f)
      | none => .next r.1

/-! ### Unsigned commands -/

def State.cmdNop (t : Nat) (s : State) (c : HostCmd) : State := s.cmdDone t c { result := s.t }
def execNop (t : Ten) (s : State) : Out := .next (s.runCmd t.val 0x01 (State.cmdNop t.val))

def State.cmdMemWrite (t : Nat) (s : State) (c : HostCmd) : State :=
  let n := c.bodyLen - 8
  if !s.tenCovers t (c.num 0 8) n .w then s.cmdDone t c { status := stWindowFault, reason := 6 } else
  let r := s.gddrWrite (c.num 0 8) (c.bytes 8 n) { source := 5 }
  (r.1.foreignWrote (c.num 0 8) n).cmdDone t c { status := r.2 }
def execMemWrite (t : Ten) (s : State) : Out := .next (s.runCmd t.val 0x02 (State.cmdMemWrite t.val))

def State.cmdMemRead (t : Nat) (s : State) (c : HostCmd) : State :=
  let n := c.num 8 4
  if 3968 < n then s.cmdDone t c { status := stWindowFault, reason := 9 }
  else if !s.tenCovers t (c.num 0 8) n .r then s.cmdDone t c { status := stWindowFault, reason := 6 } else
  let r := s.svcRead (c.num 0 8) n
  if r.2.1 then r.1.cmdDone t c { data := r.2.2 } else r.1.cmdDone t c { status := stMemUnc }
def execMemRead (t : Ten) (errs : List (Nat × SymErr)) (s : State) : Out :=
  .next (s.runCmd t.val 0x03 (fun s c => State.cmdMemRead t.val (s.gddrStrike errs) c))

def State.cmdStatus (t : Nat) (s : State) (c : HostCmd) : State :=
  s.cmdDone t c { data := ((s.ten t).job.words.flatMap (leBytes 8)) ++ leBytes 8 (s.ckpt t).statusWord }
def execStatus (t : Ten) (s : State) : Out := .next (s.runCmd t.val 0x04 (State.cmdStatus t.val))

/-- Cores that a job holds. -/
def State.jobCores (s : State) (t : Nat) : List CoreId :=
  (s.cores.filter (fun c => c.2.jobValid && c.2.tenancy.toNat == t)).map (fun c => coreOfKey c.1)

/-- The package carries its job with its control units halted: it is the standby of a pair (R457). -/
def State.standby (s : State) : Bool := s.twin.mode == 1 && s.twin.role

/-- JOB_RUN (R442, R487). -/
def State.cmdJobRun (t : Nat) (s : State) (c : HostCmd) : State :=
  match s.stateCheck t [2] with
  | some d => s.cmdDone t c { d with verified := false }
  | none =>
    let s1 := s.updTen t (fun n => { n with job := { n.job with running := true } })
    -- the standby's control units stay halted (R457)
    let s3 := if s.standby then s1 else (s1.jobCores t).foldl (fun s c => s.setHalt c false) s1
    let s2 := (List.range 96).foldl (fun s h => let a := s.px.apps.get h
        if a.assigned && a.tenancy.toNat == t && !a.running then s.appStart h else s) s3
    s2.cmdDone t c {}
def execJobRun (t : Ten) (s : State) : Out := .next (s.runCmd t.val 0x05 (State.cmdJobRun t.val))

def State.cmdRing (t : Nat) (s : State) (c : HostCmd) : State :=
  let v : Reg := BitVec.ofNat 64 (c.num 0 2)
  if !s.ringOk t v then s.cmdDone t c { status := stWindowFault, reason := 6 } else (s.ring t v true).cmdDone t c {}
def execRing (t : Ten) (s : State) : Out := .next (s.runCmd t.val 0x06 (State.cmdRing t.val))

/-! ### JOB_LOAD (R431, R439, R443, R446) -/

/-- A job id is in use (R438). -/
def State.idInUse (s : State) (id : BitVec 16) : Bool := (List.range 8).any (fun t => (s.ten t).job.state != 0 && (s.ten t).job.jobId == id)

def State.quarantineNs (s : State) : Nat := s.pkg.quarantineS.toNat * 1000000000

/-- Check 7 (R443): none when the id is allowed. -/
def State.idCheck (s : State) (id gen : BitVec 16) : Option Done :=
  if id = 0 ∨ s.idInUse id then some (failV 7)
  else match s.pkg.history.find? (fun h => h.1 == id) with
  | some h =>
    if gen ≠ h.2.1 + 1 then some (failV 7)
    else if s.t < h.2.2 + s.quarantineNs then some { status := stNotAdmitted, verified := true } else none
  | none =>
    if s.pkg.history.length < 64 ∨ s.pkg.history.any (fun h => h.2.2 + s.quarantineNs ≤ s.t) then none
    else some { status := stNotAdmitted, verified := true }

/-- A rank-table entry from its 32 bytes (R446). -/
def rankEntryOf (b : List Byte) : RankEntry :=
  let w := fieldAt b 0 8
  { mac := BitVec.ofNat 48 w, valid := bitAt w 48, inRack := bitAt w 49, pkg := BitVec.ofNat 8 (bitsAt w 50 8)
    ip6hi := BitVec.ofNat 64 (fieldAt b 8 8), ip6lo := BitVec.ofNat 64 (fieldAt b 16 8) }

/-- Rank-table entries of a tenancy from a blob of 64 bytes a rank: plane 0's entry, then plane 1's. -/
def State.putRanks (s : State) (t first count : Nat) (b : List Byte) : State :=
  let put := fun (pl : Nat) (f : Fabric) => { f with ranks := (List.range count).foldl (fun r i =>
    r.set (t * 65536 + first + i) (rankEntryOf (slice b (64 * i + 32 * pl) 32))) f.ranks }
  (s.updFab 0 (put 0)).updFab 1 (put 1)

/-- The tenancy's rank table is emptied on both planes. -/
def State.clearRanks (s : State) (t : Nat) : State :=
  let clr := fun (f : Fabric) => { f with ranks := f.ranks.filter (fun e => e.1 / 65536 != t) }
  (s.updFab 0 clr).updFab 1 clr

/-- The module is formatted when a job is loaded (R400); whether its namespace has the size that the job's plan asks for is `module_ok`
(R399, R422). -/
def State.formatModule (s : State) (t : Nat) : State :=
  let h := s.planHead t
  let p := h.1.planEntries t h.2.2
  let n := slotLbas p.2.2.1 p.2.2.2 (s.ten t).job.ownRank.toNat
  let ok := (s.boot.nvme.map (·.lbas)).any (fun l => 256 + 6 * n ≤ l)
  let s1 := p.1.updCkpt t (fun c => { c with moduleOk := ok })
  if ok then s1.drawn.send (.nvmeWrite 0 false (padTo 4096 (moduleHeader (s.ten t).job (s.twinRank t) n))) else s1

def State.cmdJobLoad (t : Nat) (s : State) (c : HostCmd) : State :=
  let id := BitVec.ofNat 16 (c.num 0 2)
  let gen := BitVec.ofNat 16 (c.num 2 2)
  let own := c.num 4 2
  let n := c.num 8 4
  let j := (s.ten t).job
  match s.blob t (c.num 12 8) (64 * n) (c.bytes 20 32) with
  | (s1, .error d) => s1.cmdDone t c d
  | (s1, .ok b) =>
    match s1.idCheck id gen with
    | some d => s1.cmdDone t c d
    | none =>
      if j.state ≠ 0 then s1.cmdDone t c (failV 8)
      else if s1.pkg.memoryBroken then s1.cmdDone t c (failV 11)
      else if s1.cpc.active.toNat ≠ c.num 6 1 then s1.cmdDone t c (failV 13)
      else
        let s2 := (((s1.clearRanks t).putRanks t 0 n b).updTen t (fun x => { x with
          job := { jobId := id, jobGen := gen, state := 1, ownRank := BitVec.ofNat 16 own, rankCount := BitVec.ofNat 17 n, tState := s.t } })).updCkpt t
            (fun k => { k with newest := 0, actedStep := none, slots := [], records := [], nextCut := none, nextNotes := [] })
        (s2.formatModule t).cmdDone t c doneV
def execJobLoad (t : Ten) (s : State) : Out := .next (s.runCmd t.val 0x10 (State.cmdJobLoad t.val))

/-! ### JOB_START (R440, R441, R618) -/

/-- Cores of a set of bands: logical indices of each die. -/
def State.bandCores (s : State) (bands : Nat) : List CoreId :=
  ((List.range 64).filter (fun b => bitAt bands b)).flatMap (fun b =>
    let die : CDie := ⟨b / 16 % 4, Nat.mod_lt _ (by decide)⟩
    ((List.range 1280).map (fun i => b % 16 * 1280 + i) ++ (List.range 4).map (fun i => 20480 + b % 16 * 4 + i)).filterMap (fun i => s.physIdx die i))

/-- A region entry over `n` bytes at an NPA. -/
def regionAt (npa n : Nat) (r w : Bool) : Region :=
  { base := BitVec.ofNat 52 npa, permR := r, permW := w, valid := true, limit := BitVec.ofNat 52 (npa + n) }

/-- The region table of a job's core (R441 step 3). -/
def State.jobRegions (s : State) (t : Nat) (rs : List Byte) : Tab Region :=
  let g := (List.range 4).foldl (fun (m : Tab Region) k => m.set k ((s.ten t).regions.get k)) []
  let g := g.set 4 (regionAt (3 * 2 ^ 48 + 0xF00000000000 + t * 0x1000) 0x1000 false true)
  let g := g.set 5 (regionAt (3 * 2 ^ 48 + ecBase + 0x100 * t) 0x100 true true)
  (List.range 4).foldl (fun (m : Tab Region) k =>
    m.set (6 + k) (((default : Region).setBase (fieldAt rs (16 * k) 8)).setLimit (fieldAt rs (16 * k + 8) 8))) g

/-- What JOB_START does to one core (R197, R441). -/
def State.loadCore (s : State) (t : Nat) (d : List Byte) (prog : List Byte) (c : CoreId) : State :=
  let j := (s.ten t).job
  let seed := if fieldAt d 0x10 8 = 0 then s.coreDefault c 0x400 else fieldAt d 0x10 8
  let s1 := s.updCore c (fun k => { k with
    haltCu := true, wait := .none, cuTrapped := false, cuRunning := false
    jobId := j.jobId, jobGen := j.jobGen, tenancy := BitVec.ofNat 3 t, jobValid := true
    seed := BitVec.ofNat 64 seed, parts := [], regions := s.jobRegions t (slice d 0x90 64), pc := BitVec.ofNat 32 (fieldAt d 0x28 4) })
  let part := fun (n : Nat) => if allZero (slice d 0x50 64) then s.coreDefault c (0x80 + 8 * n) else fieldAt d (0x50 + 8 * n) 8
  let s2 := (List.range 8).foldl (fun s n => s.partWrite c n (BitVec.ofNat 64 (part n))) s1
  if prog.isEmpty then s2 else (s2.storeWrite c true (fieldAt d 0x24 4) prog { source := 3 }).1

/-- A descriptor's fields are as R440 gives them. -/
def State.jobDescOk (s : State) (t : Nat) (d : List Byte) : Bool :=
  let j := (s.ten t).job
  let len := fieldAt d 0x20 4
  let dst := fieldAt d 0x24 4
  let pc := fieldAt d 0x28 4
  fieldAt d 0 4 == 0x5A510010 && fieldAt d 4 2 == j.jobId.toNat && fieldAt d 6 2 == j.jobGen.toNat
    && BitVec.ofNat 64 (fieldAt d 8 8) &&& ~~~ (s.ten t).bands == 0 && len ≤ 131072 && len % 4 == 0 && dst % 512 == 0 && dst + len ≤ 131072
    && 0x10000000 ≤ pc && pc ≤ 0x1001FFFF && allZero (slice d 0x2C 4)

def State.cmdJobStart (t : Nat) (s : State) (c : HostCmd) : State :=
  match s.blob t (c.num 0 8) (c.num 8 8) (c.bytes 16 32) with
  | (s1, .error d) => s1.cmdDone t c d
  | (s1, .ok d) =>
    if c.num 8 8 ≠ 208 then s1.cmdDone t c (failV 8) else
    let len := fieldAt d 0x20 4
    let prog : State × Except Done (List Byte) :=
      if len = 0 ∨ 131072 < len then (s1, .ok []) else s1.blob t (fieldAt d 0x18 8) len (slice d 0x30 32)
    match prog with
    | (s2, .error e) => s2.cmdDone t c e
    | (s2, .ok p) =>
      let j := (s2.ten t).job
      if (j.state = 3 ∨ j.state = 4) ∧ fieldAt d 4 2 = j.jobId.toNat ∧ fieldAt d 6 2 = j.jobGen.toNat then
        s2.cmdDone t c { status := stJobRevoked, verified := true }
      else if j.state ≠ 1 ∨ s2.jobDescOk t d = false then s2.cmdDone t c (failV 8)
      else if s2.pkg.degBands &&& BitVec.ofNat 64 (fieldAt d 8 8) ≠ 0 then s2.cmdDone t c (failV 11)
      else
        let cs := s2.bandCores (fieldAt d 8 8)
        if cs.any (fun x => !(s2.core x).drained) then s else
        let s3 := cs.foldl (fun s x => s.loadCore t d p x) s2
        let period := (s3.ckpt t).periodMs.toNat * 1000000
        ((s3.updTen t (fun x => { x with job := { x.job with state := 2, bands := BitVec.ofNat 64 (fieldAt d 8 8), tState := s.t } })).updCkpt t
          (fun k => { k with actedPeriod := s.t / period })).cmdDone t c
            { verified := true, result := (cs.filter (fun x => (s2.core x).narrowOnly)).length % 65536 }
def execJobStart (t : Ten) (s : State) : Out := .next (s.runCmd t.val 0x11 (State.cmdJobStart t.val))

/-! ### JOB_REVOKE and its drain (R343, R414, R450, R451, R487, R528) -/

/-- Step 2: the job's requests fail and their tags are released. -/
def State.failRequests (s : State) (t : Nat) : State :=
  [0, 1].foldl (fun s pl =>
    let f := s.fab pl
    let mine := f.outst.filter (fun o => o.ten == t && o.frame.jobId != 0)
    let wait := f.waiting.filter (fun r => r.ten == t && r.jobId != 0)
    let s1 := s.updFab pl (fun f => { f with outst := f.outst.filter (fun o => !(o.ten == t && o.frame.jobId != 0)), waiting := f.waiting.filter (fun r => !(r.ten == t && r.jobId != 0)) })
    let s2 := mine.foldl (fun s o => s.giveOwner o stJobRevoked []) s1
    wait.foldl (fun s r => match r.owner with | .dma c req part => s.dmaAnswer c req part stJobRevoked [] | _ => s) s2) s

/-- Step 3 for the collectives: each ends, and what is queued is refused. Their slots stay claimed until step 5. No frame
leaves for the job after step 2, so no `abandon` goes out. -/
def State.revokeColls (s : State) (t : Nat) : State :=
  let used := fun (pl : Nat) => (s.fab pl).slotsUsed.get t
  let s1 := (s.colls.filter (fun c => c.ten == t)).foldl (fun s c => s.endColl c stJobRevoked false) s
  let q := s1.collQ.get t
  let s2 := q.foldl (fun s d => s.writeRecord d (collRecord d.b stJobRevoked 4 0 s.t 0 0 (s.groupOf t d.b.group).gen 0))
    { s1 with collQ := s1.collQ.set t [], doneColls := s1.doneColls.filter (fun c => c.ten != t) }
  [0, 1].foldl (fun s pl => s.updFab pl (fun f => { f with
    slotsUsed := f.slotsUsed.set t (used pl), groups := f.groups.map (fun x => if x.1 / 16 = t then (x.1, { x.2 with ended := [] }) else x) })) s2

/-- The tenancy's application cores are reset (R487). -/
def State.resetApps (s : State) (t : Nat) : State :=
  (List.range 96).foldl (fun s h => if (s.px.apps.get h).assigned && (s.px.apps.get h).tenancy.toNat == t then
    let s := s.pxFlush h
    { s with px := { s.px with apps := s.px.apps.upd h (fun a => { a with running := false, held := false }), harts := s.px.harts.erase h } } else s) s

/-- Steps 1 to 3 of R343. -/
def State.revokeStart (s : State) (t : Nat) : State :=
  let s1 := (s.updTen t (fun n => { n with job := { n.job with state := 3, running := false, tState := s.t } })).failRequests t
  let s2 := (s1.jobCores t).foldl (fun s c => (s.abortAll c stJobRevoked).setHalt c true) s1
  let s3 := ((s2.revokeColls t).ecRevoke t).resetApps t
  let k := s3.ckpt t
  if k.state = 1 ∨ k.state = 2 then (if s3.isRank0 t then s3.abandonAll t 4 else s3.abandonLocal t 4)
  else if k.state = 3 then s3.ckptIdle t else s3

def State.cmdJobRevoke (t : Nat) (s : State) (c : HostCmd) : State :=
  let id := BitVec.ofNat 16 (c.num 0 2)
  let gen := BitVec.ofNat 16 (c.num 2 2)
  let j := (s.ten t).job
  if j.state = 0 ∨ j.jobId ≠ id ∨ j.jobGen ≠ gen then
    -- a job that has been freed stands in the history (R450)
    s.cmdDone t c (if s.pkg.history.any (fun h => h.1 == id && h.2.1 == gen) then doneV else failV 8)
  else if j.state = 3 ∨ j.state = 4 then s.cmdDone t c doneV
  else if j.state = 1 then
    let s1 := if (s.ckpt t).state = 3 then s.ckptIdle t else s
    ((s1.updTen t (fun n => { n with job := { n.job with state := 4, running := false, tState := s.t } })).cmdDone t c doneV).lowerProfile
  else (s.revokeStart t).updTen t (fun n => { n with cmds := n.cmds.erase c, revoke := some c })
def execJobRevoke (t : Ten) (s : State) : Out := .next (s.runCmd t.val 0x12 (State.cmdJobRevoke t.val))

/-- Nothing of the job is left to drain: cores, windows, collectives. -/
def State.revokeIdle (s : State) (t : Nat) : Bool :=
  (s.jobCores t).all (fun c => (s.core c).drained && (s.core c).dma.entry.isNone)
    && [0, 1].all (fun pl => (s.fab pl).windows.all (fun w => w.1 / 256 != t || w.2.busy == 0))
    && s.colls.all (fun c => c.ten != t)

/-- The end of step 3, and steps 4 to 6 of R343. A revoke that an image restart makes answers no command. -/
def execRevokeDrained (t : Ten) (s : State) : Out :=
  match (s.ten t.val).revoke with
  | none => .next s
  | some c =>
    if s.cpc.stopped || !s.revokeIdle t.val then .next s else
    let s1 := (s.jobCores t.val).foldl (fun s c => s.updCore c (fun k => { k with jobValid := false })) s
    let end_ := fun (f : Fabric) => { f with
      windows := f.windows.map (fun w => if w.1 / 256 = t.val then (w.1, { w.2 with valid := false }) else w)
      slotsUsed := f.slotsUsed.set t.val 0 }
    let s2 := ((s1.updFab 0 end_).updFab 1 end_).updTen t.val (fun n => { n with revoke := none, job := { n.job with state := 4, tState := s.t } })
    .next (if c.code = 0x12 then s2.cmdDone t.val c doneV else s2).lowerProfile

/-! ### JOB_FREE, RESTORE -/

/-- A job's entry in the history (R443): its own id's, a new one, or the oldest whose quarantine has ended. DESIGN CHOICE (log 51): where 64
jobs freed since are all in quarantine, JOB_FREE still records the job (R431), in place of the oldest. -/
def State.addHistory (s : State) (id gen : BitVec 16) : State :=
  let h := s.pkg.history
  let e := (id, gen, s.t)
  let put := fun (l : List (BitVec 16 × BitVec 16 × Nat)) => { s with pkg := { s.pkg with history := l } }
  if h.any (fun x => x.1 == id) then put (h.filter (fun x => x.1 != id) ++ [e])
  else if h.length < 64 then put (h ++ [e])
  else
    let past := h.filter (fun x => x.2.2 + s.quarantineNs ≤ s.t)
    match (if past.isEmpty then h else past).foldl (fun (m : Option (BitVec 16 × BitVec 16 × Nat)) x => match m with
      | none => some x
      | some y => if x.2.2 < y.2.2 then some x else some y) none with
    | some x => put (h.erase x ++ [e])
    | none => s

/-- Shared buffers lent to peers of this tenancy's ranks alone return when the job ends (R300). -/
def State.returnShared (s : State) (t : Nat) : State :=
  let peers := fun (p : Nat → Bool) => ((s.fab 0).ranks.filter (fun e => p (e.1 / 65536))).map (fun e => s.peerOfRank e.1)
  let mine := peers (· == t)
  let others := peers (· != t)
  let gone := mine.filter (fun p => !others.contains p)
  [0, 1].foldl (fun s pl => s.updFab pl (fun f =>
    { f with shared := f.shared + sumN (gone.eraseDups.map (fun p => (f.credits.get p).lent))
             credits := gone.foldl (fun cr p => cr.upd p (fun x => { x with lent := 0, base := 0, asked := false, used := x.granted })) f.credits })) s

def State.cmdJobFree (t : Nat) (s : State) (c : HostCmd) : State :=
  let j := (s.ten t).job
  if j.state ≠ 4 then s.cmdDone t c (failV 8) else
  let clr := fun (f : Fabric) => { f with
    windows := f.windows.filter (fun w => w.1 / 256 != t), rackMap := f.rackMap.filter (fun w => w.1 / 256 != t)
    groups := f.groups.filter (fun w => w.1 / 16 != t) }
  let s1 := (((((s.returnShared t).clearRanks t).updFab 0 clr).updFab 1 clr).addHistory j.jobId j.jobGen).updTen t
    (fun n => { n with job := { tState := s.t } })
  s1.cmdDone t c doneV
def execJobFree (t : Ten) (s : State) : Out := .next (s.runCmd t.val 0x13 (State.cmdJobFree t.val))

def State.cmdRestore (t : Nat) (s : State) (c : HostCmd) : State :=
  match s.stateCheck t [1] with
  | some d => s.cmdDone t c d
  | none => (s.restoreStart t).cmdDone t c doneV
def execRestore (t : Ten) (s : State) : Out := .next (s.runCmd t.val 0x14 (State.cmdRestore t.val))

/-! ### Tables (R318 to R320, R323, R373, R446, R459) -/

/-- The range of a window lies where R320 allows. -/
def State.windowFits (s : State) (t : Nat) (w : Window) : Bool :=
  let lo := w.base.toNat
  let hi := lo + w.length.toNat
  let owns := fun (die idx : Nat) => (s.ten t).bands.getLsbD (bandBit die (bandOfIdx idx))
  match w.space.toNat with
  | 0 => hi ≤ s.gddrSize
  | 1 => hi ≤ 0x800000000 && (w.length == 0 || (List.range ((hi - 1) / 0x20000 - lo / 0x20000 + 1)).all (fun i =>
      let n := lo / 0x20000 + i
      n % 32768 < 20480 && owns (n / 32768) (n % 32768)))
  | 2 => 0x800000000 ≤ lo && hi ≤ 0x840000000 && (w.length == 0 || (List.range ((hi - 1 - 0x800000000) / 0x400000 - (lo - 0x800000000) / 0x400000 + 1)).all (fun i =>
      let n := (lo - 0x800000000) / 0x400000 + i
      owns (n / 64) (20480 + n % 64)))
  | _ => false

/-- WINDOW_SET in the three steps of R323; with requests still in the window it waits. -/
def State.cmdWindowSet (t : Nat) (s : State) (c : HostCmd) : State :=
  let n := c.num 0 1
  let key := t * 256 + n
  let w0 := c.num 8 8
  let w1 := c.num 16 8
  let w2 := c.num 24 8
  let w := windowWord w0 w1 w2
  let j := (s.ten t).job
  let clear := fun (f : Fabric) => { f with windows := f.windows.upd key (fun x => { x with valid := false }) }
  let put := fun (f : Fabric) => { f with windows := f.windows.set key w }
  if c.started = false ∧ ((w.mirror ∧ n < 0xC0) ∨ s.windowFits t w = false) then s.cmdDone t c (failV 6)
  else if w.valid ∧ (w.jobId ≠ j.jobId ∨ w.jobGen ≠ j.jobGen) then s.cmdDone t c (failV 8)
  else match s.stateCheck t [1, 2] with
  | some d => s.cmdDone t c d
  | none =>
    let s1 := (s.updFab 0 clear).updFab 1 clear
    if ((s1.fab 0).windows.get key).busy = 0 ∧ ((s1.fab 1).windows.get key).busy = 0 then
      ((s1.updFab 0 put).updFab 1 put).cmdDone t c doneV
    else s1.updTen t (fun n => { n with cmds := n.cmds.map (fun x => if x = c then { x with started := true } else x) })
def execWindowSet (t : Ten) (s : State) : Out := .next (s.runCmd t.val 0x18 (State.cmdWindowSet t.val))

/-- GROUP_SET: forms or re-forms a group, which starts flat (R346, R364, R372, R373). -/
def State.cmdGroupSet (t : Nat) (s : State) (c : HostCmd) : State :=
  let g := c.num 0 1
  let n := c.num 2 2
  let m := c.num 4 4
  match s.blob t (c.num 8 8) (2 * m) (c.bytes 16 32) with
  | (s1, .error d) => s1.cmdDone t c d
  | (s1, .ok b) =>
    match s1.stateCheck t [1, 2] with
    | some d => s1.cmdDone t c d
    | none =>
      let old := s1.groupOf t g
      let j := (s1.ten t).job
      let s2 := s1.updGroup t g (fun x => { x with valid := false })
      let s3 := if old.valid then s2.endGroupColls t g stGroupChanged else s2
      (s3.updGroup t g (fun x => { x with
        jobId := j.jobId, jobGen := j.jobGen, gen := x.gen + 1, localCount := BitVec.ofNat 12 n, valid := true, hier := false
        memberAddr := BitVec.ofNat 52 (c.num 8 8), members := BitVec.ofNat 17 m, list := listOf m b })).cmdDone t c doneV
def execGroupSet (t : Ten) (s : State) : Out := .next (s.runCmd t.val 0x19 (State.cmdGroupSet t.val))

/-- RACK_MAP_SET: 256 entries; a written 1 clears `lost` (R318). -/
def State.cmdRackMapSet (t : Nat) (s : State) (c : HostCmd) : State :=
  match s.blob t (c.num 0 8) 2048 (c.bytes 8 32) with
  | (s1, .error d) => s1.cmdDone t c d
  | (s1, .ok b) =>
    match s1.stateCheck t [1, 2] with
    | some d => s1.cmdDone t c d
    | none =>
      let put := fun (f : Fabric) => { f with rackMap := (List.range 256).foldl (fun m i =>
        let v := fieldAt b (8 * i) 8
        m.upd (t * 256 + i) (fun e => { rank := BitVec.ofNat 16 v, valid := bitAt v 16, self := bitAt v 17, lost := e.lost && !(bitAt v 18 && (s.ten t).job.state == 1) })) f.rackMap }
      ((s1.updFab 0 put).updFab 1 put).cmdDone t c doneV
def execRackMapSet (t : Ten) (s : State) : Out := .next (s.runCmd t.val 0x1A (State.cmdRackMapSet t.val))

/-- RANK_SET: replaces rank-table entries. -/
def State.cmdRankSet (t : Nat) (s : State) (c : HostCmd) : State :=
  let first := c.num 0 4
  let n := c.num 4 4
  match s.blob t (c.num 8 8) (64 * n) (c.bytes 16 32) with
  | (s1, .error d) => s1.cmdDone t c d
  | (s1, .ok b) =>
    match s1.stateCheck t [1, 2] with
    | some d => s1.cmdDone t c d
    | none => (s1.putRanks t first n b).cmdDone t c doneV
def execRankSet (t : Ten) (s : State) : Out := .next (s.runCmd t.val 0x1B (State.cmdRankSet t.val))

/-! ### IMAGE_WRITE (R558) -/

/-- The command executes in two steps: the checks, with which the flash begins to be programmed, and the end of the programming. -/
def State.cmdImageWrite (t : Nat) (s : State) (c : HostCmd) : State :=
  if c.started then { s with boot := { s.boot with imageWriting := false } }.cmdDone t c doneV
  else match s.blob t (c.num 0 8) (c.num 8 8) (c.bytes 16 32) with
  | (s1, .error d) => s1.cmdDone t c d
  | (s1, .ok b) =>
    if s1.boot.imageWriting then s1.cmdDone t c { status := stNotAdmitted, verified := true }
    else if (imageCheck b).1 ≠ 0 then s1.cmdDone t c (failV 10)
    else { s1 with boot := { s1.boot with flash := b, imageWriting := true } }.updTen t (fun n =>
      { n with cmds := n.cmds.map (fun x => if x = c then { x with started := true } else x) })
def execImageWrite (t : Ten) (s : State) : Out := .next (s.runCmd t.val 0x28 (State.cmdImageWrite t.val))

end Sys2Proof.Machine
end

