-- ==== Sys2Proof/Machine/ErrLog.lean ====
section
/-! DEFINITION. The error log of the CMB (R18, R605 to R610, R619, R620): append, consumption by node firmware, forwarding to hosts. -/

namespace Sys2Proof.Machine

/-- An error record in its 64 bytes (R18). -/
def ErrRec.bytes (r : ErrRec) : List Byte :=
  leBytes 4 r.unit.toNat ++ [r.cls, r.severity, r.status, r.addrKind] ++ leBytes 8 r.time ++ leBytes 8 r.address.toNat
    ++ leBytes 8 r.syndrome.toNat ++ leBytes 2 r.jobId.toNat ++ leBytes 2 r.jobGen.toNat ++ leBytes 4 r.opTag.toNat ++ padTo 24 r.detail

/-- The CMB appends a record, or drops and counts it (R606). -/
def State.logAppend (s : State) (r : ErrRec) : State :=
  let l := s.log
  if r.severity.toNat < 2 ∧ 3840 ≤ l.unread then { s with log := { l with droppedLow := satInc l.droppedLow } }
  else if 4096 ≤ l.unread then { s with log := { l with droppedHigh := satInc l.droppedHigh } }
  else { s with log := { l with ring := l.ring.set ((l.head + l.unread) % 4096) r, unread := l.unread + 1 } }.raise 37

/-- The oldest record on its way to the CMB arrives. -/
def execErrorRecordAppend (s : State) : Out :=
  match s.handed with
  | [] => .next s
  | r :: rest => .next ({ s with handed := rest }.logAppend r)

/-- The core a unit identifier of a compute or plinth die names. -/
def unitCore (u : BitVec 32) : Option CoreId :=
  if h : u.toNat % 65536 < 21572 then some ⟨⟨u.toNat / 2 ^ 24 % 4, Nat.mod_lt _ (by decide)⟩, ⟨u.toNat % 65536, h⟩⟩ else none

/-- What node firmware does with a record before it consumes it: the thresholds of corrected errors, and the lowering of the profile
(R608, R609, R614). Every other repair of R614 is a command of its own. -/
def State.actOn (s : State) (r : ErrRec) : State :=
  let kind := r.unit.toNat / 2 ^ 28
  if r.severity = 3 ∧ r.cls = 0x08 then s.lowerProfile
  else if r.severity ≠ 1 then s
  else if r.cls = 0x01 ∧ kind = 4 then
    s.spareRow (r.unit.toNat / 2 ^ 24 % 16 * 5 + r.unit.toNat / 2 ^ 20 % 16) (fieldAt r.detail 0 8 / 60)
  else match unitCore r.unit with
  | none => s
  | some c =>
    if r.cls = 0x03 then s.reexecLimit c
    else if r.cls = 0x01 ∧ (r.detail.getD 6 0) = 5 ∧ bitAt (r.detail.getD 0 0).toNat 0 then s.scrubLimit c (fieldAt r.detail 2 2)
    else s

/-- A write of 1 to `pop` (R607). -/
def State.popWrite (s : State) : State :=
  let l := s.log
  if l.unread = 0 then s else
  let s1 := s.actOn (l.ring.get l.head)
  { s1 with log := { s1.log with head := (l.head + 1) % 4096, unread := l.unread - 1, fwdAt := l.fwdAt - 1, fwdLowAt := l.fwdLowAt - 1 } }

def execPop (s : State) : Out := .next s.popWrite

/-! ### Forwarding (R608, R610) -/

/-- Unread records from the `a`-th on. -/
def ErrLog.from (l : ErrLog) (a : Nat) : List (Nat × ErrRec) :=
  ((List.range l.unread).filter (a ≤ ·)).map (fun i => (i, l.ring.get ((l.head + i) % 4096)))

/-- The tenancy a record goes to: the one whose job entry holds its job id. -/
def State.recTen (s : State) (r : ErrRec) : Option Nat :=
  if r.jobId = 0 then none else (List.range 8).find? (fun t => (s.ten t).job.state != 0 && (s.ten t).job.jobId == r.jobId)

/-- One forwarding frame to the host of a tenancy. -/
def State.forward (s : State) (host ten : Nat) (rs : List ErrRec) : State :=
  s.mgmtSend host false ([0x22, BitVec.ofNat 8 ten] ++ leBytes 2 rs.length ++ [0, 0, 0, 0] ++ rs.flatMap ErrRec.bytes)

/-- Records to one destination, 63 to a frame. -/
def State.forwardAll (s : State) (host ten : Nat) (rs : List ErrRec) : State :=
  (List.range (ceilDiv rs.length 63)).foldl (fun s i => s.forward host ten ((rs.drop (63 * i)).take 63)) s

/-- Node firmware forwards what is unforwarded: records of severity 2 to 4, and with `fwd_low` the others in batches 1 s apart.
A record of severity 4
waits for the next start, since the package stands still till then. -/
def execLogForward (s : State) : Out :=
  if s.cpc.stopped ∨ s.boot.phase.toNat < 9 then .next s else
  let l := s.log
  let due := l.fwdLow && (l.lowFwdTime == 0 || l.lowFwdTime + 1000000000 ≤ s.t)
  let high := (l.from l.fwdAt).filter (fun r => 2 ≤ r.2.severity.toNat)
  let low := if due then (l.from l.fwdLowAt).filter (fun r => r.2.severity.toNat < 2) else []
  let all := (l.from 0).filter (fun r => high.contains r || low.contains r)
  let s1 := (List.range 8).foldl (fun s t => if (s.ten t).queues = 0 then s else
    let mine := all.filter (fun r => s.recTen r.2 == some t)
    let rest := all.filter (fun r => s.recTen r.2 == none)
    (s.forwardAll t t (mine.map (·.2))).forwardAll t 0xFF (rest.map (·.2))) s
  .next { s1 with log := { s1.log with
    fwdAt := l.unread, fwdLowAt := if due ∨ ¬ l.fwdLow then l.unread else l.fwdLowAt
    lowFwdTime := if low.isEmpty then l.lowFwdTime else s.t } }

/-- A host acknowledges a forwarding frame (R610). -/
def execLogForwardAck (a : MgmtAck) (s : State) : Out :=
  .next { s with log := { s.log with fwdOut := s.log.fwdOut.filter (fun f => !(f.frame.tag == a.tag && f.seq == a.seq && f.frame.origin == a.origin)) } }

end Sys2Proof.Machine
end

