-- ==== Sys2Proof/Machine/Twin.lean ====
section
/-! DEFINITION. Twins (chapter 16): the twin link, heartbeats and loss, write forwards and copies, takeover, attach and
detach, Cast records and completions; and LINK_UP. -/

namespace Sys2Proof.Machine

/-- The pair is paired: an attach that led here is complete (R10, R469). -/
def Twin.paired (t : Twin) : Twin := { t with state := 3, syncPct := 100, attaching := false }

/-! ### The twin link (R452 to R454) -/

/-- `state`, `role` and `took_over` as a heartbeat carries them (R453, R467, R481). -/
def State.twinByte (s : State) : Byte :=
  BitVec.ofNat 8 (s.twin.state.toNat + 8 * b2n s.twin.role + 16 * b2n s.twin.tookOver)

def State.sendHeartbeat (s : State) (pl : Nat) : State :=
  s.twinSend pl 0x01 (padTo 8 s.boot.identity ++ [s.twinByte] ++ List.replicate 7 0)

/-- The stopping frame of the active package (R464). -/
def State.sendStopping (s : State) (st : Byte) : State :=
  if s.twin.mode = 0 ∨ s.twin.state = 0 ∨ s.twin.role then s else s.twinSend s.twinPlane 0x06 [st]

/-- An attach frame: the report, with the nonce that R560 gives; its `fresh` is the package's own from now on. -/
def State.sendAttach (s : State) (pl : Nat) : State :=
  let r := s.report (padTo 32 s.twin.twinFresh) false
  { s.drawn with twin := { s.twin with ownFresh := r.2 } }.twinSend pl 0x07 r.1

/-! ### Cast (R471, R474, R475) -/

/-- A divergence halts the job on every core of the job: what is still ADMITTED fails, one that depends on another that fails too (R475). -/
def State.castHalt (s : State) (id : BitVec 16) : State :=
  (s.cores.filter (fun k => k.2.jobValid && k.2.jobId == id)).foldl (fun s k =>
    let c := coreOfKey k.1
    (((s.core c).issueOrder.filter (fun i => ((s.core c).entry i).code == .admitted)).foldl (fun s i =>
      s.endOne c i { code := .failed, status := stCastDivergence, untouched := true } false) (s.setHalt c true)).wakeCu c) s

/-- Two records of one operation differ (R475). -/
def State.diverge (s : State) (a b : CastRec) : State :=
  let j := match s.phys a.core.toNat with
    | some c => s.core c
    | none => default
  let s1 := ((s.hand { unit := pxUnit 1 0, cls := 0x0D, severity := 2, status := stCastDivergence, jobId := (j.who 0 0).jobId
                       jobGen := (j.who 0 0).jobGen, opTag := a.opTag
                       detail := leBytes 4 a.core.toNat ++ leBytes 4 a.acc.toNat ++ leBytes 8 a.c.toNat ++ leBytes 8 b.c.toNat }).raise 34)
  let s2 := { s1 with twin := { s1.twin with diverged := true, divergences := satInc s1.twin.divergences } }
  if s.twin.castContinue then s2 else s2.castHalt j.jobId

/-- Compare every pair of records for the same core and `acc_index` (R474). -/
def State.castMatch (s : State) : State :=
  s.twin.mine.foldl (fun s a =>
    match takeFirst (fun b : CastRec => b.core == a.core && b.acc == a.acc) s.twin.theirs with
    | none => s
    | some (b, rest) =>
      let s1 := { s with twin := { s.twin with mine := s.twin.mine.erase a, theirs := rest, compared := s.twin.compared + 1 } }
      if a.status = b.status ∧ a.c = b.c then s1 else s1.diverge a b) s

/-- After matching, control units that waited for room deliver (R474). -/
def State.castRoom (s : State) : State :=
  (s.cores.filter (fun k => match k.2.wait with | .enext _ => true | _ => false)).foldl (fun s k => s.wakeCu (coreOfKey k.1)) s

/-- Cut a byte string at the forwards it holds: (job, generation, NPA, bytes). -/
def forwardsIn : Nat → List Byte → List (Nat × List Byte)
  | 0, _ => []
  | n + 1, b =>
    if b.length < 24 then [] else
    let k := beVal (slice b 16 2)
    (beVal (slice b 8 8), slice b 24 k) :: forwardsIn n (b.drop (24 + k))

/-- The bytes a Cast completion names are written where the lead's operation wrote them. -/
def State.castWrites (s : State) (c : CoreId) (ws : List (Nat × List Byte)) : State :=
  ws.foldl (fun s w =>
    if w.1 < meshKey then (s.npaWrite c w.1 w.2 ((s.core c).who 0 0)).1 else
    match s.phys (meshTarget (w.1 - meshKey)).1 with
    | some d => (s.storeWrite d false (meshTarget (w.1 - meshKey)).2.2 w.2 { (s.core c).who 0 0 with source := 4 }).1
    | none => s) s

/-- The bytes that a completion names, by the keys of R473: those of fabric addresses are sent and not written here. -/
def Entry.castKeys (e : Entry) (ws : List (Nat × List Byte)) : List (Nat × List Byte) :=
  if e.d.opcode ≠ 2 && isFabKind e.d.dma.dstKind then ws.map (fun w => (2 ^ 64 + w.1, w.2)) else ws ++ e.sentOut

/-- A completion meets its operation on the shadow, or waits for it (R471). -/
def State.castApply (s : State) : State :=
  s.twin.completions.foldl (fun s x =>
    match x.2.2.1, s.phys x.1.toNat with
    | some st, some c =>
      let k := s.core c
      let drop := fun (s : State) => { s with twin := { s.twin with completions := s.twin.completions.erase x } }
      let ws := forwardsIn x.2.2.2.length x.2.2.2
      match k.entries.find? (fun e => e.2.acc == x.2.1 && (e.2.live || e.2.ended) && e.2.code != .free) with
      | some (i, e) =>
        if e.code = .running ∧ k.dma.entry = some i ∧ e.outcome.isNone ∧ e.d.mayGoOut then
          let keys := e.castKeys ws
          drop ((((s.castWrites c (keys.filter (·.1 < 2 ^ 64))).noteWrites c i keys).finish c i st).updCore c (fun k => { k with dma := { nextReq := k.dma.nextReq } }))
        else if e.live then s else drop (s.castWrites c ((e.castKeys ws).filter (·.1 < 2 ^ 64)))
      | none => if (k.accIndex - x.2.1).toNat < 2 ^ 31 ∧ k.accIndex ≠ x.2.1 then drop (s.castWrites c ws) else s
    | _, _ => s) s

/-- A frame of a completion joins the parts that came before it; one that is not full is the last. -/
def State.castPart (s : State) (p : List Byte) : State :=
  let core := BitVec.ofNat 32 (beVal (slice p 0 4))
  let acc := BitVec.ofNat 32 (beVal (slice p 4 4))
  let same := fun (x : BitVec 32 × BitVec 32 × Option Byte × List Byte) => x.1 == core && x.2.1 == acc
  let part := p.drop 16
  let old := ((s.twin.completions.find? same).map (·.2.2.2)).getD []
  { s with twin := { s.twin with completions := s.twin.completions.filter (fun x => !same x) ++
      [(core, acc, if (forwardsIn part.length part).length = castFill then none else some (p.getD 8 0), old ++ part)] } }

/-! ### What a twin frame does -/

/-- Write the bytes of a write forward or of copy data at their NPA (R460, R468). -/
def State.forwardApply (s : State) (p : List Byte) : State :=
  (forwardsIn 1 p).foldl (fun s w =>
    let off := w.1 % 2 ^ 48
    match w.1 / 2 ^ 48 with
    | 0 => ((s.gddrWrite off w.2 { source := 1 }).1).foreignWrote off w.2.length
    | 1 => (s.rsOp off .store 0 w.2 { source := 4 }).1
    | _ => s) s

/-- The report of an attach frame verifies (R456, R559): the alias signature, the alias certificate by the identity whose digest the
report names, with the report's own measurement and version, and that identity is the twin's. -/
def State.twinReportOk (s : State) (p : List Byte) : Bool :=
  let cert := slice p 0xD0 5392
  let n := 0xD0 + 5392
  let id := slice p 0x98 32
  let man := slice p 0x58 64
  p.length == n + 3309 && fieldAt p 0 4 == 0x5A510060 && fieldAt p 4 2 == 1
  && certOk cert 3 (Config.identityKey id) && slice cert 0x10 32 == id
  && certMeasure cert == slice man 0 32 && fieldAt cert 0x78 8 == fieldAt p 0x48 8
  && mldsaVerify (certKey cert) (p.take n) (slice p n 3309)
  && (if s.twin.twinId = 0 then Config.imageOwner man == s.boot.ownerDigest && Config.imageTwinId man == s.boot.identity8
      else fieldAt id 0 8 == s.twin.twinId.toNat)

/-- Waiting requests whose last forward is now acknowledged, or given up, are answered: `gone` were unacknowledged before (R460, R463). -/
def State.forwardsGone (s : State) (gone : List TwinOut) : State :=
  ((gone.filterMap (fun o => o.answer.map (fun f => (o.answerPl, f)))).eraseDups.filter (fun x =>
    !s.twin.out.any (fun o => o.answer == some x.2 && o.answerPl == x.1))).foldl (fun s x => s.mirrorAnswer x.1 x.2) s

/-- The pair works alone from now on: forwards are dropped, and the answers that waited for them go out (R463). -/
def State.twinAlone (s : State) (st : BitVec 3) : State :=
  let gone := s.twin.out
  (({ s with twin := { s.twin with state := st, attaching := false, detaching := false, out := [], early := [], mine := [], theirs := [], verified := false
                                   ownFresh := [] } }.forwardsGone gone).castRoom).mirrorsLost

/-- A superseded package that rejoins does so as standby, and admits work again (R467). -/
def State.rejoin (s : State) : State :=
  if s.twin.state ≠ 6 then s else
  (List.range 7).foldl (fun s d => s.admitNow d) { s with twin := { s.twin with state := 1, role := true, tookOver := false } }

/-- The twin is accepted: the sync begins at its first unit (R468). -/
def State.accept (s : State) : State :=
  let s1 := s.rejoin
  { s1 with twin := { s1.twin with state := 2, verified := true, ownFresh := [], stopped := none, takeoverStep := 0
                                   syncWin := 0, syncUnit := 0, syncPct := 0, syncLba := 0, syncSent := false } }

/-- An attach frame (R456, R560): a report that does not verify leaves the link at 1; one that answers the package's own last attach frame has
the twin accepted. DESIGN CHOICE (log 52): any other is answered with an attach frame, and so is the one that has the twin accepted; where
both first frames cross, the package of the lower identity digest answers; a first frame (zero nonce) from a twin accepted before
begins the pairing anew. -/
def State.attachApply (s : State) (pl : Nat) (p : List Byte) : State :=
  if !s.twinReportOk p then
    (if s.twin.state = 2 ∨ s.twin.state = 3 then s.twinAlone 1 else { s with twin := { s.twin with state := 1 } }).hand
      { unit := commonUnit 0 0, cls := 0x0A, severity := 3 }
  else
    let zero := slice p 8 32 == List.replicate 32 0
    let s1 := if zero ∧ s.twin.verified then s.twinAlone 1 else s
    let before := s1.twin.verified
    let ok := !s1.twin.ownFresh.isEmpty && slice p 8 32 == s1.twin.ownFresh
    let crossed := zero && s1.twin.twinFresh.isEmpty && !s1.twin.ownFresh.isEmpty && beVal (slice p 0x98 32) < beVal s1.boot.identity
    let s2 := if ok ∧ ¬ before then s1.accept
              else if ok ∨ before ∨ s1.twin.state = 6 then s1 else { s1 with twin := { s1.twin with state := 1 } }
    let s3 := { s2 with twin := { s2.twin with twinFresh := slice p 0x28 32 } }
    if (ok ∧ before) ∨ (¬ ok ∧ crossed) then s3 else s3.sendAttach pl

/-- A heartbeat: the twin's state and role (R455, R467, R468). A twin that is detached has left the pair (R470). -/
def State.heartbeatApply (s : State) (p : List Byte) : State :=
  let v := (p.getD 8 0).toNat
  let t := s.twin
  if t.mode ≠ 2 ∧ t.mode ≠ 0 ∧ ¬ t.role ∧ ¬ bitAt v 3 ∧ ¬ t.tookOver ∧ bitAt v 4 ∧ t.state ≠ 6 then
    ({ s with twin := { t with state := 6 }
              dies := (List.range 7).foldl (fun d i => d.upd i (fun r => { r with admitting := false })) s.dies }).hand
      { unit := pxUnit 1 0, cls := 0x05, severity := 3 }
  else if t.state = 2 ∧ t.role ∧ t.syncSent ∧ v % 8 = 3 then { s with twin := t.paired }
  else if t.state = 3 ∧ v % 8 = 5 then s.twinAlone 5
  else s

/-- What a kind of frame may do: forwards and copies act in the Standby and Cast modes and Cast's own frames in Cast mode (R457), and all but
heartbeats, attach frames and announcements only from a twin that has been accepted (R456). -/
def State.twinTakes (s : State) (kind : Nat) : Bool :=
  match kind with
  | 2 | 3 => 2 ≤ s.twin.state.toNat && (s.twin.mode == 1 || s.twin.mode == 3)
  | 4 | 5 => 2 ≤ s.twin.state.toNat && s.twin.mode == 3
  | 6 => 2 ≤ s.twin.state.toNat
  | _ => true

/-- One frame takes effect, once. -/
def State.twinApply (s : State) (pl : Nat) (f : TwinFrame) : State :=
  if !s.twinTakes f.kind.toNat then s else
  match f.kind.toNat with
  | 1 => s.heartbeatApply f.payload
  | 2 => (s.forwardApply f.payload).sendHeartbeat pl
  | 3 => (s.forwardApply f.payload).sendHeartbeat pl
  | 4 => { s with twin := { s.twin with theirs := s.twin.theirs ++ (List.range (f.payload.length / 24)).map (fun i =>
      let b := slice f.payload (24 * i) 24
      { core := BitVec.ofNat 32 (fieldAt b 0 4), acc := BitVec.ofNat 32 (fieldAt b 4 4), opTag := BitVec.ofNat 32 (fieldAt b 8 4)
        status := b.getD 12 0, c := BitVec.ofNat 64 (fieldAt b 16 8) }) } }
  | 5 => if s.castShadow then s.castPart f.payload else s
  | 6 => { s with twin := { s.twin with stopped := some (f.payload.getD 0 0) } }
  | 7 => s.attachApply pl f.payload
  | _ => s

/-- Frames of a plane that came early and are now in turn. -/
def State.twinDrain (s : State) (p : Nat) : Nat → State
  | 0 => s
  | n + 1 =>
    match takeFirst (fun e : Nat × TwinFrame => e.1 == p && e.2.tseq == s.twin.tseqIn.get p) s.twin.early with
    | none => s
    | some (e, rest) =>
      ({ s with twin := { s.twin with early := rest, tseqIn := s.twin.tseqIn.upd p (· + 1) } }.twinApply p e.2).twinDrain p n

/-- A `detach` that waits takes effect once no forward is unacknowledged (R470). -/
def State.detachDue (s : State) : State :=
  if !s.twin.detaching || s.twin.out.any (fun o => o.frame.kind == 2) then s else s.twinAlone 5

/-- `tack` covers frames of the plane: an answer that waited for its forwards goes out with the last (R454, R460). -/
def State.twinAcked (s : State) (p : Nat) (tack : BitVec 32) : State :=
  let done := s.twin.out.filter (fun o => o.plane == p && (tack - 1 - o.frame.tseq).toNat < 2 ^ 31)
  ({ s with twin := { s.twin with out := s.twin.out.filter (fun o => !done.contains o) } }.forwardsGone done).detachDue

/-- A frame arrives good: its FCS and CRC-32C are right, and it is a twin frame by its EtherType, kind and length (R290, R453). -/
def State.twinGood (s : State) (pl : Nat) (f : TwinFrame) : Bool :=
  f.fcsOk && f.etherType == (s.fab pl).ethertype + 1 && f.crc == crc32c (twinBody f) && f.length.toNat == f.payload.length
    && f.kind != 0 && f.kind.toNat ≤ 8

/-- A frame arrives on a twin port: checked, acknowledged frames released, and applied in `tseq` order of its plane (R453, R454). -/
def State.twinFrame (s : State) (pl : Plane) (f : TwinFrame) (kind : Byte) : State :=
  if !s.twinUp pl.val then s
  else if !s.twinGood pl.val f then s.crcDropped pl.val
  else if f.kind ≠ kind then s
  else
    let p := f.plane.toNat % 2
    let s1 := ({ s with twin := { s.twin with lastHeard := s.t } }).twinAcked p f.tack
    let d := (f.tseq - s.twin.tseqIn.get p).toNat
    if 2 ^ 31 ≤ d then s1
    else if d ≠ 0 then
      (if s1.twin.early.any (fun e => e.1 == p && e.2.tseq == f.tseq) then s1
       else { s1 with twin := { s1.twin with early := s1.twin.early ++ [(p, f)] } })
    else
      let s2 := ({ s1 with twin := { s1.twin with tseqIn := s1.twin.tseqIn.upd p (· + 1) } }.twinApply p f)
      ((s2.twinDrain p s2.twin.early.length).castApply.castMatch).castRoom

def execHeartbeat (pl : Plane) (f : TwinFrame) (s : State) : Out := .next (s.twinFrame pl f 1)
def execWriteForward (pl : Plane) (f : TwinFrame) (s : State) : Out := .next (s.twinFrame pl f 2)
def execCopyData (pl : Plane) (f : TwinFrame) (s : State) : Out := .next (s.twinFrame pl f 3)
def execCastRecords (pl : Plane) (f : TwinFrame) (s : State) : Out := .next (s.twinFrame pl f 4)
def execCastCompletion (pl : Plane) (f : TwinFrame) (s : State) : Out := .next (s.twinFrame pl f 5)
def execStopping (pl : Plane) (f : TwinFrame) (s : State) : Out := .next (s.twinFrame pl f 6)
def execAttach (pl : Plane) (f : TwinFrame) (s : State) : Out := .next (s.twinFrame pl f 7)
def execAnnouncement (pl : Plane) (f : TwinFrame) (s : State) : Out := .next (s.twinFrame pl f 8)

/-- Every 50 us (R455). -/
def execHeartbeatSend (pl : Plane) (s : State) : Out :=
  let last := s.twin.beats.get pl.val
  if s.twin.mode = 0 ∨ ¬ s.twinUp pl.val ∨ (last ≠ 0 ∧ s.t + 1 < last + 50000) then .next s
  else .next ({ s with twin := { s.twin with beats := s.twin.beats.set pl.val (s.t + 1) } }.sendHeartbeat pl.val)

/-! ### Loss and takeover (R455, R463 to R467) -/

/-- No twin frame for 500 us (R455). Frames already received stay for a takeover to apply. -/
def execTwinLost (s : State) : Out :=
  let t := s.twin
  if t.mode = 0 ∨ (t.state ≠ 2 ∧ t.state ≠ 3) ∨ s.t < t.lastHeard + 500000 then .next s else
  let early := t.early
  let s1 := ((s.twinAlone 4).hand { unit := pxUnit 1 0, cls := 0x05, severity := 3 }).raise 34
  .next { s1 with twin := { s1.twin with lost := true, early := early } }

/-- Standby packages of a pair, and shadows, take over (R464, R482). -/
def State.mayTakeOver (s : State) : Bool := s.twin.role && (s.twin.mode == 1 || s.twin.mode == 3) && s.twin.state != 6 && !s.cpc.stopped

/-- Insert an early frame by its distance from the next expected number. -/
def insEarly (at0 : BitVec 32) (x : Nat × TwinFrame) : List (Nat × TwinFrame) → List (Nat × TwinFrame)
  | [] => [x]
  | y :: r => if (x.2.tseq - at0).toNat ≤ (y.2.tseq - at0).toNat then x :: y :: r else y :: insEarly at0 x r

/-- Forwards already received are applied in `tseq` order, gaps or not (R465 step 3). -/
def State.applyEarly (s : State) (p : Nat) : State :=
  let fs := (s.twin.early.filter (fun e => e.1 == p && (e.2.kind == 2 || e.2.kind == 3))).foldr (insEarly (s.twin.tseqIn.get p)) []
  fs.foldl (fun s e => s.forwardApply e.2.payload) s

/-- The announcement frame (R453, kind 0x08). DESIGN CHOICE (log 52): it goes by no twin port and belongs to no numbering, so `tseq` and `tack`
are 0. -/
def State.announcement (s : State) (pl : Nat) : TwinFrame :=
  let f : TwinFrame := { etherType := (s.fab pl).ethertype + 1, kind := 8, plane := BitVec.ofNat 8 pl }
  { f with crc := crc32c (twinBody f) }

/-- The active package's addresses are taken and announced (R465 step 4). -/
def State.takeAddresses (s : State) : State :=
  let s1 := { s with boot := { s.boot with addrs := s.boot.twinAddrs } }
  [(0 : Plane), 1].foldl (fun s pl => (List.range 48).foldl (fun s sub =>
    let p := s.port pl.val sub
    if !p.healthy sub then s else
    let me := s.ownAddr pl.val sub
    let s2 := s.send (.announce pl sub { s.twinCarriage pl.val with srcMac := me.mac, dstMac := BitVec.allOnes 48 } (s.announcement pl.val))
    if (s.fab pl.val).udpMode then s2.send (.neighbor pl sub me.mac me.ip6) else s2) s) s1

/-- Steps 3 to 5 of a takeover, forced by `takeover` or due (R464, R465). -/
def State.takeOver (s : State) : State :=
  if !s.mayTakeOver then s else
  let s1 := ((s.applyEarly 0).applyEarly 1).takeAddresses
  let unknown := fun (f : Fabric) => { f with spaces := [] }
  (({ (s1.updFab 0 unknown).updFab 1 unknown with twin := { s1.twin with role := false, tookOver := true, takeoverStep := 0, early := [] } }).hand
    { unit := pxUnit 1 0, cls := 0x05, severity := 3 }).raise 34

def execTakeover (s : State) : Out := .next s.takeOver

/-- Step 2 of a takeover: path probes to the active package's rank on both planes, by the ordinary ports (R464, R465). -/
def State.sendProbes (s : State) : State :=
  let t := ((List.range 8).find? (fun t => (s.ten t).job.state != 0)).getD 0
  let rank := (s.ten t).job.ownRank.toNat
  let s1 := [(0 : Plane), 1].foldl (fun s pl => match s.rankDest pl.val t rank with
    | some e => s.issueOrWait pl { ten := t, rank := rank, type := 0xB, owner := .probe } e
    | none => s) s
  { s1 with twin := { s1.twin with takeoverStep := 2 } }

/-- A probe is on its way, or waits to go. -/
def State.probing (s : State) : Bool :=
  [0, 1].any (fun pl => (s.fab pl).outst.any (fun o => o.owner == .probe) || (s.fab pl).waiting.any (fun r => r.owner == .probe))

/-- The standby's takeover (R464, R465). A stopping frame begins it at step 3; a lost twin is probed, an answer ends it, and it goes on once
every probe has gone unanswered. DESIGN CHOICE (log 52): steps 3 to 5 are one step of the model, and an answer that the operand
names counts like one by a frame. -/
def execTakeoverStart (probeAnswered : Bool) (s : State) : Out :=
  if !s.mayTakeOver then .next s
  else if s.twin.stopped.isSome then .next s.takeOver
  else if s.twin.state ≠ 4 then .next s
  else if probeAnswered then .next s.probeEnd
  else if s.twin.takeoverStep ≠ 2 then .next s.sendProbes
  else .next (if s.probing then s else s.takeOver)

/-! ### Attach, sync, detach (R468 to R470) -/

/-- A write of `attach`: the link authenticates. A superseded package rejoins as standby (R467). -/
def State.attachStart (s : State) : State :=
  if s.twin.mode = 0 ∨ s.twin.state = 2 ∨ s.twin.state = 3 ∨ ¬ s.attests then s else
  let s1 := s.rejoin
  { s1 with twin := { s1.twin with
      state := 1, attaching := true, verified := false, ownFresh := [], stopped := none, syncWin := 0, syncUnit := 0, syncPct := 0
      syncLba := 0, syncSent := false } }.sendAttach s.twinPlane

def execAttachStart (s : State) : Out := .next s.attachStart

/-- Mirror windows in ascending order: key, and units of 256 bytes. -/
def State.mirrorWindows (s : State) : List (Nat × Window) := (s.fab 0).windows.filter (fun w => w.2.valid && w.2.mirror)

/-- Units of mirror windows before a position. -/
def unitsBefore (ws : List (Nat × Window)) (win unit : Nat) : Nat :=
  sumN (ws.map (fun w => if w.1 < win then w.2.length.toNat / 256 else if w.1 = win then Nat.min unit (w.2.length.toNat / 256) else 0))

/-- Committed generations of the package's own region: tenancy and slot (R407, R468). -/
def State.syncSlots (s : State) : List (Nat × Nat) :=
  (List.range 8).flatMap (fun t => ((List.range 3).filter (fun n => ((s.ckpt t).slots.get n).committed)).map (fun n => (t, n)))

/-- The slot and the LBA in it at a position of the slots to copy, of `n` LBAs each. -/
def syncPlace : List (Nat × Nat × Nat) → Nat → Option (Nat × Nat × Nat × Nat)
  | [], _ => none
  | (t, slot, n) :: r, p => if p < n then some (t, slot, n, p) else syncPlace r (p - n)

/-- The twin writes, or this package writes for it, copies that are not confirmed as flushed. -/
def State.copiesOpen (s : State) : Bool := (List.range 8).any s.mirrorOpen || !s.twin.mirrored.isEmpty || !s.twin.flushing.isEmpty

/-- Step 3 of a sync (R468): the next LBA of the own region's committed generations is read and goes to the twin's mirror region; past the last,
and with both copies flushed, the package has sent its part, and the active package's pair is paired. DESIGN CHOICE (log 29): a slot
is copied whole, one LBA at a time; what the module holds there is free. -/
def State.syncSlotCopy (s : State) : State :=
  let at0 := s.syncSlots.foldl (fun (acc : State × List (Nat × Nat × Nat)) x =>
    let h := acc.1.planHead x.1
    let p := h.1.planEntries x.1 h.2.2
    (p.1, acc.2 ++ [(x.1, x.2, slotLbas p.2.2.1 p.2.2.2 (s.ten x.1).job.ownRank.toNat)])) (s, [])
  match syncPlace at0.2 s.twin.syncLba with
  | some (t, slot, n, lba) =>
    let s1 := at0.1.send (.nvmeRead (256 + slot * n + lba) 1)
    let d := s1.freeBytes 0 4096
    let s2 := { s1.drawn with twin := { s1.twin with syncLba := s1.twin.syncLba + 1 } }
    [0, 1].foldl (fun s h => s.sendMirror t slot h lba (slice d (2048 * h) 2048)) s2
  | none =>
    let s1 := at0.1
    if s1.copiesOpen then s1
    else if s1.twin.role ∧ s1.twin.mode ≠ 2 then { s1 with twin := { s1.twin with syncSent := true } }
    else { s1 with twin := { s1.twin.paired with syncSent := true } }

/-- One 256-byte unit is copied by the active package and the sync pointer rises; when it has passed every mirror window, the generations of the
modules follow (R468, R469). A unit that reads uncorrectable is passed over. -/
def execSyncUnitCopy (s : State) : Out :=
  let t := s.twin
  if t.mode = 0 ∨ t.state ≠ 2 then .next s else
  let ws := if t.mode = 2 ∨ t.role then [] else s.mirrorWindows
  match ws.find? (fun w => (w.1 == t.syncWin && t.syncUnit < w.2.length.toNat / 256) || (t.syncWin < w.1 && w.2.length != 0)) with
  | none => .next s.syncSlotCopy
  | some (key, w) =>
    let unit := if key = t.syncWin then t.syncUnit else 0
    let npa := (if w.space = 0 then 0 else 2 ^ 48) + w.base.toNat + unit * 256
    let r := if w.space = 0 then s.gddrRead npa 256 { source := 1 } else s.rsOp (npa % 2 ^ 48) .load 256 [] { source := 4 }
    let all := unitsBefore ws 2048 0
    let s1 := { r.1 with twin := { r.1.twin with syncWin := key, syncUnit := unit + 1
                                                 syncPct := BitVec.ofNat 7 (100 * (unitsBefore ws key (unit + 1)) / Nat.max 1 all) } }
    .next (if r.2.1 = stDone then s1.twinSend (npa / 256 % 2) 0x03 (forwardBytes w.jobId w.jobGen npa r.2.2) else s1)

/-- A write of `detach`: the package waits until every forward has been acknowledged, and is then detached (R470). -/
def State.detachNow (s : State) : State :=
  if s.twin.state ≠ 2 ∧ s.twin.state ≠ 3 then s else { s with twin := { s.twin with detaching := true } }.detachDue

def execDetach (s : State) : Out := .next s.detachNow

/-- A frame that goes again carries the acknowledgement as it stands now (R454). -/
def State.retack (s : State) (f : TwinFrame) : TwinFrame :=
  let g := { f with tack := s.twin.tseqIn.get (f.plane.toNat % 2) }
  { g with crc := crc32c (twinBody g) }

/-- A frame unacknowledged after 2.5 us goes again on its plane, and after 5 us on the other (R454). -/
def execTwinFrameResend (pl : Plane) (tseq : BitVec 32) (s : State) : Out :=
  match s.twin.out.find? (fun o => o.plane == pl.val && o.frame.tseq == tseq) with
  | none => .next s
  | some o =>
    let due := if o.resends = 0 then 2500 else 5000
    if 2 ≤ o.resends ∨ s.t < o.tSent + due then .next s else
    let p := if o.resends = 0 then pl.val else 1 - pl.val
    .next (({ s with twin := { s.twin with out := s.twin.out.map (fun x => if x = o then { x with resends := x.resends + 1 } else x) } }).send
      (.twin p (s.twinCarriage p) (s.retack o.frame)))

/-! ### A link comes up (R305, R306, R571, R456) -/

/-- A twin link that comes up while no twin is accepted is authenticated (R456), its plane numbered from 0. DESIGN CHOICE (log 52): not the
second link of an exchange that has begun by the first; a detached or superseded package waits for `attach` (R467, R470). -/
def State.twinLinkUp (s : State) (pl : Nat) : State :=
  let t := s.twin
  if t.state = 2 ∨ t.state = 3 then s else
  let s1 := { s with twin := { t with tseqOut := t.tseqOut.set pl 0, tseqIn := t.tseqIn.set pl 0, out := t.out.filter (fun o => o.plane != pl)
                                      early := t.early.filter (fun e => e.1 != pl) } }
  if ¬ s.attests ∨ t.state = 5 ∨ t.state = 6 ∨ (t.state ≠ 0 ∧ s.twinUp (1 - pl)) then s1
  else ({ s1 with twin := { s1.twin with state := if t.state = 0 then 1 else t.state } }).sendAttach pl

/-- A sub-port's link is up: it joins the path table unless `failed` is set; a twin port's link authenticates. With mode none the twin ports are
off (R457). -/
def State.linkUp (s : State) (pl : Plane) (sub : Nat) : State :=
  let p := s.port pl.val sub
  if !(s.fab pl.val).alive || s.cpc.stopped || p.subs ≤ sub % 4 || (p.twin && s.twin.mode == 0) then s else
  let s0 := (s.updFab pl.val (fun f => { f with ports := f.ports.upd (sub / 4) (fun p => { p with up := setBit p.up (sub % 4) true }) })).rebuildPath pl.val
  let s1 := { s0 with cpc := { s0.cpc with linkBusy := if s0.cpc.linkBusy = some (pl.val, sub) then none else s0.cpc.linkBusy } }
  if p.twin then s1.twinLinkUp pl.val else s1

def execLinkUp (pl : Plane) (sub : SubPort) (s : State) : Out := .next (s.linkUp pl sub.val)

end Sys2Proof.Machine
end

