-- ==== Sys2Proof/Machine/Power.lean ====
section
/-! DEFINITION. Supplies, resets, Doldrums, heat, and the test access port (chapters 20 and 24). -/

namespace Sys2Proof.Machine

/-! ### Whole-package resets (R563, R564, R566) -/

/-- What an interrupted programming leaves in the flash (R558): the image up to some byte, and erased bytes behind it. -/
def State.flashLeft (s : State) : List Byte :=
  let n := s.boot.flash.length
  let k := (Config.freeWord s.freeCount).toNat % Nat.max 1 n
  if s.boot.imageWriting then s.boot.flash.take k ++ List.replicate (n - k) 0xFF else s.boot.flash

/-- What a reset other than power-on keeps of a channel: one that is migrated takes no requests until then (R273). -/
def Channel.kept (c : Channel) : Channel := if c.state = 4 then { state := 4, pointer := c.pointer } else {}

/-- The state that a whole-package reset leaves: every register at its value at reset, every store and GDDR byte clear, and
what R566 keeps: the error log but at power-on, the flash, the pins, and the readings of the thermal sensors. -/
def State.restartAs (s : State) (cause : BitVec 3) (powerOn : Bool) : State :=
  { pending := s.pending, freeCount := s.freeCount + 1, outbox := s.outbox
    clock := { now := s.clock.now, started := s.t }
    dies := s.dies.map (fun d => (d.1, { tj := d.2.tj, plinthTj := d.2.plinthTj, fromPlinth := d.2.fromPlinth }))
    px := { sramGen := s.px.sramGen + 1 }
    chans := if powerOn then [] else (s.chans.map (fun c => (c.1, c.2.kept))).filter (fun c => c.2 != {})
    log := if powerOn then {} else { ring := s.log.ring, head := s.log.head, unread := s.log.unread, fwdAt := s.log.fwdAt, fwdLowAt := s.log.fwdLowAt
                                     fwdSeq := s.log.fwdSeq, fwdTag := s.log.fwdTag }
    handed := if powerOn then [] else s.handed
    cpc := { lastStart := cause, tripped := s.cpc.tripped }
    boot := { flash := s.flashLeft }
    pkg := { memoryBroken := !powerOn && s.pkg.memoryBroken }
    tap := s.tap, supply := { s.supply with ppsOut := false } }

/-- The enabled rails are removed and the package stands still: only the always-on rail is up, and GDDR devices keep what
they hold until the next start clears it. -/
def State.powerOff (s : State) : State :=
  let r := s.restartAs s.cpc.lastStart false
  { r with cpc := { r.cpc with stopped := true }
           chans := (s.chans.map (fun c => (c.1, { c.2.kept with mem := c.2.mem }))).filter (fun c => c.2 != {})
           supply := { r.supply with enabled := 0, good := 0, group := 0 } }

/-! ### Sequencing (R651, R652) -/

/-- Supplies of a group of R651, in the order of `Supply`: VDD_PLN; the logic supplies; GDDR PHYs; SerDes analog; SerDes
high-voltage; VDD_PXA. -/
def supplyGroup (g : Nat) : List Nat :=
  match g with
  | 1 => [0] | 2 => [1, 2, 3, 4, 5, 6, 7] | 3 => [8, 9, 10, 11] | 4 => [12, 13] | 5 => [14, 15] | 6 => [16] | _ => []

def maskOf (l : List Nat) : BitVec 17 := BitVec.ofNat 17 (sumN (l.map (2 ^ ·)))

/-- The CPC enables a group and waits for it; the steered supplies start at 0.80 V. -/
def State.enableGroup (s : State) (g : Nat) : State :=
  let s1 := { s with supply := { s.supply with enabled := s.supply.enabled ||| maskOf (supplyGroup g), group := g, groupAt := s.t } }
  if g = 2 then { s1 with dies := (List.range 7).foldl (fun t d => t.upd d (fun r => { r with railMv := 800 })) s1.dies } else s1

/-- The sequence of R651 begins with the plinth supply. -/
def State.sequence (s : State) : State :=
  { s with supply := { s.supply with enabled := 0, good := 0, timedOut := false } }.enableGroup 1

/-- The cause of a start (R584, R586). -/
def State.causeOf (s : State) (plain : BitVec 3) : BitVec 3 := if s.cpc.tripped then 3 else plain

def execBoardPgRise (s : State) : Out :=
  if s.supply.boardPg then .next s else
  let s1 := s.restartAs (s.causeOf 0) true
  .next ({ s1 with supply := { s1.supply with boardPg := true } }.sequence)

def execSupplyPowerGood (supply : Fin 17) (s : State) : Out :=
  let p := s.supply
  if !p.enabled.getLsbD supply.val || p.good.getLsbD supply.val then .next s else
  let good := p.good ||| BitVec.ofNat 17 (2 ^ supply.val)
  let s1 := { s with supply := { p with good := good } }
  if p.timedOut || p.group = 0 || 7 ≤ p.group || !(supplyGroup p.group).all (fun i => good.getLsbD i) then .next s1
  else if p.group = 6 then .next { s1 with supply := { s1.supply with group := 7 }, clock := { s1.clock with started := s.t } }
  else .next (s1.enableGroup (p.group + 1))

/-- A power-good that does not arrive within 3 ms stops the sequence with every enabled supply left on. -/
def execPowerGoodTimeout (s : State) : Out :=
  let p := s.supply
  if p.timedOut || p.group = 0 || 7 ≤ p.group || s.t < p.groupAt + 3000000 then .next s
  else .next ({ s with supply := { p with timedOut := true } }.hand { unit := commonUnit 0x02 0, cls := 0x08, severity := 4 })

def execBoardPgFall (s : State) : Out :=
  if !s.supply.boardPg then .next s else
  let s1 := s.powerOff
  .next { s1 with supply := { s1.supply with boardPg := false, timedOut := false } }

/-- A lost power-good stops the package until the reset pin or BOARD_PG is cycled; work in flight is abandoned. -/
def execSupplyPgLoss (supply : Fin 17) (s : State) : Out :=
  let p := s.supply
  if !p.boardPg || !p.enabled.getLsbD supply.val || !p.good.getLsbD supply.val then .next s
  else .next (s.powerOff.hand { unit := commonUnit 0x02 0, cls := 0x08, severity := 4 })

/-- PKG_RESET_N has been low for 1 us (R563 to R565). Supplies that a stop removed are sequenced again. -/
def execPkgResetAssert (s : State) : Out :=
  let s1 := s.restartAs (s.causeOf 1) false
  let s2 := { s1 with supply := { s1.supply with resetN := false } }
  if !s.supply.boardPg then .next { s2 with cpc := { s2.cpc with stopped := s.cpc.stopped } }
  else if s.supply.group = 0 then .next s2.sequence
  else .next s2

/-- PKG_RESET_N rises: the test access port returns to Test-Logic-Reset (R658), and START_SEQUENCE may run. -/
def execPkgResetRelease (s : State) : Out :=
  if s.supply.resetN then .next s else .next { s with supply := { s.supply with resetN := true }, tap := {} }

/-! ### Test access port (R657, R658) -/

/-- An instruction that selects the 1-bit bypass register and leaves the pins to the package. -/
def bypassed : Tap := { instr := .bypass }

def execBypass (s : State) : Out := .next { s with tap := { bypassed with cells := s.tap.cells } }
def execIdcode (s : State) : Out := .next { s with tap := { s.tap with instr := .idcode, id := some 0x1082056B, pins := none, floating := false } }
/-- SAMPLE/PRELOAD: the cells take what the pins show, or what is shifted in. -/
def execSamplePreload (cells : List Bool) (s : State) : Out :=
  .next { s with tap := { instr := .samplePreload, cells := cells } }

/-- EXTEST and its IEEE 1149.6 forms drive the pins from the cells, and only while PKG_RESET_N is low. -/
def State.tapDrive (s : State) (i : TapInstr) (cells : List Bool) : State :=
  if s.supply.resetN then { s with tap := { bypassed with cells := s.tap.cells } }
  else { s with tap := { instr := i, cells := cells, pins := some cells } }

def execExtest (cells : List Bool) (s : State) : Out := .next (s.tapDrive .extest cells)
def execExtestPulse (cells : List Bool) (s : State) : Out := .next (s.tapDrive .extestPulse cells)
def execExtestTrain (cells : List Bool) (s : State) : Out := .next (s.tapDrive .extestTrain cells)
def execClamp (s : State) : Out := .next (s.tapDrive .clamp s.tap.cells)
def execHighz (s : State) : Out :=
  if s.supply.resetN then .next { s with tap := { bypassed with cells := s.tap.cells } }
  else .next { s with tap := { instr := .highz, cells := s.tap.cells, floating := true } }

/-! ### Image restart (R565) -/

/-- Steps 1 to 3: every die stops admitting, every LOADING or ACTIVE job is revoked, the twin is told. -/
def State.restartBegin (s : State) : State :=
  let s1 := { s with cpc := { s.cpc with restarting := true }
                     dies := (List.range 7).foldl (fun t d => t.upd d (fun r => { r with admitting := false })) s.dies }
  let s2 := (List.range 8).foldl (fun s t =>
    match (s.ten t).job.state.toNat with
    | 1 => s.updTen t (fun n => { n with job := { n.job with state := 4, running := false, tState := s.t } })
    | 2 => (s.revokeStart t).updTen t (fun n => { n with revoke := some { tAccept := s.t } })
    | _ => s) s1
  s2.sendStopping stJobRevoked

/-- Nothing stands against step 5: no drain runs, every checkpoint state is idle, no image is being programmed. -/
def State.restartReady (s : State) : Bool :=
  (List.range 8).all (fun t => (s.ten t).revoke.isNone && (s.ckpt t).state == 0) && !s.boot.imageWriting

/-- A write of `image_restart`, and, once its waits have ended, the restart itself. -/
def State.imageRestartWrite (s : State) : State :=
  if s.cpc.stopped then s else
  let s1 := if s.cpc.restarting then s else s.restartBegin
  if s1.restartReady then s1.restartAs 2 false else s1

def execImageRestart (s : State) : Out := .next s.imageRestartWrite

/-! ### Compute-die service reset (R569, R570) -/

/-- A job in LOADING, ACTIVE or DRAINING names a band of the die. -/
def State.dieNamed (s : State) (d : Nat) : Bool := (List.range 16).any (fun b => s.bandBusy (bandBit d b))

/-- The registers of one core after a reset of its die: its slice is kept. -/
def Core.dieReset (k : Core) : Core := { rs := k.rs, rsErr := k.rsErr, selfDone := true, selfPass := 0x3F }

/-- Image records that name a core block or the die-level block of a die. -/
def recordOnDie (d : CDie) (r : BitVec 64 × BitVec 64) : Bool :=
  match pcsBlock r.1.toNat with
  | .core c _ => c.die == d
  | .cdie e _ => e == d
  | _ => false

/-- The image's records for the core blocks of a die are loaded again (R566, R569). -/
def State.reloadDie (s : State) (d : CDie) : State :=
  let all := s.boot.records.filter (fun (r : BitVec 64 × BitVec 64) => 2 ^ 63 ≤ r.1.toNat)
  let s1 := if all.isEmpty then s else { s with cores := (List.range 21572).foldl (fun t p => t.upd (d.val * 21572 + p) (fun k =>
    all.foldl (fun k (r : BitVec 64 × BitVec 64) => imageCore (r.1.toNat - 2 ^ 63) r.2.toNat k) k)) s.cores }
  (s1.boot.records.filter (recordOnDie d)).foldl (fun s (r : BitVec 64 × BitVec 64) => s.applyRecord (r.1.toNat, r.2.toNat)) s1

/-- Steps 1 to 4 of R569; step 5 is ADMISSION_RESUME. -/
def State.dieResetWrite (s : State) (d : CDie) (fails : List (CoreId × BitVec 6 × BitVec 16)) : State :=
  if s.cpc.stopped || (s.cdie d.val).busy then s
  else if s.dieNamed d.val || s.chans.any (fun c => c.2.state == 3) || s.cpc.dold != 0 then
    s.hand { unit := commonUnit 0x02 0, cls := 0x0B, severity := 0 }
  else
    let s1 := { s with cores := s.cores.map (fun (c : Nat × Core) => if c.1 / 21572 = d.val then (c.1, c.2.dieReset) else c) }
    let s2 := (s1.updCdie d.val (fun m => { m with busy := true, scrubOn := false, scrubUs := 0, scrubPasses := 0 })).updDie d.val (fun r =>
      { r with admitting := false, breach := false, floorLoss := false, mustResume := false, resume := false, lowSince := none, okSince := none, waitNs := 100000
               lowest := 0xFFFF, railMv := BitVec.ofNat 16 (floorMv s.cpc.active.toNat d.val) })
    let s3 := s2.reloadDie d
    (fails.filter (fun x => x.1.die == d)).foldl (fun s x =>
      (s.updCore x.1 (fun k => { k with selfDone := true, selfPass := x.2.1, failTiles := x.2.2 })).actSelfTest x.1 x.2.1) s3

def execDieReset (d : CDie) (fails : List (CoreId × BitVec 6 × BitVec 16)) (s : State) : Out := .next (s.dieResetWrite d fails)

/-! ### Link reset (R571) -/

def State.linkReset (s : State) (pl : Plane) (sub : Nat) : State :=
  if !(s.fab pl.val).alive || s.cpc.stopped || !(s.port pl.val sub).isUp sub then s else
  let s1 := s.subDown pl sub false true
  { s1 with cpc := { s1.cpc with linkBusy := some (pl.val, sub) } }

/-- The sub-port of the last link reset still has to train (R10, R571). -/
def State.linkBusy (s : State) : Bool :=
  s.cpc.linkBusy.any (fun x => let p := s.port x.1 x.2
                              (s.fab x.1).alive && !p.up.getLsbD (x.2 % 4) && !p.failed.getLsbD (x.2 % 4))

/-- A write of `link_reset` with the fields that name the sub-port (R586); ignored while a link reset runs (R629). -/
def State.linkResetWrite (s : State) (pl : Plane) (port sub : Nat) : State :=
  if s.linkBusy then s else
  { s with cpc := { s.cpc with linkPlane := pl == 1, linkPort := BitVec.ofNat 4 port, linkSub := BitVec.ofNat 2 sub } }.linkReset pl (port * 4 + sub)

def execLinkReset (pl : Plane) (port : Fin 12) (sub : Fin 4) (s : State) : Out := .next (s.linkResetWrite pl port.val sub.val)

/-! ### Doldrums (R572 to R578) -/

/-- A write of `enter` (R572, step 1 of R573). -/
def State.enterWrite (s : State) : State :=
  if s.cpc.stopped || s.cpc.dold != 0 then s
  else if (List.range 8).any (fun t => (s.ten t).job.running || (s.ckpt t).state != 0) || s.chans.any (fun c => c.2.state == 3) || s.twin.state == 2 then
    s.hand { unit := commonUnit 0x02 0, cls := 0x0B, severity := 0 }
  else { s with cpc := { s.cpc with dold := 1, wakeCause := 0 }
                dies := (List.range 7).foldl (fun t d => t.upd d (fun r => { r with admitting := false })) s.dies }

def execEnter (s : State) : Out := .next s.enterWrite

/-- Step 2 of R573 has ended: steps 3 to 5. What the data caches hold is written back before their arrays are gated (log 53). -/
def execDoldrumsEntryDrained (s0 : State) : Out :=
  if s0.cpc.dold ≠ 1 || !(List.range 7).all s0.dieIdle then .next s0 else
  let s := s0.pxFlushAll
  .next { s with
    cpc := { s.cpc with dold := 2, enteredAt := s.t }
    cores := s.cores.map (fun c => (c.1, { c.2 with ws := [], wsErr := [], bankReady := 0 }))
    dies := (List.range 7).foldl (fun t d => t.upd d (fun r => if d < 4 then { r with railMv := 0, lowSince := none, waitNs := 0 } else { r with waitNs := 0 })) s.dies
    px := { s.px with sram := [], sramGen := s.px.sramGen + 1, sramErr := [], shared := [], icache := [], dcache := []
                      apps := (List.range 96).foldl (fun t h => t.upd h (fun a => if a.assigned then { a with held := true } else a)) s.px.apps } }

/-- Steps 1 to 2 of R577; step 3 is ADMISSION_RESUME of every die that may admit. -/
def State.wakeSteps (s : State) : State :=
  let may := fun (r : DieRate) => !r.breach && !r.floorLoss && !r.mustResume && r.heat != 2 && !r.switching
  let s1 := { s with
    cores := s.cores.map (fun c => (c.1, { c.2 with ws := [], wsErr := [], bankReady := c.2.bankOn }))
    dies := (List.range 7).foldl (fun t d => t.upd d (fun r => { r with
      railMv := if d < 4 then BitVec.ofNat 16 (floorMv s.cpc.active.toNat d) else r.railMv
      lowSince := none, okSince := none, waitNs := if may r then 20000 else r.waitNs })) s.dies }
  if (List.range 7).all (fun d => (s1.dieRate d).waitNs == 0) then s1.wakeEnd else s1

/-- A write of `wake` is a cause (R576); a wake that has begun goes through steps 1 and 2. -/
def State.wakeWrite (s : State) (cause : BitVec 4) : State :=
  let s1 := if cause = 1 then s.wakeBy 1 else s
  if s1.cpc.dold = 3 ∧ (List.range 7).all (fun d => (s1.dieRate d).waitNs == 0) then s1.wakeSteps else s1

def execWake (cause : BitVec 4) (s : State) : Out := .next (s.wakeWrite cause)

def execDoldrumsTimer (s : State) : Out :=
  if s.cpc.dold ≠ 2 ∨ s.cpc.timerMs = 0 ∨ s.t < s.cpc.enteredAt + s.cpc.timerMs.toNat * 1000000 then .next s else .next (s.wakeBy 5)

/-! ### Heat (R581 to R584) -/

/-- Every accepted host command that has not completed is answered ST_HEAT_STOP. -/
def State.heatReplies (s : State) : State :=
  (List.range 8).foldl (fun s t => ((s.ten t).revoke.toList ++ (s.ten t).cmds).foldl (fun s c =>
    s.hostReply t c.port c.queue c.cid stHeatStop 0 0 c.tAccept []) s) s

/-- Every live entry of every core ends (step 3). -/
def State.heatEntries (s : State) : State :=
  s.cores.foldl (fun s c => let k := coreOfKey c.1
    c.2.issueOrder.reverse.foldl (fun s i => let e := (s.core k).entry i
      if e.live then s.endEntry k i { code := .aborted, status := stHeatStop, untouched := e.code == .admitted } false else s) s) s

/-- A trip (R584). -/
def State.trip (s : State) (d : Nat) : State :=
  let s1 := { s with dies := (List.range 7).foldl (fun t d => t.upd d (fun r => { r with admitting := false })) s.dies }
  let s2 := (s1.sendStopping stHeatStop).heatReplies
  -- nothing else is sent
  let s2 := { s2.heatEntries with outbox := s2.outbox }.hand { unit := dieUnit d, cls := 0x07, severity := 4, status := stHeatStop }
  let s3 := s2.powerOff
  { s3 with cpc := { s3.cpc with tripped := true } }

/-- One reading of a die's sensors (R581, R582). -/
def execThermalSample (d : Die) (tj plinth : Byte) (s : State) : Out :=
  let fp := decide (d.val < 4 ∧ tj.toNat < plinth.toNat)
  let v := if fp then plinth else tj
  let s1 := s.updDie d.val (fun r => { r with
    tj := v, tjPeak := if r.tjPeak.toNat < v.toNat then v else r.tjPeak
    plinthTj := if d.val < 4 then plinth else 0, fromPlinth := fp
    hotAt := if 105 ≤ v.toNat then s.t else r.hotAt, warmAt := if 90 ≤ v.toNat then s.t else r.warmAt })
  let heat := (s1.dieRate d.val).heat
  if s.cpc.stopped then .next s1
  else if 120 ≤ v.toNat then .next (s1.trip d.val)
  else if 110 ≤ v.toNat ∧ heat ≠ 2 then
    let s2 := (s1.updDie d.val (fun r => { r with heat := 2, admitting := false })).hand { unit := dieUnit d.val, cls := 0x07, severity := 3 }
    .next (if d.val = 4 then { s2 with px := { s2.px with apps := s2.px.apps.map (fun a => (a.1, { a.2 with held := a.2.held || a.2.running })) } } else s2)
  else if 95 ≤ v.toNat ∧ heat = 0 then
    .next ((s1.updDie d.val (fun r => { r with heat := 1 })).hand { unit := dieUnit d.val, cls := 0x07, severity := 1 })
  else .next s1

/-- 100 us of readings below the exit value of the die's state. -/
def execThermalStateExit (d : Die) (s : State) : Out :=
  let r := s.dieRate d.val
  let cool := decide (r.warmAt + 100000 ≤ s.t)
  if r.heat = 2 ∧ r.hotAt + 100000 ≤ s.t then
    let s1 := s.updDie d.val (fun r => { r with heat := if cool then 0 else 1 })
    let s2 := s1.admitNow d.val
    .next (if d.val = 4 ∧ s.cpc.dold = 0 then
      { s2 with px := { s2.px with apps := s2.px.apps.map (fun a => (a.1, if a.2.running then { a.2 with held := false } else a.2)) } } else s2)
  else if r.heat = 1 ∧ cool then .next (s.updDie d.val (fun r => { r with heat := 0 }))
  else .next s

end Sys2Proof.Machine
end

