-- ==== Sys2Proof/Machine/Start.lean ====
section
/-! DEFINITION. The start sequence, recovery and attestation (chapter 19), and common time (chapter 21). -/

namespace Sys2Proof.Machine

/-! ### The start sequence (R550 to R553) -/

/-- A check of steps 1 to 5 fails: recovery (R551, R553). The dies stay unreleased and no key remains. -/
def State.startFail (s : State) (code step : Nat) : State :=
  { s with boot := { s.boot with
      phase := BitVec.ofNat 4 step, failCode := BitVec.ofNat 8 code, recovery := true, received := [], announced := none
      identity := [], aliasSeed := [], aliasCert := [] } }

/-- Step 5 fails on the unit map, or on a register record or setting. -/
def stepFive (img : List Byte) : Nat :=
  if !unitMapOk ((sectBytes img 0x20).getD []) then 8 else if !settingsOk img then 9 else 0

/-- The unit map goes into the dies (R544). -/
def State.loadMap (s : State) (u : List Byte) : State :=
  (List.range 4).foldl (fun s d => s.updCdie d (fun m => { m with
    used := (List.range 128).foldl (fun t r => t.set r (BitVec.ofNat 168 (mapRow u d r).1)) []
    faulty := (List.range 128).foldl (fun t r => t.set r (BitVec.ofNat 168 (mapRow u d r).2)) []
    svUsed := BitVec.ofNat 68 (mapSolver u d).1, svFaulty := BitVec.ofNat 68 (mapSolver u d).2 })) s

/-- What steps 1 to 4 leave: versions, digests, identity and alias (R549, R562). -/
def startBoot (b : Start) (img : List Byte) (now : Nat) (rnd : List Byte) : Start :=
  let m := manifestOf img
  { b with
    version := BitVec.ofNat 64 (fieldAt m 8 8), fwVersion := BitVec.ofNat 64 (fieldAt m 0x10 8)
    identity := identityDigest img, identity8 := BitVec.ofNat 64 (fieldAt (identityDigest img) 0 8)
    manifestDigest := manifestDigest img, ownerDigest := slice m 0x20 32
    aliasSeed := aliasSeedOf img, aliasCert := aliasCertOf img now rnd, deviceCert := deviceCert img
    received := [], announced := none, failCode := 0, recovery := false }

/-- What step 5 takes from the image's other sections (R539 to R542). -/
def loadBoot (b : Start) (img : List Byte) : Start :=
  { b with
    keys := imageKeys img, addrs := imageAddrs img 0x30, twinAddrs := imageAddrs img 0x31
    records := recordKinds.flatMap (fun k => (imageRecords img k.1).map (fun r => (BitVec.ofNat 64 r.1, BitVec.ofNat 64 r.2)))
    pxFirmware := (sectBytes img 0x10).getD [], cuFirmware := (sectBytes img 0x11).getD [], hints := (sectBytes img 0x21).getD [] }

/-- The service cores start at offset 0 of their private SRAM, which holds the node firmware (R539, R550). -/
def State.startService (s : State) : State :=
  let s1 := { s with px := { s.px with service := ((s.boot.pxFirmware.zipIdx).map (fun x => (x.2, x.1))) } }
  [96, 97, 98, 99].foldl (fun s h => s.updHart h (fun _ => { ({} : HartRegs) with pc := BitVec.ofNat 64 Config.serviceSram })) s1

/-- The dies are released at the profile's floor; one in heat-hold does not admit yet (R5, R37, R579, R582, R651). -/
def State.release (s : State) (profile : Nat) : State :=
  { s with
    cpc := { s.cpc with active := BitVec.ofNat 2 profile, budgetW := BitVec.ofNat 16 (budgetOf profile) }
    dies := (List.range 7).foldl (fun t d => t.upd d (fun r => { r with
      floorRate := BitVec.ofNat 16 (floorRateOf profile), guardRate := BitVec.ofNat 16 (guardRateOf profile)
      railMv := BitVec.ofNat 16 (floorMv profile d), admitting := r.heat != 2 })) s.dies }

/-- Step 5: service cores, firmware, unit map, register records, the dies' release. The stores are clear since reset. -/
def State.startLoad (s : State) (img : List Byte) : State :=
  let grade := ((deviceCert img).getD 5 0).toNat
  let want := fieldAt ((sectBytes img 0x32).getD []) 0 8 % 4
  let sub := decide (want = 0 ∧ grade = 1)
  let s1 := (State.startService { s with boot := loadBoot s.boot img }).loadMap ((sectBytes img 0x20).getD [])
  let s2 := s1.boot.records.foldl (fun s r => s.applyRecord (r.1.toNat, r.2.toNat)) s1
  let c0 := s2.chan 0
  let s3 := { s2 with
    cpc := { s2.cpc with imageProfile := BitVec.ofNat 2 want, tripped := false }
    boot := { s2.boot with layoutBad := layoutBroken s2 }
    pkg := { s2.pkg with
      grade := BitVec.ofNat 4 grade, serial := BitVec.ofNat 64 (fieldAt (deviceCert img) 8 8), density := c0.density, pinRate := c0.pinRate
      usableGib := if c0.density then 105 else 70, profiles := if grade = 1 then 6 else 7, substituted := sub } }.release (if sub then 1 else want)
  let cfg : ErrRec := { unit := commonUnit 0x02 0, cls := 0x0B }
  let s4 := if sub then s3.hand { cfg with severity := 0 } else s3
  if s4.boot.layoutBad then s4.hand { cfg with severity := 3 } else s4

/-- Step 6: every core is tested, with the findings of R120; what fails is remapped or retired (R121, R551, R611). The march test leaves the
stores clear, and what it finds is among a core's findings (log 54). -/
def State.startTest (s : State) (fails : List (CoreId × BitVec 6 × BitVec 16)) : State :=
  let s1 := s.mapCores (fun _ k => { k with selfDone := true, selfPass := 0x3F, failTiles := 0, ws := [], rs := [] })
  let s2 := fails.foldl (fun s x => (s.updCore x.1 (fun k => { k with selfPass := x.2.1, failTiles := x.2.2 })).actSelfTest x.1 x.2.1) s1
  [(0 : CDie), 1, 2, 3].foldl (fun s d => (s.cdie d.val).remaps.foldl (fun s e =>
    if e.2.valid && !e.2.applied && !e.2.refused then s.remap d e.1 else s) s) s2

/-- Step 7: every channel is trained, unless it is migrated (R273); one that fails is lost (R250, R551). -/
def State.startTrain (s : State) (fails : List Chan) : State :=
  let s1 := (List.range 20).foldl (fun s ch => s.updChan ch (fun c => if c.state = 4 then c else { c with state := 1 })) s
  fails.foldl (fun s ch => s.loseChannel ch.val) s1

/-- Step 8: every enabled port is trained (R282, R305, R551). -/
def State.startLinks (s : State) (fails : List (Plane × SubPort)) : State :=
  let s1 := [(0 : Plane), 1].foldl (fun s pl => (List.range 48).foldl (fun s sub =>
    if (s.port pl.val sub).subs ≤ sub % 4 then s
    else if fails.any (fun x => x.1 == pl && x.2.val == sub) then s.subDown pl sub true true
    else s.linkUp pl sub) s) s
  (s1.rebuildPath 0).rebuildPath 1

/-- The NVMe module: it is identified and its health is read, the queues are made, 8 I/O pairs of depth 256, and `module_ok` is found. Before a
job's plan is loaded the smallest `slot_lbas` stands for the plan's (R398, R399, R422). DESIGN CHOICE (log 50): when each admin command of
R398 goes out; the pairs that a start before made are deleted first, where the module's power has stayed on. -/
def State.startModule (s : State) (m : Option ModuleFound) : State :=
  let s1 := { s with boot := { s.boot with nvme := m } }.send (.nvmeAdmin .identify)
  match m with
  | none => s1
  | some x =>
    let s1 := s1.send (.nvmeAdmin .smartLog)
    let s1 := if s.cpc.lastStart = 1 ∨ s.cpc.lastStart = 2 then
        (List.range 8).foldl (fun s q => (s.send (.nvmeAdmin (.deleteSq (q + 1)))).send (.nvmeAdmin (.deleteCq (q + 1)))) s1 else s1
    let s2 := (s1.send (.nvmeAdmin (.numberOfQueues 8))).send (.nvmeAdmin .writeCache)
    let s3 := (List.range 8).foldl (fun s q => (s.send (.nvmeAdmin (.createCq (q + 1) 256))).send (.nvmeAdmin (.createSq (q + 1) 256))) s2
    (List.range 8).foldl (fun s t => s.updCkpt t (fun c => { c with moduleOk := decide (256 + 6 * 65536 ≤ x.lbas) })) s3

/-- The start step in progress is done, and the next one begins: steps 1 to 4 find the image's checks good, step 8 leads to the wait for
common time (R550, R551). DESIGN CHOICE (log 54): one START_SEQUENCE carries out one step. -/
def State.startStep (s : State) (found : StartFindings) : State :=
  let img := s.boot.flash
  let p := Nat.max 1 s.boot.phase.toNat
  let chk := imageCheck img
  let go := fun (s : State) => { s with boot := { s.boot with phase := BitVec.ofNat 4 (p + 1) } }
  if p ≤ 4 then
    if chk.1 ≠ 0 ∧ chk.2 ≤ p then s.startFail chk.1 p
    else go (if p = 4 then State.drawn { s with boot := startBoot s.boot img s.t ((List.range 32).map (Config.csbRandom s.freeCount)) } else s)
  else if p = 5 then (if stepFive img ≠ 0 then s.startFail (stepFive img) 5 else go (s.startLoad img))
  else if p = 6 then go (s.startTest found.failedCores)
  else if p = 7 then go (s.startTrain found.failedChans)
  else
    let s1 := go ((s.startLinks found.failedPorts).startModule found.nvme)
    { s1 with boot := { s1.boot with waitFrom := s.t } }

/-- A start may begin or go on: power good, the reset pin high, nothing stopped, and after a trip every die below 90 degrees (R564, R584,
R651). -/
def State.mayStart (s : State) : Bool :=
  s.supply.group == 7 && s.supply.resetN && !s.cpc.stopped && !s.boot.recovery && s.boot.phase.toNat < 9
    && (!s.cpc.tripped || (List.range 7).all (fun d => (s.dieRate d).tj.toNat < 90))

def execStartSequence (found : StartFindings) (s : State) : Out := .next (if s.mayStart then s.startStep found else s)

/-- A PTP port named as the slave can be one: the management port, or a sub-port whose link is up and that is no twin link (R590). -/
def State.ptpPort (s : State) (pl : BitVec 2) (sub : BitVec 6) : Bool :=
  !s.cpc.stopped && s.boot.phase.toNat ≥ 9 && (match pl.toNat with
    | 0 => s.linkIn 0 sub.toNat && !(s.port 0 sub.toNat).twin
    | 1 => s.linkIn 1 sub.toNat && !(s.port 1 sub.toNat).twin
    | 2 => true
    | _ => false)

/-- PTP locks. In step 9 common time steps, once, and step 10 follows; after `ready` it never jumps (R550, R594, R601). -/
def execPtpLock (t : BitVec 64) (selPlane : BitVec 2) (selSub : BitVec 6) (s : State) : Out :=
  if !s.ptpPort selPlane selSub || s.clock.locked then .next s
  else if s.boot.ready then .next { s with clock := { s.clock with locked := true, holdover := false, selPlane := selPlane, selSub := selSub } }
  else .next { s with
    clock := { s.clock with now := t, locked := true, holdover := false, everLocked := true, selPlane := selPlane, selSub := selSub
                            started := t.toNat - (s.t - s.clock.started) }
    boot := { s.boot with phase := 10, ready := true } }

def execTimeWaitExpiry (s : State) : Out :=
  if s.boot.phase ≠ 9 ∨ s.boot.timeWait = true ∨ s.t < s.boot.waitFrom + 30000000000 then .next s
  else .next ({ s with boot := { s.boot with timeWait := true } }.hand { unit := commonUnit 0x01 0, cls := 0x05, severity := 3 })

/-! ### Recovery (R554 to R556) -/

/-- START_STATUS (R561). -/
def State.startStatus (s : State) : Nat :=
  s.boot.phase.toNat + s.boot.failCode.toNat * 2 ^ 4 + b2n s.boot.recovery * 2 ^ 12 + b2n s.boot.ready * 2 ^ 13 + b2n s.boot.timeWait * 2 ^ 14
    + Nat.min ((s.t - s.clock.started) / 1000000) 0xFFFFFFFF * 2 ^ 16

/-- A frame of the start protocol: header, payload and CRC-32C (R554). -/
def startFrame (op frag frags : Byte) (off : Nat) (payload : List Byte) : List Byte :=
  let b := beBytes 4 0x5A510050 ++ [op, frag, frags, 0] ++ beBytes 8 off ++ payload
  b ++ beBytes 4 (crc32c b).toNat

/-- What stands around a start-protocol frame (R554, R555): in recovery the fixed source address on the management port; else the port's own,
on a fabric die that of the lowest sub-port whose link is up (DESIGN CHOICE, log 54: a row names no sub-port). An answer goes to whoever
asked, whose address the row does not give: it is free. -/
def State.startCarriage (s : State) (port : Option Plane) (broadcast : Bool) : Carriage :=
  let dst := if broadcast then 0xFFFFFFFFFFFF else (Config.freeWord s.freeCount).setWidth 48
  if s.boot.recovery then { dstMac := dst, srcMac := 0x025A51820000, etherType := 0x88B7 } else
  match port with
  | none => { dstMac := dst, srcMac := (s.ownAddr 0xFF 0).mac, etherType := (s.fab 0).ethertype + 2 }
  | some pl => { dstMac := dst, srcMac := (s.ownAddr pl.val (((List.range 48).find? (s.linkIn pl.val)).getD 0)).mac, etherType := (s.fab pl.val).ethertype + 2 }

def execAnnounce (s : State) : Out :=
  if !s.boot.recovery || s.cpc.stopped || (match s.boot.announced with | some t => decide (s.t < t + 1000000000) | none => false) then .next s
  else .next ({ s with boot := { s.boot with announced := some s.t } }.send
    (.startProto none (s.startCarriage none true) (startFrame 1 0 1 0 (beBytes 8 s.startStatus))))

/-- The acknowledgement of an image frame names the next byte expected. -/
def State.imageAck (s : State) : State :=
  (s.send (.startProto none (s.startCarriage none false) (startFrame 3 0 1 s.boot.received.length []))).drawn

def execImageData (off : BitVec 64) (data : List Byte) (s : State) : Out :=
  if !s.boot.recovery || s.cpc.stopped then .next s
  else if off.toNat = s.boot.received.length ∧ data.length ≤ 4096 then .next { s with boot := { s.boot with received := s.boot.received ++ data } }.imageAck
  else .next s.imageAck

/-- The checks of steps 1 to 4 run over the received copy, whatever length the frame names (R556). -/
def execImageEnd (_len : BitVec 64) (s : State) : Out :=
  if !s.boot.recovery || s.cpc.stopped then .next s
  else
    let chk := imageCheck s.boot.received
    if chk.1 ≠ 0 then .next { s with boot := { s.boot with failCode := BitVec.ofNat 8 chk.1, received := [] } }
    else .next { s with boot := { s.boot with flash := s.boot.received, received := [], recovery := false, failCode := 0, phase := 1 } }

/-! ### Attestation (R559) -/

/-- The CSB answers with a report, in fragments of 3,968 bytes, on the port the request came by. -/
def execAttestationRequest (port : Option Plane) (nonce : List Byte) (wantDevice : Bool) (s : State) : Out :=
  let reach := match port with | some pl => (s.fab pl.val).alive | none => true
  if !s.attests || !reach then .next s else
  let r := (s.report nonce wantDevice).1
  let n := ceilDiv r.length 3968
  .next ((List.range n).foldl (fun s i => s.send (.startProto port (s.startCarriage port false)
    (startFrame 6 (BitVec.ofNat 8 i) (BitVec.ofNat 8 n) (3968 * i) (slice r (3968 * i) 3968)))) s).drawn

/-! ### Common time (R594, R595, R601, R602, R648) -/

/-- A measured offset from the grandmaster: it is slewed away, and one above 100 us is reported. How fast is free within the
bound of R594. -/
def execPtpMessage (offset : BitVec 64) (selPlane : BitVec 2) (selSub : BitVec 6) (s : State) : Out :=
  if !s.ptpPort selPlane selSub || !s.clock.everLocked then .next s else
  let o := offset.toInt
  let lim : Int := 2 ^ 31 - 1
  let big := decide (o < -100000 ∨ 100000 < o)
  let s1 := { s with clock := { s.clock with
    offset := BitVec.ofInt 32 (max (-lim) (min lim o)), slew := if o = 0 then 0 else Config.freeByte s.freeCount 0
    locked := decide (-100 ≤ o ∧ o ≤ 100), holdover := false, selPlane := selPlane, selSub := selSub
    slewAlarm := if big then satInc s.clock.slewAlarm else s.clock.slewAlarm } }.drawn
  .next (if big then s1.hand { unit := commonUnit 0x01 0, cls := 0x05, severity := 3 } else s1)

/-- Every PTP port has left slave state. -/
def execHoldoverEnter (s : State) : Out :=
  if s.clock.selPlane = 3 then .next s else
  .next { s with clock := { s.clock with locked := false, holdover := true, lockLoss := satInc s.clock.lockLoss, selPlane := 3, selSub := 0 } }

/-- An edge of PPS_OUT: up within 5 ns of a whole second, down after 100 ms. -/
def execPpsOut (s : State) : Out :=
  let near := decide (s.t % 1000000000 ≤ 5 ∨ 999999995 ≤ s.t % 1000000000)
  match s.clock.ppsEnd with
  | none =>
    if !s.clock.everLocked || s.cpc.stopped || !near then .next s
    else .next { s with supply := { s.supply with ppsOut := true }, clock := { s.clock with ppsEnd := some (s.t + 100000000) } }
  | some e => if s.t < e then .next s else .next { s with supply := { s.supply with ppsOut := false }, clock := { s.clock with ppsEnd := none } }

end Sys2Proof.Machine
end

