-- ==== Sys2Proof/Machine/Pcs.lean ====
section
/-! DEFINITION. Package control space as software reads and writes it (R10, R624 to R643): the word of every register, and
what a write does field by field by its access codes; REGISTER_WRITE. -/

namespace Sys2Proof.Machine

/-- A register word from its fields: (value, lowest bit). -/
def word (l : List (Nat × Nat)) : Nat := sumN (l.map (fun x => x.1 * 2 ^ x.2))

/-- A count cleared by writing all ones to its whole field (R10). -/
def clearCount {w : Nat} (v : Reg) (lo : Nat) (x : BitVec w) : BitVec w := if regField v lo w = BitVec.allOnes w then 0 else x

/-! ### Words as read -/

def Region.baseWord (g : Region) : Nat := word [(g.base.toNat, 0), (b2n g.permR, 52), (b2n g.permW, 53), (b2n g.permA, 54), (b2n g.valid, 55)]

def DieRate.word (r : DieRate) : Nat :=
  Machine.word [(r.rateMin.toNat, 0), (r.floorRate.toNat, 16), (r.guardRate.toNat, 32), (b2n r.admitting, 48), (b2n r.breach, 49), (b2n r.resume, 50), (b2n r.floorLoss, 51)]

/-- CORE_OPTAB_n (R80). -/
def Entry.tabWord (e : Entry) (k : Nat) : Nat :=
  match k with
  | 0 => word [(e.code.num, 0), (e.d.engine % 4, 3), (e.d.afterEntry, 5), (b2n e.d.afterValid, 11), (e.d.opTag.toNat, 32)]
  | 1 => e.endBy % 2 ^ 64
  | 2 => e.off.toNat
  | _ => e.d.recordAddr % 2 ^ 52

/-- Registers of a core block, `guard` being the guard rate of its die; a self-clearing field reads 1 while its action runs (R10, R40, R80, R89, R90, R95 to R98, R120, R123, R150, R155, R186 to R188, R202, R203, R212, R247, R248). -/
def Core.reg (k : Core) (c : CoreId) (guard : BitVec 16) (o : Nat) : Nat :=
  if o = 0x000 then word [(b2n k.enable, 0), (b2n k.haltCu, 1), (b2n k.abortAll, 2), (b2n k.narrowOnly, 3), (b2n k.tileq, 4)]
  else if o = 0x008 then word [(k.freeEntries, 0), (b2n (k.cuRunning && !(k.haltCu && k.wait == .none)), 8), (b2n k.cuTrapped, 9), (b2n k.suspect, 10), (b2n k.drained, 11), (k.trapPc.toNat, 16)]
  else if o = 0x010 then word [(k.jobId.toNat, 0), (k.jobGen.toNat, 16), (k.tenancy.toNat, 32), (b2n k.jobValid, 35)]
  else if o = 0x040 then word [(k.rateNow.toNat, 0), (k.rateMin.toNat, 16), (b2n (decide (k.rateNow.toNat < guard.toNat)), 32)]
  else if o = 0x050 then k.dropped.toNat
  else if o = 0x060 then word [(k.wsCorrected.toNat, 0), (k.wsUncorrectable.toNat, 16), (k.rsCorrected.toNat, 32), (k.rsUncorrectable.toNat, 48)]
  else if 0x080 ≤ o ∧ o < 0x0C0 then
    let p := k.parts.get ((o - 0x080) / 8)
    word [(p.baseRow.toNat, 0), (p.rows.toNat, 8), (b2n p.grid, 16), (b2n p.valid, 17)]
  else if o = 0x0C0 then word [(k.bankOn.toNat, 0), (k.bankReady.toNat, 8)]
  else if 0x100 ≤ o ∧ o < 0x200 then
    let g := k.regions.get ((o - 0x100) / 16)
    if o % 16 = 0 then g.baseWord else g.limit.toNat
  else if o = 0x200 then word [(b2n k.selfBusy, 0), (b2n k.selfBusy, 1), (b2n k.selfDone, 2), (k.selfPass.toNat, 8), (k.failTiles.toNat, 16)]
  else if o = 0x210 then word [(k.mxCorrected.toNat, 0), (k.mxFailed.toNat, 16), (k.mxAborted.toNat, 32)]
  else if o = 0x300 then k.vxFlags.toNat
  else if o = 0x308 then word [(k.vxCorrected.toNat, 0), (k.vxFailed.toNat, 16), (k.vxAborted.toNat, 32)]
  else if o = 0x400 then k.seed.toNat
  else if o = 0x408 then k.srBits.toNat
  else if o = 0x410 then word [(k.healthBase.toNat, 0), (b2n k.healthOn, 63)]
  else if o = 0x500 then (if isSolver c then word [(k.recruited.toNat, 0), (k.iteration.toNat, 16), (k.svOpcode.toNat, 32)] else 0)
  else if o = 0x510 then (if isSolver c then 0 else word [(b2n k.member, 0), (k.solver.toNat, 1)])
  else if 0x800 ≤ o ∧ o < 0x1000 then (k.entry ((o - 0x800) / 32)).tabWord (o % 32 / 8)
  else 0

/-- Die-level registers of a compute die (R41, R215, R621). -/
def State.cdieReg (s : State) (d o : Nat) : Nat :=
  let m := s.cdie d
  if o = 0x100 then (s.dieRate d).word
  else if o = 0x200 then word [(b2n m.scrubOn, 0), (m.scrubUs.toNat, 1), (m.scrubPasses.toNat, 32)]
  else if 0x400 ≤ o ∧ o < 0xC00 then
    let e := m.remaps.get ((o - 0x400) / 8)
    word [(e.row.toNat, 0), (b2n e.solver, 7), (e.column.toNat, 8), (b2n e.valid, 16), (b2n e.applied, 17), (b2n e.refused, 18)]
  else 0

/-- CKPT_CTRL_n (R420). -/
def Ckpt.ctrlWord (c : Ckpt) : Nat :=
  word [(b2n c.enable, 0), (b2n c.mirror, 1), (c.timeoutS.toNat, 8), (c.periodMs.toNat, 16), (c.stepInterval.toNat, 40)]

/-- Registers of a tenancy (R425, R444): the word at an offset below 0x100. -/
def Tenancy.reg (n : Tenancy) (r : Nat) : Nat :=
  if r = 0 then n.bands.toNat
  else if r = 8 then word [(n.queues.toNat, 0), (b2n n.hostIp6, 7), (n.hostMac.toNat, 8)]
  else if r = 0x10 then n.ip6hi.toNat
  else if r = 0x18 then n.ip6lo.toNat
  else if 0x40 ≤ r ∧ r < 0x80 then
    let g := n.regions.get ((r - 0x40) / 16)
    if r % 16 = 0 then g.baseWord else g.limit.toNat
  else if 0x80 ≤ r ∧ r < 0xA0 then (n.job.words.getD ((r - 0x80) / 8) 0) % 2 ^ 64
  else 0

/-- Registers of the processor die but for the concentrator's (R420 to R422, R425, R444, R445, R479 to R483, R506 to R508). -/
def State.pxReg (s : State) (o : Nat) : Nat :=
  let t := s.twin
  if o = 0x100 then (s.dieRate 4).word
  else if 0x200000 ≤ o ∧ o < 0x200100 then
    let c := s.ckpt ((o - 0x200000) / 32)
    match o % 32 with
    | 0 => c.ctrlWord
    | 8 => c.planAddr.toNat
    | 16 => c.statusWord
    | _ => 0
  else if 0x300000 ≤ o ∧ o < 0x300800 then (s.ten ((o - 0x300000) / 0x100)).reg (o % 0x100)
  else if o = 0x300800 then word [(s.pkg.quarantineS.toNat, 0), (s.pkg.history.length, 16)]
  else if o = 0x400000 then word [(t.mode.toNat, 0), (b2n t.initialRole, 2), (b2n t.castContinue, 3)]
  else if o = 0x400008 then t.twinId.toNat
  else if o = 0x400010 then
    word [(t.state.toNat, 0), (b2n t.role, 3), (b2n t.tookOver, 4), (b2n t.lost, 5), (b2n t.diverged, 6), (t.syncPct.toNat, 16)]
  else if o = 0x400018 then word [(b2n (t.attaching && (t.state == 1 || t.state == 2)), 0), (b2n t.detaching, 1)]
  else if o = 0x400020 then t.compared.toNat
  else if o = 0x400028 then t.divergences.toNat
  else if 0x500000 ≤ o ∧ o < 0x500600 then
    let a := s.px.apps.get ((o - 0x500000) / 16)
    if o % 16 = 0 then word [(a.tenancy.toNat, 0), (b2n a.assigned, 3), (b2n a.running, 4)] else a.entry.toNat
  else if 0x501000 ≤ o ∧ o < 0x501040 then
    let w := s.px.ways.get ((o - 0x501000) / 8)
    word [(w.cache.toNat, 0), (w.sram.toNat, 16)]
  else if o = 0x501100 then word [(s.px.corrected.toNat, 0), (s.px.refetched.toNat, 32)]
  else 0

/-- WT_CFG (R313). -/
def Fabric.cfgWord (f : Fabric) : Nat :=
  word [(f.ethertype.toNat, 0), (f.udpPort.toNat, 16), (b2n f.udpMode, 32), (f.vlanId.toNat, 33), (b2n f.vlanEn, 45), (f.pcp.toNat, 46),
        (b2n f.pfcEn, 49), (f.hopBound.toNat, 50)]

/-- WT_PORT_n (R314): `entries` counts the path-table entries that name the port's sub-ports. -/
def Fabric.portWord (f : Fabric) (n : Nat) : Nat :=
  let p := f.ports.get n
  word [(p.mode.toNat, 0), (b2n p.twin, 2), (p.up.toNat, 4), (p.failed.toNat, 8), (p.hot.toNat, 12), (p.p99.toNat, 16),
        (if f.path.isEmpty then 0 else ((List.range 128).filter (fun e => f.path.getD (e % f.path.length) 0 / 4 == n)).length, 32)]

/-- RD_WINDOW (R319). -/
def Window.word (w : Window) (k : Nat) : Nat :=
  match k with
  | 0 => Machine.word [(w.jobId.toNat, 0), (w.jobGen.toNat, 16), (w.space.toNat, 32), (b2n w.permR, 34), (b2n w.permW, 35), (b2n w.permA, 36),
                       (b2n w.mirror, 37), (b2n w.valid, 38)]
  | 1 => w.base.toNat
  | 2 => w.length.toNat
  | _ => w.busy.toNat

/-- CL_GROUP (R376). -/
def Group.word (g : Group) (k : Nat) : Nat :=
  match k with
  | 0 => Machine.word [(g.jobId.toNat, 0), (g.jobGen.toNat, 16), (g.gen.toNat, 32), (g.localCount.toNat, 48), (b2n g.valid, 60), (b2n g.hier, 61),
                       (b2n g.memberLost, 62)]
  | 1 => g.memberAddr.toNat
  | 2 => g.members.toNat
  | _ => g.lastCseq.toNat

/-- A rank-table entry (R446). -/
def RankEntry.word (e : RankEntry) (k : Nat) : Nat :=
  match k with
  | 0 => Machine.word [(e.mac.toNat, 0), (b2n e.valid, 48), (b2n e.inRack, 49), (e.pkg.toNat, 50)]
  | 1 => e.ip6hi.toNat
  | 2 => e.ip6lo.toNat
  | _ => 0

/-- A rack-map entry (R318). -/
def RackEntry.word (r : RackEntry) : Nat := Machine.word [(r.rank.toNat, 0), (b2n r.valid, 16), (b2n r.self, 17), (b2n r.lost, 18)]

/-- Registers and tables of a fabric die (R313 to R319, R331, R345, R374 to R378, R446, R449). -/
def State.fabReg (s : State) (pl o : Nat) : Nat :=
  let f := s.fab pl
  if o = 0x100 then (s.dieRate (5 + pl)).word
  else if o = 0x1000 then f.cfgWord
  else if 0x1100 ≤ o ∧ o < 0x11C0 then (if o % 16 = 0 then f.portWord ((o - 0x1100) / 16) else 0)
  else if o = 0x1200 then word [(f.crcDrop.toNat, 0), (f.dupDrop.toNat, 32)]
  else if o = 0x1208 then word [(f.seqFault.toNat, 0), (f.resent.toNat, 32)]
  else if 0x2000 ≤ o ∧ o < 0x2040 then word [((f.tagQuota.get ((o - 0x2000) / 8)).toNat, 0), ((f.tagsUsed.get ((o - 0x2000) / 8)).toNat, 16)]
  else if o = 0x2100 then word [(f.winFault.toNat, 0), (f.refused.toNat, 32)]
  else if o = 0x2108 then word [(f.revokeDrop.toNat, 0), (f.targetLost.toNat, 32)]
  else if o = 0x2200 then word [(f.jobDrop.toNat, 0), (f.rankDrop.toNat, 32)]
  else if o = 0x2208 then f.hostDrop.toNat
  else if o = 0x3000 then f.hallBound.toNat
  else if 0x3100 ≤ o ∧ o < 0x3140 then word [((f.slotQuota.get ((o - 0x3100) / 8)).toNat, 0), ((f.slotsUsed.get ((o - 0x3100) / 8)).toNat, 16)]
  else if o = 0x3200 then word [(f.l0.toNat, 0), (f.l1.toNat, 8), (f.l2.toNat, 16), (f.l3.toNat, 24), (f.l4.toNat, 32)]
  else if o = 0x3300 then word [(f.chkRetry.toNat, 0), (f.chkFail.toNat, 32)]
  else if o = 0x3308 then word [(f.spills.toNat, 0), (f.staleDrop.toNat, 32)]
  else if 0x80000 ≤ o ∧ o < 0x84000 then (f.rackMap.get ((o - 0x80000) / 8)).word
  else if 0x100000 ≤ o ∧ o < 0x110000 then (f.windows.get ((o - 0x100000) / 32)).word (o % 32 / 8)
  else if 0x120000 ≤ o ∧ o < 0x121000 then (f.groups.get ((o - 0x120000) / 32)).word (o % 32 / 8)
  else if 0x1000000 ≤ o ∧ o < 0x2000000 then (f.ranks.get ((o - 0x1000000) / 32)).word (o % 32 / 8)
  else 0

/-- Registers of a GDDR controller (R277 to R281). -/
def Channel.reg (c : Channel) (o : Nat) : Nat :=
  if o = 0x000 then word [(c.pinRate.toNat, 0), (b2n c.density, 2), (b2n c.rsMode, 3), (c.copyShare.toNat, 4)]
  else if o = 0x008 then
    word [(c.shown.toNat, 0), (b2n c.squallFull, 3), (c.temp.toNat, 4), (c.creditsFree % 64, 12), (c.combining.length % 512, 18)]
  else if o = 0x010 then word [(b2n c.migStart, 0), (b2n c.migLost, 1), (b2n c.migDone, 2), (c.pointer.toNat, 32)]
  else if o = 0x018 then word [(c.corrected.toNat, 0), (c.deviceCorrected.toNat, 32)]
  else if 0x100 ≤ o ∧ o < 0x300 then
    let e := c.spares.get ((o - 0x100) / 8)
    word [(e.fromGroup.toNat, 0), (e.toGroup.toNat, 21), (b2n e.valid, 42)]
  else 0

/-- Registers of the CPC (R585 to R589). -/
def State.cpcReg (s : State) (o : Nat) : Nat :=
  let p := s.cpc
  if o = 0x000 then word [(p.active.toNat, 0), (p.imageProfile.toNat, 2), (p.request.toNat, 4), (b2n p.target.isSome, 6), (p.budgetW.toNat, 16), (p.powerW.toNat, 32)]
  else if o = 0x008 then
    let busy := sumN ((List.range 4).map (fun d => b2n (s.cdie d).busy * 2 ^ d))
    word [(b2n p.restarting, 0), (busy, 1), (busy, 5), (b2n s.linkBusy, 9), (b2n p.linkPlane, 10), (p.linkPort.toNat, 11), (p.linkSub.toNat, 15),
          (p.lastStart.toNat, 17)]
  else if o = 0x010 then word [(b2n (p.dold == 1), 0), (b2n (p.dold == 3 && p.wakeCause == 1), 1), (p.dold.toNat, 2), (p.wakeCause.toNat, 4), (b2n p.wakeOnJob, 8), (p.timerMs.toNat, 16)]
  else if o = 0x018 then p.hotDuty.toNat
  else if 0x100 ≤ o ∧ o < 0x138 then
    let r := s.dieRate ((o - 0x100) / 8)
    word [(r.tj.toNat, 0), (r.tjPeak.toNat, 8), (r.plinthTj.toNat, 16), (r.heat.toNat, 24), (b2n r.fromPlinth, 26)]
  else 0

/-- The largest of the values of positions 0 to n - 1, and the lowest position that holds it. -/
def topOf (n : Nat) (f : Nat → Nat) : Nat × Nat :=
  (List.range n).foldl (fun b i => if b.1 < f i then (f i, i) else b) (f 0, 0)

/-- One bit for each of `n` positions. -/
def bitsOf (n : Nat) (f : Nat → Bool) : Nat := sumN ((List.range n).map (fun i => b2n (f i) * 2 ^ i))

/-- Every sub-port of a plane is down, or its fabric die has failed (R622). -/
def State.planeDown (s : State) (pl : Nat) : Bool :=
  let f := s.fab pl
  !f.alive || (f.ports.any (fun p => p.2.mode != 0) && f.ports.all (fun p => p.2.up == 0))

/-- PKG_STATUS (R637). -/
def State.pkgStatus (s : State) : Nat :=
  word [(b2n s.pkg.substituted, 0), (b2n s.pkg.migrating, 1), (b2n s.pkg.onePlane, 2), (b2n (s.cpc.dold != 0), 3),
        (bitsOf 7 (fun d => (s.dieRate d).breach), 4), (bitsOf 7 (fun d => (s.dieRate d).heat == 1), 11), (bitsOf 7 (fun d => (s.dieRate d).heat == 2), 18),
        (b2n (s.twin.state == 3), 25), (b2n (s.log.unread != 0), 26)]

/-- The package identity and status block, which I3C reads too (R496, R561, R562, R601, R602, R622, R623, R634 to R639). The
floor rate reads 0 until step 5 of the start has set those of the dies. -/
def State.identityReg (s : State) (o : Nat) : Nat :=
  let p := s.pkg
  if o = 0x000 then word [(0x0820, 0), (1, 16), (p.grade.toNat, 20), (1, 24)]
  else if o = 0x008 then p.serial.toNat
  else if o = 0x010 then
    word [(20480, 0), (64, 16), (20, 24), (b2n p.density, 29), (p.pinRate.toNat, 30), (p.usableGib.toNat, 32), (12, 40), (8, 44), (96, 48), (p.profiles.toNat, 55)]
  else if o = 0x018 then s.pkgStatus
  else if o = 0x020 then
    word [(s.cpc.active.toNat, 0), (s.cpc.imageProfile.toNat, 2), (s.cpc.budgetW.toNat, 16), (s.cpc.powerW.toNat, 32),
          (if (List.range 7).all (fun d => (s.dieRate d).floorRate == 0) then 0 else floorRateOf s.cpc.active.toNat, 48)]
  else if o = 0x028 then
    let j := topOf 7 (fun d => (s.dieRate d).tj.toNat)
    let g := topOf 20 (fun ch => (s.chan ch).temp.toNat)
    word [(j.1, 0), (j.2, 8), (g.1, 16), (g.2, 24)]
  else if o = 0x200 then s.startStatus
  else if o = 0x208 then s.boot.version.toNat
  else if o = 0x210 then s.boot.fwVersion.toNat
  else if o = 0x218 then s.boot.identity8.toNat
  else if o = 0x300 then
    let c := s.clock
    word [(b2n c.locked, 0), (b2n c.holdover, 1), (c.selPlane.toNat, 8), (c.selSub.toNat, 10), (c.offset.toNat, 16), (c.slew.toNat, 48)]
  else if o = 0x308 then word [(s.clock.lockLoss.toNat, 0), (s.clock.slewAlarm.toNat, 32)]
  else if o = 0x400 then
    word [(bitsOf 20 (fun ch => (s.chan ch).state == 3 || (s.chan ch).state == 4 || (s.chan ch).state == 5), 0), (bitsOf 2 s.planeDown, 20),
          (b2n (decide (s.cpc.imageProfile.toNat < s.cpc.active.toNat)), 22), ((s.cores.filter (·.2.narrowOnly)).length % 65536, 32), (p.retired.length % 65536, 48)]
  else if o = 0x408 then p.degBands.toNat
  else 0

/-- The block of a compute die reads as zero and ignores writes while Doldrums has its rail down (R632). -/
def State.cdieDead (s : State) : Bool := s.cpc.dold == 2 || s.cpc.dold == 3

/-- A read of the 64-bit register at an aligned address of package control space (R624, R625, R628). -/
def State.pcsRead (s : State) (a : Nat) : State × Nat :=
  match pcsBlock a with
  | .identity o => (s, s.identityReg o)
  | .cdie d o => (s, if s.cdieDead then 0 else s.cdieReg d.val o)
  | .core c o => (s, if s.cdieDead then 0 else (s.core c).reg c (s.dieRate c.die.val).guardRate o)
  | .px o => if 0x100000 ≤ o ∧ o < 0x142000 then s.ecRead (o - 0x100000) else (s, s.pxReg o)
  | .fab pl o => (s, s.fabReg pl.val o)
  | .chan ch o => (s, (s.chan ch.val).reg o)
  | .cmb o =>
    (s, if o = 0 then word [(s.log.head, 0), (s.log.unread, 16), (b2n s.log.fwdLow, 33)]
        else if o = 8 then word [(s.log.droppedLow.toNat, 0), (s.log.droppedHigh.toNat, 16), (s.log.fwdLost.toNat, 32)] else 0)
  | .cpc o => (s, s.cpcReg o)
  | .log o => (s, fieldAt (s.log.ring.get (o / 64)).bytes (o % 64) 8)
  | .hole | .outside => (s, 0)

/-! ### Writes -/

/-- DIE_RATE_STATUS (R41, R55): the flags are cleared first, then `resume` is taken. -/
def State.dieRateWrite (s : State) (d : Nat) (v : Reg) : State :=
  let s1 := s.updDie d (fun r => { r with breach := r.breach && !v.getLsbD 49, floorLoss := r.floorLoss && !v.getLsbD 51 })
  if v.getLsbD 50 then s1.resumeWrite d else s1

/-- CORE_CTRL (R95). -/
def State.ctrlWrite (s : State) (c : CoreId) (v : Reg) : State :=
  let s1 := s.updCore c (fun k => { k with enable := v.getLsbD 0, narrowOnly := v.getLsbD 3 })
  let s2 := if (s1.core c).haltCu = v.getLsbD 1 then s1 else s1.setHalt c (v.getLsbD 1)
  let s3 := s2.setTileq c (v.getLsbD 4)
  if v.getLsbD 2 then s3.abortAllWrite c else s3

/-- A register of a core block. DESIGN CHOICE (log 38): a write of NUM_SEED is ignored while `job_valid` is 1. -/
def State.coreRegWrite (s : State) (c : CoreId) (o : Nat) (v : Reg) : State :=
  if o = 0x000 then s.ctrlWrite c v
  else if o = 0x008 then s.updCore c (fun k => { k with cuTrapped := k.cuTrapped && !v.getLsbD 9, suspect := k.suspect && !v.getLsbD 10 })
  else if o = 0x010 then
    s.updCore c (fun k => { k with jobId := regField v 0 16, jobGen := regField v 16 16, tenancy := regField v 32 3, jobValid := v.getLsbD 35 })
  else if o = 0x040 then (if v.getLsbD 33 then s.updCore c (fun k => { k with rateMin := 0xFFFF }) else s)
  else if o = 0x050 then s.updCore c (fun k => { k with dropped := clearCount v 0 k.dropped })
  else if o = 0x060 then s.updCore c (fun k => { k with
    wsCorrected := clearCount v 0 k.wsCorrected, wsUncorrectable := clearCount v 16 k.wsUncorrectable
    rsCorrected := clearCount v 32 k.rsCorrected, rsUncorrectable := clearCount v 48 k.rsUncorrectable })
  else if h : 0x080 ≤ o ∧ o < 0x0C0 then s.partWrite c ((o - 0x080) / 8) v
  else if o = 0x0C0 then s.bankWrite c v
  else if 0x100 ≤ o ∧ o < 0x200 then
    s.updCore c (fun k => { k with regions := k.regions.upd ((o - 0x100) / 16) (fun g => if o % 16 = 0 then g.setBase v.toNat else g.setLimit v.toNat) })
  else if o = 0x200 then
    let s1 := s.updCore c (fun k => { k with selfDone := k.selfDone && !v.getLsbD 2 })
    if v.getLsbD 0 then s1.selfTestStart c else s1
  else if o = 0x210 then s.updCore c (fun k => { k with
    mxCorrected := clearCount v 0 k.mxCorrected, mxFailed := clearCount v 16 k.mxFailed, mxAborted := clearCount v 32 k.mxAborted })
  else if o = 0x300 then s.updCore c (fun k => { k with vxFlags := k.vxFlags &&& ~~~ (regField v 0 7) })
  else if o = 0x308 then s.updCore c (fun k => { k with
    vxCorrected := clearCount v 0 k.vxCorrected, vxFailed := clearCount v 16 k.vxFailed, vxAborted := clearCount v 32 k.vxAborted })
  else if o = 0x400 then s.updCore c (fun k => if k.jobValid then k else { k with seed := v })
  else if o = 0x410 then
    s.updCore c (fun k => if k.drained then { k with healthBase := BitVec.ofNat 17 (bitsAt v.toNat 8 9 * 256), healthOn := v.getLsbD 63 } else k)
  else s

/-- A die-level register of a compute die (R215, R621, R641). -/
def State.cdieRegWrite (s : State) (d o : Nat) (v : Reg) : State :=
  if o = 0x100 then s.dieRateWrite d v
  else if o = 0x200 then s.updCdie d (fun m => { m with
    scrubOn := v.getLsbD 0, scrubUs := regField v 1 16
    scrubFrom := if regField v 1 16 = m.scrubUs ∧ (m.scrubOn ∨ ¬ v.getLsbD 0) then m.scrubFrom else s.t })
  else if 0x400 ≤ o ∧ o < 0xC00 then s.updCdie d (fun m => { m with remaps := m.remaps.upd ((o - 0x400) / 8) (fun (e : Remap) =>
    { e with row := regField v 0 7, solver := v.getLsbD 7, column := regField v 8 8, valid := v.getLsbD 16 }) })
  else s

/-- JOB_ENTRY_n (R444). -/
def Job.write (j : Job) (k : Nat) (v : Reg) : Job :=
  match k with
  | 0 => { j with jobId := regField v 0 16, jobGen := regField v 16 16, state := regField v 32 3, running := v.getLsbD 35 }
  | 1 => { j with ownRank := regField v 0 16, rankCount := regField v 16 17 }
  | 2 => { j with bands := v }
  | _ => { j with tState := v.toNat }

/-- A checkpoint register (R420 to R422, R641): a period trigger next fires at the next multiple of a changed period. -/
def State.ckptWrite (s : State) (t r : Nat) (v : Reg) : State :=
  match r with
  | 0 => s.updCkpt t (fun c =>
    let n := c.setCtrl v.toNat
    if n.periodMs = c.periodMs ∧ (c.enable ∨ ¬ n.enable) then n else { n with actedPeriod := s.t / (n.periodMs.toNat * 1000000) })
  | 8 => s.updCkpt t (fun c => { c with planAddr := BitVec.ofNat 52 (bitsAt v.toNat 6 46 * 64) })
  | 16 => s.updCkpt t (fun c => { c with deferred := c.deferred && !v.getLsbD 34, abandoned := clearCount v 48 c.abandoned })
  | _ => s

/-- A register of the processor die but for the concentrator's. -/
def State.pxRegWrite (s : State) (o : Nat) (v : Reg) : State :=
  if o = 0x100 then s.dieRateWrite 4 v
  else if 0x200000 ≤ o ∧ o < 0x200100 then s.ckptWrite ((o - 0x200000) / 32) (o % 32) v
  else if 0x300000 ≤ o ∧ o < 0x300800 ∧ 0x80 ≤ o % 0x100 ∧ o % 0x100 < 0xA0 then
    s.updTen ((o - 0x300000) / 0x100) (fun n => { n with job := n.job.write ((o % 0x100 - 0x80) / 8) v })
  else if o = 0x400010 then
    { s with twin := { s.twin with lost := s.twin.lost && !v.getLsbD 5, diverged := s.twin.diverged && !v.getLsbD 6 } }
  else if o = 0x400018 then
    let s1 := if v.getLsbD 0 then s.attachStart else s
    let s2 := if v.getLsbD 1 then s1.detachNow else s1
    if v.getLsbD 2 then s2.takeOver else s2
  else if o = 0x400028 then { s with twin := { s.twin with divergences := clearCount v 0 s.twin.divergences } }
  else if o = 0x501100 then { s with px := { s.px with corrected := clearCount v 0 s.px.corrected, refetched := clearCount v 32 s.px.refetched } }
  else s

/-- RD_WINDOW (R319); `busy` is read only. -/
def Window.write (w : Window) (k : Nat) (v : Reg) : Window :=
  match k with
  | 0 => { w with jobId := regField v 0 16, jobGen := regField v 16 16, space := regField v 32 2, permR := v.getLsbD 34, permW := v.getLsbD 35
                  permA := v.getLsbD 36, mirror := v.getLsbD 37, valid := v.getLsbD 38 }
  | 1 => { w with base := BitVec.ofNat 48 (bitsAt v.toNat 8 40 * 256) }
  | 2 => { w with length := BitVec.ofNat 48 (bitsAt v.toNat 8 40 * 256) }
  | _ => w

/-- CL_GROUP (R376). -/
def Group.write (g : Group) (k : Nat) (v : Reg) : Group :=
  match k with
  | 0 => { g with jobId := regField v 0 16, jobGen := regField v 16 16, gen := regField v 32 16, localCount := regField v 48 12, valid := v.getLsbD 60
                  memberLost := g.memberLost && !v.getLsbD 62 }
  | 1 => { g with memberAddr := regField v 0 52 }
  | 2 => { g with members := regField v 0 17 }
  | _ => g

/-- A rank-table entry (R446). -/
def RankEntry.write (e : RankEntry) (k : Nat) (v : Reg) : RankEntry :=
  match k with
  | 0 => { e with mac := regField v 0 48, valid := v.getLsbD 48, inRack := v.getLsbD 49, pkg := regField v 50 8 }
  | 1 => { e with ip6hi := v }
  | 2 => { e with ip6lo := v }
  | _ => e

/-- A rack-map entry (R318). -/
def RackEntry.write (r : RackEntry) (v : Reg) : RackEntry :=
  { rank := regField v 0 16, valid := v.getLsbD 16, self := v.getLsbD 17, lost := r.lost && !v.getLsbD 18 }

/-- The part of a fabric die that a write changes by itself. -/
def Fabric.write (f : Fabric) (o : Nat) (v : Reg) : Fabric :=
  if o = 0x1200 then { f with crcDrop := clearCount v 0 f.crcDrop, dupDrop := clearCount v 32 f.dupDrop }
  else if o = 0x1208 then { f with seqFault := clearCount v 0 f.seqFault, resent := clearCount v 32 f.resent }
  else if o = 0x2100 then { f with winFault := clearCount v 0 f.winFault, refused := clearCount v 32 f.refused }
  else if o = 0x2108 then { f with revokeDrop := clearCount v 0 f.revokeDrop, targetLost := clearCount v 32 f.targetLost }
  else if o = 0x2200 then { f with jobDrop := clearCount v 0 f.jobDrop, rankDrop := clearCount v 32 f.rankDrop }
  else if o = 0x2208 then { f with hostDrop := clearCount v 0 f.hostDrop }
  else if o = 0x3300 then { f with chkRetry := clearCount v 0 f.chkRetry, chkFail := clearCount v 32 f.chkFail }
  else if o = 0x3308 then { f with spills := clearCount v 0 f.spills, staleDrop := clearCount v 32 f.staleDrop }
  else if 0x80000 ≤ o ∧ o < 0x84000 then { f with rackMap := f.rackMap.upd ((o - 0x80000) / 8) (fun r => r.write v) }
  else if 0x100000 ≤ o ∧ o < 0x110000 then { f with windows := f.windows.upd ((o - 0x100000) / 32) (fun w => w.write (o % 32 / 8) v) }
  else if 0x120000 ≤ o ∧ o < 0x121000 then { f with groups := f.groups.upd ((o - 0x120000) / 32) (fun g => g.write (o % 32 / 8) v) }
  else if 0x1000000 ≤ o ∧ o < 0x2000000 then { f with ranks := f.ranks.upd ((o - 0x1000000) / 32) (fun e => e.write (o % 32 / 8) v) }
  else f

/-- A register of a fabric die; a cleared `failed` lets a sub-port whose link is up rejoin the path table (R305). -/
def State.fabRegWrite (s : State) (pl o : Nat) (v : Reg) : State :=
  if o = 0x100 then s.dieRateWrite (5 + pl) v
  else if 0x1100 ≤ o ∧ o < 0x11C0 then
    if o % 16 ≠ 0 then s else
    let s1 := s.updFab pl (fun f => { f with ports := f.ports.upd ((o - 0x1100) / 16) (fun p => { p with failed := p.failed &&& ~~~ (regField v 8 4) }) })
    if ((s.fab pl).ports.get ((o - 0x1100) / 16)).failed &&& regField v 8 4 = 0 then s1 else s1.rebuildPath pl
  else
    let s1 := s.updFab pl (fun f => f.write o v)
    if 0x120000 ≤ o ∧ o < 0x121000 ∧ o % 32 = 0 then s1.groupFormed pl ((o - 0x120000) / 32) ((s.fab pl).groups.get ((o - 0x120000) / 32)).valid else s1

/-- A register of a GDDR controller. -/
def State.chanRegWrite (s : State) (ch o : Nat) (v : Reg) : State :=
  if o = 0x000 then s.updChan ch (fun c => { c with copyShare := regField v 4 4 })
  else if o = 0x008 then s.updChan ch (fun c => { c with squallFull := c.squallFull && !v.getLsbD 3 })
  else if o = 0x010 then
    let s1 := s.updChan ch (fun c => { c with migLost := v.getLsbD 1, migDone := c.migDone && !v.getLsbD 2 })
    if v.getLsbD 0 then s1.migrateStart ch else s1
  else if o = 0x018 then s.updChan ch (fun c => { c with corrected := clearCount v 0 c.corrected, deviceCorrected := clearCount v 32 c.deviceCorrected })
  else if 0x100 ≤ o ∧ o < 0x300 then s.updChan ch (fun c => { c with spares := c.spares.upd ((o - 0x100) / 8) (fun (e : RowSpare) =>
    { e with fromGroup := regField v 0 21, valid := v.getLsbD 42 }) })
  else s

/-- A register of the CPC (R585 to R589): the fields an action reads take their new value first. -/
def State.cpcRegWrite (s : State) (o : Nat) (v : Reg) : State :=
  if o = 0x000 then
    if v.getLsbD 6 then s.changeWrite (regField v 4 2) else { s with cpc := { s.cpc with request := regField v 4 2 } }
  else if o = 0x008 then
    let s1 := { s with cpc := { s.cpc with linkPlane := v.getLsbD 10, linkPort := regField v 11 4, linkSub := regField v 15 2 } }
    let s2 := if v.getLsbD 9 then s1.linkResetWrite (if v.getLsbD 10 then 1 else 0) (regField v 11 4).toNat (regField v 15 2).toNat else s1
    let s3 := [(0 : CDie), 1, 2, 3].foldl (fun s d => if v.getLsbD (1 + d.val) then s.dieResetWrite d [] else s) s2
    if v.getLsbD 0 then s3.imageRestartWrite else s3
  else if o = 0x010 then
    let s1 := { s with cpc := { s.cpc with wakeOnJob := v.getLsbD 8, timerMs := regField v 16 32 } }
    let s2 := if v.getLsbD 0 then s1.enterWrite else s1
    if v.getLsbD 1 then s2.wakeWrite 1 else s2
  else if 0x100 ≤ o ∧ o < 0x138 then s.updDie ((o - 0x100) / 8) (fun r => { r with tjPeak := clearCount v 8 r.tjPeak })
  else s

/-- A write of the 64-bit register at an aligned address of package control space. -/
def State.pcsWrite (s : State) (a : Nat) (v : Reg) : State :=
  match pcsBlock a with
  | .identity o =>
    if o = 0x308 then { s with clock := { s.clock with lockLoss := clearCount v 0 s.clock.lockLoss, slewAlarm := clearCount v 32 s.clock.slewAlarm } } else s
  | .cdie d o => if s.cdieDead then s else s.cdieRegWrite d.val o v
  | .core c o => if s.cdieDead then s else s.coreRegWrite c o v
  | .px o => if 0x100000 ≤ o ∧ o < 0x142000 then s.ecWrite (o - 0x100000) v else s.pxRegWrite o v
  | .fab pl o => s.fabRegWrite pl.val o v
  | .chan ch o => s.chanRegWrite ch.val o v
  | .cmb o =>
    if o = 0 then
      let s1 := { s with log := { s.log with fwdLow := v.getLsbD 33 } }
      if v.getLsbD 32 then s1.popWrite else s1
    else if o = 8 then { s with log := { s.log with
      droppedLow := clearCount v 0 s.log.droppedLow, droppedHigh := clearCount v 16 s.log.droppedHigh, fwdLost := clearCount v 32 s.log.fwdLost } }
    else s
  | .cpc o => s.cpcRegWrite o v
  | .log _ | .hole | .outside => s

/-- The record of an access outside every extent (R625). -/
def State.pcsOutside (s : State) (unit : BitVec 32) (a : Nat) : State :=
  s.hand { unit := unit, cls := 0x0B, severity := 0, addrKind := 3, address := BitVec.ofNat 64 a }

/-- Physical memory protection lets a service core store `n` bytes at an offset of package control space (R485, R486). -/
def State.pcsMayStore (s : State) (h a n : Nat) : Bool :=
  (s.hart h).pmpOk ((s.hart h).accMode { perm := .w }) (8 * 2 ^ 48 + a) n { perm := .w }

/-- REGISTER_WRITE: a service core stores to package control space (R626 to R628). -/
def execRegisterWrite (hart : Fin 4) (addr : BitVec 48) (size : Fin 4) (v : Reg) (s : State) : Out :=
  let h := 96 + hart.val
  let a := addr.toNat
  if !s.hartRuns h then .next s else
  let trap := fun (s : State) => s.hartTrap h (causeAccess .w false) (BitVec.ofNat 64 (8 * 2 ^ 48 + a))
  if !s.pcsMayStore h a (2 ^ size.val) then .next (trap s)
  else if pcsBlock a = .outside then .next (trap (s.pcsOutside (pxUnit 1 hart.val) a))
  else if size ≠ 3 ∨ a % 8 ≠ 0 then .next (trap s)
  else .next (s.pcsWrite a v)

/-! ### The I3C target (R495, R496): on the processor die, so it is silent while the package is stopped -/

def execI3cPrivateWrite (off : BitVec 16) (s : State) : Out := .next (if s.cpc.stopped then s else { s with i3c := { s.i3c with offset := off } })

/-- Eight bytes of the identity and status block; an offset that names no register there reads as zero. -/
def execI3cPrivateRead (s : State) : Out :=
  let o := s.i3c.offset.toNat
  .next (if s.cpc.stopped then s else { s with i3c := { s.i3c with answer := if o < 0x1000 then BitVec.ofNat 64 (s.identityReg o) else 0 } })

/-- A target without a dynamic address takes the one sent to its static address. -/
def execSetdasa (stat : BitVec 7) (dyn : BitVec 7) (s : State) : Out :=
  .next (if s.cpc.stopped ∨ stat ≠ Config.i3cStatic ∨ s.i3c.dynamic.isSome then s else { s with i3c := { s.i3c with dynamic := some dyn } })

/-- A target without a dynamic address answers with its provisioned id and takes the address it is given. -/
def execEntdaa (dyn : BitVec 7) (s : State) : Out :=
  .next (if s.cpc.stopped ∨ s.i3c.dynamic.isSome then s else { s with i3c := { s.i3c with dynamic := some dyn, answer := Config.i3cPid.setWidth 64 } })

def execRstdaa (s : State) : Out := .next (if s.cpc.stopped then s else { s with i3c := { s.i3c with dynamic := none } })

def execGetstatus (s : State) : Out :=
  .next (if s.cpc.stopped then s else { s with i3c := { s.i3c with answer := (Config.i3cStatus s.freeCount).setWidth 64 }, freeCount := s.freeCount + 1 })

def execGetpid (s : State) : Out := .next (if s.cpc.stopped then s else { s with i3c := { s.i3c with answer := Config.i3cPid.setWidth 64 } })

end Sys2Proof.Machine
end

