-- ==== Sys2Proof/Machine/Dma.lean ====
section
/-! DEFINITION. The DMA engine (R83 to R88, R325 to R332, R337): where a request's bytes lie, the reading of its source,
the writing of its destination, atomic batches, and the end of a transfer. -/

namespace Sys2Proof.Machine

/-! ### Where bytes lie -/

/-- A piece of a request: the core's own stores, GDDR, a store of another core, a fabric address, a range of the processor
die, package control space; `bad` names nothing. -/
inductive Place where
  | own (res : Bool) (off : Nat) | gddr (off : Nat) | far (core : Nat) (res : Bool) (off : Nat) | fab (a : Nat) | dev (off : Nat) | pcs (a : Nat) | bad
deriving DecidableEq, Repr, Inhabited

/-- The pieces of `n` bytes at an address of a kind: offset in the request, length, place. -/
def State.pieces (s : State) (c : CoreId) (kind a n : Nat) : List (Nat × Nat × Place) :=
  if isFabKind kind then [(0, n, .fab a)]
  else if kind = 2 then
    let t := meshTarget a
    [(0, n, if t.1 = s.logNum c then .own t.2.1 t.2.2 else .far t.1 t.2.1 t.2.2)]
  else
    let off := a % 2 ^ 48
    match a / 2 ^ 48 with
    | 0 => (unitPieces off n).map (fun p => (p.1 - off, p.2, .gddr p.1))
    | 1 => (slicePieces off n).map (fun p => (p.1 - off, p.2, match s.rsTarget p.1 with
        | some (d, o) => if d = c then .own true o else .far (s.logNum d) true o
        | none => .bad))
    | 2 => [(0, n, .own false off)]
    | 3 => [(0, n, .dev off)]
    | 8 => [(0, n, .pcs off)]
    | _ => [(0, n, .bad)]

/-- One number for a byte wherever an address of a kind names it: its NPA, a place above every NPA for another core's
working store, and above those for a fabric address (R337, R473). -/
def State.byteKey (s : State) (c : CoreId) (kind a : Nat) : Nat :=
  if isFabKind kind then 2 ^ 64 + a
  else if kind = 2 then
    let t := meshTarget a
    match s.phys t.1 with
    | some d => if t.2.1 then (s.storeNpa d true t.2.2).getD (meshKey + a % 2 ^ 40) else if d = c then 2 * 2 ^ 48 + t.2.2 else meshKey + a % 2 ^ 40
    | none => meshKey + a % 2 ^ 40
  else a

/-- Two ranges share a byte. -/
def meets (a n b m : Nat) : Bool := n != 0 && m != 0 && a < b + m && b < a + n

/-- The ranges of a request: source, and destination (none for an atomic that returns nothing). -/
def State.reqRange (s : State) (c : CoreId) (r : DmaReq) (dst : Bool) : Nat × Nat :=
  if dst then (if r.item.isSome ∧ r.dst = 0 then (0, 0) else (s.byteKey c r.dstKind r.dst, r.len)) else (s.byteKey c r.srcKind r.src, r.len)

/-- A new request must wait for an earlier one: their bytes overlap (R337), or they write one destination line (R86). DESIGN CHOICE
(log 44): a line is 64 bytes, the size of a GDDR sector; R86 gives none. -/
def State.clashes (s : State) (c : CoreId) (a b : DmaReq) : Bool :=
  let x := [s.reqRange c a false, s.reqRange c a true]
  let y := [s.reqRange c b false, s.reqRange c b true]
  let line := fun (p : Nat × Nat) => if p.2 = 0 then (0, 0) else (p.1 / 64 * 64, (p.1 + p.2 + 63) / 64 * 64 - p.1 / 64 * 64)
  x.any (fun p => y.any (fun q => meets p.1 p.2 q.1 q.2))
    || (let p := line (s.reqRange c a true)
        let q := line (s.reqRange c b true)
        meets p.1 p.2 q.1 q.2)

/-! ### Credits (R45, R257, R330) -/

/-- Channels that a request uses. -/
def State.reqChannels (s : State) (c : CoreId) (r : DmaReq) : List Nat :=
  let side := fun (k a : Nat) => (s.pieces c k a r.len).flatMap (fun p => match p.2.2 with
    | .gddr o => [(s.steer (o / 256)).1]
    | _ => [])
  (side r.srcKind r.src ++ (if r.item.isSome then [] else side r.dstKind r.dst)).eraseDups

/-- Peer and plane keys that a request uses: twice the package number, plus the plane its position gives. -/
def State.reqPeers (s : State) (r : DmaReq) : List Nat :=
  let src := isFabKind r.srcKind
  let dst := r.item.isNone && isFabKind r.dstKind
  (if src then [r.src / 2 ^ 56 % 256 * 2 + s.planeOf r.j] else [])
    ++ (if dst then [r.dst / 2 ^ 56 % 256 * 2 + s.planeOf (r.j + b2n src)] else [])

/-- Two keys of peer and plane draw on the same credits: those of one plane, or on a single plane, those that the operation holds for the
peer on either (R330, R617). -/
def State.sameCred (s : State) (a b : Nat) : Bool := a == b || (s.pkg.onePlane && a / 2 == b / 2)

/-- A request of the engine may go out now: no clash with an earlier one, a free credit of each channel and peer, a tag and a
receive buffer of the peer. -/
def State.mayIssue (s : State) (c : CoreId) (e : Entry) (r : DmaReq) : Bool :=
  let k := s.core c
  let out := k.dma.outst
  out.length < 256 && !out.any (s.clashes c r)
    && (s.reqChannels c r).all (fun ch => (out.filter (fun o => (s.reqChannels c o).contains ch)).length < e.gddrCred.get ch)
    && (s.reqPeers r).all (fun key =>
      let ent := s.rackEntry (key % 2) k.tenancy.toNat (key / 2)
      (out.filter (fun o => (s.reqPeers o).any (s.sameCred key))).length < sumN ([key, key / 2 * 2 + (1 - key % 2)].map (fun k => if s.sameCred key k then e.remCred.get k else 0))
        && (!ent.valid || (s.fab (key % 2)).outst.length < 32768
          && (ent.self || s.avail (key % 2) (s.peerOfRank (k.tenancy.toNat * 65536 + ent.rank.toNat)) != 0)))

/-! ### Requests in the package and outside it -/

/-- A request of a core to a fabric address on a plane (R316, R317, R324, R447); false: it ends at the sender. -/
def State.fabIssue (s : State) (c : CoreId) (pl : Nat) (a : Nat) (ty : BitVec 4) (q : ReqSub) (owner : OutOwner) : State × Bool :=
  let k := s.core c
  let t := k.tenancy.toNat
  let pkg := a / 2 ^ 56 % 256
  let plane : Plane := if pl = 1 then 1 else 0
  let ent := s.rackEntry plane.val t pkg
  if !ent.valid then (s, false) else
  let p : ReqPlan := { ten := t, rank := ent.rank.toNat, pkg := pkg, type := ty, jobId := if k.jobValid then k.jobId else 0
                       jobGen := if k.jobValid then k.jobGen else 0, payload := q.bytes, owner := owner, self := ent.self }
  if ent.self then
    if 32768 ≤ (s.fab plane.val).outst.length then (s.updFab plane.val (fun f => { f with waiting := f.waiting ++ [p] }), true) else
    let x := s.issueReq plane p {}
    (x.1.windowRequest plane x.2, true)
  else match s.rankDest plane.val t ent.rank.toNat with
    | none => (s, false)
    | some e => (s.issueOrWait plane p e, true)

/-- A request to the package itself that waited for a tag takes one that has been released (R291, R317). -/
def State.flushSelf (s : State) : State :=
  [(0 : Plane), 1].foldl (fun s pl =>
    if 32768 ≤ (s.fab pl.val).outst.length then s else
    match takeFirst (fun r : ReqPlan => r.self) (s.fab pl.val).waiting with
    | none => s
    | some (r, rest) =>
      let x := (s.updFab pl.val (fun f => { f with waiting := rest })).issueReq pl r {}
      x.1.windowRequest pl x.2) s

/-- The sub-header of a request to a fabric address (R324). -/
def fabSub (a n : Nat) (rs : Bool) (tag : BitVec 32) (data : List Byte) : ReqSub :=
  { offset := a % 2 ^ 48, window := a / 2 ^ 48 % 256, remoteRs := rs, length := n, aop := 0, atype := 0, ret := false, opTag := tag, comparand := [], data := data }

/-! ### Ranges of the processor die (R494, R513 to R515, R348) -/

/-- Bytes of a doorbell block of a tenancy that take only aligned 8-byte accesses. -/
def bellTouched (o n : Nat) : Bool := (List.range n).any (fun i => (o + i) % 0x100 < 16)

def State.dmaDevRead (s : State) (off n : Nat) (w : Who) : State × Byte × List Byte :=
  if off + n ≤ 0xC000000 then
    let r := s.sramGet off n w
    (r.1, if r.2.1 then stDone else stMemUnc, r.2.2)
  else if timeBase ≤ off ∧ off + n ≤ timeBase + 800 then
    (s, stDone, (List.range n).map (fun i => let o := off - timeBase + i
                                             BitVec.ofNat 8 ((s.px.mtimecmp.get (o / 8)).toNat / 256 ^ (o % 8))))
  else if ecBase ≤ off ∧ off + n ≤ ecBase + 0x800 then
    (if bellTouched (off - ecBase) n ∧ ¬ (n = 8 ∧ off % 8 = 0) then s.bellDropped else s, stDone, List.replicate n 0)
  else if collBase ≤ off ∧ off + n ≤ collBase + 0x8000 then (s.drawn, stDone, s.freeBytes off n)
  else (s, stWindowFault, [])

def State.dmaDevWrite (s : State) (c : CoreId) (acc : BitVec 32) (off : Nat) (bs : List Byte) (w : Who) : State × Byte :=
  let n := bs.length
  let o := off - ecBase
  if off + n ≤ 0xC000000 then
    let r := s.sramPut off bs w
    (r.1, if r.2 then stDone else stMemUnc)
  else if timeBase ≤ off ∧ off + n ≤ timeBase + 800 then
    (State.hartsSettle (((List.range n).zip bs).foldl (fun s x => let b := off - timeBase + x.1
      { s with px := { s.px with mtimecmp := s.px.mtimecmp.upd (b / 8) (fun w => BitVec.ofNat 64 (mergeWord w.toNat (b % 8) [x.2])) } }) s), stDone)
  else if ecBase ≤ off ∧ off + n ≤ ecBase + 0x800 then
    (if n = 8 ∧ off % 8 = 0 then
       (if o % 0x100 = 0 then s.ring (o / 0x100) (BitVec.ofNat 64 (leVal bs)) true
        else if o % 0x100 = 8 then s.ring (o / 0x100) (BitVec.ofNat 64 (leVal bs)) false else s)
     else if bellTouched o n then s.bellDropped else s, stDone)
  else if collBase ≤ off ∧ off + n ≤ collBase + 0x8000 then
    (if s.castShadow then s else s.collSubmit (s.logNum c) (off - collBase) bs acc, stDone)
  else (s, stWindowFault)

/-- Aligned 8-byte accesses to package control space in ascending order (R627). -/
def State.dmaPcsRead (s : State) (c : CoreId) (a n : Nat) : State × List Byte :=
  (List.range (n / 8)).foldl (fun (acc : State × List Byte) i =>
    let x := a + 8 * i
    let r := acc.1.pcsRead x
    (if pcsBlock x = .outside then r.1.pcsOutside (coreUnit c 0x03) x else r.1, acc.2 ++ leBytes 8 r.2)) (s, [])

def State.dmaPcsWrite (s : State) (c : CoreId) (a : Nat) (bs : List Byte) : State :=
  (List.range (bs.length / 8)).foldl (fun s i =>
    let x := a + 8 * i
    let s1 := s.pcsWrite x (BitVec.ofNat 64 (fieldAt bs (8 * i) 8))
    if pcsBlock x = .outside then s1.pcsOutside (coreUnit c 0x03) x else s1) s

/-! ### One request -/

/-- Change an outstanding request. -/
def State.updReq (s : State) (c : CoreId) (id : Nat) (f : DmaReq → DmaReq) : State :=
  s.updCore c (fun k => { k with dma := { k.dma with outst := k.dma.outst.map (fun r => if r.id = id then f r else r) } })

/-- Put bytes at an offset of a request's data. -/
def splice (d : List Byte) (at0 : Nat) (bs : List Byte) : List Byte := d.take at0 ++ bs ++ d.drop (at0 + bs.length)

/-- A piece has come back, or was served at once. -/
def DmaReq.took (r : DmaReq) (part : Nat) (st : Byte) (bs : List Byte) : DmaReq :=
  { r with status := if r.status = 0 then st else r.status, data := if st = 0 ∧ r.phase = 0 then splice r.data part bs else r.data }

/-- One more piece is awaited. -/
def DmaReq.awaits (r : DmaReq) : DmaReq := { r with waiting := r.waiting + 1 }

/-- Address and address kind by which an error record names a byte of an endpoint. -/
def failPlace (kind a : Nat) : Nat × Byte := if isFabKind kind then (a, 2) else (if kind = 2 then meshNpa a else a, 1)

/-- The record of a failure of the local region check at access time (R88). -/
def State.accessRec (s : State) (c : CoreId) (i : Nat) (kind : Byte) (a : Nat) : State :=
  let e := (s.core c).entry i
  let w := (s.core c).who 3 e.d.opTag
  (s.hand { unit := coreUnit c 0x03, cls := 0x06, severity := 2, status := stWindowFault, addrKind := kind, address := BitVec.ofNat 64 a
            jobId := w.jobId, jobGen := w.jobGen, opTag := e.d.opTag }).markLogged c i

/-- Start the access of one piece: read into the request's data in phase 0, write from it in phase 1. -/
def State.pieceGo (s : State) (c : CoreId) (i : Nat) (r : DmaReq) (p : Nat × Nat × Place) : State :=
  let e := (s.core c).entry i
  let w := { (s.core c).who 3 e.d.opTag with status := if e.abortReq then 0 else stMemUnc }
  let write := r.phase == 1
  let bs := slice r.data p.1 p.2.1
  let kind := if write then r.dstKind else r.srcKind
  let here := fun (s : State) (st : Byte) (got : List Byte) => s.updReq c r.id (fun x => x.took p.1 st got)
  let wait := fun (s : State) => s.updReq c r.id DmaReq.awaits
  match p.2.2 with
  | .own res o =>
    if write then
      let x := s.storeWrite c res o bs w
      if x.2 then here (x.1.markLogged c i) stMemUnc [] else x.1
    else
      let x := s.storeRead c res o p.2.1 w
      if x.2.1 then here (x.1.markLogged c i) stMemUnc [] else here x.1 0 x.2.2
  | .gddr o =>
    wait (s.updChan (s.steer (o / 256)).1 (fun ch => { ch with queue := ch.queue ++ [
      { asker := .dma c r.id p.1, op := if write then .store else .load, addr := o, len := p.2.1, data := if write then bs else [] }] }))
  | .far n res o =>
    wait (s.sendFlit (s.coreFlit c n (b2n (!write)) res o p.2.1 (r.last && p.1 + p.2.1 == r.len) e.d.opTag (if write then bs else []) r.id p.1))
  | .fab a =>
    let pl := s.planeOf (r.j + b2n (write && isFabKind r.srcKind))
    let x := (wait s).fabIssue c pl a (if write then 1 else 2) (fabSub a p.2.1 (kind == 3) e.d.opTag (if write then bs else [])) (.dma c r.id p.1)
    if x.2 then x.1 else here s stWindowFault []
  | .dev o =>
    if write then
      let x := s.dmaDevWrite c e.acc o bs w
      if x.2 = stDone then x.1 else here (if x.2 = stMemUnc then x.1.markLogged c i else x.1.accessRec c i 1 r.dst) x.2 []
    else
      let x := s.dmaDevRead o p.2.1 w
      if x.2.1 = stDone then here x.1 0 x.2.2
      else here (if x.2.1 = stMemUnc then x.1.markLogged c i else x.1.accessRec c i 1 r.src) x.2.1 []
  | .pcs a => if write then s.dmaPcsWrite c a bs else let x := s.dmaPcsRead c a p.2.1
                                                      here x.1 0 x.2
  | .bad => here (s.accessRec c i 1 (if write then r.dst else r.src)) stWindowFault []

/-- The outstanding request of a number. -/
def Core.dmaReq (k : Core) (id : Nat) : Option DmaReq := k.dma.outst.find? (fun r => r.id == id)

/-- A request is over: its place is free, and the first failing status is kept. -/
def State.reqOver (s : State) (c : CoreId) (id : Nat) (st : Byte) : State :=
  s.updCore c (fun k => { k with dma := { k.dma with
    outst := k.dma.outst.filter (fun r => r.id != id), answers := k.dma.answers.filter (fun a => a.req != id), fail := if k.dma.fail = 0 then st else k.dma.fail } })

/-- No new request or write of the transfer is made: an abort has reached it, or one of its requests has failed (R92, R210, R332). -/
def Core.dmaHalting (k : Core) (i : Nat) : Bool := (k.entry i).abortReq || k.dma.fail != 0

/-- A request none of whose pieces is awaited goes on: from its source to its destination, or to its end. -/
def State.reqGoOn (s : State) (c : CoreId) (i id : Nat) : State :=
  match (s.core c).dmaReq id with
  | none => s
  | some r =>
    if r.waiting ≠ 0 then s
    else if r.status ≠ 0 then s.reqOver c id r.status
    else if r.phase = 1 then s.reqOver c id 0
    else if (s.core c).dmaHalting i && r.item.isNone then s.reqOver c id 0
    else
      -- an atomic's old values are written only where its entry asks for them (R327)
      if r.item.isSome ∧ r.dst = 0 then s.reqOver c id 0 else
      let r1 := { r with phase := 1 }
      let s1 := (s.updReq c id (fun x => { x with phase := 1 })).noteWrites c i [(s.byteKey c r.dstKind r.dst, r.data)]
      let s2 := (s1.pieces c r.dstKind r.dst r.data.length).foldl (fun s p => s.pieceGo c i r1 p) s1
      match (s2.core c).dmaReq id with
      | some q => if q.waiting = 0 then s2.reqOver c id q.status else s2
      | none => s2

/-! ### The next request of a transfer -/

/-- The next request of a `copy`, none after the last. -/
def Dma.nextCopy (d : Dma) (x : DmaBody) : Option DmaReq :=
  if x.count ≤ d.row then none else
  let n := x.reqLen d.row d.off
  some { id := d.nextReq, src := x.src + d.row * x.srcStride + d.off, srcKind := x.srcKind, dst := x.dst + d.row * x.dstStride + d.off
         dstKind := x.dstKind, len := n, data := List.replicate n 0, j := d.sent
         last := d.row + 1 == x.count && x.length ≤ d.off + n }

/-- Progress past a request of a `copy`. -/
def Dma.pastCopy (d : Dma) (x : DmaBody) (r : DmaReq) : Dma :=
  let rowEnd := x.length ≤ d.off + r.len
  { d with row := if rowEnd then d.row + 1 else d.row, off := if rowEnd then 0 else d.off + r.len, nextReq := d.nextReq + 1
           sent := d.sent + b2n (isFabKind x.srcKind) + b2n (isFabKind x.dstKind), outst := d.outst ++ [r] }

/-- The request of an atomic entry: its group, and where its old values go. -/
def atReq (d : Dma) (x : AtBody) (a : AtEntry) : DmaReq :=
  { id := d.nextReq, src := a.target, srcKind := a.tkind, dst := if a.ret then x.ret + 64 * d.row else 0, len := 2 ^ a.sizeLog2, item := some d.row, j := d.sent }

/-- Rows or entries of a DMA operation. -/
def Desc.dmaRows (d : Desc) : Nat := if d.opcode = 2 then d.atb.count else d.dma.count

/-! ### The end of a transfer -/

/-- The operation's last request has been answered or has failed: the engine has finished. -/
def State.dmaSettle (s : State) (c : CoreId) (i : Nat) : State :=
  let k := s.core c
  let e := k.entry i
  if !k.dma.outst.isEmpty || !(k.dmaHalting i || e.d.dmaRows ≤ k.dma.row) then s else
  let st := if e.abortReq then e.abortStatus else k.dma.fail
  let s1 := if k.dmaHalting i ∧ ¬ (k.dma.stands ∧ ¬ e.abortReq) then s.dmaScramble c e.d else s
  (s1.updCore c (fun k => { k with dma := { nextReq := k.dma.nextReq } })).finish c i st

/-! ### DMA_REQUEST_ISSUE -/

/-- A request of a `copy` starts. -/
def State.copyIssue (s : State) (c : CoreId) (i : Nat) (e : Entry) : State :=
  let d := (s.core c).dma
  match d.nextCopy e.d.dma with
  | none => s
  | some r =>
    if !s.mayIssue c e r then s else
    let s1 := s.updCore c (fun k => { k with dma := d.pastCopy e.d.dma r })
    let s2 := (s1.pieces c r.srcKind r.src r.len).foldl (fun s p => s.pieceGo c i r p) s1
    s2.reqGoOn c i r.id

/-- The entry of an atomic batch that is reached next (R327 to R329): it makes its request, or ends the batch. -/
def State.atomicIssue (s : State) (c : CoreId) (i : Nat) (e : Entry) : State :=
  let k := s.core c
  let x := e.d.atb
  let w := { k.who 3 e.d.opTag with status := if e.abortReq then 0 else stMemUnc }
  if x.count ≤ k.dma.row then s else
  let fail := fun (s : State) (st : Byte) (stands : Bool) => s.updCore c (fun k => { k with dma := { k.dma with fail := st, stands := stands } })
  let b := s.storeRead c false (x.list % 2 ^ 48 + 128 * k.dma.row) 128 w
  if b.2.1 then fail (b.1.markLogged c i) stMemUnc false else
  -- where the entry reaches was fixed when admission counted it (R257)
  let was := atEntryOf (slice e.batch (128 * k.dma.row) 128)
  let a := { atEntryOf b.2.2 with target := was.target, tkind := was.tkind, sizeLog2 := was.sizeLog2 }
  if a.bad x.ret then fail b.1 stWindowFault true
  else if a.tkind = 0 ∧ (a.target / 2 ^ 48 ≠ 0 ∨ !b.1.regionOk c a.target (2 ^ a.sizeLog2) .a) then fail (b.1.accessRec c i 1 a.target) stWindowFault false
  else
    let r := atReq k.dma x a
    if !s.mayIssue c e r then s else
    let s1 := b.1.updCore c (fun k => { k with dma := { k.dma with
      row := k.dma.row + 1, nextReq := k.dma.nextReq + 1, sent := k.dma.sent + a.tkind, outst := k.dma.outst ++ [r.awaits] } })
    let opd := a.opdBytes
    let m : MemOp := .atomic (BitVec.ofNat 8 a.aop) (BitVec.ofNat 8 a.atype) a.ret a.comparand
    if a.tkind = 0 then
      s1.updChan (s.steer (a.target / 256)).1 (fun ch => { ch with queue := ch.queue ++ [
        { asker := .dma c r.id 0, op := m, addr := a.target, len := r.len, data := opd }] })
    else
      let y := (s1.noteWrites c i [(2 ^ 64 + a.target, opd)]).fabIssue c (s.planeOf r.j) a.target 4
        { fabSub a.target r.len false e.d.opTag opd with
          aop := BitVec.ofNat 8 a.aop, atype := BitVec.ofNat 8 a.atype, ret := a.ret, comparand := if a.aop = 4 then a.comparand else [] } (.dma c r.id 0)
      if y.2 then y.1 else s1.reqOver c r.id stWindowFault

/-- DMA_REQUEST_ISSUE: the engine issues the next request of the operation it runs, where a credit is free; with nothing left
to issue or to await, the operation ends. On the shadow of a Cast pair an operation that reaches outside the package makes no
request (R471). -/
def execDmaRequestIssue (c : CoreId) (ups : List Upset) (s0 : State) : Out :=
  let k := s0.core c
  match k.dma.entry with
  | none => .next s0
  | some i =>
    let e := k.entry i
    if !e.busy || (s0.castWaits e && !e.abortReq) then .next s0 else
    let s := s0.upset c ups
    let s1 := if k.dmaHalting i then s else if e.d.opcode = 2 then s.atomicIssue c i e else s.copyIssue c i e
    .next ((s1.noteRecords s c i).dmaSettle c i)

/-! ### DMA_REQUEST_ANSWER -/

/-- DMA_REQUEST_ANSWER: the oldest answer to a request is taken (R322, R332). -/
def execDmaRequestAnswer (c : CoreId) (req : Nat) (ups : List Upset) (s0 : State) : Out :=
  let k := s0.core c
  match k.dma.entry, takeFirst (fun a : DmaAns => a.req == req) k.dma.answers, k.dmaReq req with
  | some i, some (a, rest), some r =>
    if !(k.entry i).busy || r.waiting = 0 then .next s0 else
    let s := (s0.upset c ups).updCore c (fun k => { k with dma := { k.dma with answers := rest } })
    let at0 := failPlace (if r.phase = 1 then r.dstKind else r.srcKind) (if r.phase = 1 then r.dst else r.src)
    let s1 := if a.status = stWindowFault then s.accessRec c i at0.2 at0.1
              else if a.logged || a.status == stMemUnc || a.status == stTargetLost then s.markLogged c i else s
    let s2 := s1.updReq c req (fun x => { (x.took a.part a.status a.data) with waiting := x.waiting - 1 })
    .next (((s2.reqGoOn c i req).noteRecords s2 c i).dmaSettle c i).flushSelf
  | _, _, _ => .next s0

end Sys2Proof.Machine
end

