-- ==== Sys2Proof/Machine/Mesh.lean ====
section
/-! DEFINITION. The die mesh and the armature (R33 to R36), foreign requests at a resident-store slice (R194, R196), and
patrol scrub (R213, R214). -/

namespace Sys2Proof.Machine

def execFlitStore (src dst : BitVec 17) (s : State) : Out := .next (s.flitRequest src dst 0)
def execFlitLoadRequest (src dst : BitVec 17) (s : State) : Out := .next (s.flitRequest src dst 1)

/-- A tile with its header is written where its flit names (R33, R103). DESIGN CHOICE (log 44): no rule names an operation or unit that
sends a tile transfer, so nothing in the model does, and this command acts only on a mesh that holds one. -/
def execFlitTileTransfer (src dst : BitVec 17) (s : State) : Out := .next (s.flitRequest src dst 3)

def execFlitLoadResponse (src dst : BitVec 17) (s : State) : Out := .next (s.flitBack src dst 2)
def execFlitCompletionNotice (src dst : BitVec 17) (s : State) : Out := .next (s.flitBack src dst 4)

/-! ### Foreign requests and scrub -/

/-- FOREIGN_REQUEST_SERVE: the slice serves the oldest queued request, and one held in the router takes the freed place (R196). -/
def execForeignRequestServe (c : CoreId) (ups : List Upset) (s : State) : Out :=
  if (s.core c).foreign.isEmpty then .next s else .next ((s.upset c ups).foreignServe c)

/-- When the next row of a slice is due (R213, R641). -/
def State.scrubDue (s : State) (c : CoreId) : Nat :=
  let m := s.cdie c.die.val
  Nat.max m.scrubFrom (s.core c).scrubLast + m.scrubUs.toNat * 1000

/-- SCRUB_ROW: the slice reads its next row. A write accepted before the write-back drops it: the counts stand, and the words
keep their errors until that write replaces them (R214). -/
def execScrubRow (c : CoreId) (ups : List Upset) (newer : List Nat) (s0 : State) : Out :=
  let m := s0.cdie c.die.val
  if !m.scrubOn || m.scrubUs = 0 || !s0.railsUp c.die.val || s0.t < s0.scrubDue c then .next s0 else
  let s := s0.upset c ups
  let k := s.core c
  let rows := rsSize c / 512
  let row := k.scrubAt % rows
  let words := (List.range 64).map (row * 64 + ·)
  let errs := k.rsErr.filter (fun e => words.contains e.1)
  let j := s.judge c true words { source := 5, sev := 0 }
  let fixed := (errs.filter (fun e => e.2.length == 1)).length
  let s1 := j.1.updCore c (fun x => { x with
    scrubAt := (row + 1) % rows, scrubLast := s0.scrubDue c
    rsErr := if newer.isEmpty then x.rsErr else errs.foldl (fun t e => t.set e.1 e.2) x.rsErr
    scrubTimes := List.replicate fixed (row, s.t) ++ x.scrubTimes })
  .next (if c.p.val = 0 ∧ row + 1 = rows then s1.updCdie c.die.val (fun m => { m with scrubPasses := m.scrubPasses + 1 }) else s1)

end Sys2Proof.Machine
end

