-- ==== Sys2Proof/Machine/Riscv.lean ====
section
/-! DEFINITION. RISC-V instructions as the control units (R66) and the harts (R484) share them: compressed forms, immediates, and the integer
operations of the base set and of the extension M. -/

namespace Sys2Proof.Machine

/-- Bits `lo` to `lo + w - 1` of an instruction word. -/
def wordField (x : BitVec 32) (lo w : Nat) : BitVec w := x.extractLsb' lo w

/-! ### Compressed instructions: each stands for one of 32 bits -/

/-- A word of the R, I, S, B or J form; immediates are taken modulo their width. -/
def rForm (f7 rs2 rs1 f3 rd op : Nat) : BitVec 32 :=
  BitVec.ofNat 32 (f7 * 2 ^ 25 + rs2 * 2 ^ 20 + rs1 * 2 ^ 15 + f3 * 2 ^ 12 + rd * 2 ^ 7 + op)
def iForm (imm rs1 f3 rd op : Nat) : BitVec 32 := rForm (imm / 32 % 128) (imm % 32) rs1 f3 rd op
def sForm (imm rs2 rs1 f3 op : Nat) : BitVec 32 := rForm (imm / 32 % 128) rs2 rs1 f3 (imm % 32) op
def bForm (imm rs1 f3 : Nat) : BitVec 32 :=
  rForm (imm / 4096 % 2 * 64 + imm / 32 % 64) 0 rs1 f3 (imm / 2 % 16 * 2 + imm / 2048 % 2) 0x63
def jForm (imm rd : Nat) : BitVec 32 :=
  BitVec.ofNat 32 (imm / 2 ^ 20 % 2 * 2 ^ 31 + imm / 2 % 1024 * 2 ^ 21 + imm / 2048 % 2 * 2 ^ 20 + imm / 4096 % 256 * 2 ^ 12 + rd * 128 + 0x6F)

/-- A field of `w` bits with its sign carried up to 32 bits, as a number. -/
def signed32 (w v : Nat) : Nat := toUnsigned 32 (toSigned w v)

/-- The instruction that a compressed one stands for, in RV64 (`w`) or RV32; none where the extension C reserves it there or gives it to an
extension that RV32IMC has not. -/
def rvExpand (w : Bool) (x : BitVec 16) : Option (BitVec 32) :=
  let b := fun (lo w : Nat) => x.toNat / 2 ^ lo % 2 ^ w
  let rd := b 7 5
  let rs2 := b 2 5
  let hi := 8 + b 7 3
  let lo := 8 + b 2 3
  let imm := signed32 6 (b 12 1 * 32 + b 2 5)
  let word := b 10 3 * 8 + b 6 1 * 4 + b 5 1 * 64
  let dword := b 10 3 * 8 + b 5 2 * 64
  let dwordSp := b 12 1 * 32 + b 5 2 * 8 + b 2 3 * 64
  let dstoreSp := b 10 3 * 8 + b 7 3 * 64
  let sh := b 12 1 * 32 + rs2
  let shiftOk := w || b 12 1 == 0
  let jump := signed32 12 (b 12 1 * 2048 + b 11 1 * 16 + b 9 2 * 256 + b 8 1 * 1024 + b 7 1 * 64 + b 6 1 * 128 + b 3 3 * 2 + b 2 1 * 32)
  let branch := signed32 9 (b 12 1 * 256 + b 10 2 * 8 + b 5 2 * 64 + b 3 2 * 2 + b 2 1 * 32)
  let when := fun (p : Bool) (y : BitVec 32) => if p then some y else none
  match b 0 2, b 13 3 with
  | 0, 0 =>
    let up := b 11 2 * 16 + b 7 4 * 64 + b 6 1 * 4 + b 5 1 * 8
    when (up != 0) (iForm up 2 0 lo 0x13)
  | 0, 1 => when w (iForm dword hi 3 lo 0x07)
  | 0, 2 => some (iForm word hi 2 lo 0x03)
  | 0, 3 => when w (iForm dword hi 3 lo 0x03)
  | 0, 5 => when w (sForm dword lo hi 3 0x27)
  | 0, 6 => some (sForm word lo hi 2 0x23)
  | 0, 7 => when w (sForm dword lo hi 3 0x23)
  | 1, 0 => some (iForm imm rd 0 rd 0x13)
  | 1, 1 => if w then when (rd != 0) (iForm imm rd 0 rd 0x1B) else some (jForm jump 1)
  | 1, 2 => some (iForm imm 0 0 rd 0x13)
  | 1, 3 =>
    if rd = 2 then
      let sp := signed32 10 (b 12 1 * 512 + b 6 1 * 16 + b 5 1 * 64 + b 3 2 * 128 + b 2 1 * 32)
      when (sp != 0) (iForm sp 2 0 2 0x13)
    else when (imm != 0) (BitVec.ofNat 32 (imm * 4096 + rd * 128 + 0x37))
  | 1, 4 =>
    match b 10 2 with
    | 0 => when shiftOk (iForm sh hi 5 hi 0x13)
    | 1 => when shiftOk (iForm (0x400 + sh) hi 5 hi 0x13)
    | 2 => some (iForm imm hi 7 hi 0x13)
    | _ => match b 12 1, b 5 2 with
      | 0, 0 => some (rForm 0x20 lo hi 0 hi 0x33)
      | 0, 1 => some (rForm 0 lo hi 4 hi 0x33)
      | 0, 2 => some (rForm 0 lo hi 6 hi 0x33)
      | 0, _ => some (rForm 0 lo hi 7 hi 0x33)
      | _, 0 => when w (rForm 0x20 lo hi 0 hi 0x3B)
      | _, 1 => when w (rForm 0 lo hi 0 hi 0x3B)
      | _, _ => none
  | 1, 5 => some (jForm jump 0)
  | 1, 6 => some (bForm branch hi 0)
  | 1, 7 => some (bForm branch hi 1)
  | 2, 0 => when shiftOk (iForm sh rd 1 rd 0x13)
  | 2, 1 => when w (iForm dwordSp 2 3 rd 0x07)
  | 2, 2 => when (rd != 0) (iForm (b 12 1 * 32 + b 4 3 * 4 + b 2 2 * 64) 2 2 rd 0x03)
  | 2, 3 => when (w && rd != 0) (iForm dwordSp 2 3 rd 0x03)
  | 2, 4 =>
    if b 12 1 = 0 then (if rs2 = 0 then when (rd != 0) (iForm 0 rd 0 0 0x67) else some (rForm 0 rs2 0 0 rd 0x33))
    else if rs2 ≠ 0 then some (rForm 0 rs2 rd 0 rd 0x33)
    else some (if rd = 0 then iForm 1 0 0 0 0x73 else iForm 0 rd 0 1 0x67)
  | 2, 5 => when w (sForm dstoreSp rs2 2 3 0x27)
  | 2, 6 => some (sForm (b 9 4 * 4 + b 7 2 * 64) rs2 2 2 0x23)
  | 2, 7 => when w (sForm dstoreSp rs2 2 3 0x23)
  | _, _ => none

/-! ### Fields of a word of 32 bits -/

/-- Immediates of the I, S, B, U and J forms, carried up to a register of `w` bits. -/
def immI (w : Nat) (x : BitVec 32) : BitVec w := (wordField x 20 12).signExtend w
def immS (w : Nat) (x : BitVec 32) : BitVec w := (wordField x 25 7 ++ wordField x 7 5).signExtend w
def immB (w : Nat) (x : BitVec 32) : BitVec w :=
  (wordField x 31 1 ++ wordField x 7 1 ++ wordField x 25 6 ++ wordField x 8 4 ++ (0 : BitVec 1)).signExtend w
def immU (w : Nat) (x : BitVec 32) : BitVec w := (x &&& 0xFFFFF000).signExtend w
def immJ (w : Nat) (x : BitVec 32) : BitVec w :=
  (wordField x 31 1 ++ wordField x 12 8 ++ wordField x 20 1 ++ wordField x 21 10 ++ (0 : BitVec 1)).signExtend w

/-! ### Results, in registers of `w` bits -/

/-- The integer operations of the base set; `alt` is bit 30 of the word. -/
def rvAlu {w : Nat} (f3 : Nat) (alt : Bool) (a b : BitVec w) : BitVec w :=
  match f3 with
  | 0 => if alt then a - b else a + b
  | 1 => a <<< (b.toNat % w)
  | 2 => if a.toInt < b.toInt then BitVec.ofNat w 1 else 0
  | 3 => if a.toNat < b.toNat then BitVec.ofNat w 1 else 0
  | 4 => a ^^^ b
  | 5 => if alt then a.sshiftRight (b.toNat % w) else a >>> (b.toNat % w)
  | 6 => a ||| b
  | _ => a &&& b

/-- The operations of the extension M. -/
def rvMul {w : Nat} (f3 : Nat) (a b : BitVec w) : BitVec w :=
  match f3 with
  | 0 => a * b
  | 1 => BitVec.ofInt w (a.toInt * b.toInt / 2 ^ w)
  | 2 => BitVec.ofInt w (a.toInt * (b.toNat : Int) / 2 ^ w)
  | 3 => BitVec.ofNat w (a.toNat * b.toNat / 2 ^ w)
  | 4 => if b = 0 then BitVec.allOnes w else BitVec.ofInt w (a.toInt.tdiv b.toInt)
  | 5 => if b = 0 then BitVec.allOnes w else BitVec.ofNat w (a.toNat / b.toNat)
  | 6 => if b = 0 then a else BitVec.ofInt w (a.toInt.tmod b.toInt)
  | _ => if b = 0 then a else BitVec.ofNat w (a.toNat % b.toNat)

/-- Whether a branch is taken; none for a form that is reserved. -/
def rvBranch {w : Nat} (f3 : Nat) (a b : BitVec w) : Option Bool :=
  match f3 with
  | 0 => some (a == b)
  | 1 => some (a != b)
  | 4 => some (a.toInt < b.toInt)
  | 5 => some (b.toInt ≤ a.toInt)
  | 6 => some (a.toNat < b.toNat)
  | 7 => some (b.toNat ≤ a.toNat)
  | _ => none

/-- The result of a word in OP or OP-IMM (base set and M); none where another extension, or none, has it. -/
def rvOp {w : Nat} (imm : Bool) (f3 f7 : Nat) (a b : BitVec w) : Option (BitVec w) :=
  let alt := f7 == 0x20
  if imm ∧ f3 ≠ 1 ∧ f3 ≠ 5 then some (rvAlu f3 false a b)
  else if !imm ∧ f7 = 1 then some (rvMul f3 a b)
  else if f7 = 0 ∨ alt ∧ (f3 = 5 ∨ !imm ∧ f3 = 0) then some (rvAlu f3 alt a b)
  else none

end Sys2Proof.Machine
end

