-- ==== Sys2Proof/Machine/Rv32.lean ====
section
/-! DEFINITION. The control unit's own instructions: RV32IMC and Zicsr in machine mode (R66), fetched from its slice or from the firmware
memory (R67, R539), with the engine-issue instructions in custom-0 (R69). -/

namespace Sys2Proof.Machine

/-! ### CSRs (R66) -/

/-- A write of a CSR of the control unit: `mtvec`, `mie`, `mip` and `misa` take none, and the counters take theirs half by half. -/
def Core.setCsr (k : Core) (csr : Nat) (v : BitVec 32) : Core :=
  let low := fun (x : BitVec 64) => BitVec.ofNat 64 (x.toNat / 2 ^ 32 * 2 ^ 32 + v.toNat)
  let high := fun (x : BitVec 64) => BitVec.ofNat 64 (v.toNat * 2 ^ 32 + x.toNat % 2 ^ 32)
  match csr with
  | 0x300 => { k with gie := v.getLsbD 3, gpie := v.getLsbD 7 }
  | 0x340 => { k with mscratch := v }
  | 0x341 => { k with mepc := v &&& ~~~ 1 }
  | 0x342 => { k with mcause := v }
  | 0x343 => { k with mtval := v }
  | 0xB00 => { k with cycle := low k.cycle }
  | 0xB80 => { k with cycle := high k.cycle }
  | 0xB02 => { k with instret := low k.instret }
  | 0xB82 => { k with instret := high k.instret }
  | _ => k

/-- CSRRW, CSRRS, CSRRC and their immediate forms: a CSR that is not there, or a write of one that is read-only, is illegal; a set or a clear
of nothing writes nothing. -/
def State.cuZicsr (s : State) (c : CoreId) (csr f3 src : Nat) (rd : BitVec 5) : State :=
  let k := s.core c
  let writes := f3 % 4 == 1 || src != 0
  match s.cuCsr c csr with
  | none => s.cuIllegal c
  | some old =>
    if writes && csr / 1024 == 3 then s.cuIllegal c else
    let v := if 4 ≤ f3 then BitVec.ofNat 32 src else k.x (BitVec.ofNat 5 src)
    let new := match f3 % 4 with | 1 => v | 2 => old ||| v | _ => old &&& ~~~ v
    s.updCore c (fun k =>
      let q := k.retire rd old
      if writes then q.setCsr csr new else q)

/-! ### One instruction -/

/-- The engine-issue instruction of a word in custom-0: R-type, `funct7` 0 (R69). `pick` is the entry that a submission would take. -/
def cuWord (c : CoreId) (pick : Fin 64) (x : BitVec 32) : Option Instr :=
  let rd : BitVec 5 := wordField x 7 5
  let rs1 : BitVec 5 := wordField x 15 5
  let rs2 : BitVec 5 := wordField x 20 5
  if (wordField x 25 7).toNat ≠ 0 then none else
  match (wordField x 12 3).toNat with
  | 0 => some (.eiss c rd rs1 pick [])
  | 1 => some (.enext c rd)
  | 2 => some (.etest c rd)
  | 3 => some (.eabort c rd rs1 rs2)
  | 4 => some (.esum c rd rs1)
  | _ => none

/-- A control unit executes a word of custom-0: any other `funct3` or `funct7` raises the illegal-instruction exception (R69). -/
def State.cuRun (s : State) (c : CoreId) (pick : Fin 64) (x : BitVec 32) : Out :=
  match cuWord c pick x with
  | some (.eiss c rd rs1 pick ups) => execEiss c rd rs1 pick ups s
  | some (.enext c rd) => execEnext c rd s
  | some (.etest c rd) => execEtest c rd s
  | some (.eabort c rd rs1 rs2) => execEabort c rd rs1 rs2 s
  | some (.esum c rd rs1) => execEsum c rd rs1 s
  | _ => .next (if (s.core c).cuReady then s.cuIllegal c else s)

/-- ECALL, EBREAK, MRET and WFI; no other of this form exists in machine mode alone. -/
def State.cuSystem (s : State) (c : CoreId) (x : BitVec 32) : Out :=
  match x.toNat with
  | 0x00000073 => .next (s.cuTrap c 11 0)
  | 0x00100073 => .next ((s.cuTrap c 3 (Config.freeWord s.freeCount).toNat).drawn)
  | 0x30200073 => .next (s.updCore c (fun k => { k.retireTo k.mepc 0 0 with gie := k.gpie, gpie := true }))
  | 0x10500073 => execWfi c s
  | _ => .next (s.cuIllegal c)

/-- The control unit executes the instruction `x` at its pc, which took `n` bytes. -/
def State.rvExec (s : State) (c : CoreId) (x : BitVec 32) (n : BitVec 32) (pick : Fin 64) : Out :=
  let k := s.core c
  let rd : BitVec 5 := wordField x 7 5
  let f3 := (wordField x 12 3).toNat
  let r1 : BitVec 5 := wordField x 15 5
  let r2 : BitVec 5 := wordField x 20 5
  let f7 := (wordField x 25 7).toNat
  let a := k.x r1
  let b := k.x r2
  let put := fun (v : BitVec 32) => Host.Outcome.next (s.updCore c (fun k => k.retireTo (k.pc + n) rd v))
  let jump := fun (dst : BitVec 32) => Host.Outcome.next (s.updCore c (fun k => k.retireTo dst rd (k.pc + n)))
  let access := fun (t : State) => Host.Outcome.next (if (t.core c).cuTrapped then t else t.updCore c (fun k => { k with pc := k.pc + n }))
  let illegal := Host.Outcome.next (s.cuIllegal c)
  match (wordField x 0 7).toNat with
  | 0x37 => put (immU 32 x)
  | 0x17 => put (k.pc + immU 32 x)
  | 0x6F => jump (k.pc + immJ 32 x)
  | 0x67 => if f3 = 0 then jump ((a + immI 32 x) &&& ~~~ 1) else illegal
  | 0x63 => match rvBranch f3 a b with
    | some y => .next (s.updCore c (fun k => k.retireTo (if y then k.pc + immB 32 x else k.pc + n) 0 0))
    | none => illegal
  | 0x03 => if f3 = 3 ∨ 6 ≤ f3 then illegal else access (s.cuLoadStore c .load (Fin.ofNat 3 (f3 % 4)) (4 ≤ f3) (a + immI 32 x) rd [])
  | 0x23 => if 3 ≤ f3 then illegal else access (s.cuLoadStore c .store (Fin.ofNat 3 f3) false (a + immS 32 x) r2 [])
  | 0x13 => match rvOp true f3 f7 a (if f3 = 1 ∨ f3 = 5 then r2.setWidth 32 else immI 32 x) with | some v => put v | none => illegal
  | 0x33 => match rvOp false f3 f7 a b with | some v => put v | none => illegal
  | 0x0F => if f3 = 0 then .next (s.updCore c (fun k => k.retireTo (k.pc + n) 0 0)) else illegal
  | 0x73 =>
    if f3 = 0 then s.cuSystem c x
    else if f3 = 4 then illegal
    else .next (s.cuZicsr c (wordField x 20 12).toNat f3 r1.toNat rd)
  | 0x0B => s.cuRun c pick x
  | _ => illegal

/-- Two bytes of an instruction, from the firmware memory or the slice; none where the fetch faults. What the firmware memory holds beyond
the image's section is free. -/
def State.cuFetch (s : State) (c : CoreId) (a : Nat) : State × Option Nat :=
  if cuFirmwareAt a 2 then
    (s, some (leVal ((List.range 2).map (fun i => s.boot.cuFirmware.getD (a - 0x20000000 + i) (Config.freeByte a i)))))
  else match cuPlace c a 2 with
    | some (true, o) =>
      let r := s.storeRead c true o 2 ((s.core c).who 0 0)
      if r.2.1 then (r.1.cuTrap c 1 a, none) else (r.1, some (leVal r.2.2))
    | _ => (s.cuTrap c 1 a, none)

/-- The control unit fetches the instruction at its pc and executes it. -/
def State.cuStep (s : State) (c : CoreId) (pick : Fin 64) (ups : List Upset) : Out :=
  let pc := (s.core c).pc.toNat
  if !(s.core c).cuReady then .next s
  else if pc % 2 ≠ 0 then .next (s.cuTrap c 0 pc)
  else
    let p := (s.upset c ups).cuFetch c pc
    match p.2 with
    | none => .next p.1
    | some lo =>
      if lo % 4 ≠ 3 then
        match rvExpand false (BitVec.ofNat 16 lo) with
        | some x => p.1.rvExec c x 2 pick
        | none => .next (p.1.cuIllegal c)
      else
        let q := p.1.cuFetch c ((pc + 2) % 2 ^ 32)
        match q.2 with
        | none => .next q.1
        | some hi => q.1.rvExec c (BitVec.ofNat 32 (lo + hi * 65536)) 4 pick

/-- A fetch, load or store of the control unit. A fetch at the pc that is marked so is that of the instruction the control unit executes; the
entry that an EISS there would take is spelt by the two operands that a fetch does not use (log 43). -/
def execControlUnitLoadStore (c : CoreId) (k : AccKind) (size : Fin 3) (zeroExt : Bool) (addr : BitVec 32) (r : BitVec 5) (ups : List Upset) (s : State) : Out :=
  if k = .fetch ∧ zeroExt = true ∧ addr = (s.core c).pc then s.cuStep c (Fin.ofNat 64 (r.toNat + 32 * size.val)) ups
  else .next (s.cuLoadStore c k size zeroExt addr r ups)

end Sys2Proof.Machine
end

