-- ==== Sys2Proof/Machine/HartAccess.lean ====
section
/-! DEFINITION. One access of an application or service core, at the address its instruction gives (R485, R486, R488 to R493). -/

namespace Sys2Proof.Machine

/-! ### Registers as software names them (R485, R486, R505) -/

/-- `misa`: RV64 with A, C, D, F, I, M, S, U and X on an application core; A, C, I, M and U on a service core. -/
def misaOf (h : Nat) : BitVec 64 := if isService h then 0x8000000000101105 else 0x800000000094112D

/-- `mstatus` from the fields that the hart holds. -/
def HartRegs.mstatus (r : HartRegs) (h : Nat) : Nat :=
  word [(b2n r.sie, 1), (b2n r.mie, 3), (b2n r.spie, 5), (b2n r.mpie, 7), (b2n r.spp, 8), (r.mpp.toNat, 11), (r.fs.toNat, 13), (b2n r.mprv, 17)
      , (b2n r.sum, 18), (b2n r.mxr, 19), (b2n r.tvm, 20), (b2n r.tw, 21), (b2n r.tsr, 22), (2, 32), (if isService h then 0 else 2, 34)
      , (b2n (r.fs == 3), 63)]

/-- The fields of `mstatus` that `sstatus` shows. -/
def sstatusMask : Nat := 0x80000003000DE762

/-- A `pmpaddr` as software reads it: below the granularity of 4 KiB it reads ones for a power-of-two region and zeros else (R485). -/
def HartRegs.pmpAddr (r : HartRegs) (i : Nat) : BitVec 64 :=
  let v := r.pmpaddr.get i
  if bitsAt (r.pmpcfg.get i).toNat 3 2 = 3 then v ||| 0x1FF else v &&& ~~~ 0x3FF

/-- The pending interrupts, as `mip` shows them. -/
def State.mip (s : State) (h : Nat) : Nat := sumN ((s.hartPend h).map (2 ^ ·))

/-- What a CSR reads as, by its RISC-V number; none for one that the hart does not have. The event counters beyond those of R485 count
nothing. -/
def State.hartCsr (s : State) (h csr : Nat) : Option (BitVec 64) :=
  let r := s.hart h
  let app := fun (v : BitVec 64) => if isService h then none else some v
  if 0x3B0 ≤ csr ∧ csr < 0x3C0 then some (r.pmpAddr (csr - 0x3B0))
  else if csr = 0x3A0 ∨ csr = 0x3A2 then
    some (BitVec.ofNat 64 (sumN ((List.range 8).map (fun i => (r.pmpcfg.get ((csr - 0x3A0) * 4 + i)).toNat * 256 ^ i))))
  else if 0xB03 ≤ csr ∧ csr ≤ 0xB06 then some (r.hpm.get (csr - 0xB00))
  else if 0xC03 ≤ csr ∧ csr ≤ 0xC06 then some (r.hpm.get (csr - 0xC00))
  else if 0xB07 ≤ csr ∧ csr < 0xB20 ∨ 0xC07 ≤ csr ∧ csr < 0xC20 ∨ 0x323 ≤ csr ∧ csr < 0x340 then some 0
  else match csr with
  | 0x001 => app (r.fflags.setWidth 64)
  | 0x002 => app (r.frm.setWidth 64)
  | 0x003 => app (BitVec.ofNat 64 (r.fflags.toNat + 32 * r.frm.toNat))
  | 0x100 => app (BitVec.ofNat 64 (r.mstatus h &&& sstatusMask))
  | 0x104 => app (r.ienable &&& r.mideleg)
  | 0x105 => app r.stvec
  | 0x106 => app (r.scounteren.setWidth 64)
  | 0x10A => app (BitVec.ofNat 64 (b2n (r.fiom.getLsbD 1)))
  | 0x140 => app r.sscratch
  | 0x141 => app r.sepc
  | 0x142 => app r.scause
  | 0x143 => app r.stval
  | 0x144 => app (BitVec.ofNat 64 (s.mip h) &&& r.mideleg)
  | 0x14D => app r.stimecmp
  | 0x180 => app r.satp
  | 0x300 => some (BitVec.ofNat 64 (r.mstatus h))
  | 0x301 => some (misaOf h)
  | 0x302 => app r.medeleg
  | 0x303 => app r.mideleg
  | 0x304 => some r.ienable
  | 0x305 => some r.mtvec
  | 0x306 => some (r.mcounteren.setWidth 64)
  | 0x30A => some (BitVec.ofNat 64 (b2n (r.fiom.getLsbD 0) + if isService h then 0 else 2 ^ 63))
  | 0x340 => some r.mscratch
  | 0x341 => some r.mepc
  | 0x342 => some r.mcause
  | 0x343 => some r.mtval
  | 0x344 => some (BitVec.ofNat 64 (s.mip h))
  | 0x800 => app r.szvff
  | 0xB00 | 0xC00 => some r.cycle
  | 0xC01 => some (BitVec.ofNat 64 s.t)
  | 0xB02 | 0xC02 => some r.instret
  | 0xF11 | 0xF15 => some 0
  | 0xF12 => some 0x8000000000000820
  | 0xF13 => some 1
  | 0xF14 => some (BitVec.ofNat 64 h)
  | _ => none

/-- A write of eight PMP configurations: a locked one stays; an entry of 4 bytes cannot be chosen at this granularity, and one that may be
written but not read is reserved, so those fields stay (R485). -/
def HartRegs.putPmpcfg (r : HartRegs) (first : Nat) (v : BitVec 64) : HartRegs :=
  (List.range 8).foldl (fun r i =>
    let old := (r.pmpcfg.get (first + i)).toNat
    let b := v.toNat / 256 ^ i % 256
    let perm := if b % 4 = 2 then old % 8 else b % 8
    let form := if bitsAt b 3 2 = 2 then bitsAt old 3 2 else bitsAt b 3 2
    if bitAt old 7 then r else { r with pmpcfg := r.pmpcfg.set (first + i) (BitVec.ofNat 8 (perm + 8 * form + b / 128 * 128)) }) r

/-- A write of a PMP address: it stays where its entry, or one above that it is the bottom of, is locked. -/
def HartRegs.putPmpaddr (r : HartRegs) (i : Nat) (v : BitVec 64) : HartRegs :=
  let next := (r.pmpcfg.get (i + 1)).toNat
  if bitAt (r.pmpcfg.get i).toNat 7 || (i < 15 && bitAt next 7 && bitsAt next 3 2 == 1) then r
  else { r with pmpaddr := r.pmpaddr.set i (BitVec.ofNat 64 (v.toNat % 2 ^ 54)) }

/-- A write of `mstatus` (`all`) or `sstatus`: fields of modes and units that the hart has not stay 0, and a mode that it has not is no
previous mode. -/
def HartRegs.putStatus (r : HartRegs) (h : Nat) (all : Bool) (v : BitVec 64) : HartRegs :=
  let r1 := if isService h then r else
    { r with sie := v.getLsbD 1, spie := v.getLsbD 5, spp := v.getLsbD 8, fs := v.extractLsb' 13 2, sum := v.getLsbD 18, mxr := v.getLsbD 19 }
  if !all then r1 else
  let p : BitVec 2 := v.extractLsb' 11 2
  let r2 := { r1 with mie := v.getLsbD 3, mpie := v.getLsbD 7, mprv := v.getLsbD 17, tw := v.getLsbD 21
                      mpp := if p = 2 ∨ p = 1 ∧ isService h then r.mpp else p }
  if isService h then r2 else { r2 with tvm := v.getLsbD 20, tsr := v.getLsbD 22 }

/-- What a write of a CSR leaves: a mode of `satp` that is not Bare or Sv48 leaves it unchanged, only the supervisor's interrupts and no
environment call from M mode are delegated (R485). -/
def HartRegs.csrWrite (r : HartRegs) (h csr : Nat) (v : BitVec 64) : HartRegs :=
  if 0x3B0 ≤ csr ∧ csr < 0x3C0 then r.putPmpaddr (csr - 0x3B0) v
  else if csr = 0x3A0 ∨ csr = 0x3A2 then r.putPmpcfg ((csr - 0x3A0) * 4) v
  else if 0xB03 ≤ csr ∧ csr ≤ 0xB06 then { r with hpm := r.hpm.set (csr - 0xB00) v }
  else match csr with
  | 0x001 => { r with fflags := v.setWidth 5, fs := 3 }
  | 0x002 => { r with frm := v.setWidth 3, fs := 3 }
  | 0x003 => { r with fflags := v.setWidth 5, frm := v.extractLsb' 5 3, fs := 3 }
  | 0x100 => r.putStatus h false v
  | 0x104 => { r with ienable := (r.ienable &&& ~~~ r.mideleg) ||| (v &&& r.mideleg) }
  | 0x105 => { r with stvec := v &&& ~~~ 2 }
  | 0x106 => { r with scounteren := v.setWidth 32 }
  | 0x10A => { r with fiom := BitVec.ofNat 2 (b2n (r.fiom.getLsbD 0) + 2 * b2n (v.getLsbD 0)) }
  | 0x140 => { r with sscratch := v }
  | 0x141 => { r with sepc := v &&& ~~~ 1 }
  | 0x142 => { r with scause := v }
  | 0x143 => { r with stval := v }
  | 0x144 => if r.mideleg.getLsbD 1 then { r with ssip := v.getLsbD 1 } else r
  | 0x14D => { r with stimecmp := v }
  | 0x180 => r.putSatp v
  | 0x300 => r.putStatus h true v
  | 0x302 => { r with medeleg := v &&& 0xB3FF }
  | 0x303 => { r with mideleg := v &&& 0x222 }
  | 0x304 => { r with ienable := v &&& (if isService h then 0x880 else 0xAA2) }
  | 0x305 => { r with mtvec := v &&& ~~~ 2 }
  | 0x306 => { r with mcounteren := v.setWidth 32 }
  | 0x30A => { r with fiom := BitVec.ofNat 2 (b2n (v.getLsbD 0) + 2 * b2n (r.fiom.getLsbD 1)) }
  | 0x340 => { r with mscratch := v }
  | 0x341 => { r with mepc := v &&& ~~~ 1 }
  | 0x342 => { r with mcause := v }
  | 0x343 => { r with mtval := v }
  | 0x344 => if isService h then r else { r with ssip := v.getLsbD 1, seip := v.getLsbD 9 }
  | 0x800 => { r with szvff := v }
  | 0xB00 => { r with cycle := v }
  | 0xB02 => { r with instret := v }
  | _ => r

/-- The hart may read a CSR, and write it too: it has it, in a mode high enough; the registers of the floating-point unit need it on, `satp`
no trap of S mode, the counters what `mcounteren` and `scounteren` give. -/
def State.csrOk (s : State) (h csr : Nat) (writes : Bool) : Bool :=
  let r := s.hart h
  let bit := csr % 32
  csr / 256 % 4 ≤ r.mode.toNat && !(writes && csr / 1024 == 3) && (3 < csr || r.fs != 0) && !(csr == 0x180 && r.mode == 1 && r.tvm)
    && !(csr == 0x14D && r.mode == 1 && !r.mcounteren.getLsbD 1)
    && (csr / 32 != 0x60 || r.mode == 3 || (r.mcounteren.getLsbD bit && (r.mode == 1 || isService h || r.scounteren.getLsbD bit)))

/-! ### Places of an access -/

/-- Read checked bytes of a hart. A service core reaches package control space and its private SRAM as well (R486, R494). -/
def State.coreRead (s : State) (h npa n flips : Nat) (via : Via) : State × MemEnd × List Byte :=
  if !isService h || npa / 2 ^ 48 ≤ 1 || npa / 2 ^ 48 == 3 then s.hartRead h npa n flips via
  else if npa / 2 ^ 48 = 8 then
    let r := s.pcsRead (npa % 2 ^ 48)
    if pcsBlock (npa % 2 ^ 48) = .outside then (r.1.pcsOutside (pxUnit 1 (h - 96)) (npa % 2 ^ 48), .bad, []) else (r.1, .ok, leBytes 8 r.2)
  else match sramOf npa with
    | some o => (s, .ok, (List.range n).map (fun i => s.px.serviceRead (o + i)))
    | none => (s, .bad, [])

/-- Write checked bytes of a hart. -/
def State.coreWrite (s : State) (h npa : Nat) (bs : List Byte) (via : Via) : State × MemEnd :=
  if !isService h || npa / 2 ^ 48 ≤ 1 || npa / 2 ^ 48 == 3 then s.hartWrite h npa bs via
  else if npa / 2 ^ 48 = 8 then
    if pcsBlock (npa % 2 ^ 48) = .outside then (s.pcsOutside (pxUnit 1 (h - 96)) (npa % 2 ^ 48), .bad)
    else (s.pcsWrite (npa % 2 ^ 48) (BitVec.ofNat 64 (leVal bs)), .ok)
  else match sramOf npa with
    | some o => ({ s with px := ((List.range bs.length).zip bs).foldl (fun (p : Px) x => p.serviceWrite (o + x.1) x.2) s.px }, .ok)
    | none => (s, .bad)

/-- Read the pieces of an access in order. -/
def State.readPieces (s : State) (h flips : Nat) (via : Via) (ps : List (Nat × Nat)) : State × MemEnd × List Byte :=
  ps.foldl (fun (acc : State × MemEnd × List Byte) p =>
    if acc.2.1 ≠ .ok then acc else
    let x := acc.1.coreRead h p.1 p.2 flips via
    (x.1, x.2.1, acc.2.2 ++ x.2.2)) (s, .ok, [])

/-- Write the pieces of an access in order. -/
def State.writePieces (s : State) (h : Nat) (via : Via) (ps : List (Nat × Nat)) (bs : List Byte) : State × MemEnd :=
  let r := ps.foldl (fun (acc : State × MemEnd × List Byte) p =>
    if acc.2.1 ≠ .ok then acc else
    let x := acc.1.coreWrite h p.1 (acc.2.2.take p.2) via
    (x.1, x.2, acc.2.2.drop p.2)) (s, .ok, bs)
  (r.1, r.2.1)

/-- The line that an LR reserves and an SC needs: that of the first byte, at its NPA (R485). -/
def lineOf (ps : List (Nat × Nat)) : Nat := (ps.headD (0, 1)).1 / 64

/-- The access at its physical pieces: what it does, or what stops it. -/
def State.accessGo (s : State) (h : Nat) (k : AccKind) (n : Nat) (ps : List (Nat × Nat)) (r : BitVec 5) (v : Reg) (flips : Nat) : State × MemEnd :=
  let via := if k = .fetch then Via.fetch else if isAmo k then Via.shared else Via.data
  let line := lineOf ps
  if k = .store then s.writePieces h via ps (leBytes n v.toNat)
  else if k = .sc then
    let s1 := s.updHart h (fun r => { r with reserved := none })
    if (s.hart h).reserved ≠ some line then (s1.updHart h (fun x => x.setX r 1), .ok) else
    let x := s1.writePieces h via ps (leBytes n v.toNat)
    if x.2 = .ok then (x.1.updHart h (fun y => y.setX r 0), .ok) else x
  else
    let x := s.readPieces h flips via ps
    if x.2.1 ≠ .ok ∨ k = .fetch then (x.1, x.2.1)
    else if k = .load then (x.1.updHart h (fun y => y.loadInto v.toNat r x.2.2), .ok)
    else if k = .lr then (x.1.updHart h (fun y => { y.loadInto 0 r x.2.2 with reserved := some line }), .ok)
    else
      let y := x.1.writePieces h via ps (leBytes n (amoVal k (8 * n) (leVal x.2.2) v.toNat))
      if y.2 = .ok then (y.1.updHart h (fun z => z.loadInto 0 r x.2.2), .ok) else y

/-- An AMO, LR or SC names a word of the concentrator that takes only plain accesses of 8 bytes (R514). -/
def strictPiece (p : Nat × Nat) : Bool :=
  p.1 / 2 ^ 48 == 3 && ecBase ≤ p.1 % 2 ^ 48 && p.1 % 2 ^ 48 < ecBase + 0x10000 && ecStrict ((p.1 % 2 ^ 48 - ecBase) / 8 * 8)

/-- An access of a hart at the address of its instruction: translated, protected and checked, then made (R485, R486, R488 to R493), and
whether it was made; none where it waits for a credit (R489). -/
def State.coreAccess (s : State) (h : Nat) (k : AccKind) (size : Nat) (va : BitVec 64) (r : BitVec 5) (v : Reg) (errs : AccessErrs) : Option (State × Bool) :=
  let n := 2 ^ size
  let a := accOf k
  let one := isAmo k || k == .lr || k == .sc
  if !s.hartRuns h || (one && size < 2) then some (s, false)
  else if one && va.toNat % n != 0 then some (s.hartTrap h (causeMisaligned (k != .lr)) va, false)
  else
    let fault := causeAccess a.perm a.fetch
    let x := s.hartReach h va n a
    match x.2 with
    | .error .wait => none
    | .error (.cause c) => some (x.1.hartTrap h c va, false)
    | .ok ps =>
      let s1 := x.1.gddrStrike errs.sectors
      if one && ps.any strictPiece then some (s1.hartTrap h fault va, false) else
      let y := s1.accessGo h k n ps r v (((errs.flips.filter (fun e => e.1 == 0)).headD (0, 0)).2)
      match y.2 with
      | .ok => some (y.1, true)
      | .wait => none
      | .bad => some (y.1.hartTrap h fault va, false)

end Sys2Proof.Machine
end

