-- ==== Sys2Proof/Machine/Xszv.lean ====
section
/-! DEFINITION. The register operations of Xszv (R501, R502). -/

namespace Sys2Proof.Machine

/-! ### Element types -/

def isFp (et : BitVec 3) : Bool := 4 ≤ et.toNat

/-- The floating-point format of an element type. -/
def xszvFmt (et : BitVec 3) : FSpec := match et.toNat with | 4 => fp16 | 5 => bf16 | 6 => fp32 | _ => fp64

/-- A code is a signalling NaN. -/
def FSpec.isSnan (f : FSpec) (c : Nat) : Bool := (f.decode c).isNan && !bitAt c (f.fw - 1)

/-- The rounding mode of `frm`; values 5 to 7 name none. -/
def frmRnd (m : BitVec 3) : Option Rnd :=
  match m.toNat with | 0 => some .rne | 1 => some .rtz | 2 => some .rdn | 3 => some .rup | 4 => some .rmm | _ => none

/-- `fflags` bits NV, DZ, OF, UF, NX of flags of R179. -/
def fflagsOf (f : Flags) : BitVec 5 :=
  (if f &&& flNV = 0 then 0 else 16) ||| (if f &&& flDZ = 0 then 0 else 8) ||| (if f &&& flOF = 0 then 0 else 4)
    ||| (if f &&& flUF = 0 then 0 else 2) ||| (if f &&& flNX = 0 then 0 else 1)

/-! ### One element: code and flags -/

/-- A floating-point result of two codes: a signalling NaN operand sets NV. -/
def fpElem (f : FSpec) (a b : Nat) (g : FVal → FVal → FVal × Flags) : Nat × Flags :=
  let r := g (f.decode a) (f.decode b)
  (f.code r.1, r.2 ||| flIf (f.isSnan a || f.isSnan b) flNV)

/-- fmin and fmax of the F extension: only a signalling NaN sets NV. -/
def fpMinMax (f : FSpec) (a b : Nat) (mx : Bool) : Nat × Flags :=
  let r := if mx then fMax (f.decode a) (f.decode b) else fMin (f.decode a) (f.decode b)
  (f.code r.1, flIf (f.isSnan a || f.isSnan b) flNV)

/-- (a + b) * 0.5, rounded once. -/
def fpAvg (f : FSpec) (r : Rnd) (a b : FVal) : FVal × Flags :=
  let x := FVal.add r a b
  let y := fScale f r x.1 (-1)
  (y.1, x.2 ||| y.2)

/-- All ones or zero. -/
def maskElem (bits : Nat) (b : Bool) : Nat := if b then 2 ^ bits - 1 else 0

/-- A comparison of floating-point codes (R502). -/
def fpCmp (f : FSpec) (bits a b : Nat) (quiet : Bool) (g : FVal → FVal → Bool) : Nat × Flags :=
  let x := f.decode a
  let y := f.decode b
  (maskElem bits (g x y), flIf (if quiet then f.isSnan a || f.isSnan b else x.isNan || y.isNan) flNV)

/-- Convert a code from one format to another, rounding once. -/
def fpConvert (src dst : FSpec) (r : Rnd) (a : Nat) : Nat × Flags :=
  let x := dst.arith r (src.decode a)
  (dst.code x.1, x.2 ||| flIf (src.isSnan a) flNV)

/-- An integer saturated to `w` bits, signed or unsigned. -/
def satInt (w : Nat) (sgn : Bool) (v : Int) : Nat :=
  let lo : Int := if sgn then -(2 ^ (w - 1)) else 0
  let hi : Int := if sgn then 2 ^ (w - 1) - 1 else 2 ^ w - 1
  toUnsigned w (if v < lo then lo else if hi < v then hi else v)

/-! ### One instruction -/

/-- What a register operation writes: a vector with its flags, or an `x` register. -/
inductive XRes where
  | vec (v : Nat) (fl : Flags)
  | x (v : BitVec 64)
deriving DecidableEq, Repr, Inhabited

/-- Map one source. -/
def xmap1 (et : BitVec 3) (w : Bool) (a : Nat) (g : Nat → Nat × Flags) : XRes :=
  let bits := 8 * xszvSize et
  let l := (List.range (xszvCount et w)).map (fun i => g (elemAt bits a i))
  .vec (packElems bits (l.map (·.1))) (l.foldl (fun f e => f ||| e.2) 0)

/-- Map two sources. -/
def xmap2 (et : BitVec 3) (w : Bool) (a b : Nat) (g : Nat → Nat → Nat × Flags) : XRes :=
  let bits := 8 * xszvSize et
  let l := (List.range (xszvCount et w)).map (fun i => g (elemAt bits a i) (elemAt bits b i))
  .vec (packElems bits (l.map (·.1))) (l.foldl (fun f e => f ||| e.2) 0)

/-- Carry out a register operation: illegal when the form is not one of R501, the unit is off, or a named register is none
(R499, R500); else the result is written and the instruction retires. `g` gives the result from the hart's registers. -/
def State.xszvOp (s : State) (h : Nat) (legal : Bool) (rd : BitVec 5) (w : Bool) (g : HartRegs → XRes) : State :=
  if !s.hartRuns h then s
  else if s.xszvOff h || !legal then s.xszvIllegal h
  else s.xszvRetire h (fun r =>
    match g r with
    | .vec v fl => { r.setVec w rd v with fflags := r.fflags ||| fflagsOf fl }
    | .x v => { r.setX rd v with fs := 3 })

/-- The registers named are `f` registers or `q0` to `q15`. -/
def q2 (w : Bool) (rd rs1 : BitVec 5) : Bool := qOk w rd && qOk w rs1
def q3 (w : Bool) (rd rs1 rs2 : BitVec 5) : Bool := qOk w rd && qOk w rs1 && qOk w rs2

/-- `frm` names a rounding mode, for arithmetic that rounds. -/
def State.frmOk (s : State) (h : Nat) (et : BitVec 3) : Bool := !isFp et || (frmRnd (s.hart h).frm).isSome

def HartRegs.rnd (r : HartRegs) : Rnd := (frmRnd r.frm).getD .rne

/-- An element's codes as integers. -/
def sgn (et : BitVec 3) (c : Nat) : Int := toSigned (8 * xszvSize et) c

/-! ### The operations -/

/-- `add` (R501): sum. -/
def execAdd (h : Hart) (et : BitVec 3) (w : Bool) (rd rs1 rs2 : BitVec 5) (s : State) : Out :=
  .next (s.xszvOp h.val (q3 w rd rs1 rs2 && s.frmOk h.val et) rd w (fun r => xmap2 et w (r.vec w rs1) (r.vec w rs2) (fun a b =>
    if isFp et then fpElem (xszvFmt et) a b (fAdd (xszvFmt et) r.rnd) else (a + b, 0))))

/-- `sub` (R501): difference. -/
def execSub (h : Hart) (et : BitVec 3) (w : Bool) (rd rs1 rs2 : BitVec 5) (s : State) : Out :=
  .next (s.xszvOp h.val (q3 w rd rs1 rs2 && s.frmOk h.val et) rd w (fun r => xmap2 et w (r.vec w rs1) (r.vec w rs2) (fun a b =>
    if isFp et then fpElem (xszvFmt et) a b (fSub (xszvFmt et) r.rnd) else (toUnsigned (8 * xszvSize et) ((a : Int) - b), 0))))

/-- `mul` (R501): product; for integers its low half. -/
def execMul (h : Hart) (et : BitVec 3) (w : Bool) (rd rs1 rs2 : BitVec 5) (s : State) : Out :=
  .next (s.xszvOp h.val (q3 w rd rs1 rs2 && s.frmOk h.val et) rd w (fun r => xmap2 et w (r.vec w rs1) (r.vec w rs2) (fun a b =>
    if isFp et then fpElem (xszvFmt et) a b (fMul (xszvFmt et) r.rnd) else (a * b, 0))))

/-- `min` (R501): signed minimum, or minimumNumber. -/
def execMin (h : Hart) (et : BitVec 3) (w : Bool) (rd rs1 rs2 : BitVec 5) (s : State) : Out :=
  .next (s.xszvOp h.val (q3 w rd rs1 rs2) rd w (fun r => xmap2 et w (r.vec w rs1) (r.vec w rs2) (fun a b =>
    if isFp et then fpMinMax (xszvFmt et) a b false else (if sgn et b < sgn et a then b else a, 0))))

/-- `max` (R501): signed maximum, or maximumNumber. -/
def execMax (h : Hart) (et : BitVec 3) (w : Bool) (rd rs1 rs2 : BitVec 5) (s : State) : Out :=
  .next (s.xszvOp h.val (q3 w rd rs1 rs2) rd w (fun r => xmap2 et w (r.vec w rs1) (r.vec w rs2) (fun a b =>
    if isFp et then fpMinMax (xszvFmt et) a b true else (if sgn et a < sgn et b then b else a, 0))))

/-- `minu` (R501): unsigned minimum. -/
def execMinu (h : Hart) (et : BitVec 3) (w : Bool) (rd rs1 rs2 : BitVec 5) (s : State) : Out :=
  .next (s.xszvOp h.val (q3 w rd rs1 rs2 && !isFp et) rd w (fun r => xmap2 et w (r.vec w rs1) (r.vec w rs2) (fun a b => (Nat.min a b, 0))))

/-- `maxu` (R501): unsigned maximum. -/
def execMaxu (h : Hart) (et : BitVec 3) (w : Bool) (rd rs1 rs2 : BitVec 5) (s : State) : Out :=
  .next (s.xszvOp h.val (q3 w rd rs1 rs2 && !isFp et) rd w (fun r => xmap2 et w (r.vec w rs1) (r.vec w rs2) (fun a b => (Nat.max a b, 0))))

/-- `abs` (R501): absolute value; the most negative integer gives itself. -/
def execAbs (h : Hart) (et : BitVec 3) (w : Bool) (rd rs1 rs2 : BitVec 5) (s : State) : Out :=
  .next (s.xszvOp h.val (q2 w rd rs1 && rs2 == 0) rd w (fun r => xmap1 et w (r.vec w rs1) (fun a =>
    if isFp et then ((xszvFmt et).code ((xszvFmt et).decode a).abs, 0) else (toUnsigned (8 * xszvSize et) (sgn et a).natAbs, 0))))

/-- `avg` (R501): mean: integers unsigned and rounded up, floats rounded once. -/
def execAvg (h : Hart) (et : BitVec 3) (w : Bool) (rd rs1 rs2 : BitVec 5) (s : State) : Out :=
  .next (s.xszvOp h.val (q3 w rd rs1 rs2 && s.frmOk h.val et) rd w (fun r => xmap2 et w (r.vec w rs1) (r.vec w rs2) (fun a b =>
    if isFp et then fpElem (xszvFmt et) a b (fpAvg (xszvFmt et) r.rnd) else ((a + b + 1) / 2, 0))))

/-- `cmpeq` (R501): all ones where equal. -/
def execCmpeq (h : Hart) (et : BitVec 3) (w : Bool) (rd rs1 rs2 : BitVec 5) (s : State) : Out :=
  .next (s.xszvOp h.val (q3 w rd rs1 rs2) rd w (fun r => xmap2 et w (r.vec w rs1) (r.vec w rs2) (fun a b =>
    if isFp et then fpCmp (xszvFmt et) (8 * xszvSize et) a b true FVal.eq else (maskElem (8 * xszvSize et) (a == b), 0))))

/-- `cmplt` (R501): all ones where less. -/
def execCmplt (h : Hart) (et : BitVec 3) (w : Bool) (rd rs1 rs2 : BitVec 5) (s : State) : Out :=
  .next (s.xszvOp h.val (q3 w rd rs1 rs2) rd w (fun r => xmap2 et w (r.vec w rs1) (r.vec w rs2) (fun a b =>
    if isFp et then fpCmp (xszvFmt et) (8 * xszvSize et) a b false FVal.lt else (maskElem (8 * xszvSize et) (sgn et a < sgn et b), 0))))

/-- `cmple` (R501): all ones where not greater. -/
def execCmple (h : Hart) (et : BitVec 3) (w : Bool) (rd rs1 rs2 : BitVec 5) (s : State) : Out :=
  .next (s.xszvOp h.val (q3 w rd rs1 rs2) rd w (fun r => xmap2 et w (r.vec w rs1) (r.vec w rs2) (fun a b =>
    if isFp et then fpCmp (xszvFmt et) (8 * xszvSize et) a b false FVal.le else (maskElem (8 * xszvSize et) (sgn et a ≤ sgn et b), 0))))

/-- `cmpltu` (R501): all ones where less, unsigned. -/
def execCmpltu (h : Hart) (et : BitVec 3) (w : Bool) (rd rs1 rs2 : BitVec 5) (s : State) : Out :=
  .next (s.xszvOp h.val (q3 w rd rs1 rs2 && !isFp et) rd w (fun r => xmap2 et w (r.vec w rs1) (r.vec w rs2) (fun a b => (maskElem (8 * xszvSize et) (a < b), 0))))

/-- `sel` (R501): the old `rd` selects between the sources, bit by bit. -/
def execSel (h : Hart) (et : BitVec 3) (w : Bool) (rd rs1 rs2 : BitVec 5) (s : State) : Out :=
  .next (s.xszvOp h.val (q3 w rd rs1 rs2) rd w (fun r => 
    let m := r.vec w rd
    .vec ((m &&& r.vec w rs1) ||| ((2 ^ (8 * xszvBytes w) - 1 - m) &&& r.vec w rs2)) 0))

/-- The source elements of a widening: the low or the high half of a's. -/
def widenFrom (et : BitVec 3) (w high : Bool) (a : Nat) : List Nat :=
  let n := xszvCount et w / 2
  (List.range n).map (fun i => elemAt (8 * xszvSize et) a (if high then n + i else i))

/-- A widening (R501): sign or zero extension, or an exact conversion. -/
def widenRes (et : BitVec 3) (w high sign : Bool) (a : Nat) : XRes :=
  let b := 8 * xszvSize et
  let l := (widenFrom et w high a).map (fun c =>
    if isFp et then fpConvert (xszvFmt et) (if et = 6 then fp64 else fp32) .rne c
    else (if sign then toUnsigned (2 * b) (toSigned b c) else c, 0))
  .vec (packElems (2 * b) (l.map (·.1))) (l.foldl (fun f e => f ||| e.2) 0)

/-- A narrowing of integers: saturated to half the width, signed or unsigned (R501). -/
def narrowInt (et : BitVec 3) (w sign : Bool) (a b : Nat) : XRes :=
  let k := 8 * xszvSize et
  let n := xszvCount et w
  .vec (packElems (k / 2) (((List.range n).map (elemAt k a) ++ (List.range n).map (elemAt k b)).map (fun c => satInt (k / 2) sign (toSigned k c)))) 0

/-- A narrowing of floats: FP32 to BF16 or FP16, FP64 to FP32 (R501, R502). -/
def narrowFp (et : BitVec 3) (w : Bool) (r : Rnd) (a b : Nat) : XRes :=
  let src := if et = 7 then fp64 else fp32
  let dst := if et = 7 then fp32 else if et = 6 then fp16 else bf16
  let k := if et = 7 then 64 else 32
  let n := 8 * xszvBytes w / k
  let l := ((List.range n).map (elemAt k a) ++ (List.range n).map (elemAt k b)).map (fpConvert src dst r)
  .vec (packElems (k / 2) (l.map (·.1))) (l.foldl (fun f e => f ||| e.2) 0)

/-- `widen` (R501): the low half at twice its width. -/
def execWiden (h : Hart) (et : BitVec 3) (w : Bool) (rd rs1 rs2 : BitVec 5) (s : State) : Out :=
  .next (s.xszvOp h.val (q2 w rd rs1 && et != 3 && et != 7) rd w (fun r => widenRes et w false true (r.vec w rs1)))

/-- `widenh` (R501): the high half at twice its width. -/
def execWidenh (h : Hart) (et : BitVec 3) (w : Bool) (rd rs1 rs2 : BitVec 5) (s : State) : Out :=
  .next (s.xszvOp h.val (q2 w rd rs1 && et != 3 && et != 7) rd w (fun r => widenRes et w true true (r.vec w rs1)))

/-- `widenu` (R501): the low half, zero-extended. -/
def execWidenu (h : Hart) (et : BitVec 3) (w : Bool) (rd rs1 rs2 : BitVec 5) (s : State) : Out :=
  .next (s.xszvOp h.val (q2 w rd rs1 && et.toNat ≤ 2) rd w (fun r => widenRes et w false false (r.vec w rs1)))

/-- `widenuh` (R501): the high half, zero-extended. -/
def execWidenuh (h : Hart) (et : BitVec 3) (w : Bool) (rd rs1 rs2 : BitVec 5) (s : State) : Out :=
  .next (s.xszvOp h.val (q2 w rd rs1 && et.toNat ≤ 2) rd w (fun r => widenRes et w true false (r.vec w rs1)))

/-- `narrow` (R501): both sources at half their width. -/
def execNarrow (h : Hart) (et : BitVec 3) (w : Bool) (rd rs1 rs2 : BitVec 5) (s : State) : Out :=
  .next (s.xszvOp h.val (q3 w rd rs1 rs2 && et != 0 && et != 4 && s.frmOk h.val et) rd w (fun r => 
    if isFp et then narrowFp et w r.rnd (r.vec w rs1) (r.vec w rs2) else narrowInt et w true (r.vec w rs1) (r.vec w rs2)))

/-- `narrowu` (R501): both sources at half their width, saturated unsigned. -/
def execNarrowu (h : Hart) (et : BitVec 3) (w : Bool) (rd rs1 rs2 : BitVec 5) (s : State) : Out :=
  .next (s.xszvOp h.val (q3 w rd rs1 rs2 && 1 ≤ et.toNat && et.toNat ≤ 3) rd w (fun r => narrowInt et w false (r.vec w rs1) (r.vec w rs2)))

/-- `shuf` (R501): bytes chosen by the second source. -/
def execShuf (h : Hart) (et : BitVec 3) (w : Bool) (rd rs1 rs2 : BitVec 5) (s : State) : Out :=
  .next (s.xszvOp h.val (q3 w rd rs1 rs2 && et == 0) rd w (fun r => 
    .vec (packElems 8 ((List.range (xszvBytes w)).map (fun i =>
      let j := elemAt 8 (r.vec w rs2) i
      if j < xszvBytes w then elemAt 8 (r.vec w rs1) j else 0))) 0))

/-- Each 32-bit lane of the old `rd` plus a sum over its four bytes of the sources, modulo 2^32. -/
def laneSums (w : Bool) (old a b : Nat) (g : Nat → Nat → Int) : XRes :=
  .vec (packElems 32 ((List.range (xszvBytes w / 4)).map (fun k =>
    toUnsigned 32 ((elemAt 32 old k : Int) + ([0, 1, 2, 3].map (fun j => g (elemAt 8 a (4 * k + j)) (elemAt 8 b (4 * k + j)))).foldl (· + ·) 0)))) 0

/-- `dot` (R501): signed dot products of four bytes. -/
def execDot (h : Hart) (et : BitVec 3) (w : Bool) (rd rs1 rs2 : BitVec 5) (s : State) : Out :=
  .next (s.xszvOp h.val (q3 w rd rs1 rs2 && et == 2) rd w (fun r => laneSums w (r.vec w rd) (r.vec w rs1) (r.vec w rs2) (fun a b => toSigned 8 a * toSigned 8 b)))

/-- `dotus` (R501): unsigned times signed dot products of four bytes. -/
def execDotus (h : Hart) (et : BitVec 3) (w : Bool) (rd rs1 rs2 : BitVec 5) (s : State) : Out :=
  .next (s.xszvOp h.val (q3 w rd rs1 rs2 && et == 2) rd w (fun r => laneSums w (r.vec w rd) (r.vec w rs1) (r.vec w rs2) (fun a b => (a : Int) * toSigned 8 b)))

/-- `sad` (R501): sums of absolute differences of four unsigned bytes. -/
def execSad (h : Hart) (et : BitVec 3) (w : Bool) (rd rs1 rs2 : BitVec 5) (s : State) : Out :=
  .next (s.xszvOp h.val (q3 w rd rs1 rs2 && et == 2) rd w (fun r => laneSums w (r.vec w rd) (r.vec w rs1) (r.vec w rs2) (fun a b => (((a : Int) - b).natAbs : Int))))

/-- `splat` (R501): every element is the low bits of an `x` register. -/
def execSplat (h : Hart) (et : BitVec 3) (w : Bool) (rd rs1 rs2 : BitVec 5) (s : State) : Out :=
  .next (s.xszvOp h.val (qOk w rd && rs2 == 0) rd w (fun r => 
    .vec (packElems (8 * xszvSize et) (List.replicate (xszvCount et w) (r.xr rs1).toNat)) 0))

/-- `mlt` (R501): all ones below an index. -/
def execMlt (h : Hart) (et : BitVec 3) (w : Bool) (rd rs1 rs2 : BitVec 5) (s : State) : Out :=
  .next (s.xszvOp h.val (qOk w rd && rs2 == 0) rd w (fun r => 
    .vec (packElems (8 * xszvSize et) ((List.range (xszvCount et w)).map (fun i => maskElem (8 * xszvSize et) (i < (r.xr rs1).toNat)))) 0))

/-- `mtest` (R501): a bit mask of the elements' top bits. -/
def execMtest (h : Hart) (et : BitVec 3) (w : Bool) (rd rs1 rs2 : BitVec 5) (s : State) : Out :=
  .next (s.xszvOp h.val (qOk w rs1 && rs2 == 0) rd w (fun r => 
    .x (BitVec.ofNat 64 (packElems 1 ((List.range (xszvCount et w)).map (fun i =>
      elemAt (8 * xszvSize et) (r.vec w rs1) i / 2 ^ (8 * xszvSize et - 1)))))))

end Sys2Proof.Machine
end

