-- ==== Sys2Proof/Machine/Rv64.lean ====
section
/-! DEFINITION. The harts' own instructions (R484 to R486): RV64IMAC with Zicsr and Zifencei, and on application cores F, D, Zba, Zbb, Zbs and
the words of Xszv (R500, R501, R503). -/

namespace Sys2Proof.Machine

/-! ### Zba, Zbb, Zbs -/

/-- Leading zeros, trailing zeros, ones. -/
def countLead {w : Nat} (x : BitVec w) : Nat := if x = 0 then w else w - 1 - Nat.log2 x.toNat
def countTrail {w : Nat} (x : BitVec w) : Nat := ((List.range w).find? (fun i => x.getLsbD i)).getD w
def countOnes {w : Nat} (x : BitVec w) : Nat := ((List.range w).filter (fun i => x.getLsbD i)).length

/-- CLZ, CTZ and CPOP by the low bits of their immediate. -/
def countOp {w : Nat} (k : Nat) (x : BitVec w) : Nat := match k with | 0 => countLead x | 1 => countTrail x | _ => countOnes x

/-- The operations of two registers in OP. -/
def zbOp (f3 f7 : Nat) (a b : BitVec 64) : Option (BitVec 64) :=
  let bit : BitVec 64 := 1 <<< (b.toNat % 64)
  match f7, f3 with
  | 0x10, 2 => some ((a <<< 1) + b)
  | 0x10, 4 => some ((a <<< 2) + b)
  | 0x10, 6 => some ((a <<< 3) + b)
  | 0x20, 4 => some (~~~ (a ^^^ b))
  | 0x20, 6 => some (a ||| ~~~ b)
  | 0x20, 7 => some (a &&& ~~~ b)
  | 0x05, 4 => some (if b.toInt < a.toInt then b else a)
  | 0x05, 5 => some (if b.toNat < a.toNat then b else a)
  | 0x05, 6 => some (if a.toInt < b.toInt then b else a)
  | 0x05, 7 => some (if a.toNat < b.toNat then b else a)
  | 0x30, 1 => some (a.rotateLeft (b.toNat % 64))
  | 0x30, 5 => some (a.rotateRight (b.toNat % 64))
  | 0x24, 1 => some (a &&& ~~~ bit)
  | 0x24, 5 => some (if a.getLsbD (b.toNat % 64) then 1 else 0)
  | 0x34, 1 => some (a ^^^ bit)
  | 0x14, 1 => some (a ||| bit)
  | _, _ => none

/-- The operations of a register and an immediate in OP-IMM. -/
def zbImm (f3 imm : Nat) (a : BitVec 64) : Option (BitVec 64) :=
  let sh := imm % 64
  let bit : BitVec 64 := 1 <<< sh
  let bytes := fun (g : Nat → Nat) => BitVec.ofNat 64 (leVal ((List.range 8).map (fun i => BitVec.ofNat 8 (g i))))
  let byte := fun (i : Nat) => a.toNat / 256 ^ i % 256
  if f3 = 1 then
    if 0x600 ≤ imm ∧ imm ≤ 0x602 then some (BitVec.ofNat 64 (countOp (imm - 0x600) a))
    else if imm = 0x604 then some ((a.setWidth 8).signExtend 64)
    else if imm = 0x605 then some ((a.setWidth 16).signExtend 64)
    else match imm / 64 with
      | 0x12 => some (a &&& ~~~ bit)
      | 0x1A => some (a ^^^ bit)
      | 0x0A => some (a ||| bit)
      | _ => none
  else if f3 = 5 then
    if imm = 0x287 then some (bytes (fun i => if byte i = 0 then 0 else 0xFF))
    else if imm = 0x6B8 then some (bytes (fun i => byte (7 - i)))
    else match imm / 64 with
      | 0x18 => some (a.rotateRight sh)
      | 0x12 => some (if a.getLsbD sh then 1 else 0)
      | _ => none
  else none

/-- The operations of two registers in OP-32. -/
def zbOp32 (f3 f7 rs2 : Nat) (a b : BitVec 64) : Option (BitVec 64) :=
  let lo : BitVec 64 := (a.setWidth 32).setWidth 64
  let w : BitVec 32 := a.setWidth 32
  match f7, f3 with
  | 0x04, 0 => some (lo + b)
  | 0x10, 2 => some ((lo <<< 1) + b)
  | 0x10, 4 => some ((lo <<< 2) + b)
  | 0x10, 6 => some ((lo <<< 3) + b)
  | 0x04, 4 => if rs2 = 0 then some ((a.setWidth 16).setWidth 64) else none
  | 0x30, 1 => some ((w.rotateLeft (b.toNat % 32)).signExtend 64)
  | 0x30, 5 => some ((w.rotateRight (b.toNat % 32)).signExtend 64)
  | _, _ => none

/-- The operations of a register and an immediate in OP-IMM-32. -/
def zbImm32 (f3 imm : Nat) (a : BitVec 64) : Option (BitVec 64) :=
  let w : BitVec 32 := a.setWidth 32
  if f3 = 1 then
    if imm / 64 = 2 then some ((w.setWidth 64) <<< (imm % 64))
    else if 0x600 ≤ imm ∧ imm ≤ 0x602 then some (BitVec.ofNat 64 (countOp (imm - 0x600) w))
    else none
  else if f3 = 5 ∧ imm / 32 = 0x30 then some ((w.rotateRight (imm % 32)).signExtend 64)
  else none

/-! ### F and D -/

/-- The code of a floating-point register, of the double format or the single one, whose value is NaN-boxed (R498). -/
def HartRegs.fCode (r : HartRegs) (d : Bool) (i : BitVec 5) : Nat :=
  let v := (r.f.get i.toNat).toNat
  if d then v else if v / 2 ^ 32 = 2 ^ 32 - 1 then v % 2 ^ 32 else fp32.nanCode

/-- A floating-point result: its register, the flags, and `FS` Dirty. -/
def HartRegs.putF (r : HartRegs) (d : Bool) (rd : BitVec 5) (x : Nat × Flags) : HartRegs :=
  { r with f := r.f.set rd.toNat (BitVec.ofNat 64 (if d then x.1 else x.1 + (2 ^ 64 - 2 ^ 32))), fflags := r.fflags ||| fflagsOf x.2, fs := 3 }

/-- An integer result of a floating-point operation: `FS` is Dirty where a flag is raised. -/
def HartRegs.putFx (r : HartRegs) (rd : BitVec 5) (v : BitVec 64) (fl : Flags) : HartRegs :=
  let g := fflagsOf fl
  let q := r.setX rd v
  { q with fflags := r.fflags ||| g, fs := if g = 0 then r.fs else 3 }

/-- A multiply-add: an invalid product sets NV beside a quiet NaN too. -/
def fpFma (f : FSpec) (r : Rnd) (a b c : Nat) (negProd negC : Bool) : Nat × Flags :=
  let x := f.decode a
  let y := f.decode b
  let z := f.decode c
  let v := fFma f r (if negProd then x.neg else x) y (if negC then z.neg else z)
  let inf := fun (v : FVal) => match v with | .inf _ => true | _ => false
  let bad := inf x && y.isZero || x.isZero && inf y || f.isSnan a || f.isSnan b || f.isSnan c
  (f.code v.1, v.2 ||| flIf bad flNV)

/-- A conversion to an integer of `w` bits: what does not fit becomes the nearest value that does, and a NaN the largest, with NV. -/
def fpToInt (f : FSpec) (r : Rnd) (w : Nat) (sgn : Bool) (a : Nat) : BitVec 64 × Flags :=
  let lo : Int := if sgn then -(2 ^ (w - 1)) else 0
  let hi : Int := if sgn then 2 ^ (w - 1) - 1 else 2 ^ w - 1
  let out := fun (i : Int) => BitVec.ofInt 64 (toSigned w (toUnsigned w i))
  match f.decode a with
  | .nan _ => (out hi, flNV)
  | .inf n => (out (if n then lo else hi), flNV)
  | v =>
    let i := v.toInt r
    if i.1 < lo then (out lo, flNV) else if hi < i.1 then (out hi, flNV) else (out i.1, flIf i.2 flNX)

/-- FCLASS: one bit for the class of a code. -/
def fpClass (f : FSpec) (a : Nat) : Nat :=
  match f.decode a with
  | .nan _ => if f.isSnan a then 2 ^ 8 else 2 ^ 9
  | .inf n => if n then 1 else 2 ^ 7
  | .num n m _ =>
    let sub := a / 2 ^ f.fw % 2 ^ f.ew == 0
    if m = 0 then (if n then 2 ^ 3 else 2 ^ 4) else if sub then (if n then 2 ^ 2 else 2 ^ 5) else (if n then 2 else 2 ^ 6)

/-- The sign of one code, or of a combination of two, on the magnitude of the first. -/
def fpSign (f : FSpec) (f3 a b : Nat) : Nat :=
  let top := 2 ^ (f.ew + f.fw)
  let sa := a / top % 2
  let sb := b / top % 2
  a % top + top * (match f3 with | 0 => sb | 1 => 1 - sb | _ => (sa + sb) % 2)

/-- A word of OP-FP or of the multiply-adds; none where it is no instruction. -/
def HartRegs.opFp (r : HartRegs) (x : BitVec 32) : Option HartRegs :=
  let rd : BitVec 5 := wordField x 7 5
  let r1 : BitVec 5 := wordField x 15 5
  let r2 : BitVec 5 := wordField x 20 5
  let r3 : BitVec 5 := wordField x 27 5
  let f3 := (wordField x 12 3).toNat
  let op := (wordField x 0 7).toNat
  let d := x.getLsbD 25
  let f := if d then fp64 else fp32
  let a := r.fCode d r1
  let b := r.fCode d r2
  let rm := frmRnd (if f3 = 7 then r.frm else BitVec.ofNat 3 f3)
  let k := r2.toNat
  if x.getLsbD 26 then none
  else if op ≠ 0x53 then
    rm.map (fun m => r.putF d rd (fpFma f m a b (r.fCode d r3) (op == 0x4B || op == 0x4F) (op == 0x47 || op == 0x4F)))
  else match r3.toNat with
  | 0x00 => rm.map (fun m => r.putF d rd (fpElem f a b (fAdd f m)))
  | 0x01 => rm.map (fun m => r.putF d rd (fpElem f a b (fSub f m)))
  | 0x02 => rm.map (fun m => r.putF d rd (fpElem f a b (fMul f m)))
  | 0x03 => rm.map (fun m => r.putF d rd (fpElem f a b (fDiv f m)))
  | 0x0B => if k ≠ 0 then none else rm.map (fun m => r.putF d rd (fpElem f a a (fun v _ => fSqrt f m v)))
  | 0x04 => if 3 ≤ f3 then none else some (r.putF d rd (fpSign f f3 a b, 0))
  | 0x05 => if 2 ≤ f3 then none else some (r.putF d rd (fpMinMax f a b (f3 == 1)))
  | 0x08 => if k ≠ (if d then 0 else 1) then none else rm.map (fun m => r.putF d rd (fpConvert (if d then fp32 else fp64) f m (r.fCode (!d) r1)))
  | 0x14 =>
    let cmp := fun (quiet : Bool) (g : FVal → FVal → Bool) =>
      let y := fpCmp f 1 a b quiet g
      some (r.putFx rd (BitVec.ofNat 64 y.1) y.2)
    match f3 with
    | 0 => cmp false FVal.le
    | 1 => cmp false FVal.lt
    | 2 => cmp true FVal.eq
    | _ => none
  | 0x18 => if 4 ≤ k then none else rm.map (fun m =>
      let y := fpToInt f m (if k < 2 then 32 else 64) (k % 2 == 0) a
      r.putFx rd y.1 y.2)
  | 0x1A => if 4 ≤ k then none else rm.map (fun m =>
      let w := if k < 2 then 32 else 64
      let v := (r.xr r1).toNat % 2 ^ w
      let y := f.arith m (FVal.ofInt (if k % 2 = 0 then toSigned w v else v))
      r.putF d rd (f.code y.1, y.2))
  | 0x1C =>
    if k ≠ 0 then none else match f3 with
    | 0 =>
      let v := r.f.get r1.toNat
      some (r.putFx rd (if d then v else (v.setWidth 32).signExtend 64) 0)
    | 1 => some (r.putFx rd (BitVec.ofNat 64 (fpClass f a)) 0)
    | _ => none
  | 0x1E => if k ≠ 0 ∨ f3 ≠ 0 then none else some (r.putF d rd ((r.xr r1).toNat % 2 ^ (if d then 64 else 32), 0))
  | _ => none

/-! ### The words of Xszv -/

/-- The Xszv register operation of a word in custom-0, or memory operation of one in custom-1 (R500, R501, R503). -/
def xszvWord (h : Hart) (x : BitVec 32) : Option Instr :=
  let rd : BitVec 5 := wordField x 7 5
  let et : BitVec 3 := wordField x 12 3
  let rs1 : BitVec 5 := wordField x 15 5
  let rs2 : BitVec 5 := wordField x 20 5
  let w := x.getLsbD 26
  if x.getLsbD 25 then none
  else if (wordField x 0 7).toNat = 0x2B then
    match (wordField x 27 5).toNat with
    | 0x00 => some (.xld h et w rd rs1 rs2 {})
    | 0x01 => some (.xst h et w rd rs1 rs2)
    | 0x02 => some (.xldff h et w rd rs1 rs2 {})
    | 0x03 => some (.xstm h et w rd rs1 rs2)
    | _ => none
  else
    match (wordField x 27 5).toNat with
    | 0x00 => some (.add h et w rd rs1 rs2)
    | 0x01 => some (.sub h et w rd rs1 rs2)
    | 0x02 => some (.mul h et w rd rs1 rs2)
    | 0x03 => some (.min h et w rd rs1 rs2)
    | 0x04 => some (.max h et w rd rs1 rs2)
    | 0x05 => some (.minu h et w rd rs1 rs2)
    | 0x06 => some (.maxu h et w rd rs1 rs2)
    | 0x07 => some (.abs h et w rd rs1 rs2)
    | 0x08 => some (.avg h et w rd rs1 rs2)
    | 0x09 => some (.cmpeq h et w rd rs1 rs2)
    | 0x0A => some (.cmplt h et w rd rs1 rs2)
    | 0x0B => some (.cmple h et w rd rs1 rs2)
    | 0x0C => some (.cmpltu h et w rd rs1 rs2)
    | 0x0D => some (.sel h et w rd rs1 rs2)
    | 0x0E => some (.widen h et w rd rs1 rs2)
    | 0x0F => some (.widenh h et w rd rs1 rs2)
    | 0x10 => some (.widenu h et w rd rs1 rs2)
    | 0x11 => some (.widenuh h et w rd rs1 rs2)
    | 0x12 => some (.narrow h et w rd rs1 rs2)
    | 0x13 => some (.narrowu h et w rd rs1 rs2)
    | 0x14 => some (.shuf h et w rd rs1 rs2)
    | 0x15 => some (.dot h et w rd rs1 rs2)
    | 0x16 => some (.dotus h et w rd rs1 rs2)
    | 0x17 => some (.sad h et w rd rs1 rs2)
    | 0x18 => some (.splat h et w rd rs1 rs2)
    | 0x19 => some (.mlt h et w rd rs1 rs2)
    | 0x1A => some (.mtest h et w rd rs1 rs2)
    | _ => none

/-- A hart executes a word of custom-0 or custom-1: a set bit 25, or an `op` that R501 and R503 do not list, raises the illegal-instruction
exception. -/
def State.xszvStep (s : State) (h : Hart) (x : BitVec 32) (errs : AccessErrs) : Out :=
  match xszvWord h x with
  | some (.xld h et w rd rs1 rs2 _) => execXld h et w rd rs1 rs2 errs s
  | some (.xst h et w rd rs1 rs2) => execXst h et w rd rs1 rs2 s
  | some (.xldff h et w rd rs1 rs2 _) => execXldff h et w rd rs1 rs2 errs s
  | some (.xstm h et w rd rs1 rs2) => execXstm h et w rd rs1 rs2 s
  | some (.add h et w rd rs1 rs2) => execAdd h et w rd rs1 rs2 s
  | some (.sub h et w rd rs1 rs2) => execSub h et w rd rs1 rs2 s
  | some (.mul h et w rd rs1 rs2) => execMul h et w rd rs1 rs2 s
  | some (.min h et w rd rs1 rs2) => execMin h et w rd rs1 rs2 s
  | some (.max h et w rd rs1 rs2) => execMax h et w rd rs1 rs2 s
  | some (.minu h et w rd rs1 rs2) => execMinu h et w rd rs1 rs2 s
  | some (.maxu h et w rd rs1 rs2) => execMaxu h et w rd rs1 rs2 s
  | some (.abs h et w rd rs1 rs2) => execAbs h et w rd rs1 rs2 s
  | some (.avg h et w rd rs1 rs2) => execAvg h et w rd rs1 rs2 s
  | some (.cmpeq h et w rd rs1 rs2) => execCmpeq h et w rd rs1 rs2 s
  | some (.cmplt h et w rd rs1 rs2) => execCmplt h et w rd rs1 rs2 s
  | some (.cmple h et w rd rs1 rs2) => execCmple h et w rd rs1 rs2 s
  | some (.cmpltu h et w rd rs1 rs2) => execCmpltu h et w rd rs1 rs2 s
  | some (.sel h et w rd rs1 rs2) => execSel h et w rd rs1 rs2 s
  | some (.widen h et w rd rs1 rs2) => execWiden h et w rd rs1 rs2 s
  | some (.widenh h et w rd rs1 rs2) => execWidenh h et w rd rs1 rs2 s
  | some (.widenu h et w rd rs1 rs2) => execWidenu h et w rd rs1 rs2 s
  | some (.widenuh h et w rd rs1 rs2) => execWidenuh h et w rd rs1 rs2 s
  | some (.narrow h et w rd rs1 rs2) => execNarrow h et w rd rs1 rs2 s
  | some (.narrowu h et w rd rs1 rs2) => execNarrowu h et w rd rs1 rs2 s
  | some (.shuf h et w rd rs1 rs2) => execShuf h et w rd rs1 rs2 s
  | some (.dot h et w rd rs1 rs2) => execDot h et w rd rs1 rs2 s
  | some (.dotus h et w rd rs1 rs2) => execDotus h et w rd rs1 rs2 s
  | some (.sad h et w rd rs1 rs2) => execSad h et w rd rs1 rs2 s
  | some (.splat h et w rd rs1 rs2) => execSplat h et w rd rs1 rs2 s
  | some (.mlt h et w rd rs1 rs2) => execMlt h et w rd rs1 rs2 s
  | some (.mtest h et w rd rs1 rs2) => execMtest h et w rd rs1 rs2 s
  | _ => .next (if s.hartRuns h.val then s.xszvIllegal h.val else s)

def State.xszvRun (s : State) (h : Hart) (x : BitVec 32) : Out := s.xszvStep h x {}

/-! ### One instruction -/

/-- CSRRW, CSRRS, CSRRC and their immediate forms. -/
def State.hartZicsr (s : State) (h csr f3 src : Nat) (rd : BitVec 5) (n : BitVec 64) : State :=
  let r := s.hart h
  let writes := f3 % 4 == 1 || src != 0
  match s.hartCsr h csr with
  | none => s.xszvIllegal h
  | some old =>
    if !s.csrOk h csr writes then s.xszvIllegal h else
    let v := if 4 ≤ f3 then BitVec.ofNat 64 src else r.xr (BitVec.ofNat 5 src)
    -- of `mip` a set or clear takes the bits that software wrote, not a unit's signal
    let base := if csr = 0x344 then BitVec.ofNat 64 (2 * b2n r.ssip + 512 * b2n r.seip) else old
    let new := match f3 % 4 with | 1 => v | 2 => base ||| v | _ => base &&& ~~~ v
    s.updHart h (fun r =>
      let q := (r.setX rd old).retiredTo (r.pc + n)
      if writes then q.csrWrite h csr new else q)

/-- A return from an exception: MRET and SRET. -/
def HartRegs.mret (r : HartRegs) : HartRegs :=
  { r.retiredTo r.mepc with mode := r.mpp, mie := r.mpie, mpie := true, mpp := 0, mprv := r.mprv && r.mpp == 3 }
def HartRegs.sret (r : HartRegs) : HartRegs :=
  { r.retiredTo r.sepc with mode := if r.spp then 1 else 0, sie := r.spie, spie := true, spp := false, mprv := false }

/-- ECALL, EBREAK, MRET, SRET, WFI and SFENCE.VMA. -/
def State.hartSystem (s : State) (h : Nat) (x : BitVec 32) (n : BitVec 64) : State :=
  let r := s.hart h
  let app := !isService h
  let next := s.updHart h (fun r => r.retiredTo (r.pc + n))
  let illegal := s.xszvIllegal h
  match x.toNat with
  | 0x00000073 => s.hartTrap h (8 + r.mode.toNat) 0
  | 0x00100073 => (s.hartTrap h 3 (Config.freeWord s.freeCount)).drawn
  | 0x30200073 => if r.mode = 3 then s.updHart h HartRegs.mret else illegal
  | 0x10200073 => if app && r.mode != 0 && !(r.mode == 1 && r.tsr) then s.updHart h HartRegs.sret else illegal
  | 0x10500073 =>
    if r.mode != 3 && (r.tw || (app && r.mode == 0)) then illegal else next.updHart h (fun r => { r with wfi := true })
  | _ =>
    if x.toNat / 2 ^ 25 = 0x09 ∧ (wordField x 7 5).toNat = 0 then
      if app && r.mode != 0 && !(r.mode == 1 && r.tvm) then next else illegal
    else illegal

/-- The operation of a word of AMO. -/
def amoKind (f5 rs2 : Nat) : Option AccKind :=
  match f5 with
  | 0x00 => some .amoAdd
  | 0x01 => some .amoSwap
  | 0x02 => if rs2 = 0 then some .lr else none
  | 0x03 => some .sc
  | 0x04 => some .amoXor
  | 0x08 => some .amoOr
  | 0x0C => some .amoAnd
  | 0x10 => some .amoMin
  | 0x14 => some .amoMax
  | 0x18 => some .amoMinu
  | 0x1C => some .amoMaxu
  | _ => none

/-- The hart executes the instruction `x` at its pc, which took `n` bytes; none where it waits for a credit. -/
def State.hartExec (s : State) (h : Hart) (x : BitVec 32) (n : BitVec 64) (errs : AccessErrs) : Option State :=
  let r := s.hart h.val
  let app := !isService h.val
  let rd : BitVec 5 := wordField x 7 5
  let f3 := (wordField x 12 3).toNat
  let r1 : BitVec 5 := wordField x 15 5
  let r2 : BitVec 5 := wordField x 20 5
  let f7 := (wordField x 25 7).toNat
  let imm := (wordField x 20 12).toNat
  let a := r.xr r1
  let b := r.xr r2
  let low := fun (v : BitVec 64) => (v.setWidth 32 : BitVec 32)
  let illegal := some (s.xszvIllegal h.val)
  let put := fun (v : Option (BitVec 64)) => match v with
    | some v => some (s.updHart h.val (fun r => (r.setX rd v).retiredTo (r.pc + n)))
    | none => illegal
  let zb := fun (v : Option (BitVec 64)) => if app then v else none
  let fp := app && r.fs != 0
  let jump := fun (dst : BitVec 64) => some (s.updHart h.val (fun r => (r.setX rd (r.pc + n)).retiredTo dst))
  let access := fun (k : AccKind) (size : Nat) (va : BitVec 64) (reg : BitVec 5) (v : Reg) =>
    (s.coreAccess h.val k size va reg v errs).map (fun t => if t.2 then t.1.updHart h.val (fun r => r.retiredTo (r.pc + n)) else t.1)
  match (wordField x 0 7).toNat with
  | 0x37 => put (some (immU 64 x))
  | 0x17 => put (some (r.pc + immU 64 x))
  | 0x6F => jump (r.pc + immJ 64 x)
  | 0x67 => if f3 = 0 then jump ((a + immI 64 x) &&& ~~~ 1) else illegal
  | 0x63 => match rvBranch f3 a b with
    | some y => some (s.updHart h.val (fun r => r.retiredTo (if y then r.pc + immB 64 x else r.pc + n)))
    | none => illegal
  | 0x03 => if f3 = 7 then illegal else access .load (f3 % 4) (a + immI 64 x) rd (BitVec.ofNat 64 (f3 / 4))
  | 0x23 => if 4 ≤ f3 then illegal else access .store f3 (a + immS 64 x) r2 b
  | 0x07 => if fp && (f3 == 2 || f3 == 3) then access .load f3 (a + immI 64 x) rd 2 else illegal
  | 0x27 => if fp && (f3 == 2 || f3 == 3) then access .store f3 (a + immS 64 x) r2 (r.f.get r2.toNat) else illegal
  | 0x2F => if f3 = 2 ∨ f3 = 3 then (match amoKind (f7 / 4) r2.toNat with | some k => access k f3 a rd b | none => illegal) else illegal
  | 0x13 =>
    if f3 = 1 ∨ f3 = 5 then put ((rvOp true f3 (f7 / 2 * 2) a (BitVec.ofNat 64 (imm % 64))).or (zb (zbImm f3 imm a)))
    else put (rvOp true f3 f7 a (immI 64 x))
  | 0x1B =>
    if f3 = 0 then put (some ((low (a + immI 64 x)).signExtend 64))
    else if f3 = 1 ∨ f3 = 5 then
      put (((rvOp true f3 f7 (low a) (r2.setWidth 32)).map (fun v => v.signExtend 64)).or (zb (zbImm32 f3 imm a)))
    else illegal
  | 0x33 => put ((rvOp false f3 f7 a b).or (zb (zbOp f3 f7 a b)))
  | 0x3B =>
    let word := f3 = 0 ∨ f7 ≠ 1 ∧ (f3 = 1 ∨ f3 = 5) ∨ f7 = 1 ∧ 4 ≤ f3
    put ((if word then (rvOp false f3 f7 (low a) (low b)).map (fun v => v.signExtend 64) else none).or (zb (zbOp32 f3 f7 r2.toNat a b)))
  | 0x43 | 0x47 | 0x4B | 0x4F | 0x53 =>
    if !fp then illegal else match r.opFp x with
    | some q => some (s.updHart h.val (fun _ => q.retiredTo (r.pc + n)))
    | none => illegal
  | 0x0F => if f3 ≤ 1 then some (s.updHart h.val (fun r => r.retiredTo (r.pc + n))) else illegal
  | 0x73 =>
    if f3 = 0 then some (s.hartSystem h.val x n)
    else if f3 = 4 then illegal
    else some (s.hartZicsr h.val imm f3 r1.toNat rd n)
  | 0x0B | 0x2B => match s.xszvStep h x errs with
    | .next t => some t
    | _ => none
  | _ => illegal

/-- Two bytes of an instruction; none in the first part where the fetch waits for a credit, and in the second the cause that stops it. -/
def State.hartFetch (s : State) (h : Nat) (va : BitVec 64) : Option (State × Except Nat Nat) :=
  let x := s.hartReach h va 2 (accOf .fetch)
  match x.2 with
  | .error .wait => none
  | .error (.cause c) => some (x.1, .error c)
  | .ok ps =>
    let y := x.1.readPieces h 0 .fetch ps
    match y.2.1 with
    | .ok => some (y.1, .ok (leVal y.2.2))
    | .wait => none
    | .bad => some (y.1, .error 1)

/-- The hart fetches the instruction at its pc and executes it; then an interrupt that is pending and enabled is taken (R521). A fetch or an
access that waits for a credit has no effect yet (R489). -/
def State.hartStep (s : State) (h : Hart) (errs : AccessErrs) : Out :=
  let pc := (s.hart h.val).pc
  let finish := fun (t : Option State) => Host.Outcome.next ((t.map (fun t => t.hartSettle h.val)).getD s)
  if !s.hartRuns h.val then .next s
  else match (s.gddrStrike errs.sectors).hartFetch h.val pc with
  | none => .next s
  | some (t, .error c) => .next (t.hartTrap h.val c pc)
  | some (t, .ok lo) =>
    if lo % 4 ≠ 3 then
      match rvExpand true (BitVec.ofNat 16 lo) with
      | some x => finish (t.hartExec h x 2 { errs with sectors := [] })
      | none => .next (t.xszvIllegal h.val)
    else match t.hartFetch h.val (pc + 2) with
      | none => .next s
      | some (u, .error c) => .next (u.hartTrap h.val c (pc + 2))
      | some (u, .ok hi) => finish (u.hartExec h (BitVec.ofNat 32 (lo + hi * 65536)) 4 { errs with sectors := [] })

/-- An access of a hart (R485, R486, R488 to R493). A fetch at the pc whose last operand is 1 is that of the instruction that the hart
executes (log 43). -/
def execApplicationCoreAccess (h : Hart) (k : AccKind) (size : Fin 4) (npa : BitVec 64) (r : BitVec 5) (v : Reg) (errs : AccessErrs) (s : State) : Out :=
  if k = .fetch ∧ v = 1 ∧ npa = (s.hart h.val).pc then s.hartStep h errs
  else .next (((s.coreAccess h.val k size.val npa r v errs).map (·.1)).getD s)

end Sys2Proof.Machine
end

