-- ==== Sys2Proof/Machine/Dispatch.lean ====
section
/-! DEFINITION. The dispatch: one arm per command, one call per arm. -/

namespace Sys2Proof.Machine

/-- The effect of a command on everything but the queue. -/
def exec (i : Instr) (s : State) : Host.Outcome State Fault Refusal :=
  match i with
  | .eiss c rd rs1 pick ups => Sys2Proof.Machine.execEiss c rd rs1 pick ups s
  | .enext c rd => Sys2Proof.Machine.execEnext c rd s
  | .etest c rd => Sys2Proof.Machine.execEtest c rd s
  | .eabort c rd rs1 rs2 => Sys2Proof.Machine.execEabort c rd rs1 rs2 s
  | .esum c rd rs1 => Sys2Proof.Machine.execEsum c rd rs1 s
  | .wfi c => Sys2Proof.Machine.execWfi c s
  | .opStart c entry => Sys2Proof.Machine.execOpStart c entry s
  | .opEnd c entry => Sys2Proof.Machine.execOpEnd c entry s
  | .matrixTilePassEnd c mis ups => Sys2Proof.Machine.execMatrixTilePassEnd c mis ups s
  | .vectorTileEnd c mis ups => Sys2Proof.Machine.execVectorTileEnd c mis ups s
  | .solverCheckStep c mis ups => Sys2Proof.Machine.execSolverCheckStep c mis ups s
  | .solveDeadlineCheck c atPanel => Sys2Proof.Machine.execSolveDeadlineCheck c atPanel s
  | .teamProductDone c member => Sys2Proof.Machine.execTeamProductDone c member s
  | .dmaRequestIssue c ups => Sys2Proof.Machine.execDmaRequestIssue c ups s
  | .dmaRequestAnswer c req ups => Sys2Proof.Machine.execDmaRequestAnswer c req ups s
  | .flitStore src dst => Sys2Proof.Machine.execFlitStore src dst s
  | .flitLoadRequest src dst => Sys2Proof.Machine.execFlitLoadRequest src dst s
  | .flitLoadResponse src dst => Sys2Proof.Machine.execFlitLoadResponse src dst s
  | .flitTileTransfer src dst => Sys2Proof.Machine.execFlitTileTransfer src dst s
  | .flitCompletionNotice src dst => Sys2Proof.Machine.execFlitCompletionNotice src dst s
  | .foreignRequestServe c ups => Sys2Proof.Machine.execForeignRequestServe c ups s
  | .scrubRow c ups newer => Sys2Proof.Machine.execScrubRow c ups newer s
  | .dieRateUpdate d own railMv => Sys2Proof.Machine.execDieRateUpdate d own railMv s
  | .floorBreach d => Sys2Proof.Machine.execFloorBreach d s
  | .admissionResume d => Sys2Proof.Machine.execAdmissionResume d s
  | .resume d => Sys2Proof.Machine.execResume d s
  | .minClear c => Sys2Proof.Machine.execMinClear c s
  | .dieProfileSwitch d => Sys2Proof.Machine.execDieProfileSwitch d s
  | .change request => Sys2Proof.Machine.execChange request s
  | .abortAll c => Sys2Proof.Machine.execAbortAll c s
  | .haltCu c v => Sys2Proof.Machine.execHaltCu c v s
  | .tileqEnable c v => Sys2Proof.Machine.execTileqEnable c v s
  | .mxSelftestStart c => Sys2Proof.Machine.execMxSelftestStart c s
  | .selftestDone c pass failTiles => Sys2Proof.Machine.execSelftestDone c pass failTiles s
  | .wsPartWrite c n v => Sys2Proof.Machine.execWsPartWrite c n v s
  | .wsBankPowerWrite c v => Sys2Proof.Machine.execWsBankPowerWrite c v s
  | .bankReady c bank => Sys2Proof.Machine.execBankReady c bank s
  | .gddrRequest ch errs => Sys2Proof.Machine.execGddrRequest ch errs s
  | .squallExit ch sector => Sys2Proof.Machine.execSquallExit ch sector s
  | .lineCreditGrant ch sector => Sys2Proof.Machine.execLineCreditGrant ch sector s
  | .gddrRefreshSlice ch deviceCorrected => Sys2Proof.Machine.execGddrRefreshSlice ch deviceCorrected s
  | .gddrRetrain ch last => Sys2Proof.Machine.execGddrRetrain ch last s
  | .gddrTempRead ch temp => Sys2Proof.Machine.execGddrTempRead ch temp s
  | .gddrHeatExit ch => Sys2Proof.Machine.execGddrHeatExit ch s
  | .start ch => Sys2Proof.Machine.execStart ch s
  | .migrationDrained ch => Sys2Proof.Machine.execMigrationDrained ch s
  | .migrationUnitCopy ch errs => Sys2Proof.Machine.execMigrationUnitCopy ch errs s
  | .rowSpareCopy ch n => Sys2Proof.Machine.execRowSpareCopy ch n s
  | .channelLost ch => Sys2Proof.Machine.execChannelLost ch s
  | .wtStore pl sub f => Sys2Proof.Machine.execWtStore pl sub f s
  | .loadRequest pl sub f => Sys2Proof.Machine.execLoadRequest pl sub f s
  | .atomicRequest pl sub f => Sys2Proof.Machine.execAtomicRequest pl sub f s
  | .loadResponse pl sub f => Sys2Proof.Machine.execLoadResponse pl sub f s
  | .atomicResponse pl sub f => Sys2Proof.Machine.execAtomicResponse pl sub f s
  | .acknowledgement pl sub f => Sys2Proof.Machine.execAcknowledgement pl sub f s
  | .creditUpdate pl sub f => Sys2Proof.Machine.execCreditUpdate pl sub f s
  | .creditUpdateSend pl peer => Sys2Proof.Machine.execCreditUpdateSend pl peer s
  | .sharedBufferExpiry pl peer => Sys2Proof.Machine.execSharedBufferExpiry pl peer s
  | .pathProbe pl sub f => Sys2Proof.Machine.execPathProbe pl sub f s
  | .resendTimer pl tag => Sys2Proof.Machine.execResendTimer pl tag s
  | .retryBudgetExpiry pl tag => Sys2Proof.Machine.execRetryBudgetExpiry pl tag s
  | .pathTableRebuild pl => Sys2Proof.Machine.execPathTableRebuild pl s
  | .subPortDown pl sub cause => Sys2Proof.Machine.execSubPortDown pl sub cause s
  | .planeTakeover failed => Sys2Proof.Machine.execPlaneTakeover failed s
  | .collectiveSubmit src off bytes => Sys2Proof.Machine.execCollectiveSubmit src off bytes s
  | .collectiveLocalAdmit t cseq ups => Sys2Proof.Machine.execCollectiveLocalAdmit t cseq ups s
  | .collectiveChunk pl sub f => Sys2Proof.Machine.execCollectiveChunk pl sub f s
  | .collectiveResult pl sub f => Sys2Proof.Machine.execCollectiveResult pl sub f s
  | .abandon pl sub f => Sys2Proof.Machine.execAbandon pl sub f s
  | .collectiveTargetLost pl tag => Sys2Proof.Machine.execCollectiveTargetLost pl tag s
  | .hostCommand port f => Sys2Proof.Machine.execHostCommand port f s
  | .nop t => Sys2Proof.Machine.execNop t s
  | .memWrite t => Sys2Proof.Machine.execMemWrite t s
  | .memRead t errs => Sys2Proof.Machine.execMemRead t errs s
  | .status t => Sys2Proof.Machine.execStatus t s
  | .jobRun t => Sys2Proof.Machine.execJobRun t s
  | .ring t => Sys2Proof.Machine.execRing t s
  | .jobLoad t => Sys2Proof.Machine.execJobLoad t s
  | .jobStart t => Sys2Proof.Machine.execJobStart t s
  | .jobRevoke t => Sys2Proof.Machine.execJobRevoke t s
  | .revokeDrained t => Sys2Proof.Machine.execRevokeDrained t s
  | .jobFree t => Sys2Proof.Machine.execJobFree t s
  | .restore t => Sys2Proof.Machine.execRestore t s
  | .windowSet t => Sys2Proof.Machine.execWindowSet t s
  | .groupSet t => Sys2Proof.Machine.execGroupSet t s
  | .rackMapSet t => Sys2Proof.Machine.execRackMapSet t s
  | .rankSet t => Sys2Proof.Machine.execRankSet t s
  | .imageWrite t => Sys2Proof.Machine.execImageWrite t s
  | .logForwardAck a => Sys2Proof.Machine.execLogForwardAck a s
  | .ckptPeriodTrigger t => Sys2Proof.Machine.execCkptPeriodTrigger t s
  | .ckptStepPoll t => Sys2Proof.Machine.execCkptStepPoll t s
  | .cutQuery t from0 gen => Sys2Proof.Machine.execCutQuery t from0 gen s
  | .cutReply t from0 gen step => Sys2Proof.Machine.execCutReply t from0 gen step s
  | .cutSet t from0 gen step => Sys2Proof.Machine.execCutSet t from0 gen step s
  | .stagedGenSeen t => Sys2Proof.Machine.execStagedGenSeen t s
  | .nvmeCompletion own ok => Sys2Proof.Machine.execNvmeCompletion own ok s
  | .digestNote t from0 gen shard digest => Sys2Proof.Machine.execDigestNote t from0 gen shard digest s
  | .pkgWritten t from0 gen status reason digest => Sys2Proof.Machine.execPkgWritten t from0 gen status reason digest s
  | .commit t from0 gen step digest => Sys2Proof.Machine.execCommit t from0 gen step digest s
  | .ckptAbandon t from0 gen reason => Sys2Proof.Machine.execCkptAbandon t from0 gen reason s
  | .ckptTimeout t => Sys2Proof.Machine.execCkptTimeout t s
  | .mirrorData f region slot half lba => Sys2Proof.Machine.execMirrorData f region slot half lba s
  | .restoreView t from0 views found => Sys2Proof.Machine.execRestoreView t from0 views found s
  | .restoreGo t from0 gen data => Sys2Proof.Machine.execRestoreGo t from0 gen data s
  | .shardData t from0 shard off data => Sys2Proof.Machine.execShardData t from0 shard off data s
  | .restoreDone t from0 gen status => Sys2Proof.Machine.execRestoreDone t from0 gen status s
  | .heartbeat pl f => Sys2Proof.Machine.execHeartbeat pl f s
  | .heartbeatSend pl => Sys2Proof.Machine.execHeartbeatSend pl s
  | .twinLost => Sys2Proof.Machine.execTwinLost s
  | .twinFrameResend pl tseq => Sys2Proof.Machine.execTwinFrameResend pl tseq s
  | .writeForward pl f => Sys2Proof.Machine.execWriteForward pl f s
  | .copyData pl f => Sys2Proof.Machine.execCopyData pl f s
  | .castRecords pl f => Sys2Proof.Machine.execCastRecords pl f s
  | .castCompletion pl f => Sys2Proof.Machine.execCastCompletion pl f s
  | .stopping pl f => Sys2Proof.Machine.execStopping pl f s
  | .attach pl f => Sys2Proof.Machine.execAttach pl f s
  | .announcement pl f => Sys2Proof.Machine.execAnnouncement pl f s
  | .takeoverStart probeAnswered => Sys2Proof.Machine.execTakeoverStart probeAnswered s
  | .attachStart => Sys2Proof.Machine.execAttachStart s
  | .syncUnitCopy => Sys2Proof.Machine.execSyncUnitCopy s
  | .detach => Sys2Proof.Machine.execDetach s
  | .takeover => Sys2Proof.Machine.execTakeover s
  | .doorbell who block v aligned => Sys2Proof.Machine.execDoorbell who block v aligned s
  | .retract who block v aligned => Sys2Proof.Machine.execRetract who block v aligned s
  | .claim target rd => Sys2Proof.Machine.execClaim target rd s
  | .complete target v => Sys2Proof.Machine.execComplete target v s
  | .ecPendingWrite group v => Sys2Proof.Machine.execEcPendingWrite group v s
  | .ecConfigWrite w => Sys2Proof.Machine.execEcConfigWrite w s
  | .ecSourceEvent source => Sys2Proof.Machine.execEcSourceEvent source s
  | .gustHoldEnd group => Sys2Proof.Machine.execGustHoldEnd group s
  | .add h et w rd rs1 rs2 => Sys2Proof.Machine.execAdd h et w rd rs1 rs2 s
  | .sub h et w rd rs1 rs2 => Sys2Proof.Machine.execSub h et w rd rs1 rs2 s
  | .mul h et w rd rs1 rs2 => Sys2Proof.Machine.execMul h et w rd rs1 rs2 s
  | .min h et w rd rs1 rs2 => Sys2Proof.Machine.execMin h et w rd rs1 rs2 s
  | .max h et w rd rs1 rs2 => Sys2Proof.Machine.execMax h et w rd rs1 rs2 s
  | .minu h et w rd rs1 rs2 => Sys2Proof.Machine.execMinu h et w rd rs1 rs2 s
  | .maxu h et w rd rs1 rs2 => Sys2Proof.Machine.execMaxu h et w rd rs1 rs2 s
  | .abs h et w rd rs1 rs2 => Sys2Proof.Machine.execAbs h et w rd rs1 rs2 s
  | .avg h et w rd rs1 rs2 => Sys2Proof.Machine.execAvg h et w rd rs1 rs2 s
  | .cmpeq h et w rd rs1 rs2 => Sys2Proof.Machine.execCmpeq h et w rd rs1 rs2 s
  | .cmplt h et w rd rs1 rs2 => Sys2Proof.Machine.execCmplt h et w rd rs1 rs2 s
  | .cmple h et w rd rs1 rs2 => Sys2Proof.Machine.execCmple h et w rd rs1 rs2 s
  | .cmpltu h et w rd rs1 rs2 => Sys2Proof.Machine.execCmpltu h et w rd rs1 rs2 s
  | .sel h et w rd rs1 rs2 => Sys2Proof.Machine.execSel h et w rd rs1 rs2 s
  | .widen h et w rd rs1 rs2 => Sys2Proof.Machine.execWiden h et w rd rs1 rs2 s
  | .widenh h et w rd rs1 rs2 => Sys2Proof.Machine.execWidenh h et w rd rs1 rs2 s
  | .widenu h et w rd rs1 rs2 => Sys2Proof.Machine.execWidenu h et w rd rs1 rs2 s
  | .widenuh h et w rd rs1 rs2 => Sys2Proof.Machine.execWidenuh h et w rd rs1 rs2 s
  | .narrow h et w rd rs1 rs2 => Sys2Proof.Machine.execNarrow h et w rd rs1 rs2 s
  | .narrowu h et w rd rs1 rs2 => Sys2Proof.Machine.execNarrowu h et w rd rs1 rs2 s
  | .shuf h et w rd rs1 rs2 => Sys2Proof.Machine.execShuf h et w rd rs1 rs2 s
  | .dot h et w rd rs1 rs2 => Sys2Proof.Machine.execDot h et w rd rs1 rs2 s
  | .dotus h et w rd rs1 rs2 => Sys2Proof.Machine.execDotus h et w rd rs1 rs2 s
  | .sad h et w rd rs1 rs2 => Sys2Proof.Machine.execSad h et w rd rs1 rs2 s
  | .splat h et w rd rs1 rs2 => Sys2Proof.Machine.execSplat h et w rd rs1 rs2 s
  | .mlt h et w rd rs1 rs2 => Sys2Proof.Machine.execMlt h et w rd rs1 rs2 s
  | .mtest h et w rd rs1 rs2 => Sys2Proof.Machine.execMtest h et w rd rs1 rs2 s
  | .xld h et w rd rs1 rs2 errs => Sys2Proof.Machine.execXld h et w rd rs1 rs2 errs s
  | .xst h et w rd rs1 rs2 => Sys2Proof.Machine.execXst h et w rd rs1 rs2 s
  | .xldff h et w rd rs1 rs2 errs => Sys2Proof.Machine.execXldff h et w rd rs1 rs2 errs s
  | .xstm h et w rd rs1 rs2 => Sys2Proof.Machine.execXstm h et w rd rs1 rs2 s
  | .i3cPrivateWrite off => Sys2Proof.Machine.execI3cPrivateWrite off s
  | .i3cPrivateRead => Sys2Proof.Machine.execI3cPrivateRead s
  | .setdasa stat dyn => Sys2Proof.Machine.execSetdasa stat dyn s
  | .entdaa dyn => Sys2Proof.Machine.execEntdaa dyn s
  | .rstdaa => Sys2Proof.Machine.execRstdaa s
  | .getstatus => Sys2Proof.Machine.execGetstatus s
  | .getpid => Sys2Proof.Machine.execGetpid s
  | .boardPgRise => Sys2Proof.Machine.execBoardPgRise s
  | .supplyPowerGood supply => Sys2Proof.Machine.execSupplyPowerGood supply s
  | .powerGoodTimeout => Sys2Proof.Machine.execPowerGoodTimeout s
  | .boardPgFall => Sys2Proof.Machine.execBoardPgFall s
  | .supplyPgLoss supply => Sys2Proof.Machine.execSupplyPgLoss supply s
  | .pkgResetAssert => Sys2Proof.Machine.execPkgResetAssert s
  | .pkgResetRelease => Sys2Proof.Machine.execPkgResetRelease s
  | .startSequence found => Sys2Proof.Machine.execStartSequence found s
  | .ptpLock t selPlane selSub => Sys2Proof.Machine.execPtpLock t selPlane selSub s
  | .timeWaitExpiry => Sys2Proof.Machine.execTimeWaitExpiry s
  | .announce => Sys2Proof.Machine.execAnnounce s
  | .imageData off data => Sys2Proof.Machine.execImageData off data s
  | .imageEnd len => Sys2Proof.Machine.execImageEnd len s
  | .attestationRequest port nonce wantDevice => Sys2Proof.Machine.execAttestationRequest port nonce wantDevice s
  | .imageRestart => Sys2Proof.Machine.execImageRestart s
  | .dieReset d fails => Sys2Proof.Machine.execDieReset d fails s
  | .linkReset pl port sub => Sys2Proof.Machine.execLinkReset pl port sub s
  | .enter => Sys2Proof.Machine.execEnter s
  | .doldrumsEntryDrained => Sys2Proof.Machine.execDoldrumsEntryDrained s
  | .wake cause => Sys2Proof.Machine.execWake cause s
  | .doldrumsTimer => Sys2Proof.Machine.execDoldrumsTimer s
  | .thermalSample d tj plinth => Sys2Proof.Machine.execThermalSample d tj plinth s
  | .thermalStateExit d => Sys2Proof.Machine.execThermalStateExit d s
  | .ptpMessage offset selPlane selSub => Sys2Proof.Machine.execPtpMessage offset selPlane selSub s
  | .holdoverEnter => Sys2Proof.Machine.execHoldoverEnter s
  | .ppsOut => Sys2Proof.Machine.execPpsOut s
  | .errorRecordAppend => Sys2Proof.Machine.execErrorRecordAppend s
  | .pop => Sys2Proof.Machine.execPop s
  | .logForward => Sys2Proof.Machine.execLogForward s
  | .remapApply d n ups => Sys2Proof.Machine.execRemapApply d n ups s
  | .registerWrite hart addr size v => Sys2Proof.Machine.execRegisterWrite hart addr size v s
  | .bypass => Sys2Proof.Machine.execBypass s
  | .idcode => Sys2Proof.Machine.execIdcode s
  | .samplePreload cells => Sys2Proof.Machine.execSamplePreload cells s
  | .extest cells => Sys2Proof.Machine.execExtest cells s
  | .extestPulse cells => Sys2Proof.Machine.execExtestPulse cells s
  | .extestTrain cells => Sys2Proof.Machine.execExtestTrain cells s
  | .clamp => Sys2Proof.Machine.execClamp s
  | .highz => Sys2Proof.Machine.execHighz s
  | .linkUp pl sub => Sys2Proof.Machine.execLinkUp pl sub s
  | .notAdmittedResend pl tag => Sys2Proof.Machine.execNotAdmittedResend pl tag s
  | .controlUnitLoadStore c k size zeroExt addr r ups => Sys2Proof.Machine.execControlUnitLoadStore c k size zeroExt addr r ups s
  | .applicationCoreAccess h k size npa r v errs => Sys2Proof.Machine.execApplicationCoreAccess h k size npa r v errs s
  | .rateMonitorWindow c rate => Sys2Proof.Machine.execRateMonitorWindow c rate s
  | .powerBudgetWindow watts rails => Sys2Proof.Machine.execPowerBudgetWindow watts rails s

end Sys2Proof.Machine
end

