-- ==== Sys2Proof/Machine/Step.lean ====
section
/-! DEFINITION. One step: the command at the front of the queue, or 1 ns of common time when none waits. -/

namespace Sys2Proof.Machine

/-- 1 ns of common time passes, before which a collective that cannot be sent on has ended (R447) and data caches have written back what
they choose to (R492); at its largest value common time holds (R596; log 1, DESIGN CHOICE). Harts then take the timer interrupts that
have come due (R485, R494). -/
def State.tick (s0 : State) : State :=
  let s := s0.endBadColls.pxSettle
  State.hartsSettle { s with clock := { s.clock with
      now := if s.clock.now = BitVec.allOnes 64 then s.clock.now else s.clock.now + 1 } }

/-- One step of the block: the front command's effect on the state that holds the rest of the queue. -/
def step (s : State) : Host.Outcome State Fault Refusal :=
  match s.pending with
  | [] => .next s.tick
  | c :: rest => exec c { s with pending := rest }

/-- `s` with the command a table word spells at the front of its queue; `s` itself where the word spells none. -/
def State.withFetchWord (s : State) (nbits w : Nat) : State :=
  match Sys2Proof.decodeTableWord nbits w with
  | some c => { s with pending := c :: s.pending }
  | none => s

end Sys2Proof.Machine
end

