-- ==== Sys2Proof/WellFormed.lean ====
section
/-! DEFINITION. Well-formed commands: operands that a carrier of the spec can bring. A command that is not
well-formed stands for nothing that can happen to the package; its meaning is total all the same, and the
statements about meanings do not ask for well-formedness unless they say so. -/

namespace Sys2Proof

open Sys2Proof.Machine

/-- Cells of one cell row of the core's store, at least one, or a word of it (R199, R208). -/
def Upset.wf (c : CoreId) (u : Upset) : Bool :=
  let size := fun (res : Bool) => if res then rsSize c else wsSize c
  match u with
  | .cells res pair _ first n => decide (1 ≤ n) && decide (first.val + n ≤ 288) && decide (1024 * (pair + 1) ≤ size res)
  | .wrongRow res w => decide (8 * w < size res)

/-- Upsets of several cores' stores. -/
def upsAtWf (l : List (CoreId × Upset)) : Bool := l.all (fun p => p.2.wf p.1)

/-- A service frame carries the message that the command's operands say (R415); a command that no frame brings names none. -/
def svcWf (f : SvcFrom) (p : List Byte) : Bool := f.frame.type != 0xA || f.frame.payload == p

/-- Symbol errors of one sector: each position once, each a difference (R258). -/
def symsWf (l : List SymErr) : Bool := l.all (fun e => e.diff != 0) && decide (l.map (·.pos)).Nodup

/-- Symbol errors by sector: 64-byte aligned NPAs, each symbol once, each a difference (R258). -/
def sectorsWf (l : List (Nat × SymErr)) : Bool :=
  l.all (fun p => p.1 % 64 == 0 && p.2.diff != 0) && decide (l.map (fun p => (p.1, p.2.pos))).Nodup

/-- What an application core's access meets: sectors as above, and how many of the 72 bits of an element's word are flipped,
each element once (R493). -/
def AccessErrs.wf (e : AccessErrs) : Bool :=
  sectorsWf e.sectors && decide (e.flips.map (·.1)).Nodup && e.flips.all (fun p => decide (1 ≤ p.2) && decide (p.2 ≤ 72))

/-- A check compares what its code says (R118, R154): integer checks are of products or sums. -/
def Finding.fits (f : Finding) : Bool :=
  match f.what with
  | .product _ _ _ => f.check == 0 || f.check == 3
  | .sum _ _ _ _ _ => f.check == 1 || f.check == 3
  | .round _ _ _ _ => f.check == 2
  | .fma _ _ _ _ _ _ => f.check == 4
  | .pair _ _ => f.check == 5 || f.check == 7
  | .tile _ _ => f.check == 6

def Mismatch.wf (p : Finding → Bool) (m : Mismatch) : Bool := !m.first.isEmpty && m.first.all (fun f => f.fits && p f) && m.second.all (fun f => f.fits && p f)

/-- Findings of the mod-31 checks: a dot-product unit or the accumulator, a listed check (R114, R118). -/
def mxMismatchWf (m : Option Mismatch) : Bool :=
  m.all (Mismatch.wf (fun f => (decide (f.unit.toNat < 16) || f.unit == 0xFF) && decide (f.check.toNat ≤ 5)))

/-- Findings of the mod-7 checks: a lane or the tile sum, a listed check (R151, R154). -/
def vxMismatchWf (m : Option Mismatch) : Bool :=
  m.all (Mismatch.wf (fun f => (if f.check == 6 then f.unit == 0xFF else decide (f.unit.toNat < 16))
    && (decide (f.check.toNat ≤ 3) || f.check == 6 || f.check == 7)))

/-- A received WT frame: a payload that a length field of 16 bits can count, and a sender other than this die (R288). -/
def WtFrame.wf (f : WtFrame) : Bool := decide (f.payload.length < 2 ^ 16) && !f.self && !f.twin

/-- A received twin frame: a payload that its length field can count (R453). -/
def TwinFrame.wf (f : TwinFrame) : Bool := decide (f.payload.length < 2 ^ 16)

/-- A 32-byte digest, as the checkpoint messages carry it (R415). -/
def digestWf (d : List Byte) : Bool := d.length == 32

/-- One slot's judgement (R415). -/
def SlotView.wf (v : SlotView) : Bool := digestWf v.manifestDigest

/-- Sectors of one channel: four in each of its local units (R255, R270). -/
def sectorWf (sector : Nat) : Bool := decide (sector < 4 * 2 ^ 25)

/-- What a start finds names each core, channel and sub-port once (R550), and a link that the module can have trained to (R398). -/
def StartFindings.wf (f : StartFindings) : Bool :=
  decide (f.failedCores.map (·.1)).Nodup && decide f.failedChans.Nodup && decide f.failedPorts.Nodup
    && (match f.nvme with | some m => (m.lanes == 8 || m.lanes == 4) && (m.gts == 64 || m.gts == 32 || m.gts == 16) | none => true)

/-- Operands that a carrier can bring. -/
def Instr.wf : Instr → Bool
  | .eiss c _ _ _ ups => ups.all (Upset.wf c)
  | .enext _ _ => true
  | .etest _ _ => true
  | .eabort _ _ _ _ => true
  | .esum _ _ _ => true
  | .wfi _ => true
  | .opStart _ _ => true
  | .opEnd _ _ => true
  | .matrixTilePassEnd c mis ups => mxMismatchWf mis && ups.all (Upset.wf c)
  | .vectorTileEnd c mis ups => vxMismatchWf mis && ups.all (Upset.wf c)
  | .solverCheckStep c mis ups => mxMismatchWf mis && ups.all (Upset.wf c)
  | .solveDeadlineCheck _ _ => true
  | .teamProductDone _ _ => true
  | .dmaRequestIssue c ups => ups.all (Upset.wf c)
  | .dmaRequestAnswer c _ ups => ups.all (Upset.wf c)
  | .flitStore _ _ => true
  | .flitLoadRequest _ _ => true
  | .flitLoadResponse _ _ => true
  | .flitTileTransfer _ _ => true
  | .flitCompletionNotice _ _ => true
  | .foreignRequestServe c ups => ups.all (Upset.wf c)
  | .scrubRow c ups newer => ups.all (Upset.wf c) && decide newer.Nodup
  | .dieRateUpdate _ _ _ => true
  | .floorBreach _ => true
  | .admissionResume _ => true
  | .resume _ => true
  | .minClear _ => true
  | .dieProfileSwitch _ => true
  | .change _ => true
  | .abortAll _ => true
  | .haltCu _ _ => true
  | .tileqEnable _ _ => true
  | .mxSelftestStart _ => true
  | .selftestDone _ _ _ => true
  | .wsPartWrite _ _ _ => true
  | .wsBankPowerWrite _ _ => true
  | .bankReady _ _ => true
  | .gddrRequest _ errs => symsWf errs
  | .squallExit _ sector => sectorWf sector
  | .lineCreditGrant _ sector => sectorWf sector
  | .gddrRefreshSlice _ _ => true
  | .gddrRetrain _ _ => true
  | .gddrTempRead _ _ => true
  | .gddrHeatExit _ => true
  | .start _ => true
  | .migrationDrained _ => true
  | .migrationUnitCopy _ errs => sectorsWf errs
  | .rowSpareCopy _ _ => true
  | .channelLost _ => true
  | .wtStore _ _ f => f.wf
  | .loadRequest _ _ f => f.wf
  | .atomicRequest _ _ f => f.wf
  | .loadResponse _ _ f => f.wf
  | .atomicResponse _ _ f => f.wf
  | .acknowledgement _ _ f => f.wf
  | .creditUpdate _ _ f => f.wf
  | .creditUpdateSend _ peer => decide (peer < 256 + 2 ^ 128)
  | .sharedBufferExpiry _ peer => decide (peer < 256 + 2 ^ 128)
  | .pathProbe _ _ f => f.wf
  | .resendTimer _ _ => true
  | .retryBudgetExpiry _ _ => true
  | .pathTableRebuild _ => true
  | .subPortDown _ _ _ => true
  | .planeTakeover _ => true
  | .collectiveSubmit _ _ bytes => decide (bytes.length ≤ 512)
  | .collectiveLocalAdmit _ _ ups => upsAtWf ups
  | .collectiveChunk _ _ f => f.wf
  | .collectiveResult _ _ f => f.wf
  | .abandon _ _ f => f.wf
  | .collectiveTargetLost _ _ => true
  | .hostCommand _ f => f.wf
  | .nop _ => true
  | .memWrite _ => true
  | .memRead _ errs => sectorsWf errs
  | .status _ => true
  | .jobRun _ => true
  | .ring _ => true
  | .jobLoad _ => true
  | .jobStart _ => true
  | .jobRevoke _ => true
  | .revokeDrained _ => true
  | .jobFree _ => true
  | .restore _ => true
  | .windowSet _ => true
  | .groupSet _ => true
  | .rackMapSet _ => true
  | .rankSet _ => true
  | .imageWrite _ => true
  | .logForwardAck _ => true
  | .ckptPeriodTrigger _ => true
  | .ckptStepPoll _ => true
  | .cutQuery _ f gen => svcWf f ([0x01] ++ beBytes 4 gen.toNat)
  | .cutReply _ f gen step => svcWf f ([0x02] ++ beBytes 4 gen.toNat ++ beBytes 8 step.toNat)
  | .cutSet _ f gen step => svcWf f ([0x03] ++ beBytes 4 gen.toNat ++ beBytes 8 step.toNat)
  | .stagedGenSeen _ => true
  | .nvmeCompletion _ _ => true
  | .digestNote _ f gen shard digest => digestWf digest && svcWf f ([0x04] ++ beBytes 4 gen.toNat ++ beBytes 4 shard.toNat ++ digest)
  | .pkgWritten _ f gen st reason digest =>
    digestWf digest && svcWf f ([0x05] ++ beBytes 4 gen.toNat ++ [st, reason, 0, 0] ++ padTo 32 digest)
  | .commit _ f gen step digest => digestWf digest && svcWf f ([0x06] ++ beBytes 4 gen.toNat ++ beBytes 8 step.toNat ++ padTo 32 digest)
  | .ckptAbandon _ f gen reason => svcWf f ([0x07] ++ beBytes 4 gen.toNat ++ [reason])
  | .ckptTimeout _ => true
  | .mirrorData f region slot half lba =>
    f.frame.payload.length == 2061 && f.frame.payload.take 13 == [0x08, region, slot, half, 0] ++ beBytes 8 lba.toNat
  | .restoreView _ f views found =>
    views.length == 3 && views.all SlotView.wf && decide (found.own.length ≤ 3) && decide (found.twin.length ≤ 3) && svcWf f (viewBytes views)
  | .restoreGo _ f gen data => data.all (fun p => decide (p.2.length < 2 ^ 48)) && svcWf f ([0x0A] ++ beBytes 4 gen.toNat)
  | .shardData _ f shard off data => decide (data.length ≤ 3968) && svcWf f ([0x0B] ++ beBytes 4 shard.toNat ++ beBytes 8 off.toNat ++ data)
  | .restoreDone _ f gen st => svcWf f ([0x0C] ++ beBytes 4 gen.toNat ++ [st])
  | .heartbeat _ f => f.wf
  | .heartbeatSend _ => true
  | .twinLost => true
  | .twinFrameResend _ _ => true
  | .writeForward _ f => f.wf
  | .copyData _ f => f.wf
  | .castRecords _ f => f.wf
  | .castCompletion _ f => f.wf
  | .stopping _ f => f.wf
  | .attach _ f => f.wf
  | .announcement _ f => f.wf
  | .takeoverStart _ => true
  | .attachStart => true
  | .syncUnitCopy => true
  | .detach => true
  | .takeover => true
  | .doorbell _ _ _ _ => true
  | .retract _ _ _ _ => true
  | .claim _ _ => true
  | .complete _ _ => true
  | .ecPendingWrite _ _ => true
  | .ecConfigWrite _ => true
  | .ecSourceEvent _ => true
  | .gustHoldEnd _ => true
  | .add _ _ _ _ _ _ => true
  | .sub _ _ _ _ _ _ => true
  | .mul _ _ _ _ _ _ => true
  | .min _ _ _ _ _ _ => true
  | .max _ _ _ _ _ _ => true
  | .minu _ _ _ _ _ _ => true
  | .maxu _ _ _ _ _ _ => true
  | .abs _ _ _ _ _ _ => true
  | .avg _ _ _ _ _ _ => true
  | .cmpeq _ _ _ _ _ _ => true
  | .cmplt _ _ _ _ _ _ => true
  | .cmple _ _ _ _ _ _ => true
  | .cmpltu _ _ _ _ _ _ => true
  | .sel _ _ _ _ _ _ => true
  | .widen _ _ _ _ _ _ => true
  | .widenh _ _ _ _ _ _ => true
  | .widenu _ _ _ _ _ _ => true
  | .widenuh _ _ _ _ _ _ => true
  | .narrow _ _ _ _ _ _ => true
  | .narrowu _ _ _ _ _ _ => true
  | .shuf _ _ _ _ _ _ => true
  | .dot _ _ _ _ _ _ => true
  | .dotus _ _ _ _ _ _ => true
  | .sad _ _ _ _ _ _ => true
  | .splat _ _ _ _ _ _ => true
  | .mlt _ _ _ _ _ _ => true
  | .mtest _ _ _ _ _ _ => true
  | .xld _ _ _ _ _ _ errs => errs.wf
  | .xst _ _ _ _ _ _ => true
  | .xldff _ _ _ _ _ _ errs => errs.wf
  | .xstm _ _ _ _ _ _ => true
  | .i3cPrivateWrite _ => true
  | .i3cPrivateRead => true
  | .setdasa _ _ => true
  | .entdaa _ => true
  | .rstdaa => true
  | .getstatus => true
  | .getpid => true
  | .boardPgRise => true
  | .supplyPowerGood _ => true
  | .powerGoodTimeout => true
  | .boardPgFall => true
  | .supplyPgLoss _ => true
  | .pkgResetAssert => true
  | .pkgResetRelease => true
  | .startSequence found => found.wf
  | .ptpLock _ _ _ => true
  | .timeWaitExpiry => true
  | .announce => true
  | .imageData _ data => decide (data.length ≤ 4096)
  | .imageEnd _ => true
  | .attestationRequest _ nonce _ => nonce.length == 32
  | .imageRestart => true
  | .dieReset d fails => decide (fails.map (·.1)).Nodup && fails.all (fun p => p.1.die == d)
  | .linkReset _ _ _ => true
  | .enter => true
  | .doldrumsEntryDrained => true
  | .wake cause => decide (cause.toNat ≤ 5)
  | .doldrumsTimer => true
  | .thermalSample _ _ _ => true
  | .thermalStateExit _ => true
  | .ptpMessage _ _ _ => true
  | .holdoverEnter => true
  | .ppsOut => true
  | .errorRecordAppend => true
  | .pop => true
  | .logForward => true
  | .remapApply _ _ ups => upsAtWf ups
  | .registerWrite _ _ _ _ => true
  | .bypass => true
  | .idcode => true
  | .samplePreload _ => true
  | .extest _ => true
  | .extestPulse _ => true
  | .extestTrain _ => true
  | .clamp => true
  | .highz => true
  | .linkUp _ _ => true
  | .notAdmittedResend _ _ => true
  | .controlUnitLoadStore c _ _ _ _ _ ups => ups.all (Upset.wf c)
  | .applicationCoreAccess _ _ _ _ _ _ errs => errs.wf
  | .rateMonitorWindow _ _ => true
  | .powerBudgetWindow _ rails => decide (rails.map (·.1)).Nodup

end Sys2Proof
end

