-- ==== Sys2Proof/Safety.lean ====
section
/-! DEFINITION. The terms in which the statements speak of steps: what a step leaves alone, the invariants of the
package, and the runs that keep them. -/

namespace Sys2Proof.Machine

/-- Nothing but core `c` differs. -/
def OnlyCore (c : CoreId) (s t : State) : Prop := t = { s with cores := t.cores } ∧ ∀ d, d ≠ c → t.core d = s.core d

/-- Nothing but the cores, the records handed to the CMB, the raised sources and the draw count differs; of the cores only `c`. -/
def OnlyCoreAndRecords (c : CoreId) (s t : State) : Prop :=
  t = { s with cores := t.cores, handed := t.handed, signals := t.signals, freeCount := t.freeCount } ∧ ∀ d, d ≠ c → t.core d = s.core d

/-- Nothing but die `d`'s rate and heat registers differs. -/
def OnlyDie (d : Nat) (s t : State) : Prop := t = { s with dies := t.dies } ∧ ∀ e, e ≠ d → t.dieRate e = s.dieRate e

/-- Nothing but channel `ch` differs. -/
def OnlyChan (ch : Nat) (s t : State) : Prop := t = { s with chans := t.chans } ∧ ∀ e, e ≠ ch → t.chan e = s.chan e

/-- Nothing but hart `h` differs. -/
def OnlyHart (h : Nat) (s t : State) : Prop :=
  t = { s with px := { s.px with harts := t.px.harts } } ∧ ∀ e, e ≠ h → t.hart e = s.hart e

/-- Every memory of the package is in its canonical form: the working store and the slice of every core, and the devices
of every GDDR channel. -/
def State.memoriesOk (s : State) : Prop :=
  (∀ k ∈ s.cores, Memory.wf k.2.ws = true ∧ Memory.wf k.2.rs = true) ∧ ∀ c ∈ s.chans, Memory.wf c.2.mem = true

/-- Of the channels nothing is left but that a migrated one stays migrated, with its pointer: it takes no requests until a power-on
(R273). -/
def State.KeepsMigrated (s t : State) : Prop :=
  ∀ e, e ∈ t.chans ↔ ∃ c ∈ s.chans, c.2.state = 4 ∧ e = (c.1, { state := 4, pointer := c.2.pointer })

/-- The error log holds at most its 4,096 records, and its head names one of its places (R605). -/
def State.logOk (s : State) : Prop := s.log.unread ≤ 4096 ∧ s.log.head < 4096

/-- Tenancy `tn` executes `c` next: it has the code, has begun or passes the checks down to its signature, and is not past its
end-by time. -/
def State.Ready (s : State) (tn code : Nat) (c : HostCmd) : Prop :=
  s.nextCmd tn code = some c ∧ (c.started = true ∨ s.preCheck tn c = .ok) ∧ (c.endBy = 0 ∨ s.t ≤ c.endBy)

/-- Node firmware has sent a type 0xA frame with payload `p` to rank `rank` of tenancy `tn` on a plane: the die keeps it as an outstanding
request until it is answered, or it waits there for a credit or a tag. -/
def SentOn (t : State) (pl : Plane) (tn rank : Nat) (p : List Byte) : Prop :=
  (∃ o ∈ (t.fab pl.val).outst, o.ten = tn ∧ o.owner = .none ∧ o.frame.type = 0xA ∧ o.frame.jobId = 0 ∧ o.frame.dstRank.toNat = rank ∧ o.frame.payload = p) ∨
  (∃ r ∈ (t.fab pl.val).waiting, r.ten = tn ∧ r.rank = rank ∧ r.type = 0xA ∧ r.jobId = 0 ∧ r.owner = .none ∧ r.payload = p)

/-- Node firmware has sent a message to a rank of a tenancy's job: on plane 0, or on plane 1 when that carries nothing. -/
def SentTo (s t : State) (tn rank : Nat) (p : List Byte) : Prop := SentOn t (s.usePlane 0) tn rank p

/-- Node firmware can send to a rank of a tenancy's job: the plane it uses names the rank in its table. -/
def State.MayTell (s : State) (tn rank : Nat) : Prop := (s.fwDest (s.usePlane 0).val tn rank).isSome = true

/-- Node firmware has sent a message to every other package of a tenancy's job that its table names. -/
def ToldAll (s t : State) (tn : Nat) (p : List Byte) : Prop :=
  ∀ r, r < 65536 → r < (s.ten tn).job.rankCount.toNat → r ≠ (s.ten tn).job.ownRank.toNat → s.MayTell tn r → SentTo s t tn r p

/-- Node firmware has sent a host of a configured tenancy a payload, by the way the command came: through a fabric die, or in a frame on
the management port, kept until it is acknowledged. -/
def Told (s t : State) (tn : Nat) (port : Option Plane) (p : List Byte) : Prop :=
  match port with
  | some pl => (s.ten tn).queues ≠ 0 → SentOn t (s.usePlane pl) tn (0xFFF0 + tn) p
  | none => ∃ l ca f, t.outbox = s.outbox ++ l ++ [.mgmt ca f] ∧ ca = s.mgmtCarriage tn f.pathId ∧ f.type = 0xA ∧ f.srcRank = 0xFFFF ∧ f.dstRank = BitVec.ofNat 16 (0xFFF0 + tn) ∧
      f.payload = p ∧ ∃ g ∈ t.log.fwdOut, g.frame = f

/-- Command `c` of tenancy `tn` has completed: it is off its queue, and its completion has been sent. -/
def Answered (s t : State) (tn : Nat) (c : HostCmd) (status reason : Byte) (result : Nat) (data : List Byte) : Prop :=
  (t.ten tn).cmds = (s.ten tn).cmds.erase c ∧ Told s t tn c.port (completion c.queue c.cid status reason result c.tAccept s.t data)

/-- What sending a frame of node firmware may change: the fabric dies' requests and the frames sent, or the management port's. -/
def SendsOnly (s t : State) (port : Option Plane) : Prop :=
  match port with
  | some _ => t = { s with fabrics := t.fabrics, outbox := t.outbox }
  | none => t = { s with log := { s.log with fwdSeq := t.log.fwdSeq, fwdTag := t.log.fwdTag, fwdOut := t.log.fwdOut }, outbox := t.outbox }

/-- A frame of one kind arrives good on the twin port of a plane, next in its plane's order, with no frame of a later number
waiting. -/
def State.InTurn (s : State) (pl : Plane) (f : TwinFrame) (kind : Byte) : Prop :=
  s.twinUp pl.val = true ∧ s.twinGood pl.val f = true ∧ f.kind = kind ∧
    f.tseq = s.twin.tseqIn.get (f.plane.toNat % 2) ∧ s.twin.early = []

/-- A doorbell or retract write that reaches the concentrator by a row of R513, aligned. -/
def State.mayRing (s : State) (who : Ringer) (block : Fin 9) (aligned : Bool) : Prop :=
  match who with
  | .hart h => s.hartRuns h.val = true ∧ aligned = true ∧ (if isService h.val then block.val = 8 else s.hartTen h.val = some block.val)
  | .core c => aligned = true ∧ block.val < 8 ∧ ∀ o ∈ [0, 8], s.regionOk c (3 * 2 ^ 48 + ecBase + 0x100 * block.val + o) 8 .w = true
  | .host t => t.val = block.val

/-- An Xszv instruction of hart `h` has retired: the hart alone differs, by its pc and counters, by `FS`, and by the registers
and flags that the operation gives. -/
def XszvRetired (h : Nat) (s t : State) : Prop :=
  OnlyHart h s t ∧ t.hart h = { s.hart h with
    pc := (s.hart h).pc + 4, instret := (s.hart h).instret + 1, hpm := (t.hart h).hpm
    cycle := (s.hart h).cycle + Config.hartHandshakes (s.hart h).pc (s.hart h).instret (s.hart h).cycle
    f := (t.hart h).f, x := (t.hart h).x, fs := (t.hart h).fs, fflags := (t.hart h).fflags }

/-- An Xszv operation has written elements into register `rd`, and no other register; `FS` is Dirty. -/
def XszvWrote (h : Nat) (w : Bool) (rd : BitVec 5) (bits : Nat) (s t : State) (l : List Nat) : Prop :=
  XszvRetired h s t ∧ (t.hart h).x = (s.hart h).x ∧ (t.hart h).fs = 3 ∧ (t.hart h).vec w rd = packElems bits l ∧
    ∀ q, (if w then q / 2 ≠ rd.toNat % 16 else q ≠ rd.toNat) → (t.hart h).f.get q = (s.hart h).f.get q

/-- No request of the package waits for a tag or a credit, no re-send for a credit, and no copy of a received request for its answer. -/
def State.NothingWaits (s : State) : Prop :=
  (∀ pl, (s.fab pl).waiting = [] ∧ (s.fab pl).dups = []) ∧ ∀ o ∈ (s.fab 0).outst ++ (s.fab 1).outst, o.again = none

/-- No checkpoint waits for the twin to confirm what it mirrors. -/
def State.NoMirrorWaits (s : State) : Prop := ∀ t, (s.ckpt t).phase ≠ .mirror ∧ (s.ckpt t).phase ≠ .jobMirror

/-- States that steps reach from reset while the outside puts commands at the end of the queue. -/
inductive Reach : State → Prop where
  | reset : Reach State.reset
  | arrive {s : State} (l : List Instr) : Reach s → Reach { s with pending := s.pending ++ l }
  | step {s t : State} : Reach s → step s = .next t → Reach t

end Sys2Proof.Machine
end

