-- ==== Sys2Proof/Certificates/Slice0/Obligations.lean ====
section
/-! DEFINITION. The statements about the model, for the provers. -/

open Sys2Proof Sys2Proof.Machine

/-! ### The machine -/

/-- A step runs the command at the front of the queue on the state that holds the rest of it, and answers its outcome. -/
def Obligations.StepRunsTheFrontCommand : Prop :=
  ∀ (c : Instr) (s : State),
    step { s with pending := c :: s.pending } = exec c s

/-- With no command waiting, a step lets 1 ns of common time pass and changes nothing else, unless a collective has met a rank that names
no package, which then ends before the time passes, or a data cache writes back what it holds, or a hart takes a timer interrupt that is
due; common time holds at its largest value. The model's own choice (log 1): the spec gives no step for an idle package. -/
def Obligations.IdleStepPassesOneNanosecond : Prop :=
  ∀ s : State, s.pending = [] →
    let s0 := s.endBadColls.pxSettle
    (s.colls.all (fun c => !c.badRank) = true → s.px.dirty = [] → s0 = s) ∧
    ∃ t, step s = .next t ∧ t = { s0 with clock := t.clock, px := t.px } ∧ t.clock = { s0.clock with now := t.clock.now } ∧
      (s0.clock.now ≠ BitVec.allOnes 64 → t.clock.now.toNat = s0.clock.now.toNat + 1) ∧
      (s0.clock.now = BitVec.allOnes 64 → t.clock.now = s0.clock.now) ∧
      t.px = { s0.px with harts := t.px.harts } ∧ (s0.px.harts = [] → t.px = s0.px)

/-- Whatever command runs in whatever state, it completes, and the queue of waiting commands is as it was. -/
def Obligations.EveryCommandCompletesAndLeavesTheQueue : Prop :=
  ∀ (c : Instr) (s : State), ∃ t, exec c s = .next t ∧ t.pending = s.pending

/-! ### The control unit and its operation table (chapter 3) -/

/-- EISS admits a descriptor when an entry is FREE, the die is admitting, every credit and tag the descriptor requests is available, and
no check of the descriptor or its extents fails: the entry picked becomes ADMITTED, holds the descriptor and the present time as its start
time, stands last in issue order, and its index is what rd receives. EISS refuses with 0x8000_0000 + ST_NOT_ADMITTED in rd while no entry
is FREE, the core is not enabled or serves a solver, the die is not admitting, or a credit or tag the descriptor requests is not
available; it raises the illegal-instruction exception for an offset that is not a multiple of 32, and for a descriptor that one of its
checks refuses. Neither changes an entry. -/
def Obligations.EissAdmitsOrRefuses : Prop :=
  (
    ∀ (c : CoreId) (rd rs1 : BitVec 5) (pick : Fin 64) (ups : List Upset) (s : State) (i : Nat),
      let off := ((s.core c).x rs1).toNat
      let r := (s.upset c ups).readDesc c off
      let d := r.2.2
      let k := r.1.core c
      (s.core c).cuReady = true → off % 32 = 0 → off + 32 ≤ wsSize c → (s.core c).banksReady c off 32 = true →
      r.2.1 = false → r.1.descBad c off d = false →
      k.pickFree pick.val = some i → k.enable = true → k.member = false → r.1.dieAdmits c.die.val = true →
      r.1.badExtent c d = none → ¬ (d.engine = 0 ∧ k.narrowOnly = true ∧ d.mx.wide = true) →
      r.1.namesLost c (r.1.planOf c d) = false → r.1.credsOk c (r.1.planOf c d) d = true → k.resolveDep d i ≠ .broken →
      (d.engine = 3 → r.1.teamOk c d.sv = true ∧ ∀ m ∈ r.1.team c d.sv, m.1 ≠ c) →
      ∃ t, exec (.eiss c rd rs1 pick ups) s = .next t ∧
        ((t.core c).entry i).code = .admitted ∧ ((t.core c).entry i).desc = d ∧ ((t.core c).entry i).tStart = s.t ∧
        (∀ j, j ≠ i → (t.core c).entry j = k.entry j) ∧
        (t.core c).order = k.order ++ [i] ∧
        (t.core c).x rd = (if rd = 0 then 0 else BitVec.ofNat 32 i) ∧ (t.core c).pc = k.pc + 4) ∧ (
    ∀ (c : CoreId) (rd rs1 : BitVec 5) (pick : Fin 64) (ups : List Upset) (s : State),
      let off := ((s.core c).x rs1).toNat
      let r := (s.upset c ups).readDesc c off
      let k := r.1.core c
      (s.core c).cuReady = true →
      (off % 32 ≠ 0 → ∃ t, exec (.eiss c rd rs1 pick ups) s = .next t ∧
        (t.core c).mcause = 2 ∧ (t.core c).mepc = (s.core c).pc ∧ (t.core c).cuTrapped = true ∧ (t.core c).cuRunning = false ∧
        (t.core c).entries = (s.core c).entries) ∧
      (off % 32 = 0 → off + 32 ≤ wsSize c → (s.core c).banksReady c off 32 = true → r.2.1 = false →
        (r.1.descBad c off r.2.2 = true → ∃ t, exec (.eiss c rd rs1 pick ups) s = .next t ∧
          (t.core c).mcause = 2 ∧ (t.core c).mepc = k.pc ∧ (t.core c).cuTrapped = true ∧ (t.core c).entries = k.entries) ∧
        (r.1.descBad c off r.2.2 = false →
          k.pickFree pick.val = none ∨ k.enable = false ∨ k.member = true ∨ r.1.dieAdmits c.die.val = false ∨
            r.1.credsOk c (r.1.planOf c r.2.2) r.2.2 = false →
          ∃ t, exec (.eiss c rd rs1 pick ups) s = .next t ∧ OnlyCore c r.1 t ∧
            (t.core c).x rd = (if rd = 0 then 0 else 0x80000003) ∧ (t.core c).entries = k.entries ∧ (t.core c).pc = k.pc + 4)))

/-- ENEXT delivers the oldest undelivered entry once it has left ADMITTED and RUNNING: rd[7:0] receives its status and rd[13:8] its index,
and the entry is FREE again; with no entry undelivered, rd receives 0xFFFF_FFFF at once; while the oldest has not ended, the instruction
waits and nothing else changes. EABORT of an entry that is FREE, DONE, or of another op tag returns ST_DONE_ALREADY; of one that is
ABORTED or FAILED, its own status; and the entry's record stands as it was. A running entry of that tag is told to stop with ST_ABORTED
while the instruction waits. -/
def Obligations.EnextDeliversAndEabortAnswers : Prop :=
  (
    ∀ (c : CoreId) (rd : BitVec 5) (s : State), (s.core c).cuReady = true →
      ((s.core c).order = [] → ∃ t, exec (.enext c rd) s = .next t ∧ OnlyCore c s t ∧
        (t.core c).x rd = (if rd = 0 then 0 else 0xFFFFFFFF) ∧ (t.core c).entries = (s.core c).entries) ∧
      (∀ i l, (s.core c).order = i :: l → ((s.core c).entry i).ended = true → s.castFull c = false →
        ∃ t, exec (.enext c rd) s = .next t ∧ (t.core c).order = l ∧ ((t.core c).entry i).code = .free ∧
          (∀ j, j ≠ i → (t.core c).entry j = (s.core c).entry j) ∧
          (t.core c).x rd = (if rd = 0 then 0 else BitVec.ofNat 32 (((s.core c).entry i).status.toNat + i * 256)) ∧
          (t.core c).pc = (s.core c).pc + 4) ∧
      (∀ i l, (s.core c).order = i :: l → ((s.core c).entry i).ended = false →
        ∃ t, exec (.enext c rd) s = .next t ∧ OnlyCore c s t ∧ t.core c = { s.core c with wait := .enext rd })) ∧ (
    ∀ (c : CoreId) (rd rs1 rs2 : BitVec 5) (s : State), (s.core c).cuReady = true →
      let i := ((s.core c).x rs1).toNat % 64
      let e := (s.core c).entry i
      (e.code = .free ∨ e.d.opTag ≠ (s.core c).x rs2 ∨ e.code = .done →
        ∃ t, exec (.eabort c rd rs1 rs2) s = .next t ∧ OnlyCore c s t ∧ (t.core c).entries = (s.core c).entries ∧
          (t.core c).x rd = if rd = 0 then 0 else 1) ∧
      ((e.code = .aborted ∨ e.code = .failed) → e.d.opTag = (s.core c).x rs2 →
        ∃ t, exec (.eabort c rd rs1 rs2) s = .next t ∧ OnlyCore c s t ∧ (t.core c).entries = (s.core c).entries ∧
          (t.core c).x rd = if rd = 0 then 0 else BitVec.ofNat 32 e.status.toNat) ∧
      (e.code = .running → e.d.opTag = (s.core c).x rs2 → e.abortReq = false → e.outcome = none →
        ∃ t, exec (.eabort c rd rs1 rs2) s = .next t ∧ OnlyCore c s t ∧
          (t.core c).entry i = { e with abortReq := true, abortStatus := stAborted } ∧ (t.core c).wait = .eabort rd i e.op))

/-- ETEST does not wait: rd[2:0] receives the state of the oldest undelivered entry and rd[13:8] its index, or rd receives 0xFFFF_FFFF if
there is none. ESUM: rd receives the summary register that rs1[2:0] names. Neither changes anything but rd, the pc and the counters. WFI
waits until an entry leaves ADMITTED or RUNNING: nothing but the wait changes. A word of custom-0 with funct7 0 and funct3 0 to 4 is EISS,
ENEXT, ETEST, EABORT or ESUM, and any other is illegal. -/
def Obligations.EtestEsumAndWfi : Prop :=
  (
    ∀ (c : CoreId) (rd rs1 : BitVec 5) (s : State), (s.core c).cuReady = true →
      (∃ t, exec (.etest c rd) s = .next t ∧ OnlyCore c s t ∧
        t.core c = { s.core c with xregs := (t.core c).xregs, pc := (s.core c).pc + 4, instret := (s.core c).instret + 1, cycle := (s.core c).cycle + Config.cuHandshakes (s.core c).pc (s.core c).instret (s.core c).cycle } ∧
        (∀ q, q ≠ rd → (t.core c).x q = (s.core c).x q) ∧
        ((s.core c).order = [] → (t.core c).x rd = if rd = 0 then 0 else 0xFFFFFFFF) ∧
        (∀ i l, (s.core c).order = i :: l → (t.core c).x rd = if rd = 0 then 0 else BitVec.ofNat 32 (((s.core c).entry i).code.num + i * 256))) ∧
      (∃ t, exec (.esum c rd rs1) s = .next t ∧ OnlyCore c s t ∧
        t.core c = { s.core c with xregs := (t.core c).xregs, pc := (s.core c).pc + 4, instret := (s.core c).instret + 1, cycle := (s.core c).cycle + Config.cuHandshakes (s.core c).pc (s.core c).instret (s.core c).cycle } ∧
        (∀ q, q ≠ rd → (t.core c).x q = (s.core c).x q) ∧
        (t.core c).x rd = if rd = 0 then 0 else (s.core c).sums.get (((s.core c).x rs1).toNat % 8))) ∧ (
    ∀ (c : CoreId) (s : State), (s.core c).cuReady = true →
      ∃ t, exec (.wfi c) s = .next t ∧ OnlyCore c s t ∧ t.core c = { s.core c with wait := .wfi }) ∧ (
    ∀ (c : CoreId) (pick : Fin 64) (rd rs1 rs2 : BitVec 5) (s : State),
      let x := fun (f : Nat) => BitVec.ofNat 32 (0x0B + rd.toNat * 2 ^ 7 + f * 2 ^ 12 + rs1.toNat * 2 ^ 15 + rs2.toNat * 2 ^ 20)
      s.cuRun c pick (x 0) = exec (.eiss c rd rs1 pick []) s ∧ s.cuRun c pick (x 1) = exec (.enext c rd) s ∧ s.cuRun c pick (x 2) = exec (.etest c rd) s ∧
      s.cuRun c pick (x 3) = exec (.eabort c rd rs1 rs2) s ∧ s.cuRun c pick (x 4) = exec (.esum c rd rs1) s ∧
      ∀ y : BitVec 32, (y.toNat / 2 ^ 25 ≠ 0 ∨ 5 ≤ y.toNat / 2 ^ 12 % 8 ↔ cuWord c pick y = none) ∧
        (cuWord c pick y = none → (s.core c).cuReady = true → ∃ t, s.cuRun c pick y = .next t ∧ (t.core c).mcause = 2 ∧ (t.core c).mepc = (s.core c).pc ∧
          (t.core c).cuTrapped = true ∧ (t.core c).entries = (s.core c).entries))

/-- An operation moves to RUNNING when it is ADMITTED, its dependency is satisfied and its engine has finished every earlier operation;
its engine takes it up. An entry whose engine has finished leaves RUNNING, as ABORTED with the abort's status where an abort came after
the engine had finished without a failure; a running operation whose engine has not finished stays as it is. -/
def Obligations.OperationsStartInOrderAndEnd : Prop :=
  (∀ (c : CoreId) (i : Fin 64) (s : State), ((s.core c).entry i.val).code = .admitted → ((s.core c).entry i.val).dep = .none →
    (s.core c).engineFree ((s.core c).entry i.val) = true → ((s.core c).entry i.val).d.engine ≤ 2 →
    ∃ t, exec (.opStart c i) s = .next t ∧ OnlyCore c s t ∧ (t.core c).entry i.val = { (s.core c).entry i.val with code := .running } ∧
      (((s.core c).entry i.val).d.engine = 0 → (t.core c).mx = some { entry := i.val }) ∧
      (((s.core c).entry i.val).d.engine = 1 → (t.core c).vx = some { entry := i.val }) ∧
      (((s.core c).entry i.val).d.engine = 2 → (t.core c).dma.entry = some i.val)) ∧
  (∀ (c : CoreId) (i : Fin 64) (s : State) (st : Byte), ((s.core c).entry i.val).code = .running →
    ((s.core c).entry i.val).outcome = some st → (s.core c).wait = .none →
    (∀ y ∈ (s.core c).entries, y.2.code = .admitted → y.2.dep ≠ .on ((s.core c).entry i.val).op ∧ y.2.dep ≠ .broken) →
    ((s.core c).entry i.val).d.engine ≠ 3 →
    ∃ t, exec (.opEnd c i) s = .next t ∧
      (((s.core c).entry i.val).abortReq = false ∨ st = ((s.core c).entry i.val).abortStatus ∨ isF st = true →
        ((t.core c).entry i.val).code = ((s.core c).entry i.val).endCode st ∧
        (isF st = true ∨ ((s.core c).entry i.val).overran s.t = false → ((t.core c).entry i.val).status = st)) ∧
      (((s.core c).entry i.val).abortReq = true → st ≠ ((s.core c).entry i.val).abortStatus → isF st = false →
        ((t.core c).entry i.val).code = .aborted ∧ ((t.core c).entry i.val).status = ((s.core c).entry i.val).abortStatus) ∧
      ((t.core c).entry i.val).gddrCred = [] ∧ ((t.core c).entry i.val).remCred = [] ∧ ((t.core c).entry i.val).resCred = 0) ∧
  (∀ (c : CoreId) (i : Fin 64) (s : State), ((s.core c).entry i.val).outcome = none → exec (.opEnd c i) s = .next s)

/-- A load of the control unit from its own stores puts the bytes, extended as the form says, into its register; a store writes the
register's low bytes, which read back; a fetch from its slice changes nothing by itself; a misaligned access raises the address-misaligned
exception and is not performed. A fetch at the pc that is marked so executes the instruction there (log 43): ADDI, ADD, SUB, MUL, JAL,
BEQ, a read of mhartid and the compressed C.LI write their register alone and go on as RISC-V has it, ECALL raises its exception, and a
word of custom-0 is the engine-issue instruction that it spells. -/
def Obligations.ControlUnitLoadsAndStores : Prop :=
  (∀ (c : CoreId) (size : Fin 3) (z : Bool) (a : BitVec 32) (r : BitVec 5) (s : State) (res : Bool) (o : Nat),
    (s.core c).cuReady = true → a.toNat % 2 ^ size.val = 0 → cuPlace c a.toNat (2 ^ size.val) = some (res, o) →
    (res = false → (s.core c).banksReady c o (2 ^ size.val) = true) → (s.core c).wsErr = [] → (s.core c).rsErr = [] →
    (∃ t, exec (.controlUnitLoadStore c .load size z a r []) s = .next t ∧ OnlyCore c s t ∧
      (t.core c).x r = (if r = 0 then 0 else
        let v := leVal (((s.core c).physBytes c res o (2 ^ size.val)).map (fun p => (if res then (s.core c).rs else (s.core c).ws).read p))
        if z then BitVec.ofNat 32 v else BitVec.ofInt 32 (toSigned (8 * 2 ^ size.val) v))) ∧
    (∃ t, exec (.controlUnitLoadStore c .store size z a r []) s = .next t ∧ OnlyCore c s t ∧
      (res = true → (t.core c).ws = (s.core c).ws ∧ (∀ i, i < 2 ^ size.val → (t.core c).rs.read (o + i) = BitVec.ofNat 8 (((s.core c).x r).toNat / 256 ^ i)) ∧
        ∀ p, p < o ∨ o + 2 ^ size.val ≤ p → (t.core c).rs.read p = (s.core c).rs.read p) ∧
      (res = false → (t.core c).rs = (s.core c).rs ∧
        ((s.core c).parts = [] → ∀ i, i < 2 ^ size.val → (t.core c).ws.read (o + i) = BitVec.ofNat 8 (((s.core c).x r).toNat / 256 ^ i)) ∧
        ∀ p, p ∉ (s.core c).physBytes c false o (2 ^ size.val) → (t.core c).ws.read p = (s.core c).ws.read p)) ∧
    (res = true → z = false ∨ a ≠ (s.core c).pc → exec (.controlUnitLoadStore c .fetch size z a r []) s = .next s)) ∧
  (∀ (c : CoreId) (k : AccKind) (size : Fin 3) (z : Bool) (a : BitVec 32) (r : BitVec 5) (ups : List Upset) (s : State),
    (s.core c).cuReady = true → k = .load ∨ k = .store → a.toNat % 2 ^ size.val ≠ 0 →
    ∃ t, exec (.controlUnitLoadStore c k size z a r ups) s = .next t ∧ (t.core c).mcause = (if k = .store then 6 else 4) ∧
      (t.core c).cuTrapped = true ∧ (t.core c).ws = (s.core c).ws ∧ (t.core c).rs = (s.core c).rs) ∧
  (∀ (c : CoreId) (size : Fin 3) (r : BitVec 5) (s : State) (x : BitVec 32), let k := s.core c
    let o := k.pc.toNat - 0x10000000
    k.cuReady = true → k.rsErr = [] → k.pc.toNat % 2 = 0 → 0x10000000 ≤ k.pc.toNat → o + 4 ≤ rsSize c →
    (∀ i, i < 4 → k.rs.read (o + i) = BitVec.ofNat 8 (x.toNat / 256 ^ i)) →
    let run := exec (.controlUnitLoadStore c .fetch size true k.pc r []) s
    let wrote := fun (rd : BitVec 5) (v next : BitVec 32) => ∃ t, run = .next t ∧ OnlyCore c s t ∧ (t.core c).x rd = (if rd = 0 then 0 else v) ∧
      (∀ q, q ≠ rd → (t.core c).x q = k.x q) ∧ (t.core c).pc = next ∧ (t.core c).instret = k.instret + 1 ∧ (t.core c).ws = k.ws ∧ (t.core c).rs = k.rs
    (∀ (imm : BitVec 12) (a d : BitVec 5), x = imm ++ a ++ (0 : BitVec 3) ++ d ++ (0x13 : BitVec 7) → wrote d (k.x a + imm.signExtend 32) (k.pc + 4)) ∧
    (∀ a b d : BitVec 5,
      (x = (0 : BitVec 7) ++ b ++ a ++ (0 : BitVec 3) ++ d ++ (0x33 : BitVec 7) → wrote d (k.x a + k.x b) (k.pc + 4)) ∧
      (x = (0x20 : BitVec 7) ++ b ++ a ++ (0 : BitVec 3) ++ d ++ (0x33 : BitVec 7) → wrote d (k.x a - k.x b) (k.pc + 4)) ∧
      (x = (1 : BitVec 7) ++ b ++ a ++ (0 : BitVec 3) ++ d ++ (0x33 : BitVec 7) → wrote d (k.x a * k.x b) (k.pc + 4))) ∧
    (∀ (i : BitVec 20) (d : BitVec 5), x = i.extractLsb' 19 1 ++ i.extractLsb' 0 10 ++ i.extractLsb' 10 1 ++ i.extractLsb' 11 8 ++ d ++ (0x6F : BitVec 7) →
      wrote d (k.pc + 4) (k.pc + (i ++ (0 : BitVec 1)).signExtend 32)) ∧
    (∀ (i : BitVec 12) (a b : BitVec 5),
      x = i.extractLsb' 11 1 ++ i.extractLsb' 4 6 ++ b ++ a ++ (0 : BitVec 3) ++ i.extractLsb' 0 4 ++ i.extractLsb' 10 1 ++ (0x63 : BitVec 7) →
      wrote 0 0 (if k.x a = k.x b then k.pc + (i ++ (0 : BitVec 1)).signExtend 32 else k.pc + 4)) ∧
    (∀ (d : BitVec 5) (hi : BitVec 16) (imm : BitVec 6), x = hi ++ (2 : BitVec 3) ++ imm.extractLsb' 5 1 ++ d ++ imm.extractLsb' 0 5 ++ (1 : BitVec 2) →
      wrote d (imm.signExtend 32) (k.pc + 2)) ∧
    (∀ d : BitVec 5, x = (0xF14 : BitVec 12) ++ (0 : BitVec 5) ++ (2 : BitVec 3) ++ d ++ (0x73 : BitVec 7) → wrote d (BitVec.ofNat 32 (s.logNum c)) (k.pc + 4)) ∧
    (x = 0x73 → ∃ t, run = .next t ∧ (t.core c).mcause = 11 ∧ (t.core c).mepc = k.pc ∧ (t.core c).cuTrapped = true ∧ ∀ q, (t.core c).x q = k.x q) ∧
    (x.toNat % 128 = 0x0B → run = s.cuRun c (Fin.ofNat 64 (r.toNat + 32 * size.val)) x))

/-! ### The engines of a core (chapters 4, 5, 8) -/

/-- At the end of a matrix tile pass whose checks match and whose operands read clean: a pass before the last keeps its accumulators and
the next pass runs; the last pass of a tile writes the converted elements of that tile, row by row, where its rows do not overlap, and
nothing else of the two stores, and the next tile runs; after the last tile the operation has finished with ST_DONE. The end of a vector
tile whose checks match and whose operands read clean writes that tile's outputs, as they stand where they do not overlap, each element
counting once, and nothing else of the two stores; where more is to do the next tile runs, and else the operation has finished with
ST_DONE and its flags join VX_FLAGS. -/
def Obligations.MatrixAndVectorTilesEndClean : Prop :=
  (
    ∀ (c : CoreId) (s : State) (run : MxRun),
      let e := (s.core c).entry run.entry
      let x := e.d.mx
      let a := x.at run.tile run.pass
      let v := s.tileView c false
      let o := s.mxOut c e.d x a (v.mxPass c e.d x a run).1
      (s.core c).mx = some run → e.busy = true → e.abortReq = false → (s.core c).tileq = false →
      (s.core c).wsErr = [] → (s.core c).rsErr = [] → e.d.nanTrap = false →
      ∃ t, exec (.matrixTilePassEnd c none []) s = .next t ∧ t = { s with cores := t.cores, freeCount := t.freeCount } ∧
        (∀ d, d ≠ c → t.core d = s.core d) ∧
        (run.pass + 1 < x.passes →
          (t.core c).mx = some { run with pass := run.pass + 1
                                          acc := ((v.mxPass c e.d x a run).1).map (accCode x.accElem)
                                          made := ((v.mxPass c e.d x a run).1).map FVal.cause } ∧
          (t.core c).ws = (s.core c).ws ∧ (t.core c).rs = (s.core c).rs ∧ ((t.core c).entry run.entry).outcome = none) ∧
        (x.passes ≤ run.pass + 1 →
          (run.tile + 1 < x.tilesM * x.tilesN →
            (t.core c).mx = some { entry := run.entry, tile := run.tile + 1 } ∧ ((t.core c).entry run.entry).outcome = none) ∧
          (x.tilesM * x.tilesN ≤ run.tile + 1 →
            (t.core c).mx = none ∧ ((t.core c).entry run.entry).outcome = some stDone) ∧
          ((t.core c).entry run.entry).health.elements = e.health.elements + a.rn * a.cn ∧
          ((s.ownPas c false (x.tileSegs a)).Nodup → (s.ownPas c true (x.tileSegs a)).Nodup → ∀ i g, (x.tileSegs a)[i]? = some g →
            t.ownPeek c g.1 g.2 = packCodes (elemBits x.cFmt) (((o.1.drop (i * a.cn)).take a.cn).map (·.2.code))) ∧
          (∀ p, p ∉ s.ownPas c false (x.tileSegs a) → (t.core c).ws.read p = (s.core c).ws.read p) ∧
          (∀ p, p ∉ s.ownPas c true (x.tileSegs a) → (t.core c).rs.read p = (s.core c).rs.read p))) ∧ (
    ∀ (c : CoreId) (s : State) (run : VxRun),
      let e := (s.core c).entry run.entry
      let r := (s.tileView c true).vxTile c e.d run
      (s.core c).vx = some run → e.busy = true → e.abortReq = false → (s.core c).tileq = false → e.d.nanTrap = false →
      (s.core c).wsErr = [] → (s.core c).rsErr = [] → r.bad = none →
      ∃ t, exec (.vectorTileEnd c none []) s = .next t ∧ t = { s with cores := t.cores, freeCount := t.freeCount } ∧
        (∀ d, d ≠ c → t.core d = s.core d) ∧
        (∀ v, r.next = some v → (t.core c).vx = some v ∧ ((t.core c).entry run.entry).outcome = none) ∧
        (r.next = none → (t.core c).vx = none ∧ ((t.core c).entry run.entry).outcome = some stDone ∧
          (t.core c).vxFlags = (s.core c).vxFlags ||| ((t.core c).entry run.entry).health.flags) ∧
        (e.d.vx.op ≠ 4 → e.d.vx.op ≠ 9 → ((t.core c).entry run.entry).health.elements = e.health.elements + r.elems.length) ∧
        (e.d.vx.op = 4 ∨ e.d.vx.op = 9 →
          ((t.core c).entry run.entry).health.elements = (outAdd e.written (r.elems.map (fun y => y.w.elem y.idx y.ex))).length) ∧
        ((s.ownPas c false (r.writes.map (fun w => (w.1, w.2.length)))).Nodup → (s.ownPas c true (r.writes.map (fun w => (w.1, w.2.length)))).Nodup →
          ∀ w ∈ r.writes, t.ownPeek c w.1 w.2.length = w.2) ∧
        (∀ p, p ∉ s.ownPas c false (r.writes.map (fun w => (w.1, w.2.length))) → (t.core c).ws.read p = (s.core c).ws.read p) ∧
        (∀ p, p ∉ s.ownPas c true (r.writes.map (fun w => (w.1, w.2.length))) → (t.core c).rs.read p = (s.core c).rs.read p))

/-- A mismatch, of a check that the operation has, at the end of a matrix tile pass or a vector tile whose operands read clean, with no
abort: where the second execution mismatches too, or the operation has re-executed before, the operation ends with ST_RESIDUE_FAULT,
`suspect` is set, a record of class 0x03 and severity 2 is logged and node firmware is signalled. -/
def Obligations.SecondMismatchEndsTheOperation : Prop :=
  (∀ (c : CoreId) (s : State) (run : MxRun) (m f : Mismatch),
    let e := (s.core c).entry run.entry
    (s.core c).mx = some run → e.busy = true → e.abortReq = false → (s.core c).tileq = false →
    (s.core c).wsErr = [] → (s.core c).rsErr = [] → misFits false (e.d.mx.hasCheck (run.pass + 1 == e.d.mx.passes)) m = some f → s.px.sramErr = [] →
    e.reexec = true ∨ f.second ≠ [] →
    ∃ t r, exec (.matrixTilePassEnd c (some m) []) s = .next t ∧ ((t.core c).entry run.entry).outcome = some stResidueFault ∧
      (t.core c).suspect = true ∧ (t.core c).mx = none ∧ t.signals = s.signals ++ [8 + c.die.val] ∧
      t.handed.getLast? = some r ∧ r.cls = 0x03 ∧ r.severity = 2 ∧ r.status = stResidueFault ∧ r.opTag = e.d.opTag) ∧
  (∀ (c : CoreId) (s : State) (run : VxRun) (m f : Mismatch),
    let e := (s.core c).entry run.entry
    (s.core c).vx = some run → e.busy = true → e.abortReq = false → (s.core c).tileq = false →
    (s.core c).wsErr = [] → (s.core c).rsErr = [] → ((s.tileView c true).vxTile c e.d run).bad = none →
    misFits true e.d.vxChecks m = some f → s.px.sramErr = [] → e.reexec = true ∨ f.second ≠ [] →
    ∃ t r, exec (.vectorTileEnd c (some m) []) s = .next t ∧ ((t.core c).entry run.entry).outcome = some stResidueFault ∧
      (t.core c).suspect = true ∧ (t.core c).vx = none ∧ t.signals = s.signals ++ [8 + c.die.val] ∧
      t.handed.getLast? = some r ∧ r.cls = 0x03 ∧ r.severity = 2 ∧ r.status = stResidueFault ∧ r.opTag = e.d.opTag)

/-- The steps of a running solve. A check step reads the solve's operands again; one that finds nothing wrong changes nothing else; an
uncorrectable read, a mismatch that its re-execution does not clear, and an abort end the solve with x untouched. The check between
iterations of a team solve completes an iteration; of a direct solve, with its factor whole, it writes the solution, or under
`fp32_factor` takes a refinement step; without a factor it sets NV and falls back. A product boundary without `optimistic` decides
nothing. The last descriptor of a member's list is DONE and its result reads clean: the solver keeps the member's result and the member's
lent entries are FREE again; once every member has answered, the product's result moves the method on. A FAILED or ABORTED descriptor ends
the solve with its status and x untouched. -/
def Obligations.SolvesGoThroughTheirSteps : Prop :=
  (
    ∀ (c : CoreId) (s : State) (v : SvRun),
      let e := (s.core c).entry v.entry
      let r := s.svRead c e.d { s.svWho c e.d with status := if e.abortReq then 0 else stMemUnc }
      (s.core c).sv = some v → e.busy = true →
      (e.abortReq = false → r.2.1 = stDone → ∃ t, exec (.solverCheckStep c none []) s = .next t ∧ t = { r.1 with cores := t.cores } ∧
        (∀ d, d ≠ c → t.core d = r.1.core d) ∧ t.core c = { r.1.core c with entries := (t.core c).entries } ∧
        ((t.core c).entry v.entry).outcome = ((r.1.core c).entry v.entry).outcome ∧
        ((t.core c).entry v.entry).health = ((r.1.core c).entry v.entry).health) ∧
      (e.abortReq = false → r.2.1 ≠ stDone → r.1.lentLive c v.entry = false →
        ∃ t, exec (.solverCheckStep c none []) s = .next t ∧ ((t.core c).entry v.entry).outcome = some stMemUnc ∧
          bitAt ((t.core c).entry v.entry).recFlags.toNat 2 = true ∧ (t.core c).ws = (r.1.core c).ws ∧ (t.core c).rs = (r.1.core c).rs ∧ t.chans = r.1.chans) ∧
      (∀ m f : Mismatch, e.abortReq = false → r.2.1 = stDone → misFits false (fun f => f.check.toNat ≤ 5) m = some f → e.reexec = true ∨ f.second ≠ [] → r.1.lentLive c v.entry = false →
        ∃ t, exec (.solverCheckStep c (some m) []) s = .next t ∧ ((t.core c).entry v.entry).outcome = some stResidueFault ∧
          (t.core c).suspect = true ∧ bitAt ((t.core c).entry v.entry).recFlags.toNat 2 = true ∧ (t.core c).ws = (r.1.core c).ws ∧ (t.core c).rs = (r.1.core c).rs ∧ t.chans = r.1.chans) ∧
      (e.abortReq = true → r.1.lentLive c v.entry = false →
        ∃ t, exec (.solverCheckStep c none []) s = .next t ∧ ((t.core c).entry v.entry).outcome = some e.abortStatus ∧
          bitAt ((t.core c).entry v.entry).recFlags.toNat 2 = true ∧ (t.core c).ws = (r.1.core c).ws ∧ (t.core c).rs = (r.1.core c).rs ∧ t.chans = r.1.chans) ∧
      (e.abortReq = false → e.d.sv.iterative = true → v.stage ≠ 3 → v.product = [] → e.d.sv.optimistic = false →
        ∃ t, exec (.solveDeadlineCheck c true) s = .next t ∧ OnlyCore c s t ∧ t.core c = s.core c) ∧
      (e.abortReq = false → e.d.sv.iterative = true → v.stage = 3 → (∀ m ∈ s.team c e.d.sv, m.1 ≠ c) → (∀ m ∈ s.members c v.entry, m ≠ c) →
        ∃ t w, exec (.solveDeadlineCheck c false) s = .next t ∧ (t.core c).sv = some w ∧ w.iter = v.iter + 1 ∧ w.hasIterate = true) ∧
      (e.abortReq = false → e.d.sv.iterative = false → (∀ m ∈ s.members c v.entry, m ≠ c) →
        ((v.factor e.d).1 = none → ∃ t w, exec (.solveDeadlineCheck c false) s = .next t ∧ (t.core c).sv = some w ∧
          ((t.core c).entry v.entry).health.flags &&& flNV = flNV ∧ ((t.core c).entry v.entry).outcome ≠ none ∧
          (((t.core c).entry v.entry).outcome ≠ some stMemUnc → w.cause = 1 ∧ 3 ≤ w.path.toNat)) ∧
        (∀ l, (v.factor e.d).1 = some l → e.d.sv.worksInGddr = false →
          ∃ t w, exec (.solveDeadlineCheck c false) s = .next t ∧ (t.core c).sv = some w ∧ w.factored = true ∧
            (e.d.sv.fp32 = false → w.x = codes64 (v.solve e.d l).1 ∧ ((t.core c).entry v.entry).outcome ≠ none ∧
              (e.d.sv.keepHist = false → e.d.sv.x / 2 ^ 48 = 2 → isSolver c = true → (s.core c).wsErr = [] → s.lentLive c v.entry = false →
                ((t.core c).entry v.entry).outcome = some (s.svStatus c stDone) ∧ w.rho = (({ v with factored := true, x := w.x } : SvRun).ratioNow e.d).1 ∧
                ∀ i y, (f64Bytes w.x)[i]? = some y → (t.core c).ws.read (e.d.sv.x % 2 ^ 48 + i) = y)) ∧
            (e.d.sv.fp32 = true → w.x = codes64 (v.refine e.d l).1 ∧ w.iter = v.iter + 1 ∧ w.hasIterate = true)))) ∧ (
    ∀ (c : CoreId) (j : Fin 1280) (s : State) (v : SvRun) (m : CoreId × Nat),
      let e := (s.core c).entry v.entry
      let km := s.core m.1
      let n := (teamList km.teamBlock (stageList v.stage)).length
      let blk := km.teamBlock
      (s.core c).sv = some v → e.busy = true → v.stage ≠ 3 → (s.team c e.d.sv)[j.val]? = some m → m.1 ≠ c →
      (∀ p ∈ v.product, p.1 ≠ j.val) → n ≠ 0 →
      ((∀ i ∈ km.lent, (km.entry i).code ≠ .failed ∧ (km.entry i).code ≠ .aborted) →
        n ≤ (km.lent.filter (fun i => (km.entry i).code != .free)).length →
        (∀ i ∈ km.lent.take n, (km.entry i).code = .done) →
        (let f := s.meshMove c m.1 false false (fieldAt blk 0x14 4) (fieldAt blk 0x1C 4) [] e.d.opTag
         (f.2.1 = stDone → (f.1.core c).sv = some v → (f.1.core m.1).lent = km.lent → v.product.length + 1 < (s.team c e.d.sv).length →
          ∃ t, exec (.teamProductDone c j) s = .next t ∧ (t.core c).sv = some { v with product := v.product ++ [(j.val, f.2.2)] } ∧
            (∀ i ∈ km.lent, ((t.core m.1).entry i).code = .free) ∧ (t.core m.1).ws = (f.1.core m.1).ws) ∧
         (f.2.1 = stDone → (f.1.core c).sv = some v → s.team c e.d.sv = [m] → v.product = [] →
          let outs : List TeamOut := [⟨bitAt (fieldAt blk 4 1) (stageList v.stage), fieldAt blk 0x18 4, f.2.2⟩]
          let y := resultVec v (if stageList v.stage = 1 then e.d.sv.n else e.d.sv.m) outs (productResult outs).1
          let a := ({ v with result := y } : SvRun).takeProduct e.d
          ∃ t w, exec (.teamProductDone c j) s = .next t ∧ (t.core c).sv = some w ∧ w = { a.1 with stage := a.2.2, product := [] }) ∧
         (f.2.1 ≠ stDone → f.1.lentLive c v.entry = false →
          ∃ t, exec (.teamProductDone c j) s = .next t ∧ ((t.core c).entry v.entry).outcome = some f.2.1))) ∧
      (∀ i st, km.lent = [i] → (km.entry i).code = .failed ∨ (km.entry i).code = .aborted → (km.entry i).status = st → s.lentLive c v.entry = false →
        ∃ t, exec (.teamProductDone c j) s = .next t ∧ ((t.core c).entry v.entry).outcome = some st ∧
          bitAt ((t.core c).entry v.entry).recFlags.toNat 2 = true ∧ (t.core c).ws = (s.core c).ws ∧ (t.core c).rs = (s.core c).rs))

/-! ### DMA engine and mesh (chapters 1, 3, 7) -/

/-- A transfer of one request within the core's working store moves its bytes as they stood and has finished with ST_DONE; a request that
reads GDDR joins the queue of the channel that serves its first unit, for which the operation holds a credit, and stays outstanding; with
every request of the operation answered, the engine finishes. The answer to a write of a transfer ends its request; a failing status is
kept as the transfer's: no more is asked, and once every outstanding request is answered the engine has finished with it. -/
def Obligations.DmaRequestsAreIssuedAndEnd : Prop :=
  (
    (∀ (c : CoreId) (s : State) (i : Nat),
      let e := (s.core c).entry i
      let x := e.d.dma
      (s.core c).dma = { entry := some i, nextReq := (s.core c).dma.nextReq } → e.busy = true → e.abortReq = false → s.twin.mode = 0 →
      e.d.opcode = 1 → x.srcKind = 0 → x.dstKind = 0 → x.src / 2 ^ 48 = 2 → x.dst / 2 ^ 48 = 2 → x.count = 1 →
      1 ≤ x.length → x.length ≤ 64 → 6 ≤ x.reqLog2 → (s.core c).wsErr = [] → (s.core c).parts = [] →
      ∃ t, exec (.dmaRequestIssue c []) s = .next t ∧ OnlyCore c s t ∧
        (∀ k, k < x.length → (t.core c).ws.read (x.dst % 2 ^ 48 + k) = (s.core c).ws.read (x.src % 2 ^ 48 + k)) ∧
        (∀ p, p < x.dst % 2 ^ 48 ∨ x.dst % 2 ^ 48 + x.length ≤ p → (t.core c).ws.read p = (s.core c).ws.read p) ∧
        (t.core c).rs = (s.core c).rs ∧ ((t.core c).entry i).outcome = some stDone) ∧
    (∀ (c : CoreId) (s : State) (i : Nat),
      let e := (s.core c).entry i
      let x := e.d.dma
      let ch := (s.steer (x.src / 256)).1
      (s.core c).dma = { entry := some i, nextReq := (s.core c).dma.nextReq } → e.busy = true → e.abortReq = false → s.twin.mode = 0 →
      e.d.opcode = 1 → x.srcKind = 0 → x.dstKind = 0 → x.src / 2 ^ 48 = 0 → x.dst / 2 ^ 48 = 2 → x.count = 1 →
      1 ≤ x.length → x.length ≤ 64 → 6 ≤ x.reqLog2 → x.src % 256 + x.length ≤ 256 → 0 < e.gddrCred.get ch →
      ∃ t r, exec (.dmaRequestIssue c []) s = .next t ∧ t = { s with cores := t.cores, chans := t.chans } ∧
        (t.core c).dma.outst = [r] ∧ r.waiting = 1 ∧
        (t.chan ch).queue = (s.chan ch).queue ++ [{ asker := .dma c r.id 0, op := .load, addr := x.src, len := x.length }] ∧
        ((t.core c).entry i).outcome = none ∧ (t.core c).ws = (s.core c).ws)) ∧ (
    ∀ (c : CoreId) (s : State) (i : Nat) (r : DmaReq) (a : DmaAns),
      (s.core c).dma.entry = some i → ((s.core c).entry i).busy = true → ((s.core c).entry i).abortReq = false →
      (s.core c).dma.outst = [r] → r.waiting = 1 → r.phase = 1 → r.status = 0 → r.dstKind = 0 →
      (s.core c).dma.answers = [a] → a.req = r.id → (s.core c).dma.fail = 0 → s.twin.mode = 0 → a.status = stDone →
      (∀ pl : Plane, ∀ x ∈ (s.fab pl.val).waiting, x.self = false) →
      ∃ t, exec (.dmaRequestAnswer c r.id []) s = .next t ∧ OnlyCore c s t ∧ (t.core c).dma.outst = [] ∧ (t.core c).dma.answers = [] ∧
        (((s.core c).entry i).d.dmaRows ≤ (s.core c).dma.row → ((t.core c).entry i).outcome = some stDone) ∧
        ((s.core c).dma.row < ((s.core c).entry i).d.dmaRows → ((t.core c).entry i).outcome = none ∧ (t.core c).dma.entry = some i)) ∧ (
    ∀ (c : CoreId) (s : State) (i : Nat) (r : DmaReq) (a : DmaAns) (more : List DmaReq),
      (s.core c).dma.entry = some i → ((s.core c).entry i).busy = true → ((s.core c).entry i).abortReq = false →
      (s.core c).dma.outst = r :: more → (∀ q ∈ more, q.id ≠ r.id) → r.waiting = 1 → r.status = 0 →
      (s.core c).dma.answers = [a] → a.req = r.id → (s.core c).dma.fail = 0 → a.status ≠ stDone →
      (∀ pl : Plane, ∀ x ∈ (s.fab pl.val).waiting, x.self = false) →
      ∃ t, exec (.dmaRequestAnswer c r.id []) s = .next t ∧
        (more = [] → ((t.core c).entry i).outcome = some a.status ∧ (t.core c).dma.entry = none) ∧
        (more ≠ [] → ((t.core c).entry i).outcome = none ∧ (t.core c).dma.outst = more ∧ (t.core c).dma.fail = a.status)) ∧ (
    ∀ (c : CoreId) (s : State) (i : Nat), (s.core c).dma.entry = some i → ((s.core c).entry i).busy = true →
      s.twin.mode = 0 → (s.core c).dma.fail ≠ 0 → (s.core c).dma.outst ≠ [] → exec (.dmaRequestIssue c []) s = .next s)

/-- Flits between one pair of cores arrive in order: while the oldest of a pair is of another kind, none arrives. A store to a working
store that a core accepts writes its bytes and is answered by a completion notice; a load request is answered by the bytes; the answer
carries the answering core's own number and job; a tile transfer writes its tile; each leaves every other byte as it was. The data or the
completion that comes back to a core joins the answers of its DMA engine; a core accepts a flit only of the job that owns its band, and
counts and records one it drops. -/
def Obligations.FlitsReachStoresAndComeBack : Prop :=
  (
    ∀ (s : State) (f : Flit) (m l : List Flit) (d : CoreId),
      s.mesh = m ++ f :: l → (∀ g ∈ m, g.src ≠ f.src ∨ g.dst ≠ f.dst) → s.phys f.dst.toNat = some d → s.flitAccepted d f = true → f.resident = false →
      f.off.toNat + f.len ≤ wsSize d → (s.core d).banksReady d f.off.toNat f.len = true → (s.core d).wsErr = [] → (s.core d).parts = [] →
      let back : Flit := { dst := f.src, src := BitVec.ofNat 17 (s.logNum d), kind := 4, lenM1 := f.lenM1, last := f.last
                           jobId := if (s.core d).jobValid then (s.core d).jobId else 0, opTag := f.opTag, req := f.req, part := f.part, record := f.record }
      f.payload.length = (if f.kind = 1 then 0 else f.len) → f.src ≠ 0x1FFFF →
      (f.kind = 0 → ∃ t, exec (.flitStore f.src f.dst) s = .next t ∧
        t.mesh = m ++ l ++ [back] ∧
        OnlyCore d { s with mesh := t.mesh } t ∧
        (∀ i (h : i < f.payload.length), (t.core d).ws.read (f.off.toNat + i) = f.payload[i]) ∧
        (∀ p, p < f.off.toNat ∨ f.off.toNat + f.len ≤ p → (t.core d).ws.read p = (s.core d).ws.read p)) ∧
      (f.kind = 1 → ∃ t, exec (.flitLoadRequest f.src f.dst) s = .next t ∧ t = { s with mesh := t.mesh } ∧
        t.mesh = m ++ l ++ [{ back with kind := 2, payload := (List.range f.len).map (fun i => (s.core d).ws.read (f.off.toNat + i)) }]) ∧
      (f.kind = 3 → ∃ t, exec (.flitTileTransfer f.src f.dst) s = .next t ∧ t.mesh = m ++ l ∧ OnlyCore d { s with mesh := m ++ l } t ∧
        (∀ i (h : i < f.payload.length), (t.core d).ws.read (f.off.toNat + i) = f.payload[i]) ∧
        (∀ p, p < f.off.toNat ∨ f.off.toNat + f.len ≤ p → (t.core d).ws.read p = (s.core d).ws.read p))) ∧ (
    (∀ (s : State) (f : Flit) (l : List Flit) (d : CoreId),
      s.mesh = f :: l → s.phys f.dst.toNat = some d → s.flitAccepted d f = true → f.record = false → (∃ r ∈ (s.core d).dma.outst, r.id = f.req) →
      (f.kind = 2 → ∃ t, exec (.flitLoadResponse f.src f.dst) s = .next t ∧ t.mesh = l ∧ OnlyCore d { s with mesh := l } t ∧
        (t.core d).dma.answers = (s.core d).dma.answers ++ [{ req := f.req, part := f.part, status := f.err, data := f.payload, logged := f.logged }]) ∧
      (f.kind = 4 → ∃ t, exec (.flitCompletionNotice f.src f.dst) s = .next t ∧ t.mesh = l ∧ OnlyCore d { s with mesh := l } t ∧
        (t.core d).dma.answers = (s.core d).dma.answers ++ [{ req := f.req, part := f.part, status := f.err, data := f.payload, logged := f.logged }])) ∧
    (∀ (s : State) (f : Flit) (l : List Flit) (d : CoreId),
      s.mesh = f :: l → s.phys f.dst.toNat = some d → f.kind = 0 → f.jobId ≠ (s.core d).jobId → f.jobId ≠ 0 →
      ∃ t r, exec (.flitStore f.src f.dst) s = .next t ∧ (t.core d).dropped = satInc (s.core d).dropped ∧
        (t.core d).ws = (s.core d).ws ∧ (t.core d).rs = (s.core d).rs ∧ t.handed = s.handed ++ [r] ∧ r.cls = 0x06 ∧ r.severity = 0) ∧
    (∀ (s : State) (f : Flit) (m l : List Flit), s.mesh = m ++ f :: l → (∀ g ∈ m, g.src ≠ f.src ∨ g.dst ≠ f.dst) →
      (f.kind ≠ 0 → exec (.flitStore f.src f.dst) s = .next s) ∧ (f.kind ≠ 1 → exec (.flitLoadRequest f.src f.dst) s = .next s) ∧
      (f.kind ≠ 2 → exec (.flitLoadResponse f.src f.dst) s = .next s) ∧ (f.kind ≠ 3 → exec (.flitTileTransfer f.src f.dst) s = .next s) ∧
      (f.kind ≠ 4 → exec (.flitCompletionNotice f.src f.dst) s = .next s)))

/-- A resident-store slice serves the oldest request of its foreign queue: a store's bytes stand in the slice, and every other byte of it
as before. Patrol scrub reads the next row when its interval has passed: a single flipped bit of the row is corrected, counted and written
back, and the sweep goes on to the next row. A burst over four adjacent cells of a cell row leaves no word with more than one flipped bit. -/
def Obligations.SlicesServeAndAreScrubbed : Prop :=
  (∀ (c : CoreId) (s : State) (m : MemReq) (rest : List MemReq) (f : Flit),
    (s.core c).foreign = m :: rest → (s.core c).foreignHeld = [] → m.asker = .flit f → f.kind = 0 → f.resident = true →
    f.off.toNat + f.len ≤ rsSize c → f.payload.length = f.len → (s.core c).rsErr = [] →
    ∃ t, exec (.foreignRequestServe c []) s = .next t ∧ (t.core c).foreign = rest ∧ OnlyCore c { s with mesh := t.mesh } t ∧
      (∀ i (h : i < f.payload.length), (t.core c).rs.read (f.off.toNat + i) = f.payload[i]) ∧
      (∀ p, p < f.off.toNat ∨ f.off.toNat + f.len ≤ p → (t.core c).rs.read p = (s.core c).rs.read p)) ∧
  (∀ (c : CoreId) (s : State) (word : Nat) (b : Nat),
    (s.cdie c.die.val).scrubOn = true → (s.cdie c.die.val).scrubUs ≠ 0 → s.railsUp c.die.val = true → s.scrubDue c ≤ s.t →
    (s.core c).scrubAt < rsSize c / 512 → (s.core c).rsErr = [(word, [b])] → word / 64 = (s.core c).scrubAt →
    ∃ t, exec (.scrubRow c [] []) s = .next t ∧ (t.core c).rsErr = [] ∧ (t.core c).rs = (s.core c).rs ∧
      (t.core c).rsCorrected = satInc (s.core c).rsCorrected ∧ (t.core c).scrubLast = s.scrubDue c ∧
      (t.core c).scrubAt = ((s.core c).scrubAt + 1) % (rsSize c / 512)) ∧
  (∀ (c : CoreId) (s : State) (pair : Nat) (bank : Fin 32) (first : Fin 288) (n word : Nat), (s.core c).rsErr = [] → n ≤ 4 →
    (((s.upset c [.cells true pair bank first n]).core c).rsErr.get word).length ≤ 1)

/-! ### Rates, floors, breaches and profiles (chapters 2, 20) -/

/-- At the end of a core's window, RATE_NOW takes its rate, RATE_MIN the lower of its value and the rate, and BELOW_GUARD says whether the
rate is below the die's guard rate; a write of 1 to min_clear sets RATE_MIN to 0xFFFF. Nothing else changes. A die whose rails are up
updates die_rate_min each microsecond: a fabric or processor die to its own rate, a compute die to the lowest of its monitored cores. The
rail stays between the floor voltage of the die's profile and the ceiling, and rises while the rate is below the guard rate. A rate below
the floor rate with the rail at its ceiling is a floor loss: the die stops admitting, its breach reads 1, a record of class 0x08 and
severity 3 is logged and node firmware is signalled. -/
def Obligations.RatesAreMeasured : Prop :=
  (
    ∀ (c : CoreId) (s : State),
      (∀ rate : BitVec 16, s.railsUp c.die.val = true → ∃ t, exec (.rateMonitorWindow c rate) s = .next t ∧ OnlyCore c s t ∧
        t.core c = { s.core c with rateNow := rate, rateMin := (t.core c).rateMin, rateSeen := true } ∧
        (t.core c).rateMin.toNat = min (s.core c).rateMin.toNat rate.toNat ∧
        bitAt ((t.core c).reg c (t.dieRate c.die.val).guardRate 0x040) 32 = decide (rate.toNat < (s.dieRate c.die.val).guardRate.toNat)) ∧
      (∃ t, exec (.minClear c) s = .next t ∧ OnlyCore c s t ∧ t.core c = { s.core c with rateMin := 0xFFFF })) ∧ (
    ∀ (d : Die) (own mv : BitVec 16) (s : State), s.railsUp d.val = true →
      ∃ t, exec (.dieRateUpdate d own mv) s = .next t ∧
        (∀ e, e ≠ d.val → t.dieRate e = s.dieRate e) ∧ t.cores = s.cores ∧ t.chans = s.chans ∧
        (4 ≤ d.val → (t.dieRate d.val).rateMin = own) ∧
        (d.val < 4 → ∀ m, s.coreRateMin d.val = some m → m < 65536 → (t.dieRate d.val).rateMin.toNat = m) ∧
        (t.dieRate d.val).railMv.toNat ≤ ceilMv ∧
        ((s.dieRate d.val).floorRate = 800 → floorMv 0 d.val ≤ (t.dieRate d.val).railMv.toNat) ∧
        (s.dieIdle d.val = false ∨ (s.dieRate d.val).admitting = true →
          ((t.dieRate d.val).rateMin.toNat < (s.dieRate d.val).guardRate.toNat → (t.dieRate d.val).railMv.toNat = ceilMv ∨
            (s.dieRate d.val).railMv.toNat < (t.dieRate d.val).railMv.toNat)) ∧
        ((s.dieRate d.val).breach = true → (t.dieRate d.val).lowSince = none) ∧
        (mv.toNat = ceilMv → (t.dieRate d.val).rateMin.toNat < (s.dieRate d.val).floorRate.toNat → (s.dieRate d.val).floorLoss = false →
          (t.dieRate d.val).admitting = false ∧ (t.dieRate d.val).breach = true ∧ (t.dieRate d.val).floorLoss = true ∧
          t.signals = s.signals ++ [d.val + 1] ∧ ∃ r, t.handed = s.handed ++ [r] ∧ r.cls = 0x08 ∧ r.severity = 3) ∧
        (ceilMv ≠ (t.dieRate d.val).railMv.toNat → t = { s with dies := t.dies } ∧ (t.dieRate d.val).admitting = (s.dieRate d.val).admitting))

/-- A rate that has stayed below the guard rate for 10 µs with the rail at its ceiling is a floor breach: the die stops admitting, breach
reads 1, a record of class 0x08 and severity 3 is logged and node firmware is signalled. A write of 1 to resume is kept only where no
breach stands, and the die admits again once its rate has been at or above the guard rate for 100 µs. -/
def Obligations.BreachAndResume : Prop :=
  (∀ (d : Die) (s : State) (since : Nat), (s.dieRate d.val).lowSince = some since → (s.dieRate d.val).breach = false → since + 10000 ≤ s.t →
    ∃ t r, exec (.floorBreach d) s = .next t ∧ (t.dieRate d.val).admitting = false ∧ (t.dieRate d.val).breach = true ∧
      (∀ e, e ≠ d.val → t.dieRate e = s.dieRate e) ∧ t.signals = s.signals ++ [d.val + 1] ∧
      t.handed = s.handed ++ [r] ∧ r.cls = 0x08 ∧ r.severity = 3 ∧ r.unit = dieUnit d.val ∧ t.cores = s.cores) ∧
  (∀ (d : Die) (s : State), (s.dieRate d.val).breach = false → (s.dieRate d.val).floorLoss = false →
    ∃ t, exec (.resume d) s = .next t ∧ OnlyDie d.val s t ∧ (t.dieRate d.val).resume = true ∧
      ((s.dieRate d.val).guardRate.toNat ≤ (s.dieRate d.val).rateMin.toNat → (t.dieRate d.val).okSince = some s.t)) ∧
  (∀ (d : Die) (s : State), (s.dieRate d.val).breach = true ∨ (s.dieRate d.val).floorLoss = true →
    ∃ t, exec (.resume d) s = .next t ∧ OnlyDie d.val s t ∧ t.dieRate d.val = s.dieRate d.val) ∧
  (∀ (d : Die) (s : State) (since : Nat), (s.dieRate d.val).okSince = some since → (s.dieRate d.val).resume = true →
    (s.dieRate d.val).waitNs = 0 → since + 100000 ≤ s.t → s.mayAdmit d.val = true → s.cpc.dold = 0 →
    ∃ t, exec (.admissionResume d) s = .next t ∧ OnlyDie d.val s t ∧ (t.dieRate d.val).admitting = true ∧ (t.dieRate d.val).resume = false)

/-- A change of profile stops every die from admitting; a reserved request, and the Full profile on an SZQ-820-E package (grade 1), change
no die and are recorded; while a change runs, change is ignored. A die with no admitted work takes the floor and guard rates of the new
profile and admits again, unless a breach has stopped it and no resume has followed; once the last die has switched, active reads the new
profile. The power of the last millisecond is kept; within the budget nothing else changes, and above it rails come down, none below the
floor voltage of the profile its die works at and none upwards. -/
def Obligations.ProfilesChangeAndRailsComeDown : Prop :=
  (
    (∀ (req : BitVec 2) (s : State), req ≠ 3 → (req = 0 → s.pkg.grade ≠ 1) → s.cpc.target = none →
      ∃ t, exec (.change req) s = .next t ∧ t = { s with cpc := t.cpc, dies := t.dies } ∧ t.cpc = { s.cpc with request := req, target := some req } ∧
        ∀ d, d < 7 → (t.dieRate d).admitting = false ∧ (t.dieRate d).switching = true) ∧
    (∀ (req : BitVec 2) (s : State), req ≠ 3 → (req = 0 → s.pkg.grade ≠ 1) → s.cpc.target ≠ none →
      exec (.change req) s = .next { s with cpc := { s.cpc with request := req } }) ∧
    (∀ (s : State), ∃ t r, exec (.change 3) s = .next t ∧ t.dies = s.dies ∧ t.cpc.target = s.cpc.target ∧ t.handed = s.handed ++ [r] ∧ r.cls = 0x0B) ∧
    (∀ (s : State), s.pkg.grade = 1 → ∃ t r, exec (.change 0) s = .next t ∧ t.dies = s.dies ∧ t.cpc.target = s.cpc.target ∧
      t.handed = s.handed ++ [r] ∧ r.cls = 0x0B) ∧
    (∀ (d : Die) (s : State) (p : BitVec 2), s.cpc.target = some p → (s.dieRate d.val).switching = true → s.dieIdle d.val = true →
      ∃ t, exec (.dieProfileSwitch d) s = .next t ∧ (t.dieRate d.val).switching = false ∧
        (t.dieRate d.val).floorRate.toNat = floorRateOf p.toNat ∧ (t.dieRate d.val).guardRate.toNat = guardRateOf p.toNat ∧
        (t.dieRate d.val).railMv.toNat = floorMv p.toNat d.val ∧
        ((s.dieRate d.val).mustResume = true → (t.dieRate d.val).admitting = (s.dieRate d.val).admitting) ∧
        (9 ≤ s.boot.phase.toNat → s.cpc.restarting = false → (s.dieRate d.val).mustResume = false → (s.dieRate d.val).waitNs = 0 →
          (s.dieRate d.val).breach = false → (s.dieRate d.val).floorLoss = false → (s.dieRate d.val).heat ≠ 2 → s.cpc.stopped = false →
          s.twin.state ≠ 6 → s.cpc.dold = 0 → (d.val < 4 → (s.cdie d.val).busy = false) → (t.dieRate d.val).admitting = true) ∧
        (∀ e, e ≠ d.val → t.dieRate e = s.dieRate e) ∧ t.cores = s.cores ∧
        ((∀ e : Fin 7, e ≠ d → (s.dieRate e.val).switching = false) → t.cpc.active = p ∧ t.cpc.target = none ∧ t.cpc.budgetW.toNat = budgetOf p.toNat) ∧
        ((∃ e : Fin 7, e ≠ d ∧ (s.dieRate e.val).switching = true) → t.cpc = s.cpc ∧ t.handed = s.handed))) ∧ (
    ∀ (w : BitVec 16) (d : Die) (mv : BitVec 16) (s : State),
      (w.toNat ≤ s.cpc.budgetW.toNat → ∀ rails, exec (.powerBudgetWindow w rails) s = .next { s with cpc := { s.cpc with powerW := w } }) ∧
      (s.cpc.budgetW.toNat < w.toNat → ∃ t, exec (.powerBudgetWindow w [(d, mv)]) s = .next t ∧
        OnlyDie d.val { s with cpc := { s.cpc with powerW := w } } t ∧
        (t.dieRate d.val).railMv.toNat ≤ (s.dieRate d.val).railMv.toNat ∧
        (∀ p, (s.dieRate d.val).floorRate.toNat = floorRateOf p → floorMv p d.val ≤ (s.dieRate d.val).railMv.toNat →
          floorMv p d.val ≤ (t.dieRate d.val).railMv.toNat) ∧
        ((t.dieRate d.val).railMv.toNat ≠ ceilMv → (t.dieRate d.val).lowSince = none) ∧
        t.dieRate d.val = { s.dieRate d.val with railMv := (t.dieRate d.val).railMv, lowSince := (t.dieRate d.val).lowSince }))

/-! ### Core registers (chapters 3, 4, 7) -/

/-- A write of 1 to abort_all aborts what the table holds: with the table empty nothing changes and the field reads 0, the one running
entry of a core is told to stop with ST_ABORTED while the field reads 1, and one that is ADMITTED ends ABORTED with ST_ABORTED at once.
halt_cu stops the control unit at the next instruction boundary, and cleared lets one run that has not trapped; tileq_enable is taken only
while no job owns the core. Self-test starts only with the tile queue enabled. When it has finished, MX_SELFTEST holds its bits; a core
that passes every part is no longer suspect; one that passes the narrow parts only and whose row has no spare runs narrow formats only. -/
def Obligations.CoreControlAndSelfTest : Prop :=
  (
    ∀ (c : CoreId) (s : State),
      ((s.core c).entries = [] → ∃ t, exec (.abortAll c) s = .next t ∧ OnlyCore c s t ∧ t.core c = { s.core c with abortAll := false }) ∧
      (∀ i e, (s.core c).entries = [(i, e)] → e.code = .running → e.abortReq = false → e.outcome = none →
        ∃ t, exec (.abortAll c) s = .next t ∧ OnlyCore c s t ∧
          t.core c = { s.core c with entries := [(i, { e with abortReq := true, abortStatus := stAborted })], abortAll := true }) ∧
      (∀ i e, (s.core c).entries = [(i, e)] → e.code = .admitted → e.d.engine ≠ 3 → (s.core c).wait = .none →
        ∃ t, exec (.abortAll c) s = .next t ∧ ((t.core c).entry i).code = .aborted ∧ ((t.core c).entry i).status = stAborted ∧
          (t.core c).abortAll = false) ∧
      (∃ t, exec (.haltCu c true) s = .next t ∧ OnlyCore c s t ∧ t.core c = { s.core c with haltCu := true }) ∧
      (∃ t, exec (.haltCu c false) s = .next t ∧ OnlyCore c s t ∧ t.core c = { s.core c with haltCu := false, cuRunning := !(s.core c).cuTrapped }) ∧
      (∀ v, (s.core c).jobValid = false → ∃ t, exec (.tileqEnable c v) s = .next t ∧ OnlyCore c s t ∧ t.core c = { s.core c with tileq := v }) ∧
      ((s.core c).jobValid = true → ∃ t, exec (.tileqEnable c true) s = .next t ∧ OnlyCore c s t ∧ t.core c = s.core c)) ∧ (
    ∀ (c : CoreId) (s : State),
      ((s.core c).tileq = true → ∃ t, exec (.mxSelftestStart c) s = .next t ∧ OnlyCore c s t ∧ t.core c = { s.core c with selfBusy := true }) ∧
      ((s.core c).tileq = false → ∃ t, exec (.mxSelftestStart c) s = .next t ∧ OnlyCore c s t ∧ t.core c = s.core c) ∧
      (∀ (pass : BitVec 6) (tiles : BitVec 16), (s.core c).selfBusy = true →
        ∃ t, exec (.selftestDone c pass tiles) s = .next t ∧ (t.core c).selfBusy = false ∧ (t.core c).selfDone = true ∧
          (t.core c).selfPass = pass ∧ (t.core c).failTiles = tiles ∧ (∀ d, d ≠ c → t.core d = s.core d) ∧
          (t.core c).ws = (s.core c).ws ∧ (t.core c).rs = (s.core c).rs ∧
          (pass = 0x3F → (t.core c).suspect = false ∧ t.pkg = s.pkg ∧ t.cdies = s.cdies) ∧
          (pass = 0x27 → s.freeSpare c = false →
            (t.core c).narrowOnly = true ∧ (t.core c).suspect = false ∧ t.pkg = s.pkg)))

/-- A write to WS_PART_n takes effect on a drained general core where no valid entry comes to overlap another; one that overlaps is
refused with a record of class 0x0B, and any other is ignored. A bank that a valid partition covers is not powered down; one that is
powered down loses its content, and one powered up is ready only when it has been cleared. -/
def Obligations.PartitionsAndBanks : Prop :=
  ∀ (c : CoreId) (s : State),
    (∀ (n : Fin 8) (v : Reg), isSolver c = false → (s.core c).drained = true →
      (∀ e ∈ (s.core c).parts, e.1 ≠ n.val → (partOf v).overlaps e.2 = false) →
      ∃ t, exec (.wsPartWrite c n v) s = .next t ∧ OnlyCore c s t ∧
        t.core c = { s.core c with parts := (t.core c).parts } ∧ (t.core c).parts.get n.val = partOf v ∧
        ∀ m, m ≠ n.val → (t.core c).parts.get m = (s.core c).parts.get m) ∧
    (∀ (n : Fin 8) (v : Reg), isSolver c = true ∨ (s.core c).drained = false → exec (.wsPartWrite c n v) s = .next s) ∧
    (∀ (n : Fin 8) (v : Reg), isSolver c = false → (s.core c).drained = true → (∃ e ∈ (s.core c).parts, e.1 ≠ n.val ∧ (partOf v).overlaps e.2 = true) →
      ∃ t r, exec (.wsPartWrite c n v) s = .next t ∧ t = { s with handed := s.handed ++ [r] } ∧ r.cls = 0x0B ∧ r.severity = 0) ∧
    (∀ (v : Reg), isSolver c = false → (s.core c).drained = true →
      ∃ t, exec (.wsBankPowerWrite c v) s = .next t ∧ OnlyCore c s t ∧ (t.core c).rs = (s.core c).rs ∧
        (∀ b : Fin 6, (s.core c).bankOn.getLsbD b.val = true → (s.core c).bankKept b.val = true → (t.core c).bankOn.getLsbD b.val = true) ∧
        (∀ b : Fin 6, v.getLsbD b.val = true → (t.core c).bankOn.getLsbD b.val = true) ∧
        (∀ b : Fin 6, v.getLsbD b.val = false → (s.core c).bankKept b.val = false → (t.core c).bankOn.getLsbD b.val = false ∧ (t.core c).bankReady.getLsbD b.val = false) ∧
        (∀ b : Fin 6, (t.core c).bankReady.getLsbD b.val = true → (s.core c).bankReady.getLsbD b.val = true) ∧
        (∀ b : Fin 6, (s.core c).bankOn.getLsbD b.val = true → (t.core c).bankOn.getLsbD b.val = false →
          ∀ a, b.val * 8192 ≤ a → a < (b.val + 1) * 8192 → (t.core c).ws.read a = 0) ∧
        (∀ a, (t.core c).bankOn.getLsbD (a / 8192) = true → (t.core c).ws.read a = (s.core c).ws.read a)) ∧
    (∀ (b : Fin 6), (s.core c).bankOn.getLsbD b.val = true → (s.core c).bankReady.getLsbD b.val = false →
      ∃ t, exec (.bankReady c b) s = .next t ∧ OnlyCore c s t ∧ (t.core c).bankReady.getLsbD b.val = true ∧
        (t.core c).bankOn = (s.core c).bankOn ∧ (∀ a, b.val * 8192 ≤ a → a < (b.val + 1) * 8192 → (t.core c).ws.read a = 0) ∧
        (∀ a, a < b.val * 8192 ∨ (b.val + 1) * 8192 ≤ a → (t.core c).ws.read a = (s.core c).ws.read a))

/-! ### GDDR channels (chapter 9) -/

/-- One stored symbol of a sector that reads wrong is corrected, whichever it is and by whatever bits it differs, unless the channel's
in-line code is in detection mode. -/
def Obligations.SingleSymbolErrorsAreCorrected : Prop :=
  ∀ e : SymErr, 2 ≤ e.pos.val → e.diff ≠ 0 → rsDecode false [e] = .corrected [e] ∧ ∃ n, rsDecode true [e] = .bad n

/-- A channel serves the request at the front of its controller's queue. A store of one whole unit to a channel in service puts its bytes
into the device and changes no other unit of any channel; a load of bytes that stand without an error answers them; both answer the DMA
engine that asked with ST_DONE. -/
def Obligations.ChannelsServeRequests : Prop :=
  ∀ (ch : Chan) (s : State) (m : MemReq) (rest : List MemReq) (c : CoreId) (req part u : Nat),
    (s.chan ch.val).queue = m :: rest → m.asker = .dma c req part → (∃ r ∈ (s.core c).dma.outst, r.id = req) →
    m.addr / 256 = u → m.addr < 2 ^ 48 → (s.steer u).1 = ch.val → (s.chan ch.val).state = 1 → (s.chan ch.val).dead = false →
    (∀ k, (s.chan ch.val).errsAt (s.steer u).2 ((s.chan ch.val).spared (s.steer u).2) k = []) → (s.chan ch.val).window = [] →
    (s.chan ch.val).combining = [] → (s.chan ch.val).tracker = [] → s.px.dirty = [] →
    (m.op = .store → m.addr % 256 + m.data.length ≤ 256 → m.data ≠ [] → m.len = m.data.length →
      ∃ t, exec (.gddrRequest ch []) s = .next t ∧ (t.chan ch.val).queue = rest ∧ (∀ k, k ≠ ch.val → t.chan k = s.chan k) ∧
        (∀ i (h : i < m.data.length), (t.chan ch.val).mem.read ((s.chan ch.val).spared (s.steer u).2 * 256 + m.addr % 256 + i) = m.data[i]) ∧
        (∀ a, a < (s.chan ch.val).spared (s.steer u).2 * 256 + m.addr % 256 ∨ (s.chan ch.val).spared (s.steer u).2 * 256 + m.addr % 256 + m.data.length ≤ a →
          (t.chan ch.val).mem.read a = (s.chan ch.val).mem.read a) ∧
        (t.core c).dma.answers = (s.core c).dma.answers ++ [⟨req, part, stDone, [], false⟩]) ∧
    (m.op = .load → m.addr % 256 + m.len ≤ 256 → m.len ≠ 0 →
      ∃ t, exec (.gddrRequest ch []) s = .next t ∧ (t.chan ch.val).queue = rest ∧ (t.chan ch.val).mem = (s.chan ch.val).mem ∧
        (t.core c).dma.answers = (s.core c).dma.answers ++ [⟨req, part, stDone, (s.chan ch.val).mem.readN ((s.chan ch.val).spared (s.steer u).2 * 256 + m.addr % 256) m.len, false⟩])

/-- A combining sector with fewer than 8 requests in the last microsecond is written back whole and leaves combining; a line credit goes
to the one package that has asked; a combining sector's other sectors stand as they did. On-die corrections are added to their counter,
which saturates. A retrain, of a channel that migrates too, reads as state 2 until its last step. A cool device that reads above 95 °C is
hot, above 105 °C held, whatever its channel does; after 100 µs of readings below the exit temperature a hot one is cool again and a held
one becomes hot. Each touches its channel alone. -/
def Obligations.SquallCreditAndUpkeep : Prop :=
  (
    (∀ (ch : Chan) (key : Nat) (s : State), let c := s.chan ch.val
      (c.combining.get key).length = 64 → (c.recent key s.t).length < 8 →
      ∃ t, exec (.squallExit ch key) s = .next t ∧ OnlyChan ch.val s t ∧ (t.chan ch.val).combining.get key = [] ∧
        (∀ i, i < 64 → (t.chan ch.val).mem.read (c.spared (key / 4) * 256 + key % 4 * 64 + i) = (c.combining.get key).getD i 0) ∧
        (∀ k, k ≠ key → (t.chan ch.val).combining.get k = c.combining.get k) ∧
        (t.chan ch.val).errsAt (key / 4) (c.spared (key / 4)) (key % 4) = []) ∧
    (∀ (ch : Chan) (key p : Nat) (s : State), let c := s.chan ch.val
      c.combining.get key ≠ [] → c.lineHeld = [] → c.lineAsk = [(key, p)] →
      ∃ t, exec (.lineCreditGrant ch key) s = .next t ∧ OnlyChan ch.val s t ∧
        t.chan ch.val = { c with lineAsk := [], lineHeld := [(key, p)], lineLast := p })) ∧ (
    ∀ (ch : Chan) (s : State), let c := s.chan ch.val
      (∀ n : BitVec 32, ∃ t, exec (.gddrRefreshSlice ch n) s = .next t ∧ OnlyChan ch.val s t ∧
        t.chan ch.val = { c with deviceCorrected := (t.chan ch.val).deviceCorrected } ∧
        (t.chan ch.val).deviceCorrected.toNat = min (c.deviceCorrected.toNat + n.toNat) (2 ^ 32 - 1)) ∧
      (c.state = 1 ∨ c.state = 3 → c.retraining = false → ∃ t, exec (.gddrRetrain ch false) s = .next t ∧ OnlyChan ch.val s t ∧
        t.chan ch.val = { c with retraining := true } ∧ (t.chan ch.val).shown = 2) ∧
      (c.retraining = true → ∃ t, exec (.gddrRetrain ch true) s = .next t ∧ t.chan ch.val = { c with retraining := false } ∧
        (∀ e, e ≠ ch.val → t.chan e = s.chan e) ∧
        t = { s with chans := t.chans, signals := s.signals ++ (if 4 ≤ (t.chan ch.val).shown.toNat then [12 + ch.val] else []) }) ∧
      (∀ temp : Byte, c.state ≠ 0 → c.state ≠ 5 → c.heat = 0 → ∃ t, exec (.gddrTempRead ch temp) s = .next t ∧ (∀ e, e ≠ ch.val → t.chan e = s.chan e) ∧
        t.chan ch.val = { c with temp := temp, heat := (t.chan ch.val).heat, hotAt := (t.chan ch.val).hotAt } ∧
        (t.chan ch.val).heat = (if 105 < temp.toNat then 2 else if 95 < temp.toNat then 1 else 0) ∧
        (c.state = 1 → c.retraining = false → (t.chan ch.val).shown = (if 105 < temp.toNat then 7 else if 95 < temp.toNat then 6 else 1)) ∧
        (temp.toNat ≤ 95 → t.handed = s.handed ∧ t.signals = s.signals) ∧
        (95 < temp.toNat → ∃ r, t.handed = s.handed ++ [r] ∧ r.cls = 0x07 ∧ r.severity = (if 105 < temp.toNat then 3 else 1))) ∧
      (c.heat = 1 → c.hotAt + 100000 ≤ s.t → ∃ t, exec (.gddrHeatExit ch) s = .next t ∧ OnlyChan ch.val s t ∧ t.chan ch.val = { c with heat := 0 }) ∧
      (c.heat = 2 → c.hotAt + 100000 ≤ s.t → ∃ t, exec (.gddrHeatExit ch) s = .next t ∧ t.chan ch.val = { c with heat := 1, hotAt := s.t } ∧
        ∀ e, e ≠ ch.val → t.chan e = s.chan e))

/-- A migration starts where no other channel migrates or is lost: state 3, the pointer at 0, waiting for the operations of the earlier
bound, after which the copy begins. Each step of the copy puts the unit at the pointer into its place on another channel and raises the
pointer by one. A row group entered for a spare is assigned the row group at the top of the reserve and its copy begins, with
PKG_STATUS.migrating set; each further command copies one unit of the group, and the fifteenth makes the entry assigned and valid; a lost
channel reads state 5, answers what was queued with ST_MEM_UNCORRECTABLE, and a record of class 0x05 and severity 3 is logged. -/
def Obligations.MigrationSparesAndLostChannels : Prop :=
  (
    (∀ (ch : Chan) (s : State), s.otherMigration ch.val = false → (s.chan ch.val).state = 1 →
      ∃ t, exec (.start ch) s = .next t ∧ t.pkg.migrating = true ∧ (t.chan ch.val).state = 3 ∧ (t.chan ch.val).pointer = 0 ∧
        (t.chan ch.val).migDone = false ∧ (t.chan ch.val).draining = true ∧ (t.chan ch.val).mem = (s.chan ch.val).mem ∧
        (∀ e, e ≠ ch.val → t.chan e = s.chan e) ∧ t.cores = s.cores) ∧
    (∀ (ch : Chan) (s : State), (s.chan ch.val).state = 3 → (s.chan ch.val).draining = true → (s.chan ch.val).oldOps = [] →
      ∃ t, exec (.migrationDrained ch) s = .next t ∧ OnlyChan ch.val s t ∧ t.chan ch.val = { s.chan ch.val with draining := false }) ∧
    (∀ (ch : Chan) (s : State), let c := s.chan ch.val
      let tgt := migTarget s.pkg.density ch.val c.pointer.toNat
      c.state = 3 → c.draining = false → c.migLost = false → c.dead = false → c.queue = [] → c.window = [] → c.combining = [] → c.secErr = [] →
      c.spares = [] → (s.chan tgt.1).spares = [] → tgt.1 ≠ ch.val → c.pointer.toNat + 1 < uUse s.pkg.density →
      ∃ t, exec (.migrationUnitCopy ch []) s = .next t ∧ (t.chan ch.val).pointer.toNat = c.pointer.toNat + 1 ∧
        (∀ i, i < 256 → (t.chan tgt.1).mem.read (tgt.2 * 256 + i) = c.mem.read (c.pointer.toNat * 256 + i)) ∧
        (t.chan ch.val).mem = c.mem ∧ (t.chan ch.val).state = 3 ∧ (∀ e, e ≠ ch.val → e ≠ tgt.1 → t.chan e = s.chan e))) ∧ (
    (∀ (ch : Chan) (n : Fin 64) (s : State) (e : RowSpare), let c := s.chan ch.val
      c.spares = [(n.val, e)] → e.assigned = false → c.state = 1 → c.dead = false → e.fromGroup.toNat < uData s.pkg.density / 15 →
      (e.copying = false → ∃ t, exec (.rowSpareCopy ch n) s = .next t ∧ t.pkg.migrating = true ∧ (t.chan ch.val).mem = c.mem ∧
        (t.chan ch.val).spares.get n.val = { e with toGroup := BitVec.ofNat 21 (uData s.pkg.density / 15 - 1), copying := true, copied := 0 } ∧
        ∀ x, x ≠ ch.val → t.chan x = s.chan x) ∧
      (e.copying = true → e.copied < 15 → c.queue = [] → c.window = [] → c.combining = [] → c.secErr = [] →
        let g := e.fromGroup.toNat * 15 + e.copied
        let w := e.toGroup.toNat * 15 + e.copied
        ∃ t, exec (.rowSpareCopy ch n) s = .next t ∧ (∀ x, x ≠ ch.val → t.chan x = s.chan x) ∧
          (∀ i, i < 256 → (t.chan ch.val).mem.read (w * 256 + i) = c.mem.read (g * 256 + i)) ∧
          (∀ a, a < w * 256 ∨ (w + 1) * 256 ≤ a → (t.chan ch.val).mem.read a = c.mem.read a) ∧
          (e.copied < 14 → (t.chan ch.val).spares.get n.val = { e with copied := e.copied + 1 }) ∧
          (e.copied = 14 → (t.chan ch.val).spares.get n.val = { e with copying := false, copied := 0, assigned := true, valid := true }))) ∧
    (∀ (ch : Chan) (s : State), (s.chan ch.val).state = 1 → (s.chan ch.val).queue = [] → (s.chan ch.val).window = [] →
      ∃ t r, exec (.channelLost ch) s = .next t ∧ (t.chan ch.val).state = 5 ∧ (t.chan ch.val).lostNow = true ∧ (t.chan ch.val).mem = (s.chan ch.val).mem ∧
        t.handed = s.handed ++ [r] ∧ r.cls = 0x05 ∧ r.severity = 3 ∧ t.signals = s.signals ++ [12 + ch.val] ∧ (∀ e, e ≠ ch.val → t.chan e = s.chan e) ∧
        (s.otherMigration ch.val = true → t.pkg.memoryBroken = true)) ∧
    (∀ (ch : Chan) (s : State) (m : MemReq) (c : CoreId) (req part : Nat), (s.chan ch.val).state = 1 → (s.chan ch.val).queue = [m] →
      (s.chan ch.val).window = [] → m.asker = .dma c req part → (∃ r ∈ (s.core c).dma.outst, r.id = req) →
      ∃ t, exec (.channelLost ch) s = .next t ∧ (t.chan ch.val).state = 5 ∧ (t.chan ch.val).queue = [] ∧
        (t.core c).dma.answers = (s.core c).dma.answers ++ [⟨req, part, stMemUnc, [], false⟩]))

/-! ### Weamin transport and rack-domain memory (chapters 10 and 11) -/

/-- A good window request that its peer has not sent before is executed once it passes the window check: a store, load or atomic of GDDR
joins the channel that serves its first unit, in the controller's queue while the die has fewer than 4 requests there and else in its own
window queue; one of a resident window joins the queue of its slice; the window counts it as busy, and an in-order number moves the
receive space by one. One that fails the check executes nothing: it is counted, and a record of class 0x06 is logged. A copy of a store
that has been executed executes nothing and is answered again with the status of the first. -/
def Obligations.WindowRequestsAreTakenUpOnce : Prop :=
  ∀ (pl : Plane) (sub : SubPort) (f : WtFrame) (i : Instr) (s : State) (tn : Nat),
    (i = .wtStore pl sub f ∧ f.type = 1) ∨ (i = .loadRequest pl sub f ∧ f.type = 2) ∨ (i = .atomicRequest pl sub f ∧ f.type = 4) →
    s.linkIn pl.val sub.val = true → (s.port pl.val sub.val).twin = false → wtBad f (s.fab pl.val).udpMode = false → f.twin = false →
    s.NothingWaits → s.hopOf f ≤ (s.fab pl.val).allowance + 100 → f.jobId ≠ 0 → s.twin.state ≠ 6 →
    s.activeTen f.jobId f.jobGen = some tn → f.dstRank = (s.ten tn).job.ownRank → s.cpc.dold.toNat < 2 →
    s.dieAdmits (5 + pl.val) = true →
    let peer := s.peerOf pl.val f
    let sp := (s.space peer f.origin).floor f.ackFloor
    let q := reqSub f.payload
    let key := tn * 256 + q.window
    let w := (s.fab pl.val).windows.get key
    let a := windowNpa w q
    (∀ st, f.type = 1 → sp.classify f.seq f.ackFloor = .dup (some st) → st ≠ seqPending → (s.fab (s.spaceHome f.origin)).replay = [] →
      (s.fab pl.val).path ≠ [] → s.castHalted = false →
      ∃ t sb ca g, exec i s = .next t ∧ t.outbox = s.outbox ++ [.wt pl.val sb ca g] ∧ g.type = 6 ∧ g.status = st ∧ g.tag = f.tag ∧ g.seq = f.seq ∧
        g.origin = f.origin ∧ t.cores = s.cores ∧ t.chans = s.chans ∧ t.handed = s.handed) ∧
    (sp.classify f.seq f.ackFloor = .new → ¬ (sp.takenOver = true ∧ f.type = 4 ∧ f.flags.getLsbD 0 = true) →
    (windowReason w f q = none → w.space = 0 → (f.type ≠ 2 → s.needLine peer a q.length = none) →
      (s.chan (s.steer (a / 256)).1).windowOpen pl.val peer = true →
      (f.type = 4 → (s.fab (s.spaceHome f.origin)).replay.length < 32768) →
      let was := s.chan (s.steer (a / 256)).1
      ∃ t m, exec i s = .next t ∧ 
        m ∈ (t.chan (s.steer (a / 256)).1).queue ++ (t.chan (s.steer (a / 256)).1).window ∧
        (was.window = [] → (was.queue.filter (fun m => m.ofPlane pl.val)).length < 4 →
          (t.chan (s.steer (a / 256)).1).queue = was.queue ++ [m] ∧ (t.chan (s.steer (a / 256)).1).window = []) ∧
        (was.window = [] → 4 ≤ (was.queue.filter (fun m => m.ofPlane pl.val)).length →
          (t.chan (s.steer (a / 256)).1).queue = was.queue ∧ (t.chan (s.steer (a / 256)).1).window = [m]) ∧
        m.op = reqOp f q ∧ m.addr = a ∧ m.len = q.length ∧ m.data = q.data.take q.length ∧
        ((t.fab pl.val).windows.get key).busy = w.busy + 1 ∧ t.outbox = s.outbox ∧ t.cores = s.cores ∧
        (sp.low = f.seq → sp.seen = [] → (t.space peer f.origin).low = f.seq + 1)) ∧
    (windowReason w f q = none → w.space ≠ 0 → ∀ d o, s.rsTarget (a % 2 ^ 48) = some (d, o) →
      (s.core d).foreign.length < 64 → (s.core d).foreignHeld = [] →
      ∃ t m, exec i s = .next t ∧ (t.core d).foreign = (s.core d).foreign ++ [m] ∧ m.op = reqOp f q ∧ m.addr = a ∧
        m.len = q.length ∧ m.data = q.data.take q.length ∧ ((t.fab pl.val).windows.get key).busy = w.busy + 1 ∧ t.outbox = s.outbox ∧
        ∀ e, e ≠ d → t.core e = s.core e) ∧
    (∀ n, windowReason w f q = some n →
      ∃ t r, exec i s = .next t ∧ t.cores = s.cores ∧ t.chans = s.chans ∧ t.handed = s.handed ++ [r] ∧ r.cls = 0x06 ∧
        r.severity = 0 ∧ r.detail.head? = some (BitVec.ofNat 8 n) ∧ (t.fab pl.val).winFault = satInc (s.fab pl.val).winFault))

/-- A good answer that names an outstanding request by tag, seq and origin releases it and gives its status and data to the DMA engine
that waits; an answer with ST_NOT_ADMITTED leaves the request outstanding; one that names no request is counted as a duplicate and changes
no core. A request due for re-sending goes out again with its tag, number and payload, the re-send flag, and the path step of its turn,
and uses a credit. 250 ns after a refusal the request goes out again. 50 µs after its first transmission an engine's request is given up:
its target is marked lost on both planes, its tag is free, its DMA engine gets ST_TARGET_LOST, and a record of class 0x04 is logged. -/
def Obligations.RequestsEndByAnswerOrAreResent : Prop :=
  (
    ∀ (pl : Plane) (sub : SubPort) (f : WtFrame) (i : Instr) (s : State) (tn : Nat),
      (i = .loadResponse pl sub f ∧ f.type = 3) ∨ (i = .atomicResponse pl sub f ∧ f.type = 5) ∨ (i = .acknowledgement pl sub f ∧ f.type = 6) →
      s.linkIn pl.val sub.val = true → (s.port pl.val sub.val).twin = false → wtBad f (s.fab pl.val).udpMode = false → f.twin = false →
      s.NothingWaits → f.jobId ≠ 0 → s.twin.state ≠ 6 →
      s.activeTen f.jobId f.jobGen = some tn → f.dstRank = (s.ten tn).job.ownRank → s.NoMirrorWaits →
      let die := b2n (f.tag.getLsbD 15)
      (∀ o c req part, s.findOut f.tag f.seq f.origin = some o → o.owner = .dma c req part →
        (∃ r ∈ (s.core c).dma.outst, r.id = req) → f.status ≠ stNotAdmitted →
        ∃ t, exec i s = .next t ∧ (∀ x ∈ (t.fab die).outst, x.tag ≠ f.tag) ∧
          (∀ x ∈ (s.fab die).outst, x.tag ≠ f.tag → x ∈ (t.fab die).outst) ∧ (∀ e, e ≠ c → t.core e = s.core e) ∧
          (t.core c).dma.answers = (s.core c).dma.answers ++
            [⟨req, part, f.status, if f.type = 6 then [] else (f.payload.drop 16).take (beVal (slice f.payload 0 2)), false⟩]) ∧
      (∀ o, s.findOut f.tag f.seq f.origin = some o → f.status = stNotAdmitted →
        ∃ t, exec i s = .next t ∧ t.cores = s.cores ∧ (t.fab die).outst.length = (s.fab die).outst.length ∧
          ∃ x ∈ (t.fab die).outst, x.tag = f.tag ∧ x.seq = f.seq ∧ x.refusedAt = some s.t) ∧
      (s.findOut f.tag f.seq f.origin = none →
        ∃ t, exec i s = .next t ∧ t.cores = s.cores ∧ (t.fab die).outst = (s.fab die).outst ∧
          (t.fab pl.val).dupDrop = satInc (s.fab pl.val).dupDrop)) ∧ (
    ∀ (pl : Plane) (tag : BitVec 16) (s : State) (o : OutReq), s.outReq pl tag = some o → s.castHalted = false →
      (∀ due other step, resendPlan o.resends = some (due, other, step) → o.refusedAt = none → o.tFirst + due ≤ s.t →
        let dest := s.reqPlane o (if other then otherPlane pl else pl)
        o.frame.self = false → s.canPay dest.val o.peer o.frame.type = true → (s.reqDest dest.val o).isSome = true → (s.fab dest.val).alive = true →
        (s.egress dest.val o.frame.twin (pathOf tag + step)).isSome = true →
        ∃ t sb ca g, exec (.resendTimer pl tag) s = .next t ∧ t.outbox = s.outbox ++ [.wt dest.val sb ca g] ∧ g.tag = o.frame.tag ∧
          g.seq = o.frame.seq ∧ g.type = o.frame.type ∧ g.payload = o.frame.payload ∧ g.flags = o.frame.flags ||| 1 ∧ g.pathId = pathOf tag + step ∧
          ((t.fab dest.val).credits.get o.peer).used =
            ((s.fab dest.val).credits.get o.peer).used + (if needsCredit o.frame.type then 1 else 0) ∧
          (t.fab dest.val).resent = satInc (s.fab dest.val).resent ∧
          ∃ x ∈ (t.fab pl.val).outst, x.tag = tag ∧ x.resends = o.resends + 1 ∧ x.lastPlane = dest) ∧
      (∀ r, o.refusedAt = some r → r + 250 ≤ s.t →
        let dest := s.reqPlane o o.lastPlane
        (o.frame.self = false → s.canPay dest.val o.peer o.frame.type = true → (s.reqDest dest.val o).isSome = true → (s.fab dest.val).alive = true →
          (s.egress dest.val o.frame.twin o.frame.pathId).isSome = true →
          ∃ t sb ca g, exec (.notAdmittedResend pl tag) s = .next t ∧ t.outbox = s.outbox ++ [.wt dest.val sb ca g] ∧ g.tag = o.frame.tag ∧
            g.seq = o.frame.seq ∧ g.payload = o.frame.payload ∧ g.pathId = o.frame.pathId ∧ (t.fab dest.val).resent = (s.fab dest.val).resent ∧
            ∃ x ∈ (t.fab pl.val).outst, x.tag = tag ∧ x.refusedAt = none ∧ x.resends = 0 ∧ x.tFirst = s.t) ∧
        (o.frame.self = true → s.dieAdmits (5 + pl.val) = false → o.frame.tag = tag → o.frame.seq = o.seq → o.frame.origin = o.origin →
          ∃ t, exec (.notAdmittedResend pl tag) s = .next t ∧ t.outbox = s.outbox ∧
            ∃ x ∈ (t.fab pl.val).outst, x.tag = tag ∧ x.refusedAt = some s.t)) ∧
      (∀ c req part, o.owner = .dma c req part → o.refusedAt = none → o.tFirst + 50000 ≤ s.t → o.frame.self = false → s.NothingWaits →
        (∃ r ∈ (s.core c).dma.outst, r.id = req) →
        ∃ t r, exec (.retryBudgetExpiry pl tag) s = .next t ∧ (∀ x ∈ (t.fab pl.val).outst, x.tag ≠ tag) ∧
          (t.core c).dma.answers = (s.core c).dma.answers ++ [⟨req, part, stTargetLost, [], false⟩] ∧
          ((t.fab 0).rackMap.get (o.ten * 256 + o.pkg)).lost = true ∧ ((t.fab 1).rackMap.get (o.ten * 256 + o.pkg)).lost = true ∧
          (t.fab pl.val).targetLost = satInc (s.fab pl.val).targetLost ∧ t.handed = s.handed ++ [r] ∧ r.cls = 0x04 ∧ r.status = stTargetLost ∧
          t.signals = s.signals ++ [32 + pl.val] ∧ t.outbox = s.outbox))

/-- A credit update brings the peer's credit count; one that answers this package's request for buffers brings it 8 more. One that asks is
lent 8 shared buffers and answered, where 8 are free. The package sends one itself when 4 or more freed buffers are untold and no frame
has gone to the peer for 200 ns. Lent buffers unused for 1 ms return to the shared pool. -/
def Obligations.CreditsMoveAsTheirFramesSay : Prop :=
  (∀ (pl : Plane) (sub : SubPort) (f : WtFrame) (s : State), s.linkIn pl.val sub.val = true → (s.port pl.val sub.val).twin = false →
    wtBad f (s.fab pl.val).udpMode = false → f.twin = false → f.type = 7 → s.NothingWaits →
    let peer := s.peerOf pl.val f
    let c := (s.fab pl.val).credits.get peer
    ∃ t, exec (.creditUpdate pl sub f) s = .next t ∧ ((t.fab pl.val).credits.get peer).granted = f.creditGrant ∧
      ((t.fab pl.val).credits.get peer).used = c.used ∧ t.cores = s.cores ∧ t.chans = s.chans ∧
      (f.flags.getLsbD 2 = false → ((t.fab pl.val).credits.get peer).base = c.base + (if c.asked then 8 else 0) ∧
        ((t.fab pl.val).credits.get peer).asked = false) ∧
      (f.flags.getLsbD 2 = false ∨ (s.fab pl.val).shared < 8 → t.outbox = s.outbox ∧ (t.fab pl.val).shared = (s.fab pl.val).shared ∧
        ((t.fab pl.val).credits.get peer).lent = c.lent) ∧
      (f.flags.getLsbD 2 = true → 8 ≤ (s.fab pl.val).shared → (t.fab pl.val).shared = (s.fab pl.val).shared - 8 ∧
        ((t.fab pl.val).credits.get peer).lent = c.lent + 8 ∧
        (s.planeUp pl.val = true → ∃ sb ca g, t.outbox = s.outbox ++ [.wt pl.val sb ca g] ∧ g.type = 7 ∧ g.jobId = 0 ∧ g.flags = 0))) ∧
  (∀ (pl : Plane) (peer : Nat) (s : State), let c := (s.fab pl.val).credits.get peer
    4 ≤ c.untold → c.fourAt + 200 ≤ s.t → s.planeUp pl.val = true →
    ∃ t sb ca g, exec (.creditUpdateSend pl peer) s = .next t ∧ t.outbox = s.outbox ++ [.wt pl.val sb ca g] ∧ g.type = 7 ∧ g.jobId = 0 ∧
      g.creditGrant = c.freed ∧ ((t.fab pl.val).credits.get peer) = { c with untold := 0 } ∧
      ∀ p, p ≠ peer → (t.fab pl.val).credits.get p = (s.fab pl.val).credits.get p) ∧
  (∀ (pl : Plane) (peer : Nat) (s : State), let c := (s.fab pl.val).credits.get peer
    c.lent ≠ 0 → c.lastUse + 1000000 ≤ s.t →
    ∃ t, exec (.sharedBufferExpiry pl peer) s = .next t ∧ (t.fab pl.val).shared = (s.fab pl.val).shared + c.lent ∧
      ((t.fab pl.val).credits.get peer).lent = 0 ∧ ((t.fab pl.val).credits.get peer).freed = c.freed ∧
      (∀ p, p ≠ peer → (t.fab pl.val).credits.get p = (s.fab pl.val).credits.get p) ∧
      t.fab (1 - pl.val) = s.fab (1 - pl.val) ∧ t.outbox = s.outbox)

/-- A path probe is answered with an acknowledgement of its own tag and number, and with ST_NOT_ADMITTED by a die that is not admitting.
At the end of a window every histogram is empty and the path table lists healthy sub-ports alone, each hot one once and each other one
three times; a sub-port with fewer than 64 samples keeps its mark. -/
def Obligations.PathsAreMeasuredAndRebuilt : Prop :=
  (∀ (pl : Plane) (sub : SubPort) (f : WtFrame) (s : State) (tn : Nat), s.linkIn pl.val sub.val = true →
    (s.port pl.val sub.val).twin = false → wtBad f (s.fab pl.val).udpMode = false → f.twin = false → f.type = 0xB → s.NothingWaits →
    s.hopOf f ≤ (s.fab pl.val).allowance + 100 → s.cpc.dold.toNat < 2 → (s.fab pl.val).path ≠ [] →
    f.jobId = 0 ∨ s.twin.state ≠ 6 ∧ s.castHalted = false ∧ s.activeTen f.jobId f.jobGen = some tn ∧ f.dstRank = (s.ten tn).job.ownRank →
    ((s.space (s.peerOf pl.val f) f.origin).floor f.ackFloor).classify f.seq f.ackFloor = .new →
    ∃ t sb ca g, exec (.pathProbe pl sub f) s = .next t ∧ t.outbox = s.outbox ++ [.wt pl.val sb ca g] ∧
      g.type = 6 ∧ g.status = (if s.dieAdmits (5 + pl.val) then stDone else stNotAdmitted) ∧ g.tag = f.tag ∧ g.seq = f.seq ∧ g.origin = f.origin ∧ t.cores = s.cores ∧ t.chans = s.chans) ∧
  (∀ (pl : Plane) (s : State), (s.fab pl.val).winAt + 100000 ≤ s.t → ∃ t, exec (.pathTableRebuild pl) s = .next t ∧ (t.fab pl.val).hist = [] ∧
    (t.fab pl.val).winAt = s.t ∧
    (∀ p, ((t.fab pl.val).ports.get p).up = ((s.fab pl.val).ports.get p).up ∧ ((t.fab pl.val).ports.get p).failed = ((s.fab pl.val).ports.get p).failed ∧
      ((t.fab pl.val).ports.get p).mode = ((s.fab pl.val).ports.get p).mode) ∧
    (∀ sub, sub < 48 → sumN ((s.fab pl.val).hist.get sub) < 64 →
      ((t.fab pl.val).ports.get (sub / 4)).hot.getLsbD (sub % 4) = ((s.fab pl.val).ports.get (sub / 4)).hot.getLsbD (sub % 4)) ∧
    (∀ sub, sub < 48 → (t.fab pl.val).path.count sub =
      if (s.fab pl.val).alive = true ∧ ((t.fab pl.val).ports.get (sub / 4)).healthy sub = true then
        (if ((t.fab pl.val).ports.get (sub / 4)).hot.getLsbD (sub % 4) = true then 1 else 3) else 0) ∧
    t.fab (1 - pl.val) = s.fab (1 - pl.val))

/-- A sub-port that goes down is marked failed and leaves the path table; a request that alone was last sent on it, and not refused, is
sent again at once on the plane's other paths, where a credit is there, and else waits for one; a record of class 0x05 is logged. A link
reset, none running, takes the sub-port down without marking it. A link that comes up joins the path table unless it is marked failed. -/
def Obligations.SubPortsGoDownAndComeUp : Prop :=
  (∀ (pl : Plane) (sub : SubPort) (cause : DownCause) (s : State), (s.fab pl.val).alive = true → (s.port pl.val sub.val).isUp sub.val = true →
    (s.port pl.val sub.val).failed.getLsbD (sub.val % 4) = false → (cause = .unanswered → s.portDeaf pl sub.val = true) →
    ∃ t r, exec (.subPortDown pl sub cause) s = .next t ∧ (t.port pl.val sub.val).failed.getLsbD (sub.val % 4) = true ∧
      (t.port pl.val sub.val).isUp sub.val = (cause != .lockLost) ∧ sub.val ∉ (t.fab pl.val).path ∧
      t.handed = s.handed ++ [r] ∧ r.cls = 0x05 ∧ r.severity = 3 ∧ t.signals = s.signals ++ [32 + pl.val] ∧
      (∀ o ∈ (s.fab (b2n (o.tag.getLsbD 15))).outst,
        ((s.fab 0).outst ++ (s.fab 1).outst).filter (fun x => x.lastPlane == pl && x.lastSub == sub.val) = [o] → o.refusedAt = none →
        o.frame.self = false → o.frame.twin = false → (t.fab pl.val).path ≠ [] → s.castHalted = false →
        (s.canPay pl.val o.peer o.frame.type = true → (s.reqDest pl.val o).isSome = true → ∃ sb ca g, t.outbox = s.outbox ++ [.wt pl.val sb ca g] ∧
          sb ≠ sub.val ∧ g.tag = o.frame.tag ∧ g.seq = o.frame.seq ∧ g.flags = o.frame.flags ||| 1) ∧
        (s.canPay pl.val o.peer o.frame.type = false → t.outbox = s.outbox ∧
          { o with again := some (pl, o.frame.pathId, true), tries := o.tries.filter (fun x => !(x.1 == pl && x.2.1 == sub.val)) } ∈ (t.fab (b2n (o.tag.getLsbD 15))).outst))) ∧
  (∀ (pl : Plane) (port : Fin 12) (sub : Fin 4) (s : State), (s.fab pl.val).alive = true → s.cpc.stopped = false → s.linkBusy = false →
    (s.port pl.val (port.val * 4 + sub.val)).isUp (port.val * 4 + sub.val) = true →
    ∃ t, exec (.linkReset pl port sub) s = .next t ∧ (t.port pl.val (port.val * 4 + sub.val)).isUp (port.val * 4 + sub.val) = false ∧
      (t.port pl.val (port.val * 4 + sub.val)).failed = (s.port pl.val (port.val * 4 + sub.val)).failed ∧
      port.val * 4 + sub.val ∉ (t.fab pl.val).path ∧ t.handed = s.handed ∧ t.cpc.linkPort.toNat = port.val ∧ t.cpc.linkSub.toNat = sub.val ∧
      t.cpc.linkPlane = (pl == 1)) ∧
  (∀ (pl : Plane) (sub : SubPort) (s : State), (s.fab pl.val).alive = true → s.cpc.stopped = false →
    sub.val % 4 < (s.port pl.val sub.val).subs → (s.port pl.val sub.val).twin = false →
    ∃ t, exec (.linkUp pl sub) s = .next t ∧ (t.port pl.val sub.val).isUp sub.val = true ∧
      (t.port pl.val sub.val).failed = (s.port pl.val sub.val).failed ∧ t.outbox = s.outbox ∧
      (sub.val ∈ (t.fab pl.val).path ↔ (s.port pl.val sub.val).failed.getLsbD (sub.val % 4) = false))

/-- When a fabric die fails, its plane carries nothing, the package reads one_plane, the other plane's paths stand, a record of class 0x04
and severity 3 is logged, and the other die keeps the failed die's receive spaces with their window unknown. -/
def Obligations.AFailedPlaneIsTakenOver : Prop :=
  ∀ (failed : Plane) (s : State), (s.fab failed.val).alive = true →
    ∃ t r, exec (.planeTakeover failed) s = .next t ∧ (t.fab failed.val).alive = false ∧ (t.fab failed.val).path = [] ∧
      (∀ p, ((t.fab failed.val).ports.get p).up = 0) ∧ t.pkg.onePlane = true ∧ (t.fab (1 - failed.val)).path = (s.fab (1 - failed.val)).path ∧
      t.handed = s.handed ++ [r] ∧ r.cls = 0x04 ∧ r.severity = 3 ∧
      ((s.fab (1 - failed.val)).alive = true → ∀ peer, ((s.fab (1 - failed.val)).spaces.get (spaceKey peer (failed == 1))).takenOver = false →
        t.space peer (failed == 1) = { known := false, takenOver := true })

/-! ### Collectives (chapter 12) -/

/-- A descriptor of 128 bytes at a multiple of 128 that passes every check joins its tenancy's queue, last, and nothing else changes; of a
collective that has ended meanwhile it gets its record with the status at once; with the queue full, or no die admitting that may be its
home, the queue stands; a write of another length or place changes nothing but a record of class 0x0B. Once every local contributor of a
group has submitted a collective that no earlier one of its kind stands before, the package admits it: its descriptors leave the queue. A
barrier within one package completes at once; with more packages, one that is not member 0 holds it open. Where the slots are not free and
the descriptor says so, it is refused or goes on waiting. -/
def Obligations.CollectivesAreQueuedAndAdmitted : Prop :=
  (
    ∀ (src : BitVec 17) (off : BitVec 15) (bytes : List Byte) (s : State),
      (off.toNat % 128 ≠ 0 ∨ bytes.length ≠ 128 → ∃ t r, exec (.collectiveSubmit src off bytes) s = .next t ∧
        t = { s with handed := s.handed ++ [r] } ∧ r.cls = 0x0B ∧ r.severity = 0) ∧
      (∀ c : CoreId, off.toNat % 128 = 0 → bytes.length = 128 → s.phys src.toNat = some c →
        let x := collBody bytes
        let tn := off.toNat / 4096 % 8
        let g := s.groupOf tn x.group
        let me := ((g.memberList).findIdx? (· == (s.ten tn).job.ownRank.toNat)).getD 0
        x.bad bytes g = false → s.groupOk tn g = true → (s.core c).tenancy.toNat = tn → (s.core c).jobValid = true →
        x.record / 2 ^ 48 = 2 → s.regionOk c x.record 64 .w = true → s.collRegionsOk c g me x = true → s.beyondRack tn g = false →
        (∀ y ∈ s.collQ.get tn, y.b.cseq = x.cseq → x.agrees y.b = true ∧ y.b.group = x.group ∧ y.b.localIndex ≠ x.localIndex) →
        ((∀ e ∈ g.ended, e.1 ≠ x.cseq) → (s.collQ.get tn).length < 1024 → s.homeAdmits x = true →
          ∃ t, exec (.collectiveSubmit src off bytes) s = .next t ∧ t = { s with collQ := t.collQ } ∧
            t.collQ.get tn = s.collQ.get tn ++ [⟨src, bytes, 0, (s.core c).jobId, (s.core c).jobGen⟩] ∧ ∀ n, n ≠ tn → t.collQ.get n = s.collQ.get n) ∧
        (∀ e, g.ended.find? (·.1 == x.cseq) = some e →
          exec (.collectiveSubmit src off bytes) s = .next (s.writeRecord ⟨src, bytes, 0, (s.core c).jobId, (s.core c).jobGen⟩
            (collRecord x e.2 4 0 s.t 0 0 g.gen 0))) ∧
        (1024 ≤ (s.collQ.get tn).length ∨ s.homeAdmits x = false →
          ∃ t, exec (.collectiveSubmit src off bytes) s = .next t ∧ t.collQ = s.collQ ∧ t.colls = s.colls))) ∧ (
    ∀ (tn : Ten) (cseq : BitVec 32) (ups : List (CoreId × Upset)) (s : State),
      let q := s.collQ.get tn.val
      let mine := q.filter (fun d => d.b.cseq == cseq)
      let rest := q.filter (fun d => d.b.cseq != cseq)
      let x := (mine.headD {}).b
      let g := s.groupOf tn.val x.group
      let home := s.measure.pickHome x
      let free := ((s.fab home).slotsUsed.get tn.val).toNat + x.slots ≤ ((s.fab home).slotQuota.get tn.val).toNat
      mine ≠ [] → mine.length = g.localCount.toNat → (∀ d ∈ rest, serialLt d.b.cseq cseq = false) →
      (∀ c ∈ s.colls, ¬ (c.ten = tn.val ∧ (c.group = x.group ∨ c.cseq = cseq))) → s.groupOk tn.val g = true → s.castShadow = false →
      s.dieAdmits (5 + home) = true →
      (x.slots = 0 ∨ free → ∃ t, exec (.collectiveLocalAdmit tn cseq ups) s = .next t ∧ t.collQ.get tn.val = rest ∧
        (∀ n, n ≠ tn.val → t.collQ.get n = s.collQ.get n) ∧
        (x.cop = 5 → g.memberList = [(s.ten tn.val).job.ownRank.toNat] → (∀ d ∈ mine, d.b.cop = 5 ∧ d.b.n = 0 ∧ d.b.localIndex < mine.length) →
          t.colls = s.colls ∧ (t.groupOf tn.val x.group).lastCseq = cseq) ∧
        (x.cop = 5 → ∀ i, (g.memberList).findIdx? (· == (s.ten tn.val).job.ownRank.toNat) = some (i + 1) →
          (∀ d ∈ mine, d.b.cop = 5 ∧ d.b.n = 0 ∧ d.b.localIndex < mine.length) →
          (∀ r ∈ g.memberList, ∀ pl : Plane, (s.rankDest pl.val tn.val r).isSome = true) →
          ∃ c, t.colls = s.colls ++ [c] ∧ c.ten = tn.val ∧ c.group = x.group ∧ c.cseq = cseq ∧ c.home = home ∧ c.tAdmit = s.t ∧ c.me = i + 1)) ∧
      (x.slots ≠ 0 → ¬ free → x.onFull = 2 → ∃ t, exec (.collectiveLocalAdmit tn cseq ups) s = .next t ∧ t.collQ.get tn.val = rest ∧ t.colls = s.colls ∧
        (t.fab home).slotsUsed = (s.fab home).slotsUsed) ∧
      (x.slots ≠ 0 → ¬ free → x.onFull = 1 → x.slots ≤ ((s.fab home).slotQuota.get tn.val).toNat →
        exec (.collectiveLocalAdmit tn cseq ups) s = .next s))

/-- A chunk that a member has not sent before is kept at the shard's owner with its blocks and checksum, until every member's has come.
The result of a barrier completes it, whose number is then its group's last completed one; a frame that abandons a collective ends it, and
the group's last completed number stands. When a frame is not answered for 50 µs, the group's member is lost and the collective ends with
a record of class 0x04. -/
def Obligations.CollectiveFramesMoveTheirCollective : Prop :=
  (∀ (pl : Plane) (sub : SubPort) (f : WtFrame) (s : State) (tn m : Nat) (c : Coll) (i : Instr),
    let q := collSub f.payload
    (i = .collectiveChunk pl sub f ∧ f.type = 8 ∧ q.abandon = false) ∨ (i = .collectiveResult pl sub f ∧ f.type = 9 ∧ q.abandon = false) ∨
      (i = .abandon pl sub f ∧ (f.type = 8 ∨ f.type = 9) ∧ q.abandon = true) →
    s.linkIn pl.val sub.val = true → (s.port pl.val sub.val).twin = false → wtBad f (s.fab pl.val).udpMode = false → f.twin = false →
    s.NothingWaits → s.hopOf f ≤ (s.fab pl.val).allowance + 100 → f.jobId ≠ 0 → s.twin.state ≠ 6 →
    s.activeTen f.jobId f.jobGen = some tn → f.dstRank = (s.ten tn).job.ownRank → s.cpc.dold.toNat < 2 →
    ((s.space (s.peerOf pl.val f) f.origin).floor f.ackFloor).classify f.seq f.ackFloor = .new →
    (s.groupOf tn q.group).valid = true → (s.groupOf tn q.group).gen = q.gen → s.findColl tn q.cseq = some c → c.group = q.group →
    c.finished = false → c.badRank = false → (∀ r ∈ c.members, ∀ pl : Plane, (s.rankDest pl.val tn r).isSome = true) →
    (∀ d ∈ c.doms, ∀ j ∈ d, j < c.members.length) →
    q.first + q.blocks ≤ c.frameBlocks f.type m → c.members.findIdx? (· == f.srcRank.toNat) = some m →
    (i = .collectiveChunk pl sub f → collHasData q f.payload = true → (q.rereq = true → q.blocks = 0 ∨ collHasData q f.payload = true) →
      q.stage = c.stageOf 8 m → c.agree = false → c.b.cop ≠ 6 → c.spilled = false → c.pointsDone = false → c.shardDone = false →
      c.b.gathers = false ∨ c.arrived.length ≠ c.expected → (∀ k ∈ c.got, ¬ (k.1 = m ∧ k.2.1 = q.first)) →
      (∀ k ∈ c.shardsAt c.me, ({ c with got := c.got ++ [(m, q.first, q.blocks, q.checksum)] } : Coll).shardFull k = false) →
      ∃ t c', exec i s = .next t ∧ t.findColl tn q.cseq = some c' ∧ c'.got = c.got ++ [(m, q.first, q.blocks, q.checksum)] ∧
        c'.tStart = Nat.max c.tStart q.tAdmit ∧ c'.res = c.res ∧ t.cores = s.cores ∧
        (∀ b, b < q.first ∨ q.first + q.blocks ≤ b → c'.acc.get b = c.acc.get b)) ∧
    (i = .collectiveResult pl sub f → c.b.cop = 5 → c.agree = false → q.blocks = 0 → collHasData q f.payload = true → q.stage = c.stageOf 9 m →
      ∃ t, exec i s = .next t ∧ t.findColl tn q.cseq = none ∧ (t.groupOf tn c.group).lastCseq = q.cseq) ∧
    (i = .abandon pl sub f → ∃ t, exec i s = .next t ∧ t.findColl tn q.cseq = none ∧ (t.groupOf tn c.group).lastCseq = (s.groupOf tn c.group).lastCseq)) ∧
  (∀ (pl : Plane) (tag : BitVec 16) (s : State) (o : OutReq) (tn : Nat) (cseq : BitVec 32) (c : Coll),
    (s.fab pl.val).outst.find? (fun o => o.tag == tag) = some o → o.owner = .coll tn cseq → o.refusedAt = none → o.tFirst + 50000 ≤ s.t →
    s.findColl tn cseq = some c → (collSub o.frame.payload).group = c.group → (s.groupOf tn c.group).valid = true →
    (s.groupOf tn c.group).gen = (collSub o.frame.payload).gen →
    ∃ t r l, exec (.collectiveTargetLost pl tag) s = .next t ∧ (t.groupOf tn c.group).memberLost = true ∧ t.findColl tn cseq = none ∧
      (t.groupOf tn c.group).lastCseq = (s.groupOf tn c.group).lastCseq ∧ t.handed = s.handed ++ r :: l ∧ r.cls = 0x04 ∧ r.status = stTargetLost ∧ r.severity = 2)

/-! ### Host queues and jobs (chapter 15) -/

/-- A host command from its tenancy's configured host, not sent before, joins its queue and the frame is acknowledged; with the queue's 32
places taken it is refused, and the queue stands, as it does where the fabric die of its port does not admit. A command that would need an
awake, started and admitting package is refused with ST_NOT_ADMITTED, and every command while the processor die does not admit for another
reason than heat, Doldrums or start. NOP returns common time. MEM_WRITE puts its bytes into GDDR that the tenancy's regions cover;
MEM_READ returns bytes of it; outside the regions both end with ST_WINDOW_FAULT and reason 6. STATUS returns the job entry and the
checkpoint status; RING sets its source. Each completes with its status and leaves its queue. -/
def Obligations.HostCommandsQueueAndUnsignedOnesComplete : Prop :=
  (
    ∀ (port : Option (Plane × SubPort)) (f : WtFrame) (s : State) (tn : Nat),
      (∀ pl sub, port = some (pl, sub) → s.linkIn pl.val sub.val = true ∧ (s.port pl.val sub.val).twin = false ∧
        wtBad f (s.fab pl.val).udpMode = false ∧ f.twin = false ∧ s.NothingWaits) →
      (port = none → s.cpc.stopped = false ∧ wtBad f (s.fab 0).udpMode = false ∧ f.twin = false) →
      f.type = 0xA → f.payload.getD 0 0 = 0x20 → hostTen f = some tn → s.hostFrom tn f = true →
      (let pl := match port with | some p => p.1.val | none => 0
       ((s.space (s.peerOf pl f) f.origin).floor f.ackFloor).classify f.seq f.ackFloor = .new) →
      let queue := (f.payload.getD 1 0).toNat % 64
      let code := f.payload.getD 4 0
      (cmdRow code.toNat).isSome = true → queue < (s.ten tn).queues.toNat →
      (∀ pl sub, port = some (pl, sub) → s.dieAdmits (5 + pl.val) = false → s.cpc.dold = 0 →
        ∃ t, exec (.hostCommand port f) s = .next t ∧ t.tens = s.tens ∧ t.cores = s.cores ∧ t.chans = s.chans ∧ t.signals = s.signals) ∧
      ((∀ pl sub, port = some (pl, sub) → s.dieAdmits (5 + pl.val) = true ∨ s.cpc.dold ≠ 0) →
      ((code = 1 ∨ code = 4) ∧ (s.dieAdmits 4 = true ∨ s.onlyHeat 4 = true) ∨ s.cpc.dold = 0 ∧ s.dieAdmits 4 = true ∧ s.boot.ready = true →
        (s.queueLoad tn queue < 32 →
          ∃ t c, exec (.hostCommand port f) s = .next t ∧ (t.ten tn).cmds = (s.ten tn).cmds ++ [c] ∧ c.payload = f.payload ∧ c.queue = queue ∧
            c.code = code ∧ c.cid.toNat = fieldAt f.payload 2 2 ∧ c.tAccept = s.t ∧ c.started = false ∧ c.port = port.map (·.1) ∧
            (∀ n, n ≠ tn → t.ten n = s.ten n) ∧ t.cores = s.cores ∧ t.chans = s.chans) ∧
        (32 ≤ s.queueLoad tn queue →
          ∃ t p, exec (.hostCommand port f) s = .next t ∧ t.tens = s.tens ∧ Told s t tn (port.map (·.1)) p ∧ p.getD 4 0 = stNotAdmitted ∧ t.cores = s.cores)) ∧
      (code ≠ 1 ∧ code ≠ 4 ∧ (s.cpc.dold ≠ 0 ∨ s.dieAdmits 4 = false ∨ s.boot.ready = false) ∨ s.dieAdmits 4 = false ∧ s.onlyHeat 4 = false →
        ∃ t p, exec (.hostCommand port f) s = .next t ∧ t.tens = s.tens ∧ Told s t tn (port.map (·.1)) p ∧ p.getD 4 0 = stNotAdmitted ∧ t.cores = s.cores))) ∧ (
    ∀ (tn : Ten) (s : State) (c : HostCmd), let s1 := s.pruneDigests tn.val
      (s.Ready tn.val 0x01 c → ∃ t, exec (.nop tn) s = .next t ∧ Answered s t tn.val c stDone 0 s.t [] ∧
        SendsOnly { s with tens := t.tens } t c.port ∧ (t.ten tn.val).job = (s.ten tn.val).job) ∧
      (s.Ready tn.val 0x02 c → s.tenCovers tn.val (c.num 0 8) (c.bodyLen - 8) .w = true →
        let r := s1.gddrWrite (c.num 0 8) (c.bytes 8 (c.bodyLen - 8)) { source := 5 }
        ∃ t, exec (.memWrite tn) s = .next t ∧ Answered s t tn.val c r.2 0 0 [] ∧ t.chans = (r.1.foreignWrote (c.num 0 8) (c.bodyLen - 8)).chans ∧ t.cores = s.cores ∧
          ∀ ch u, (c.num 0 8) % 256 + (c.bytes 8 (c.bodyLen - 8)).length ≤ 256 → s.steer (c.num 0 8 / 256) = (ch, u) → (s.chan ch).lostNow = false →
            (s.chan ch).combining = [] → (s.chan ch).tracker = [] → s.px.dirty = [] → (∀ k, (s.chan ch).errsAt u ((s.chan ch).spared u) k = []) → r.2 = stDone ∧
            ∀ i (h : i < (c.bytes 8 (c.bodyLen - 8)).length),
              (t.chan ch).mem.read ((s.chan ch).spared u * 256 + c.num 0 8 % 256 + i) = (c.bytes 8 (c.bodyLen - 8))[i]) ∧
      (s.Ready tn.val 0x02 c → s.tenCovers tn.val (c.num 0 8) (c.bodyLen - 8) .w = false →
        ∃ t, exec (.memWrite tn) s = .next t ∧ Answered s t tn.val c stWindowFault 6 0 [] ∧ t.chans = s.chans) ∧
      (∀ errs, s.Ready tn.val 0x03 c → c.num 8 4 ≤ 3968 →
        (s.tenCovers tn.val (c.num 0 8) (c.num 8 4) .r = true →
          let r := (s1.gddrStrike errs).svcRead (c.num 0 8) (c.num 8 4)
          ∃ t, exec (.memRead tn errs) s = .next t ∧ t.cores = s.cores ∧
            (r.2.1 = true → Answered s t tn.val c stDone 0 0 r.2.2) ∧ (r.2.1 = false → Answered s t tn.val c stMemUnc 0 0 [])) ∧
        (s.tenCovers tn.val (c.num 0 8) (c.num 8 4) .r = false →
          ∃ t, exec (.memRead tn errs) s = .next t ∧ Answered s t tn.val c stWindowFault 6 0 [])) ∧
      (s.Ready tn.val 0x04 c → ∃ t, exec (.status tn) s = .next t ∧ SendsOnly { s with tens := t.tens } t c.port ∧
        Answered s t tn.val c stDone 0 0 ((s.ten tn.val).job.words.flatMap (leBytes 8) ++ leBytes 8 (s.ckpt tn.val).statusWord)) ∧
      (s.Ready tn.val 0x06 c → ∃ t, exec (.ring tn) s = .next t ∧
        (s.ringOk tn.val (BitVec.ofNat 64 (c.num 0 2)) = true → Answered s t tn.val c stDone 0 0 [] ∧
          t.ec.isPending (c.num 0 2) = (ecReal (c.num 0 2 / 64)).getLsbD (c.num 0 2 % 64)) ∧
        (s.ringOk tn.val (BitVec.ofNat 64 (c.num 0 2)) = false → Answered s t tn.val c stWindowFault 6 0 [] ∧ t.ec = s.ec)))

/-- JOB_LOAD enters the job in state LOADING with its ranks on both planes. JOB_START puts the job into ACTIVE, and each core of its bands
holds the job, its pc and its halt. JOB_RUN marks the job running and lifts the halt of its cores, but in a standby package. -/
def Obligations.JobsAreLoadedStartedAndRun : Prop :=
  ∀ (tn : Ten) (s : State) (c : HostCmd), let s1 := s.pruneDigests tn.val
    (s.Ready tn.val 0x10 c → ∀ s2 b, c.num 8 4 ≠ 0 → c.num 8 4 ≤ 65536 → c.num 4 2 < c.num 8 4 →
      s1.blob tn.val (c.num 12 8) (64 * c.num 8 4) (c.bytes 20 32) = (s2, .ok b) →
      s2.idCheck (BitVec.ofNat 16 (c.num 0 2)) (BitVec.ofNat 16 (c.num 2 2)) = none → (s.ten tn.val).job.state = 0 →
      s.pkg.memoryBroken = false → s.boot.layoutBad = false → s.cpc.active.toNat = c.num 6 1 →
      ∃ t, exec (.jobLoad tn) s = .next t ∧ Answered s t tn.val c stDone 0 0 [] ∧
        (t.ten tn.val).job = ⟨BitVec.ofNat 16 (c.num 0 2), BitVec.ofNat 16 (c.num 2 2), 1, false, BitVec.ofNat 16 (c.num 4 2), BitVec.ofNat 17 (c.num 8 4), 0, s.t⟩ ∧
        (∀ pl i, pl < 2 → i < c.num 8 4 → (t.fab pl).ranks.get (tn.val * 65536 + i) = rankEntryOf (slice b (64 * i + 32 * pl) 32)) ∧
        (∀ n, n ≠ tn.val → t.ten n = s.ten n)) ∧
    (s.Ready tn.val 0x11 c → ∀ s2 d s3 prog, c.num 8 8 = 208 → s1.blob tn.val (c.num 0 8) 208 (c.bytes 16 32) = (s2, .ok d) →
      (fieldAt d 0x20 4 = 0 ∧ s3 = s2 ∧ prog = [] ∨
        fieldAt d 0x20 4 ≠ 0 ∧ s2.blob tn.val (fieldAt d 0x18 8) (fieldAt d 0x20 4) (slice d 0x30 32) = (s3, .ok prog)) →
      (s.ten tn.val).job.state = 1 → s3.jobDescOk tn.val d = true → s.pkg.degBands &&& BitVec.ofNat 64 (fieldAt d 8 8) = 0 →
      (∀ x ∈ s.bandCores (fieldAt d 8 8), (s3.core x).drained = true) →
      ∃ t, exec (.jobStart tn) s = .next t ∧
        Answered s t tn.val c stDone 0 (((s.bandCores (fieldAt d 8 8)).filter (fun x => (s.core x).narrowOnly)).length % 65536) [] ∧
        (t.ten tn.val).job.state = 2 ∧ (t.ten tn.val).job.bands = BitVec.ofNat 64 (fieldAt d 8 8) ∧
        ∀ x ∈ s.bandCores (fieldAt d 8 8), (t.core x).jobValid = true ∧ (t.core x).jobId = (s.ten tn.val).job.jobId ∧
          (t.core x).tenancy.toNat = tn.val ∧ (t.core x).haltCu = true ∧ (t.core x).pc = BitVec.ofNat 32 (fieldAt d 0x28 4)) ∧
    (s.Ready tn.val 0x05 c → (s.ten tn.val).job.state = 2 → ∃ t, exec (.jobRun tn) s = .next t ∧ Answered s t tn.val c stDone 0 0 [] ∧
      (t.ten tn.val).job = { (s.ten tn.val).job with running := true } ∧
      (s.standby = false → ∀ x : CoreId, (s.core x).jobValid = true → (s.core x).tenancy.toNat = tn.val →
        (t.core x).haltCu = false ∧ (t.core x).cuRunning = !(s.core x).cuTrapped) ∧
      (s.standby = true → t.cores = s.cores))

/-- JOB_REVOKE of an ACTIVE job drains it: its state is DRAINING, its requests are released, its cores halt, and the command waits for the
end of the drain, when the job is REVOKED, its windows and cores are no longer valid and the command completes. Of a LOADING job it ends
at once. JOB_FREE empties the job entry and its tables and keeps its id in the history. RESTORE begins a restore. -/
def Obligations.JobsAreRevokedAndFreed : Prop :=
  ∀ (tn : Ten) (s : State) (c : HostCmd), let j := (s.ten tn.val).job
    (s.Ready tn.val 0x12 c → j.jobId = BitVec.ofNat 16 (c.num 0 2) → j.jobGen = BitVec.ofNat 16 (c.num 2 2) →
      (j.state = 2 → ∃ t, exec (.jobRevoke tn) s = .next t ∧ (t.ten tn.val).job.state = 3 ∧ (t.ten tn.val).job.running = false ∧
        (t.ten tn.val).revoke = some c ∧ (t.ten tn.val).cmds = (s.ten tn.val).cmds.erase c ∧
        (∀ pl o, pl < 2 → o ∈ (t.fab pl).outst → o.ten = tn.val → o.frame.jobId = 0) ∧
        ∀ x : CoreId, (s.core x).jobValid = true → (s.core x).tenancy.toNat = tn.val → (t.core x).haltCu = true) ∧
      (j.state = 1 → (s.ckpt tn.val).state ≠ 3 → ∃ t, exec (.jobRevoke tn) s = .next t ∧ Answered s t tn.val c stDone 0 0 [] ∧ (t.ten tn.val).job.state = 4)) ∧
    ((s.ten tn.val).revoke = some c → s.cpc.stopped = false → s.revokeIdle tn.val = true → c.endBy = 0 ∨ s.t ≤ c.endBy →
      ∃ t, exec (.revokeDrained tn) s = .next t ∧ (t.ten tn.val).job = { j with state := 4, tState := s.t } ∧ (t.ten tn.val).revoke = none ∧
        (c.code = 0x12 → Answered s t tn.val c stDone 0 0 []) ∧
        (∀ pl n, pl < 2 → n < 256 → ((t.fab pl).windows.get (tn.val * 256 + n)).valid = false) ∧
        ∀ x : CoreId, (s.core x).jobValid = true → (s.core x).tenancy.toNat = tn.val → (t.core x).jobValid = false) ∧
    (s.Ready tn.val 0x13 c → j.state = 4 → ∃ t, exec (.jobFree tn) s = .next t ∧ Answered s t tn.val c stDone 0 0 [] ∧
      (t.ten tn.val).job = { tState := s.t } ∧
      (∀ pl n, pl < 2 → n < 256 → (t.fab pl).windows.get (tn.val * 256 + n) = {} ∧ (t.fab pl).rackMap.get (tn.val * 256 + n) = {}) ∧
      (∀ pl g, pl < 2 → g < 16 → (t.fab pl).groups.get (tn.val * 16 + g) = {}) ∧
      (∀ pl r, pl < 2 → r < 65536 → (t.fab pl).ranks.get (tn.val * 65536 + r) = {}) ∧
      (s.pkg.history.length < 64 → (j.jobId, j.jobGen, s.t) ∈ t.pkg.history)) ∧
    (s.Ready tn.val 0x14 c → j.state = 1 → ∃ t, exec (.restore tn) s = .next t ∧ Answered s t tn.val c stDone 0 0 [] ∧
      (t.ckpt tn.val).state = 3 ∧ (t.ckpt tn.val).views = [] ∧ (t.ckpt tn.val).dones = [])

/-- WINDOW_SET puts its window into both planes once no request is in the old one, and until then takes the old one out of use. GROUP_SET
re-forms a group: its generation rises, and collectives of the old group end. The group holds the blob's member list. RACK_MAP_SET and
RANK_SET put their entries into both planes; RACK_MAP_SET clears `lost` marks only before the job is active. IMAGE_WRITE puts a good image
into the flash and completes when it is programmed. -/
def Obligations.TablesAndImageAreSetByCommands : Prop :=
  ∀ (tn : Ten) (s : State) (c : HostCmd), let s1 := s.pruneDigests tn.val
    let j := (s.ten tn.val).job
    (let key := tn.val * 256 + c.num 0 1
     let w := windowWord (c.num 8 8) (c.num 16 8) (c.num 24 8)
     s.Ready tn.val 0x18 c →
     (c.started = true ∨ c.num 8 8 < 2 ^ 39 ∧ c.num 16 8 < 2 ^ 48 ∧ c.num 24 8 < 2 ^ 48 ∧ c.num 16 8 % 256 = 0 ∧ c.num 24 8 % 256 = 0 ∧
        w.space ≠ 3 ∧ (w.mirror = true → 0xC0 ≤ c.num 0 1) ∧ s.windowFits tn.val w = true) →
     j.state = 1 ∨ j.state = 2 → (w.valid = true → w.jobId = j.jobId ∧ w.jobGen = j.jobGen) →
     (((s.fab 0).windows.get key).busy = 0 → ((s.fab 1).windows.get key).busy = 0 → ∃ t, exec (.windowSet tn) s = .next t ∧ Answered s t tn.val c stDone 0 0 [] ∧
        (∀ pl, pl < 2 → (t.fab pl).windows.get key = w) ∧ ∀ pl k, k ≠ key → (t.fab pl).windows.get k = (s.fab pl).windows.get k) ∧
     (((s.fab 0).windows.get key).busy ≠ 0 → ∃ t, exec (.windowSet tn) s = .next t ∧ t.outbox = s.outbox ∧
        (∀ pl, pl < 2 → (t.fab pl).windows.get key = { (s.fab pl).windows.get key with valid := false }))) ∧
    (s.Ready tn.val 0x19 c → ∀ s2 b, c.num 0 1 < 16 → 1 ≤ c.num 2 2 → c.num 2 2 ≤ 4095 → 1 ≤ c.num 4 4 → c.num 4 4 ≤ 65536 →
      s1.blob tn.val (c.num 8 8) (2 * c.num 4 4) (c.bytes 16 32) = (s2, .ok b) → j.state = 1 ∨ j.state = 2 →
      let key := State.groupKey tn.val (c.num 0 1)
      ∃ t, exec (.groupSet tn) s = .next t ∧ Answered s t tn.val c stDone 0 0 [] ∧
        (∀ pl, pl < 2 → ((t.fab pl).groups.get key).valid = true ∧ ((t.fab pl).groups.get key).gen = ((s.fab pl).groups.get key).gen + 1 ∧
          ((t.fab pl).groups.get key).members.toNat = c.num 4 4 ∧ ((t.fab pl).groups.get key).localCount.toNat = c.num 2 2 ∧
          ((t.fab pl).groups.get key).jobId = j.jobId ∧ ((t.fab pl).groups.get key).list = listOf (c.num 4 4) b) ∧
        ((s.groupOf tn.val (c.num 0 1)).valid = true → ∀ x ∈ t.colls, ¬ (x.ten = tn.val ∧ x.group = c.num 0 1))) ∧
    (s.Ready tn.val 0x1A c → ∀ s2 b, s1.blob tn.val (c.num 0 8) 2048 (c.bytes 8 32) = (s2, .ok b) → j.state = 1 ∨ j.state = 2 →
      ∃ t, exec (.rackMapSet tn) s = .next t ∧ Answered s t tn.val c stDone 0 0 [] ∧
        ∀ pl i, pl < 2 → i < 256 → let v := fieldAt b (8 * i) 8
          (t.fab pl).rackMap.get (tn.val * 256 + i) =
            ⟨BitVec.ofNat 16 v, bitAt v 16, bitAt v 17, ((s.fab pl).rackMap.get (tn.val * 256 + i)).lost && !(bitAt v 18 && j.state == 1)⟩) ∧
    (s.Ready tn.val 0x1B c → ∀ s2 b, c.num 0 4 + c.num 4 4 ≤ 65536 → s1.blob tn.val (c.num 8 8) (64 * c.num 4 4) (c.bytes 16 32) = (s2, .ok b) →
      j.state = 1 ∨ j.state = 2 → ∃ t, exec (.rankSet tn) s = .next t ∧ Answered s t tn.val c stDone 0 0 [] ∧
        ∀ pl r, pl < 2 → (∀ i, i < c.num 4 4 → r = tn.val * 65536 + c.num 0 4 + i → (t.fab pl).ranks.get r = rankEntryOf (slice b (64 * i + 32 * pl) 32)) ∧
          (r < tn.val * 65536 + c.num 0 4 ∨ tn.val * 65536 + c.num 0 4 + c.num 4 4 ≤ r → (t.fab pl).ranks.get r = (s.fab pl).ranks.get r)) ∧
    (s.Ready tn.val 0x28 c → c.started = false → ∀ s2 b, s1.blob tn.val (c.num 0 8) (c.num 8 8) (c.bytes 16 32) = (s2, .ok b) → s.boot.imageWriting = false → (imageCheck b).1 = 0 →
      ∃ t, exec (.imageWrite tn) s = .next t ∧ t.boot.flash = b ∧ t.boot.imageWriting = true ∧ t.outbox = s.outbox) ∧
    (s.Ready tn.val 0x28 c → c.started = true →
      ∃ t, exec (.imageWrite tn) s = .next t ∧ t.boot = { s.boot with imageWriting := false } ∧ Answered s t tn.val c stDone 0 0 [])

/-! ### Checkpoint and restore (chapter 14) -/

/-- A period's end or a step that the interval divides acts once: with a generation in the making it is put off, and with none rank 0
starts a cut, asks every other package, and counts its own reply. A service frame that is good and new is acknowledged and taken in. A
package asked holds and replies, also while it still writes the generation before; the last reply sets the step of the cut, and every
package told it waits for its staged data. -/
def Obligations.CutsAreTriggeredAndSet : Prop :=
  ∀ (tn : Ten) (s : State),
    (let c := s.ckpt tn.val
     let head := s.planHead tn.val
     let step := BitVec.ofNat 64 (fieldAt head.2.2 0 8)
     (s.triggers tn.val = true → c.periodMs ≠ 0 → s.t / (c.periodMs.toNat * 1000000) ≠ c.actedPeriod →
      (c.state ≠ 0 → ∃ t, exec (.ckptPeriodTrigger tn) s = .next t ∧ t = { s with ckpts := t.ckpts } ∧
        t.ckpt tn.val = { c with actedPeriod := s.t / (c.periodMs.toNat * 1000000), deferred := true }) ∧
      (c.state = 0 → head.2.1 = true → 2 ≤ (s.ten tn.val).job.rankCount.toNat → ∃ t, exec (.ckptPeriodTrigger tn) s = .next t ∧
        (t.ckpt tn.val).state = 1 ∧ (t.ckpt tn.val).gen = c.newest + 1 ∧ (t.ckpt tn.val).replies = [((s.ten tn.val).job.ownRank, step)] ∧
        (t.ckpt tn.val).deferred = false ∧ ToldAll s t tn.val ([0x01] ++ beBytes 4 (c.newest + 1).toNat))) ∧
     (s.triggers tn.val = true → c.stepInterval ≠ 0 → head.2.1 = true →
      (step.toNat % c.stepInterval.toNat = 0 → c.actedStep ≠ some step → c.state ≠ 0 → ∃ t, exec (.ckptStepPoll tn) s = .next t ∧
        t.ckpt tn.val = { c with actedStep := some step, deferred := true } ∧ t.outbox = s.outbox) ∧
      (step.toNat % c.stepInterval.toNat = 0 → c.actedStep ≠ some step → c.state = 0 → (head.1.planHead tn.val).2.1 = true →
        2 ≤ (s.ten tn.val).job.rankCount.toNat →
        ∃ t, exec (.ckptStepPoll tn) s = .next t ∧ (t.ckpt tn.val).state = 1 ∧ (t.ckpt tn.val).gen = c.newest + 1 ∧ (t.ckpt tn.val).actedStep = some step) ∧
      (step.toNat % c.stepInterval.toNat ≠ 0 ∨ c.actedStep = some step → ∃ t, exec (.ckptStepPoll tn) s = .next t ∧ t.ckpts = s.ckpts ∧ t.outbox = s.outbox))) ∧
    (∀ f : SvcFrom, s.svcFrom tn.val f = true → s.linkIn f.plane.val f.sub.val = true → (s.port f.plane.val f.sub.val).twin = false →
      wtBad f.frame (s.fab f.plane.val).udpMode = false → f.frame.twin = false → f.frame.type = 0xA → s.NothingWaits → (s.fab f.plane.val).path ≠ [] →
      s.hopOf f.frame ≤ (s.fab f.plane.val).allowance + 100 →
      ((s.space (s.peerOf f.plane.val f.frame) f.frame.origin).floor f.frame.ackFloor).classify f.frame.seq f.frame.ackFloor = .new →
      ∃ u sb ca g, s.svcIn tn.val f = (u, true) ∧ u.outbox = s.outbox ++ [.wt f.plane.val sb ca g] ∧ g.type = 6 ∧ g.status = stDone ∧
        g.tag = f.frame.tag ∧ g.seq = f.frame.seq ∧ u.ckpts = s.ckpts ∧ u.tens = s.tens ∧ u.cores = s.cores ∧ u.chans = s.chans) ∧
    (∀ (f : SvcFrom) (u : State), s.svcIn tn.val f = (u, true) → let c := u.ckpt tn.val
      (∀ gen : BitVec 32, f.rank = 0 → u.isRank0 tn.val = false → u.ckptActs = true →
        (u.planHead tn.val).2.1 = true → u.MayTell tn.val 0 → ∃ t, exec (.cutQuery tn f gen) s = .next t ∧
          (c.state = 0 ∨ c.state = 1 → (t.ckpt tn.val).state = 1 ∧ (t.ckpt tn.val).gen = gen) ∧
          (c.state = 2 → t.ckpt tn.val = { c with nextCut := some (gen, none) }) ∧ SentTo u t tn.val 0 ([0x02] ++ beBytes 4 gen.toNat ++ beBytes 8 (fieldAt (u.planHead tn.val).2.2 0 8))) ∧
      (∀ st : BitVec 64, u.isRank0 tn.val = true → c.state = 1 → c.nextCut = none → (∀ r ∈ c.replies, r.1 ≠ f.rank) →
        (c.replies.length + 1 < (u.ten tn.val).job.rankCount.toNat → ∃ t, exec (.cutReply tn f c.gen st) s = .next t ∧ t = { u with ckpts := t.ckpts } ∧
          t.ckpt tn.val = { c with replies := c.replies ++ [(f.rank, st)] }) ∧
        ((u.ten tn.val).job.rankCount.toNat ≤ c.replies.length + 1 →
          let cut := BitVec.ofNat 64 (maxN ((c.replies ++ [(f.rank, st)]).map (fun r => (r.2 + 2).toNat)))
          ∃ t, exec (.cutReply tn f c.gen st) s = .next t ∧ (t.ckpt tn.val).state = 2 ∧ (t.ckpt tn.val).step = cut ∧ (t.ckpt tn.val).tCutSet = s.t ∧
            ToldAll u t tn.val ([0x03] ++ beBytes 4 c.gen.toNat ++ beBytes 8 cut.toNat))) ∧
      (∀ st : BitVec 64, f.rank = 0 → u.isRank0 tn.val = false →
        (c.state = 1 → c.nextCut = none → ∃ t, exec (.cutSet tn f c.gen st) s = .next t ∧
          t.ckpt tn.val = { c with state := 2, step := st, phase := .idle, tCutSet := s.t } ∧ t.outbox = u.outbox) ∧
        (∀ gen, c.nextCut = some (gen, none) → ∃ t, exec (.cutSet tn f gen st) s = .next t ∧
          t.ckpt tn.val = { c with nextCut := some (gen, some st), tCutSet := s.t } ∧ t.outbox = u.outbox)))

/-- A generation goes into the slot picked once its data is staged; each completion of the module moves it by one phase, to the wait for
the twin where it mirrors, to the report to rank 0, the package's commit record and the end. Rank 0 gathers the reports. A generation
abandoned leaves the package idle and is counted. -/
def Obligations.GenerationsAreWrittenAndCommitted : Prop :=
  ∀ (tn : Ten) (s : State),
    (let c := s.ckpt tn.val
     let head := s.planHead tn.val
     let plan := head.1.planEntries tn.val head.2.2
     c.state = 2 →
     (c.phase = .idle → head.2.1 = true → fieldAt head.2.2 0x1C 4 = c.gen.toNat → plan.2.1 = true → ∃ t, exec (.stagedGenSeen tn) s = .next t ∧
      (t.ckpt tn.val).phase = .shards ∧ (t.ckpt tn.val).slot = c.pickSlot ∧ (t.ckpt tn.val).slots.get c.pickSlot = {} ∧
      (t.ckpt tn.val).gen = c.gen ∧ (t.ckpt tn.val).state = 2) ∧
     (c.phase = .manifest → ∃ t, exec (.nvmeCompletion (some tn) true) s = .next t ∧ t.outbox = s.outbox ++ [.nvmeFlush] ∧
      t.ckpt tn.val = { c with phase := .flush2 }) ∧
     (c.phase = .flush2 → s.mirrorOpen tn.val = true → ∃ t, exec (.nvmeCompletion (some tn) true) s = .next t ∧
      t = { s with ckpts := t.ckpts, signals := s.signals ++ [35] } ∧ t.ckpt tn.val = { c with phase := .mirror }) ∧
     (c.phase = .flush2 → s.mirrorOpen tn.val = false → s.isRank0 tn.val = false → s.MayTell tn.val 0 → ∃ t, exec (.nvmeCompletion (some tn) true) s = .next t ∧
      t.ckpt tn.val = { c with phase := .written, tWritten := s.t } ∧
      SentTo s t tn.val 0 ([0x05] ++ beBytes 4 c.gen.toNat ++ [if c.mismatch then stAborted else stDone, if c.mismatch then 3 else 0, 0, 0]
        ++ padTo 32 c.manifestDigest)) ∧
     (c.phase = .committing → s.isRank0 tn.val = false → c.nextCut = none → ∃ t, exec (.nvmeCompletion (some tn) true) s = .next t ∧ (t.ckpt tn.val).state = 0 ∧
      (t.ckpt tn.val).lastGen = c.gen ∧ ((t.ckpt tn.val).slots.get c.slot).committed = true ∧ ((t.ckpt tn.val).slots.get c.slot).gen = c.gen ∧
      t.outbox = s.outbox) ∧
     (c.timeoutS ≠ 0 → s.isRank0 tn.val = true → c.deferred = false → c.tCutSet + c.timeoutS.toNat * 1000000000 ≤ s.t →
      c.phase ≠ .jobCommit → c.phase ≠ .jobMirror → c.phase ≠ .committing → c.nextCut = none →
      ∃ t, exec (.ckptTimeout tn) s = .next t ∧ (t.ckpt tn.val).state = 0 ∧ (t.ckpt tn.val).abandoned = satInc c.abandoned ∧
        ToldAll s t tn.val ([0x07] ++ beBytes 4 c.gen.toNat ++ [1]))) ∧
    (∀ (f : SvcFrom) (u : State), s.svcIn tn.val f = (u, true) → let c := u.ckpt tn.val
      let head := u.planHead tn.val
      let plan := head.1.planEntries tn.val head.2.2
      c.state = 2 →
      (∀ (shard : BitVec 32) (d : List Byte) (e : PlanEntry) (i : Nat), u.ckptActs = true → (∀ n ∈ c.notes, n.1 ≠ shard) →
        (plan.2.2.1.zipIdx).find? (fun x => x.1.shard == shard && x.1.replicated) = some (e, i) → head.2.1 = true → plan.2.1 = true →
        writerOf e plan.2.2.2 (u.ten tn.val).job.ownRank.toNat = f.rank.toNat → c.phase ≠ .shards →
        ∃ t, exec (.digestNote tn f c.gen shard d) s = .next t ∧ t.ckpt tn.val = { c with notes := c.notes ++ [(shard, d)] } ∧ t.outbox = u.outbox) ∧
      (∀ (st reason : Byte) (d : List Byte), u.isRank0 tn.val = true → (∀ w ∈ c.written, w.1 ≠ f.rank) →
        (st = stDone → c.written.length + 1 < (u.ten tn.val).job.rankCount.toNat → ∃ t, exec (.pkgWritten tn f c.gen st reason d) s = .next t ∧
          t = { u with ckpts := t.ckpts } ∧ t.ckpt tn.val = { c with written := c.written ++ [(f.rank, d)] }) ∧
        (st ≠ stDone → c.deferred = false → c.nextCut = none → ∃ t, exec (.pkgWritten tn f c.gen st reason d) s = .next t ∧ (t.ckpt tn.val).state = 0 ∧
          (t.ckpt tn.val).abandoned = satInc c.abandoned ∧ (t.ckpt tn.val).newest = c.gen ∧
          ToldAll u t tn.val ([0x07] ++ beBytes 4 c.gen.toNat ++ [reason]))) ∧
      (∀ (step : BitVec 64) (d : List Byte), f.rank = 0 → u.isRank0 tn.val = false → c.phase = .written →
        ∃ t lba b l, exec (.commit tn f c.gen step d) s = .next t ∧ t.ckpt tn.val = { c with phase := .committing, jobDigest := d, slots := (t.ckpt tn.val).slots } ∧
          ((t.ckpt tn.val).slots.get c.slot).committed = true ∧ ((t.ckpt tn.val).slots.get c.slot).gen = c.gen ∧
          t.outbox = u.outbox ++ .nvmeWrite lba true b :: l ∧ (b.take 4) = leBytes 4 0x5A510003) ∧
      (∀ reason : Byte, f.rank = 0 → s.isRank0 tn.val = false → c.nextCut = none → ∃ t, exec (.ckptAbandon tn f c.gen reason) s = .next t ∧
        (t.ckpt tn.val).state = 0 ∧ (t.ckpt tn.val).abandoned = satInc c.abandoned ∧ (t.ckpt tn.val).lastGen = c.lastGen ∧ t.outbox = u.outbox))

/-- A restore gathers every package's view at rank 0; each package answers the generation chosen, at once where there is none or its plan
is empty, else when the shards it waits for have come; the last answer ends it with a report. A half of a mirrored LBA waits for its other
half; both go to the module as one, and once they are flushed both are acknowledged. -/
def Obligations.RestoresGoThroughTheirSteps : Prop :=
  (∀ (tn : Ten) (s : State) (f : SvcFrom) (views0 : List SlotView) (found : RestoreFound), let c := s.ckpt tn.val
    let own := restoreJudged found (s.ten tn.val).job.jobId
    c.state = 3 → (∀ v ∈ c.views, v.1 ≠ f.rank) → f.rank = (s.ten tn.val).job.ownRank → s.isRank0 tn.val = false → s.MayTell tn.val 0 →
    ∃ t, exec (.restoreView tn f views0 found) s = .next t ∧ (t.ckpt tn.val).views = [((s.ten tn.val).job.ownRank, own.1)] ∧
      (t.ckpt tn.val).records = own.2 ∧ SentTo s t tn.val 0 (viewBytes own.1)) ∧
  (∀ (tn : Ten) (s u : State) (f : SvcFrom), s.svcIn tn.val f = (u, true) → let c := u.ckpt tn.val
    let j := (u.ten tn.val).job
    c.state = 3 → c.nextCut = none →
    (∀ views found, (∀ v ∈ c.views, v.1 ≠ f.rank) → f.rank ≠ (s.ten tn.val).job.ownRank → u.isRank0 tn.val = true →
      c.views.length + 1 < j.rankCount.toNat →
      ∃ t, exec (.restoreView tn f views found) s = .next t ∧ t = { u with ckpts := t.ckpts } ∧
        t.ckpt tn.val = { c with views := c.views ++ [(f.rank, views)] }) ∧
    (c.waitShards = [] → s.isRank0 tn.val = false → u.isRank0 tn.val = false → u.MayTell tn.val 0 → f.rank = 0 → ∀ gen data,
      (gen = BitVec.allOnes 32 → ∃ t, exec (.restoreGo tn f gen data) s = .next t ∧ (t.ckpt tn.val).state = 0 ∧ (t.ckpt tn.val).lastGen = c.lastGen ∧
        SentTo u t tn.val 0 ([0x0C] ++ beBytes 4 gen.toNat ++ [stNoGeneration]) ∧ t.chans = u.chans) ∧
      (gen ≠ BitVec.allOnes 32 → c.restoreBad = false → fieldAt (u.planHead tn.val).2.2 0x24 2 = 0 → ∃ t, exec (.restoreGo tn f gen data) s = .next t ∧
        (t.ckpt tn.val).state = 0 ∧ (t.ckpt tn.val).lastGen = gen ∧ SentTo u t tn.val 0 ([0x0C] ++ beBytes 4 gen.toNat ++ [stDone]))) ∧
    (∀ shard data w e, c.earlyShards = [] → c.waitShards.find? (fun w => w.shard == shard) = some w →
      (let head := u.planHead tn.val
       let plan := head.1.planEntries tn.val head.2.2
       plan.2.2.1.find? (fun e => e.shard == shard) = some e ∧ writerOf e plan.2.2.2 j.ownRank.toNat = f.rank.toNat) →
      w.got.length < 2 ^ 64 →
      (w.got.length + data.length < e.len → ∃ t, exec (.shardData tn f shard (BitVec.ofNat 64 w.got.length) data) s = .next t ∧
        (t.ckpt tn.val).state = 3 ∧ (t.ckpt tn.val).waitShards = c.waitShards.map (fun x => if x.shard = shard then { x with got := w.got ++ data } else x) ∧
        t.outbox = u.outbox) ∧
      (e.len ≤ w.got.length + data.length → u.isRank0 tn.val = false → u.MayTell tn.val 0 → (∀ x ∈ c.waitShards, x.shard = shard) →
        let bad := c.restoreBad || digest32 ((w.got ++ data).take e.len) != w.digest
        ∃ t, exec (.shardData tn f shard (BitVec.ofNat 64 w.got.length) data) s = .next t ∧ (t.ckpt tn.val).state = 0 ∧ (t.ckpt tn.val).waitShards = [] ∧
          SentTo u t tn.val 0 ([0x0C] ++ beBytes 4 c.restoreGen.toNat ++
            [if c.restoreGen = BitVec.allOnes 32 then stNoGeneration else if bad then stAborted else stDone]))) ∧
    (u.isRank0 tn.val = true → (∀ d ∈ c.dones, d.1 ≠ f.rank) → ∀ st,
      (c.dones.length + 1 < j.rankCount.toNat → ∃ t, exec (.restoreDone tn f c.restoreGen st) s = .next t ∧ t = { u with ckpts := t.ckpts } ∧
        t.ckpt tn.val = { c with dones := c.dones ++ [(f.rank, st)] }) ∧
      (j.rankCount.toNat ≤ c.dones.length + 1 → c.deferred = false → ∃ t rep, exec (.restoreDone tn f c.restoreGen st) s = .next t ∧
        (t.ckpt tn.val).state = 0 ∧ (t.ckpt tn.val).report = rep ∧ t.outbox = u.outbox ++ [.restoreReport tn.val rep] ∧
        ((∀ d ∈ c.dones ++ [(f.rank, st)], d.2 = stDone ∨ d.2 = stNoGeneration) → rep.getD 0 0 = c.restoreStatus)))) ∧
  (∀ (f : SvcFrom) (region slot half : Byte) (lba : BitVec 64) (s : State), let p := f.frame.payload
    s.linkIn f.plane.val f.sub.val = true → (s.port f.plane.val f.sub.val).twin = true → wtBad f.frame (s.fab f.plane.val).udpMode = false →
    isMirror f.frame = true → f.frame.jobId = 0 → s.NothingWaits → s.hopOf f.frame ≤ (s.fab f.plane.val).allowance + 100 →
    ((s.space twinPeer f.frame.origin).floor f.frame.ackFloor).classify f.frame.seq f.frame.ackFloor = .new →
    s.twin.mode ≠ 0 → region.toNat ≤ 1 → slot.toNat ≤ 2 → half.toNat ≤ 1 → p.length = 2061 →
    (s.twin.mirrored = [] → ∃ t g, exec (.mirrorData f region slot half lba) s = .next t ∧ t.twin.mirrored = [(f.plane, g)] ∧ g.payload = p ∧
      g.tag = f.frame.tag ∧ t.outbox = s.outbox) ∧
    (∀ x : Plane × WtFrame, let k := mirrorKey p
      let y := mirrorKey x.2.payload
      s.twin.mirrored = [x] → y.1 = k.1 → y.2.1 = k.2.1 → y.2.2.2 = k.2.2.2 → y.2.2.1 ≠ k.2.2.1 →
      ∃ t at0 g, exec (.mirrorData f region slot half lba) s = .next t ∧ t.twin.mirrored = [] ∧ g.payload = p ∧
        t.twin.flushing = s.twin.flushing ++ [[x, (f.plane, g)]] ∧
        t.outbox = s.outbox ++ [.nvmeWrite at0 false (if k.2.2.1 = 0 then p.drop 13 ++ x.2.payload.drop 13 else x.2.payload.drop 13 ++ p.drop 13), .nvmeFlush])) ∧
  (∀ (s : State) (y x : Plane × WtFrame) (r : List (List (Plane × WtFrame))), s.twin.flushing = [y, x] :: r →
    (∀ z ∈ [y, x], z.2.self = false ∧ z.2.twin = true ∧ z.2.type = 0xA ∧ z.2.jobId = 0 ∧ s.twinUp z.1.val = true) →
    ∃ t, exec (.nvmeCompletion none true) s = .next t ∧ t.twin.flushing = r ∧
      ∀ z ∈ [y, x], ∃ sb ca g, .wt z.1.val sb ca g ∈ t.outbox ∧ g.type = 6 ∧ g.tag = z.2.tag ∧ g.seq = z.2.seq ∧ g.status = stDone)

/-! ### Twins (chapter 16) -/

/-- A heartbeat is heard and counted: it pairs a standby that waits for the sync to end, stops an active package whose twin has taken
over, and leaves the pair with a twin that has detached. One goes out on a plane when 50 µs have passed. 500 µs without a frame lose the
twin. A frame unacknowledged after 2.5 µs goes again on its plane, after 5 µs on the other. -/
def Obligations.HeartbeatsKeepThePair : Prop :=
  (∀ (pl : Plane) (f : TwinFrame) (s : State), s.InTurn pl f 1 → let v := (f.payload.getD 8 0).toNat
    let p := f.plane.toNat % 2
    (s.twin.detaching = false → s.twin.state = 2 → s.twin.role = true → s.twin.syncSent = true → v % 8 = 3 → ∃ t, exec (.heartbeat pl f) s = .next t ∧ t.twin.state = 3 ∧ t.twin.syncPct = 100 ∧
      t.twin.lastHeard = s.t ∧ t.twin.tseqIn.get p = f.tseq + 1) ∧
    (s.twin.mode = 1 ∨ s.twin.mode = 3 → s.twin.role = false → bitAt v 3 = false → s.twin.tookOver = false → bitAt v 4 = true → s.twin.state ≠ 6 →
      ∃ t l r l', exec (.heartbeat pl f) s = .next t ∧ t.twin.state = 6 ∧ t.twin.lastHeard = s.t ∧ (∀ d, d < 7 → (t.dieRate d).admitting = false) ∧
        t.handed = s.handed ++ l ++ r :: l' ∧ r.cls = 0x05 ∧ r.severity = 3) ∧
    (s.twin.detaching = false → s.twin.state = 3 → v % 8 = 5 → bitAt v 4 = false → ∃ t, exec (.heartbeat pl f) s = .next t ∧ t.twin.state = 5 ∧ t.twin.out = []) ∧
    (s.twin.detaching = false → v % 8 ≠ 3 → v % 8 ≠ 5 → bitAt v 4 = false → ∃ t, exec (.heartbeat pl f) s = .next t ∧ t.twin.state = s.twin.state ∧ t.twin.lastHeard = s.t ∧
      t.twin.tseqIn.get p = f.tseq + 1 ∧ t.dies = s.dies)) ∧
  (∀ (pl : Plane) (s : State), s.twin.mode ≠ 0 → s.twinUp pl.val = true → s.twin.beats.get pl.val = 0 ∨ s.twin.beats.get pl.val + 50000 ≤ s.t + 1 →
    ∃ t g, exec (.heartbeatSend pl) s = .next t ∧ t.outbox = s.outbox ++ [.twin pl.val (s.twinCarriage pl.val) g] ∧ g.kind = 1 ∧ g.tseq = s.twin.tseqOut.get pl.val ∧
      g.tack = s.twin.tseqIn.get pl.val ∧ g.payload.getD 8 0 = s.twinByte ∧ t.twin.tseqOut.get pl.val = s.twin.tseqOut.get pl.val + 1 ∧
      t.twin.beats.get pl.val = s.t + 1 ∧ t.twin.state = s.twin.state ∧ t.cores = s.cores) ∧
  (∀ s : State, s.twin.mode ≠ 0 → s.twin.state = 2 ∨ s.twin.state = 3 → s.twin.lastHeard + 500000 ≤ s.t →
    ∃ t l r, exec .twinLost s = .next t ∧ t.twin.state = 4 ∧ t.twin.lost = true ∧ t.twin.early = s.twin.early ∧ t.twin.role = s.twin.role ∧
      t.handed = s.handed ++ l ++ [r] ∧ r.cls = 0x05 ∧ r.severity = 3) ∧
  (∀ (pl : Plane) (q : BitVec 32) (s : State) (o : TwinOut), s.twin.out.find? (fun o => o.plane == pl.val && o.frame.tseq == q) = some o →
    (o.resends = 0 ∧ o.tSent + 2500 ≤ s.t ∨ o.resends = 1 ∧ o.tSent + 5000 ≤ s.t) →
    let p := if o.resends = 0 then pl.val else 1 - pl.val
    ∃ t g, exec (.twinFrameResend pl q) s = .next t ∧ t.outbox = s.outbox ++ [.twin p (s.twinCarriage p) g] ∧ g.tack = s.twin.tseqIn.get (o.frame.plane.toNat % 2) ∧
      g.crc = crc32c (twinBody g) ∧ { g with tack := o.frame.tack, crc := o.frame.crc } = o.frame ∧
      { o with resends := o.resends + 1 } ∈ t.twin.out ∧ t.twin.out.length = s.twin.out.length ∧ t.cores = s.cores)

/-- A write forward or copy in turn puts its bytes at its NPA and is acknowledged by a heartbeat. Equal records of one operation count as
compared; different ones are a divergence. A completion becomes the end of the shadow's operation. A stopping frame's status is kept. An
attach frame whose report does not verify leaves the link unverified; one that answers this package's own begins the sync. An announcement
changes nothing but what every frame does. -/
def Obligations.TwinFramesActOnce : Prop :=
  (∀ (pl : Plane) (f : TwinFrame) (i : Instr) (s : State) (id gen : BitVec 16) (npa ch u : Nat) (bs : List Byte),
    (i = .writeForward pl f ∧ s.InTurn pl f 2) ∨ (i = .copyData pl f ∧ s.InTurn pl f 3) →
    2 ≤ s.twin.state.toNat → s.twin.mode = 1 ∨ s.twin.mode = 3 → f.payload = forwardBytes id gen npa bs → s.twin.detaching = false → bs.length ≤ 512 → npa < 2 ^ 48 → npa % 256 + bs.length ≤ 256 → s.twin.completions = [] → s.twin.mine = [] →
    s.steer (npa / 256) = (ch, u) → (s.chan ch).lostNow = false → (s.chan ch).combining = [] → (s.chan ch).tracker = [] → s.px.dirty = [] →
    (∀ k, (s.chan ch).errsAt u ((s.chan ch).spared u) k = []) →
    ∃ t g l l', exec i s = .next t ∧ t.outbox = s.outbox ++ l ++ .twin pl.val (s.twinCarriage pl.val) g :: l' ∧ g.kind = 1 ∧ t.twin.lastHeard = s.t ∧
      (∀ k (h : k < bs.length), (t.chan ch).mem.read ((s.chan ch).spared u * 256 + npa % 256 + k) = bs[k]) ∧
      (∀ e, e ≠ ch → t.chan e = s.chan e) ∧ t.twin.tseqIn.get (f.plane.toNat % 2) = f.tseq + 1) ∧
  (∀ (pl : Plane) (f : TwinFrame) (s : State) (a : CastRec), s.InTurn pl f 4 → 2 ≤ s.twin.state.toNat → s.twin.mode = 3 → s.twin.detaching = false → f.payload.length = 24 → s.twin.mine = [a] → s.twin.theirs = [] →
    s.twin.completions = [] → a.core.toNat = fieldAt f.payload 0 4 → a.acc.toNat = fieldAt f.payload 4 4 →
    (a.status = f.payload.getD 12 0 → a.c.toNat = fieldAt f.payload 16 8 → ∃ t, exec (.castRecords pl f) s = .next t ∧
      t.twin.compared = s.twin.compared + 1 ∧ t.twin.diverged = s.twin.diverged ∧ t.twin.theirs = []) ∧
    (a.status ≠ f.payload.getD 12 0 ∨ a.c.toNat ≠ fieldAt f.payload 16 8 → ∃ t, exec (.castRecords pl f) s = .next t ∧
      t.twin.compared = s.twin.compared + 1 ∧ t.twin.diverged = true ∧ t.twin.divergences = satInc s.twin.divergences)) ∧
  (∀ (pl : Plane) (f : TwinFrame) (s : State) (c : CoreId) (i : Nat) (e : Entry), s.InTurn pl f 5 → 2 ≤ s.twin.state.toNat → s.twin.detaching = false → s.castShadow = true → f.payload.length = 16 →
    s.twin.completions = [] → s.twin.mine = [] → s.phys (beVal (slice f.payload 0 4)) = some c →
    (s.core c).entries.find? (fun e => e.2.acc == BitVec.ofNat 32 (beVal (slice f.payload 4 4)) && (e.2.live || e.2.ended) && e.2.code != .free) = some (i, e) →
    (s.core c).entry i = e → e.code = .running → (s.core c).dma.entry = some i → e.outcome = none → e.d.mayGoOut = true → (s.core c).wait = .none →
    ∃ t, exec (.castCompletion pl f) s = .next t ∧ ((t.core c).entry i).outcome = some (f.payload.getD 8 0) ∧ (t.core c).dma.outst = [] ∧
      (t.core c).ws = (s.core c).ws ∧ t.chans = s.chans) ∧
  (∀ (pl : Plane) (f : TwinFrame) (s : State), s.InTurn pl f 6 → 2 ≤ s.twin.state.toNat → s.twin.detaching = false → ∃ t, exec (.stopping pl f) s = .next t ∧ t.twin.stopped = some (f.payload.getD 0 0) ∧
    t.twin.lastHeard = s.t ∧ t.twin.state = s.twin.state) ∧
  (∀ (pl : Plane) (f : TwinFrame) (s : State), s.InTurn pl f 7 → s.twin.detaching = false →
    (s.twinReportOk f.payload = false → ∃ t l r l', exec (.attach pl f) s = .next t ∧ t.twin.state = 1 ∧ (s.twin.state = 2 ∨ s.twin.state = 3 → t.twin.verified = false) ∧
      t.handed = s.handed ++ l ++ r :: l' ∧ r.cls = 0x0A ∧ r.severity = 3) ∧
    (s.twinReportOk f.payload = true → s.twin.verified = false → s.twin.ownFresh ≠ [] → slice f.payload 8 32 = s.twin.ownFresh →
      ∃ t l g l', exec (.attach pl f) s = .next t ∧ t.twin.state = 2 ∧ t.twin.verified = true ∧ t.outbox = s.outbox ++ l ++ .twin pl.val (s.twinCarriage pl.val) g :: l' ∧ g.kind = 7)) ∧
  (∀ (pl : Plane) (f : TwinFrame) (s : State), s.InTurn pl f 8 → s.twin.detaching = false → ∃ t, exec (.announcement pl f) s = .next t ∧ t.twin.lastHeard = s.t ∧
    t.twin.tseqIn.get (f.plane.toNat % 2) = f.tseq + 1 ∧ t.twin.state = s.twin.state ∧ t.twin.stopped = s.twin.stopped ∧ t.dies = s.dies)

/-- A standby whose twin is lost probes it by both planes; an answer ends that. One whose probes have all gone unanswered, or whose twin
has said that it stops, takes over. The takeover makes it the active package, which has taken over, with no receive space known, and is
recorded. A package not in a pair takes nothing over. A write of attach sends this package's report and begins again unverified; a
superseded package becomes a standby. The sync copies one unit after another in ascending order, the last copied unit's position is kept;
past the last window the own region's committed generations go to the twin, and once all copies are flushed the pair is paired. A detach
ends the pair once no forward is unacknowledged: at once, or with the frame that acknowledges the last one. -/
def Obligations.TwinsAttachSyncAndTakeOver : Prop :=
  (
    (∀ (a : Bool) (s : State), s.mayTakeOver = true →
      (s.twin.stopped.isSome = true ∨ s.twin.state = 4 ∧ a = false ∧ s.twin.takeoverStep = 2 ∧ s.probing = false →
        exec (.takeoverStart a) s = exec .takeover s) ∧
      (s.twin.stopped = none → s.twin.state = 4 → a = false → s.twin.takeoverStep ≠ 2 →
        ∃ t, exec (.takeoverStart a) s = .next t ∧ t.twin = { s.twin with takeoverStep := 2 } ∧
          ∀ (n : Nat) (e : RankEntry), n < 8 → (∀ m, m < 8 → ((s.ten m).job.state ≠ 0 ↔ m = n)) →
            s.rankDest 0 n (s.ten n).job.ownRank.toNat = some e → (s.fab 0).waiting = [] →
            (s.fab 0).outst.length < 32768 → s.canPay 0 (s.peerOfRank (n * 65536 + (s.ten n).job.ownRank.toNat)) 0xB = true →
            ∃ q, (t.fab 0).outst = (s.fab 0).outst ++ [q] ∧ q.owner = .probe ∧ q.frame.type = 0xB ∧ q.frame.jobId = 0 ∧
              q.frame.dstRank = (s.ten n).job.ownRank ∧ t.probing = true) ∧
      (s.twin.stopped = none → s.twin.state = 4 → a = false → s.twin.takeoverStep = 2 → s.probing = true → exec (.takeoverStart a) s = .next s) ∧
      (s.twin.stopped = none → s.twin.state = 4 → a = true →
        ∃ t, exec (.takeoverStart a) s = .next t ∧ t.twin = { s.twin with takeoverStep := 0 } ∧ t.probing = false) ∧
      (s.twin.stopped = none → s.twin.state ≠ 4 → exec (.takeoverStart a) s = .next s)) ∧
    (∀ s : State, s.mayTakeOver = true → ∃ t l r, exec .takeover s = .next t ∧ t.twin.role = false ∧ t.twin.tookOver = true ∧ t.twin.takeoverStep = 0 ∧
      t.twin.early = [] ∧ t.boot.addrs = s.boot.twinAddrs ∧ (t.fab 0).spaces = [] ∧ (t.fab 1).spaces = [] ∧
      t.handed = s.handed ++ l ++ [r] ∧ r.cls = 0x05 ∧ r.severity = 3) ∧
    (∀ s : State, s.mayTakeOver = false → exec .takeover s = .next s)) ∧ (
    (∀ s : State, s.twin.mode ≠ 0 → s.twin.state ≠ 2 → s.twin.state ≠ 3 → s.attests = true →
      ∃ t g, exec .attachStart s = .next t ∧ t.twin.state = 1 ∧ t.twin.verified = false ∧ t.twin.syncUnit = 0 ∧ t.twin.syncPct = 0 ∧ t.twin.stopped = none ∧
        t.twin.role = (s.twin.role || s.twin.state == 6) ∧ t.outbox = s.outbox ++ [.twin s.twinPlane (s.twinCarriage s.twinPlane) g] ∧ g.kind = 7 ∧ t.cores = s.cores) ∧
    (∀ s : State, s.twin.mode ≠ 0 → s.twin.state = 2 →
      (s.twin.mode = 2 ∨ s.twin.role = true ∨ s.mirrorWindows = [] → s.syncSlots = [] →
        (s.copiesOpen = true → exec .syncUnitCopy s = .next s) ∧
        (s.copiesOpen = false → ∃ t, exec .syncUnitCopy s = .next t ∧ t =
          { s with twin := if s.twin.role ∧ s.twin.mode ≠ 2 then { s.twin with syncSent := true }
                           else { s.twin with syncSent := true, state := 3, syncPct := 100, attaching := false } })) ∧
      (s.twin.mode = 2 ∨ s.twin.role = true ∨ s.mirrorWindows = [] → ∀ n k, s.syncSlots = [(n, k)] → s.twin.syncLba < 65536 →
        ∃ t lba, exec .syncUnitCopy s = .next t ∧ t.twin.syncLba = s.twin.syncLba + 1 ∧ t.twin.state = 2 ∧ .nvmeRead lba 1 ∈ t.outbox ∧ t.copiesOpen = true) ∧
      (s.twin.role = false → s.twin.mode ≠ 2 → ∀ key w, s.mirrorWindows = [(key, w)] → s.twin.syncWin = key →
        (s.twin.syncUnit < w.length.toNat / 256 → ∃ t, exec .syncUnitCopy s = .next t ∧ t.twin.syncWin = key ∧ t.twin.syncUnit = s.twin.syncUnit + 1 ∧
          t.twin.state = 2 ∧ (w.space = 0 →
            let npa := w.base.toNat + s.twin.syncUnit * 256
            let r := s.gddrRead npa 256 { source := 1 }
            (r.2.1 = stDone → ∃ g, t.outbox = s.outbox ++ [.twin (npa / 256 % 2) (r.1.twinCarriage (npa / 256 % 2)) g] ∧ g.kind = 3 ∧ g.payload = forwardBytes w.jobId w.jobGen npa r.2.2) ∧
            (r.2.1 ≠ stDone → t.outbox = s.outbox))) ∧
        (w.length.toNat / 256 ≤ s.twin.syncUnit → s.syncSlots = [] → s.copiesOpen = false → ∃ t, exec .syncUnitCopy s = .next t ∧
          t.twin.state = 3 ∧ t.twin.syncPct = 100 ∧ t.outbox = s.outbox))) ∧
    (∀ s : State, s.twin.state = 2 ∨ s.twin.state = 3 → (s.NoMirrorWaits → (∀ o ∈ s.twin.out, o.frame.kind ≠ 2) → ∃ t, exec .detach s = .next t ∧ t.twin.state = 5 ∧
        t.twin.early = [] ∧ t.twin.verified = false ∧ t.chans = s.chans) ∧
      ((∃ o ∈ s.twin.out, o.frame.kind = 2) → exec .detach s = .next { s with twin := { s.twin with detaching := true } })) ∧
    (∀ (pl : Plane) (f : TwinFrame) (s : State), s.InTurn pl f 1 → s.twin.detaching = true → bitAt (f.payload.getD 8 0).toNat 4 = false →
      (∀ o ∈ s.twin.out, o.frame.kind = 2 → o.plane = f.plane.toNat % 2 ∧ (f.tack - 1 - o.frame.tseq).toNat < 2 ^ 31) →
      ∃ t, exec (.heartbeat pl f) s = .next t ∧ t.twin.state = 5))

/-! ### Event concentrator (chapter 18) -/

/-- A doorbell sets its source pending and a retract clears it, where the value is a source of the block's owner; any other value changes
nothing but a counter. A write of a pending word sets its group. A unit's event sets its source. No other source changes. A claim takes an
eligible source of the highest priority, the lowest number among equals: it is no longer pending, is in service at the target, and its
group is held for its interval; with none eligible it reads 0xFFF. A complete ends the service of a claimed source and counts any other.
Enable, priority and threshold words are set as written. A hold whose time has come ends. A hart whose target has an eligible source takes
the external interrupt as its mode, mstatus and mie let it, and leaves WFI whatever they say. -/
def Obligations.EventSourcesAreRungClaimedAndCompleted : Prop :=
  (
    (∀ (who : Ringer) (block : Fin 9) (v : Reg) (aligned : Bool) (s : State), s.mayRing who block aligned →
      (s.ringOk block.val v = true →
        (∃ t, exec (.doorbell who block v aligned) s = .next t ∧ t.ec.isPending v.toNat = (ecReal (v.toNat / 64)).getLsbD (v.toNat % 64) ∧
          t.ec.targets = s.ec.targets ∧ t.cores = s.cores ∧
          ∀ q, q ≠ v.toNat → (ecReal (q / 64)).getLsbD (q % 64) = true → t.ec.isPending q = s.ec.isPending q) ∧
        (∃ t, exec (.retract who block v aligned) s = .next t ∧ t.ec.isPending v.toNat = false ∧ t.ec.targets = s.ec.targets ∧
          ∀ q, q ≠ v.toNat → (ecReal (q / 64)).getLsbD (q % 64) = true → t.ec.isPending q = s.ec.isPending q)) ∧
      (s.ringOk block.val v = false →
        (∃ t, exec (.doorbell who block v aligned) s = .next t ∧ t = { s with ec := { s.ec with bellDrop := satInc s.ec.bellDrop } }) ∧
        (∃ t, exec (.retract who block v aligned) s = .next t ∧ t = { s with ec := { s.ec with bellDrop := satInc s.ec.bellDrop } }))) ∧
    (∀ (g : Fin 64) (v : Reg) (s : State), ∃ t, exec (.ecPendingWrite g v) s = .next t ∧ t.ec.pending.get g.val = v &&& ecReal g.val ∧
      (∀ k, k ≠ g.val → t.ec.pending.get k = s.ec.pending.get k) ∧ t.ec.targets = s.ec.targets ∧ t.ec.groups = s.ec.groups ∧
      ∀ (h : Hart) (r : HartRegs), let u := { s with ec := t.ec }
        s.px.harts = [(h.val, r)] → u.irq (2 * h.val) = true →
        (u.hartIrq h.val = some 11 → (t.hart h.val).mcause.toNat = 2 ^ 63 + 11 ∧ (t.hart h.val).mepc = r.pc ∧ (t.hart h.val).mode = 3 ∧
          (t.hart h.val).pc = irqVector r.mtvec 11 ∧ (t.hart h.val).mie = false) ∧
        (u.hartIrq h.val = none → s.hartLive h.val = true → t.hart h.val = { r with wfi := false })) ∧
    (∀ (src : BitVec 12) (s : State) (l r : List Nat), s.signals = l ++ src.toNat :: r → src.toNat ∉ l →
      ∃ t, exec (.ecSourceEvent src) s = .next t ∧ t.signals = l ++ r ∧ t.ec.isPending src.toNat = (ecReal (src.toNat / 64)).getLsbD (src.toNat % 64) ∧
        t.ec.targets = s.ec.targets ∧ ∀ q, q ≠ src.toNat → (ecReal (q / 64)).getLsbD (q % 64) = true → t.ec.isPending q = s.ec.isPending q)) ∧ (
    (∀ (tg : Fin 200) (rd : BitVec 5) (s : State), s.hartRuns (tg.val / 2) = true →
      (s.eligible tg.val = [] → ∃ t, exec (.claim tg rd) s = .next t ∧ (t.hart (tg.val / 2)).xr rd = (if rd = 0 then 0 else 0xFFF) ∧
        t = { s with px := t.px, ec := { s.ec with spurious := satInc s.ec.spurious } }) ∧
      (s.eligible tg.val ≠ [] → ∃ t src, exec (.claim tg rd) s = .next t ∧ t = { s with px := t.px, ec := t.ec, cpc := t.cpc } ∧ (s.cpc.dold ≠ 2 → t.cpc = s.cpc) ∧ src ∈ s.eligible tg.val ∧
        (∀ y ∈ s.eligible tg.val, (s.ec.prio.get y).toNat ≤ (s.ec.prio.get src).toNat) ∧
        (Tab.wf s.ec.pending = true → ∀ y ∈ s.eligible tg.val, (s.ec.prio.get y).toNat = (s.ec.prio.get src).toNat → src ≤ y) ∧
        (t.hart (tg.val / 2)).xr rd = (if rd = 0 then 0 else BitVec.ofNat 64 src) ∧ t.ec.isPending src = false ∧
        (t.ec.targets.get tg.val).service = src :: (s.ec.targets.get tg.val).service ∧
        ((s.ec.groups.get (src / 64)).interval ≠ 0 → (t.ec.groups.get (src / 64)).holdEnd =
          some (s.t + min (s.ec.groups.get (src / 64)).interval.toNat 10000 * 100)) ∧
        (∀ k, k ≠ tg.val → t.ec.targets.get k = s.ec.targets.get k))) ∧
    (∀ (tg : Fin 200) (v : Reg) (s : State), s.hartRuns (tg.val / 2) = true → let src := v.toNat % 4096
      (src ∈ (s.ec.targets.get tg.val).service → ∃ t, exec (.complete tg v) s = .next t ∧ t.ec.pending = s.ec.pending ∧
        t.ec.targets.get tg.val = { s.ec.targets.get tg.val with service := (s.ec.targets.get tg.val).service.erase src }) ∧
      (src ∉ (s.ec.targets.get tg.val).service → ∃ t, exec (.complete tg v) s = .next t ∧
        t = { s with ec := { s.ec with badComplete := satInc s.ec.badComplete } })) ∧
    (∀ s : State,
      (∀ tg g v, ∃ t, exec (.ecConfigWrite (.enable tg g v)) s = .next t ∧ (t.ec.targets.get tg.val).enable.get g.val = v ∧
        (t.ec.targets.get tg.val).threshold = (s.ec.targets.get tg.val).threshold ∧ t.ec.pending = s.ec.pending) ∧
      (∀ g k v, ∃ t, exec (.ecConfigWrite (.prio g k v)) s = .next t ∧ t.ec.targets = s.ec.targets ∧
        (∀ j, j < 16 → (t.ec.prio.get (64 * g.val + 16 * k.val + j)).toNat = v.toNat / 16 ^ j % 8) ∧
        ∀ q, q < 64 * g.val + 16 * k.val ∨ 64 * g.val + 16 * k.val + 16 ≤ q → t.ec.prio.get q = s.ec.prio.get q) ∧
      (∀ tg v, ∃ t, exec (.ecConfigWrite (.threshold tg v)) s = .next t ∧ (t.ec.targets.get tg.val).threshold.toNat = v.toNat % 8 ∧
        (t.ec.targets.get tg.val).enable = (s.ec.targets.get tg.val).enable)) ∧
    (∀ (g : Fin 64) (s : State) (e : Nat), (s.ec.groups.get g.val).holdEnd = some e → e ≤ s.t →
      ∃ t, exec (.gustHoldEnd g) s = .next t ∧ t.ec.groups.get g.val = { s.ec.groups.get g.val with holdEnd := none } ∧ t.ec.pending = s.ec.pending ∧
        ∀ k, k ≠ g.val → t.ec.groups.get k = s.ec.groups.get k))

/-! ### The processor die (chapter 17) -/

/-- The element-wise operations of Xszv on integers, for every element of their type: sums, differences and products wrap, minima and
maxima go by sign or not as they are named, the mean rounds up, and the absolute value of the most negative element is itself. A word of
custom-0 or custom-1 whose op the tables list is that instruction, with its element type, width and registers; any other, and one with bit
25 set, is illegal. -/
def Obligations.XszvIntegerArithmetic : Prop :=
  (∀ (h : Hart) (et : BitVec 3) (w : Bool) (rd rs1 rs2 : BitVec 5) (s : State), s.hartRuns h.val = true → s.xszvOff h.val = false →
    et.toNat < 4 → q3 w rd rs1 rs2 = true →
    let bits := 8 * xszvSize et
    let n := xszvCount et w
    let a := fun i => elemAt bits ((s.hart h.val).vec w rs1) i
    let b := fun i => elemAt bits ((s.hart h.val).vec w rs2) i
    let ok := fun (c : Instr) (p : Nat → Nat → Prop) => ∃ t l, exec c s = .next t ∧ XszvWrote h.val w rd bits s t l ∧
      (t.hart h.val).fflags = (s.hart h.val).fflags ∧ l.length = n ∧ ∀ i (hi : i < l.length), l[i] < 2 ^ bits ∧ p i l[i]
    ok (.add h et w rd rs1 rs2) (fun i x => x = (a i + b i) % 2 ^ bits) ∧
    ok (.sub h et w rd rs1 rs2) (fun i x => (x + b i) % 2 ^ bits = a i) ∧
    ok (.mul h et w rd rs1 rs2) (fun i x => x = a i * b i % 2 ^ bits) ∧
    ok (.min h et w rd rs1 rs2) (fun i x => toSigned bits x = min (toSigned bits (a i)) (toSigned bits (b i))) ∧
    ok (.max h et w rd rs1 rs2) (fun i x => toSigned bits x = max (toSigned bits (a i)) (toSigned bits (b i))) ∧
    ok (.minu h et w rd rs1 rs2) (fun i x => x = min (a i) (b i)) ∧
    ok (.maxu h et w rd rs1 rs2) (fun i x => x = max (a i) (b i)) ∧
    ok (.avg h et w rd rs1 rs2) (fun i x => x = (a i + b i + 1) / 2) ∧
    ok (.abs h et w rd rs1 0) (fun i x => if a i = 2 ^ (bits - 1) then x = a i else toSigned bits x = (toSigned bits (a i)).natAbs)) ∧
  (∀ (h : Hart) (et : BitVec 3) (w : Bool) (rd rs1 rs2 : BitVec 5) (s : State),
    let word := fun (major op : Nat) => BitVec.ofNat 32
      (major + rd.toNat * 2 ^ 7 + et.toNat * 2 ^ 12 + rs1.toNat * 2 ^ 15 + rs2.toNat * 2 ^ 20 + b2n w * 2 ^ 26 + op * 2 ^ 27)
    let ops : List Instr := ([.add h et w rd rs1 rs2, .sub h et w rd rs1 rs2, .mul h et w rd rs1 rs2, .min h et w rd rs1 rs2, .max h et w rd rs1 rs2, .minu h et w rd rs1
      rs2, .maxu h et w rd rs1 rs2, .abs h et w rd rs1 rs2, .avg h et w rd rs1 rs2, .cmpeq h et w rd rs1 rs2, .cmplt h et w rd rs1 rs2, .cmple h
      et w rd rs1 rs2, .cmpltu h et w rd rs1 rs2, .sel h et w rd rs1 rs2, .widen h et w rd rs1 rs2, .widenh h et w rd rs1 rs2, .widenu h et w rd
      rs1 rs2, .widenuh h et w rd rs1 rs2, .narrow h et w rd rs1 rs2, .narrowu h et w rd rs1 rs2, .shuf h et w rd rs1 rs2, .dot h et w rd rs1 rs2,
      .dotus h et w rd rs1 rs2, .sad h et w rd rs1 rs2, .splat h et w rd rs1 rs2, .mlt h et w rd rs1 rs2, .mtest h et w rd rs1 rs2] : List Instr)
    let mem : List Instr := [.xld h et w rd rs1 rs2 {}, .xst h et w rd rs1 rs2, .xldff h et w rd rs1 rs2 {}, .xstm h et w rd rs1 rs2]
    (∀ op, op < 32 → xszvWord h (word 0x0B op) = ops[op]? ∧ xszvWord h (word 0x2B op) = mem[op]?) ∧
    ∀ y : BitVec 32, (y.getLsbD 25 = true → xszvWord h y = none) ∧ (∀ i, xszvWord h y = some i → s.xszvRun h y = exec i s) ∧
      (xszvWord h y = none → s.hartRuns h.val = true → (s.hart h.val).mode = 3 → ∃ t, s.xszvRun h y = .next t ∧ (t.hart h.val).mcause = 2 ∧
        (t.hart h.val).mepc = (s.hart h.val).pc ∧ (t.hart h.val).f = (s.hart h.val).f))

/-- The element-wise operations of Xszv on floating-point elements are those of the F extension: each element is the operation's result in
the rounding mode of frm, the flags are added to fflags, and a value of frm that names no mode is illegal for an operation that rounds. -/
def Obligations.XszvFloatArithmetic : Prop :=
  ∀ (h : Hart) (et : BitVec 3) (w : Bool) (rd rs1 rs2 : BitVec 5) (s : State), s.hartRuns h.val = true → s.xszvOff h.val = false →
    4 ≤ et.toNat → q3 w rd rs1 rs2 = true →
    let bits := 8 * xszvSize et
    let n := xszvCount et w
    let f := xszvFmt et
    let a := fun i => elemAt bits ((s.hart h.val).vec w rs1) i
    let b := fun i => elemAt bits ((s.hart h.val).vec w rs2) i
    let ok := fun (c : Instr) (g : Nat → Nat × Flags) => ∃ t, exec c s = .next t ∧ XszvWrote h.val w rd bits s t ((List.range n).map (fun i => (g i).1)) ∧
      (t.hart h.val).fflags = (s.hart h.val).fflags ||| fflagsOf (((List.range n).map g).foldl (fun x e => x ||| e.2) 0)
    (∀ r, frmRnd (s.hart h.val).frm = some r →
      ok (.add h et w rd rs1 rs2) (fun i => fpElem f (a i) (b i) (fAdd f r)) ∧
      ok (.sub h et w rd rs1 rs2) (fun i => fpElem f (a i) (b i) (fSub f r)) ∧
      ok (.mul h et w rd rs1 rs2) (fun i => fpElem f (a i) (b i) (fMul f r)) ∧
      ok (.avg h et w rd rs1 rs2) (fun i => fpElem f (a i) (b i) (fpAvg f r))) ∧
    ok (.min h et w rd rs1 rs2) (fun i => fpMinMax f (a i) (b i) false) ∧
    ok (.max h et w rd rs1 rs2) (fun i => fpMinMax f (a i) (b i) true) ∧
    ok (.abs h et w rd rs1 0) (fun i => (f.code (f.decode (a i)).abs, 0)) ∧
    (5 ≤ (s.hart h.val).frm.toNat → (s.hart h.val).mode = 3 → ∀ c ∈ [Instr.add h et w rd rs1 rs2, .sub h et w rd rs1 rs2, .mul h et w rd rs1 rs2, .avg h et w rd rs1 rs2],
      ∃ t, exec c s = .next t ∧ (t.hart h.val).mcause = 2 ∧ (t.hart h.val).mepc = (s.hart h.val).pc ∧ (t.hart h.val).f = (s.hart h.val).f)

/-- Xszv comparisons give all ones or zero for each element; sel merges by the old rd; splat and mlt read an x register; mtest gathers the
top bits of the elements into one; shuf picks bytes by index, zero past the end. -/
def Obligations.XszvComparesAndSelects : Prop :=
  ∀ (h : Hart) (et : BitVec 3) (w : Bool) (rd rs1 rs2 : BitVec 5) (s : State), s.hartRuns h.val = true → s.xszvOff h.val = false →
    let bits := 8 * xszvSize et
    let n := xszvCount et w
    let r := s.hart h.val
    let a := fun i => elemAt bits (r.vec w rs1) i
    let b := fun i => elemAt bits (r.vec w rs2) i
    let ones := fun (p : Bool) => if p then 2 ^ bits - 1 else 0
    let ok := fun (c : Instr) (g : Nat → Nat) => ∃ t, exec c s = .next t ∧ XszvWrote h.val w rd bits s t ((List.range n).map g)
    (q3 w rd rs1 rs2 = true →
      (et.toNat < 4 → ok (.cmpeq h et w rd rs1 rs2) (fun i => ones (a i == b i)) ∧
        ok (.cmplt h et w rd rs1 rs2) (fun i => ones (toSigned bits (a i) < toSigned bits (b i))) ∧
        ok (.cmple h et w rd rs1 rs2) (fun i => ones (toSigned bits (a i) ≤ toSigned bits (b i))) ∧
        ok (.cmpltu h et w rd rs1 rs2) (fun i => ones (a i < b i))) ∧
      (4 ≤ et.toNat → let f := xszvFmt et
        ok (.cmpeq h et w rd rs1 rs2) (fun i => ones ((f.decode (a i)).eq (f.decode (b i)))) ∧
        ok (.cmplt h et w rd rs1 rs2) (fun i => ones ((f.decode (a i)).lt (f.decode (b i)))) ∧
        ok (.cmple h et w rd rs1 rs2) (fun i => ones ((f.decode (a i)).le (f.decode (b i))))) ∧
      (∃ t, exec (.sel h et w rd rs1 rs2) s = .next t ∧ XszvRetired h.val s t ∧ (t.hart h.val).fs = 3 ∧ ∀ k, k < 8 * xszvBytes w →
        bitAt ((t.hart h.val).vec w rd) k = if bitAt (r.vec w rd) k then bitAt (r.vec w rs1) k else bitAt (r.vec w rs2) k) ∧
      (et = 0 → ok (.shuf h et w rd rs1 rs2) (fun i => if b i < xszvBytes w then a (b i) else 0))) ∧
    (qOk w rd = true → ok (.splat h et w rd rs1 0) (fun _ => (r.xr rs1).toNat) ∧ ok (.mlt h et w rd rs1 0) (fun i => ones (i < (r.xr rs1).toNat))) ∧
    (qOk w rs1 = true → ∃ t, exec (.mtest h et w rd rs1 0) s = .next t ∧ XszvRetired h.val s t ∧ (t.hart h.val).f = r.f ∧
      (rd ≠ 0 → ∀ i, i < n → ((t.hart h.val).xr rd).getLsbD i = bitAt (a i) (bits - 1)) ∧ ∀ q, q ≠ rd → (t.hart h.val).xr q = r.xr q)

/-- Xszv widening takes the low or the high half of a register to twice its width by sign, by zeros or exactly; narrowing puts both
sources at half their width, integers saturated; the dot products and sums of absolute differences add four bytes to each 32-bit lane of
the old rd. -/
def Obligations.XszvWidensNarrowsAndSums : Prop :=
  ∀ (h : Hart) (et : BitVec 3) (w : Bool) (rd rs1 rs2 : BitVec 5) (s : State), s.hartRuns h.val = true → s.xszvOff h.val = false →
    let bits := 8 * xszvSize et
    let n := xszvCount et w
    let r := s.hart h.val
    let a := fun i => elemAt bits (r.vec w rs1) i
    let both := (List.range n).map (elemAt bits (r.vec w rs1)) ++ (List.range n).map (elemAt bits (r.vec w rs2))
    let ok := fun (c : Instr) (k : Nat) (l : List Nat) => ∃ t, exec c s = .next t ∧ XszvWrote h.val w rd k s t l
    (q2 w rd rs1 = true →
      (et.toNat ≤ 2 →
        ok (.widen h et w rd rs1 rs2) (2 * bits) ((List.range (n / 2)).map (fun i => toUnsigned (2 * bits) (toSigned bits (a i)))) ∧
        ok (.widenh h et w rd rs1 rs2) (2 * bits) ((List.range (n / 2)).map (fun i => toUnsigned (2 * bits) (toSigned bits (a (n / 2 + i))))) ∧
        ok (.widenu h et w rd rs1 rs2) (2 * bits) ((List.range (n / 2)).map a) ∧
        ok (.widenuh h et w rd rs1 rs2) (2 * bits) ((List.range (n / 2)).map (fun i => a (n / 2 + i)))) ∧
      (4 ≤ et.toNat → et ≠ 7 → let g := fun c => (fpConvert (xszvFmt et) (if et = 6 then fp64 else fp32) .rne c).1
        ok (.widen h et w rd rs1 rs2) (2 * bits) ((List.range (n / 2)).map (fun i => g (a i))) ∧
        ok (.widenh h et w rd rs1 rs2) (2 * bits) ((List.range (n / 2)).map (fun i => g (a (n / 2 + i)))))) ∧
    (q3 w rd rs1 rs2 = true →
      (1 ≤ et.toNat → et.toNat ≤ 3 →
        ok (.narrow h et w rd rs1 rs2) (bits / 2) (both.map (fun c => satInt (bits / 2) true (toSigned bits c))) ∧
        ok (.narrowu h et w rd rs1 rs2) (bits / 2) (both.map (fun c => satInt (bits / 2) false (toSigned bits c)))) ∧
      (5 ≤ et.toNat → ∀ m l fl, frmRnd r.frm = some m → narrowFp et w m (r.vec w rs1) (r.vec w rs2) = .vec l fl →
        ∃ t, exec (.narrow h et w rd rs1 rs2) s = .next t ∧ XszvRetired h.val s t ∧ (t.hart h.val).vec w rd = l ∧
          (t.hart h.val).fflags = r.fflags ||| fflagsOf fl) ∧
      (et = 2 → let x := fun i => elemAt 8 (r.vec w rs1) i
        let y := fun i => elemAt 8 (r.vec w rs2) i
        let lane := fun (g : Nat → Int) => (List.range (xszvBytes w / 4)).map (fun k =>
          toUnsigned 32 (elemAt 32 (r.vec w rd) k + (g (4 * k) + g (4 * k + 1) + g (4 * k + 2) + g (4 * k + 3))))
        ok (.dot h et w rd rs1 rs2) 32 (lane (fun i => toSigned 8 (x i) * toSigned 8 (y i))) ∧
        ok (.dotus h et w rd rs1 rs2) 32 (lane (fun i => x i * toSigned 8 (y i))) ∧
        ok (.sad h et w rd rs1 rs2) 32 (lane (fun i => ((x i : Int) - y i).natAbs))))

/-- Xszv loads put their elements into the register and stores put the chosen ones into memory, element after element. A fault past the
first element ends a first-fault load there: the rest is zero, and szvff counts what came. With the unit off, every Xszv instruction is
illegal. -/
def Obligations.XszvLoadsAndStores : Prop :=
  ∀ (h : Hart) (et : BitVec 3) (w : Bool) (rd rs1 rs2 : BitVec 5) (errs : AccessErrs) (s : State), s.hartRuns h.val = true →
    let bits := 8 * xszvSize et
    let n := xszvCount et w
    let r := s.hart h.val
    let va := r.xr rs1 + r.xr rs2
    (s.xszvOff h.val = false → qOk w rd = true →
      (∀ u l e, (s.gddrStrike errs.sectors).elemLoads h.val va (xszvSize et) errs.flips 0 n [] = (u, l, e) →
        ((∃ bs, e = .ok bs) →
          (∃ t, exec (.xld h et w rd rs1 rs2 errs) s = .next t ∧ (t.hart h.val).vec w rd = packElems bits l ∧ (t.hart h.val).pc = (u.hart h.val).pc + 4 ∧
            t.chans = u.chans ∧ t.cores = u.cores) ∧
          (∃ t, exec (.xldff h et w rd rs1 rs2 errs) s = .next t ∧ (t.hart h.val).vec w rd = packElems bits l ∧ (t.hart h.val).szvff = BitVec.ofNat 64 n ∧
            (t.hart h.val).pc = (u.hart h.val).pc + 4)) ∧
        (∀ cause, e = .fault cause → l ≠ [] → ∃ t, exec (.xldff h et w rd rs1 rs2 errs) s = .next t ∧ (t.hart h.val).szvff = BitVec.ofNat 64 l.length ∧
          (∀ i, i < n → elemAt bits ((t.hart h.val).vec w rd) i = if i < l.length then l.getD i 0 % 2 ^ bits else 0) ∧
          (t.hart h.val).pc = (u.hart h.val).pc + 4)) ∧
      (∀ u k bs, s.elemStores h.val va (xszvSize et) (r.vec w rd) (fun _ => true) 0 n = (u, k, .ok bs) →
        ∃ t, exec (.xst h et w rd rs1 rs2) s = .next t ∧ t.chans = u.chans ∧ t.cores = u.cores ∧ t.px.sram = u.px.sram ∧ (t.hart h.val).pc = (u.hart h.val).pc + 4) ∧
      (qOk w rs2 = true → ∀ u k bs,
        s.elemStores h.val (r.xr rs1) (xszvSize et) (r.vec w rd) (fun i => bitAt (r.vec w rs2) (bits * i + bits - 1)) 0 n = (u, k, .ok bs) →
        ∃ t, exec (.xstm h et w rd rs1 rs2) s = .next t ∧ t.chans = u.chans ∧ t.cores = u.cores ∧ t.px.sram = u.px.sram ∧ (t.hart h.val).pc = (u.hart h.val).pc + 4)) ∧
    (r.fs = 0 → r.mode = 3 → ∀ c ∈ [Instr.add h et w rd rs1 rs2, .sel h et w rd rs1 rs2, .splat h et w rd rs1 rs2, .shuf h et w rd rs1 rs2, .dot h et w rd rs1 rs2,
        .widen h et w rd rs1 rs2, .xld h et w rd rs1 rs2 errs, .xst h et w rd rs1 rs2, .xldff h et w rd rs1 rs2 errs, .xstm h et w rd rs1 rs2],
      ∃ t, exec c s = .next t ∧ (t.hart h.val).mcause = 2 ∧ (t.hart h.val).mepc = r.pc ∧ (t.hart h.val).pc = r.mtvec &&& ~~~ 3 ∧ (t.hart h.val).f = r.f ∧ t.chans = s.chans)

/-- An access whose translation, protection and tenancy check lead to an SRAM way reads or writes its bytes, and a write may end
reservations; a load extends them as its form says, an LR reserves its line, an SC writes while the reservation stands and reports, and an
atomic writes its sum, minimum or other value and returns the old one. A load of a line that the data cache holds takes the bytes that the
cores see, and asks no channel. An access that is stopped takes its exception, at its own address; one outside the tenancy is recorded as
well; one that waits for a credit has no effect. A misaligned atomic takes its own exception. A fetch at the pc that is marked so executes
the instruction there (log 43): ADDI, a read of mhartid, ECALL and MRET do as RISC-V has it. -/
def Obligations.ApplicationCoresReachTheirTenancy : Prop :=
  ∀ (h : Hart) (k : AccKind) (size : Fin 4) (va : BitVec 64) (r : BitVec 5) (v : Reg) (s : State), s.hartRuns h.val = true →
    let n := 2 ^ size.val
    let c := fun k => Instr.applicationCoreAccess h k size va r v {}
    let one := isAmo k = true ∨ k = .lr ∨ k = .sc
    (one → 2 ≤ size.val ∧ va.toNat % n = 0) →
    (∀ (u : State) (pa : Nat), s.hartReach h.val va n (accOf k) = (u, .ok [(pa, n)]) →
      let off := pa % 2 ^ 48
      (pa / 2 ^ 48 = 3 → off < 0xC000000 → u.px.sramErr = [] →
        (k = .load → ∃ t, exec (c k) s = .next t ∧ OnlyHart h.val u t ∧
          t.hart h.val = (u.hart h.val).loadInto v.toNat r ((List.range n).map (fun i => u.px.sramRead (off + i)))) ∧
        (k = .fetch → v ≠ 1 ∨ va ≠ (s.hart h.val).pc → exec (c k) s = .next u) ∧
        (k = .store → ∃ t, exec (c k) s = .next t ∧ t.chans = u.chans ∧ t.cores = u.cores ∧
          (∀ g, { (t.hart g) with reserved := none } = { (u.hart g) with reserved := none } ∧
            ((t.hart g).reserved = (u.hart g).reserved ∨ (t.hart g).reserved = none)) ∧
          (∀ i, i < n → t.px.sramRead (off + i) = BitVec.ofNat 8 (v.toNat / 256 ^ i)) ∧
          ∀ a, a < off ∨ off + n ≤ a → t.px.sramRead a = u.px.sramRead a) ∧
        (k = .lr → ∃ t, exec (c k) s = .next t ∧ (t.hart h.val).reserved = some (pa / 64) ∧ t.px.sram = u.px.sram) ∧
        (k = .sc → (u.hart h.val).reserved ≠ some (pa / 64) → ∃ t, exec (c k) s = .next t ∧ (t.hart h.val).xr r = (if r = 0 then 0 else 1) ∧
          (t.hart h.val).reserved = none ∧ t.px.sram = u.px.sram) ∧
        (k = .sc → (u.hart h.val).reserved = some (pa / 64) → ∃ t, exec (c k) s = .next t ∧ (t.hart h.val).xr r = 0 ∧
          (t.hart h.val).reserved = none ∧ ∀ i, i < n → t.px.sramRead (off + i) = BitVec.ofNat 8 (v.toNat / 256 ^ i)) ∧
        (isAmo k = true → let old := leVal ((List.range n).map (fun i => u.px.sramRead (off + i)))
          ∃ t, exec (c k) s = .next t ∧ (t.hart h.val).xr r = (if r = 0 then 0 else BitVec.ofInt 64 (toSigned (8 * n) old)) ∧
            ∀ i, i < n → t.px.sramRead (off + i) = BitVec.ofNat 8 (amoVal k (8 * n) old v.toNat / 256 ^ i))) ∧
      (k = .load → pa < 2 ^ 48 → pa % 64 + n ≤ 64 → pa / 64 ∈ u.px.dcache.get h.val → u.dirtyAt (some h.val) (pa / 64) = [] →
        ∃ t, exec (c k) s = .next t ∧ OnlyHart h.val u t ∧ t.hart h.val = (u.hart h.val).loadInto v.toNat r (u.pxBytes pa n))) ∧
    (∀ (u : State) (e : Nat), s.hartReach h.val va n (accOf k) = (u, .error (.cause e)) → (u.hart h.val).mode = 3 → ∃ t, exec (c k) s = .next t ∧
      OnlyHart h.val u t ∧ (t.hart h.val).mcause.toNat = e % 2 ^ 64 ∧ (t.hart h.val).mepc = (u.hart h.val).pc ∧ (t.hart h.val).mtval = va ∧
      (t.hart h.val).pc = (u.hart h.val).mtvec &&& ~~~ 3 ∧ (t.hart h.val).x = (u.hart h.val).x) ∧
    (∀ u : State, s.hartReach h.val va n (accOf k) = (u, .error .wait) → exec (c k) s = .next s) ∧
    (k = .load ∨ k = .store → isService h.val = false → (s.hart h.val).mode = 3 → (s.hart h.val).mprv = false → va.toNat % 4096 + n ≤ 4096 →
      va.toNat < 2 ^ 52 → (s.hart h.val).pmpOk 3 va.toNat n (accOf k) = true → s.tenancyOk h.val va.toNat n (accOf k) = false →
      ∃ t e, exec (c k) s = .next t ∧ (t.hart h.val).mcause = (if k = .store then 7 else 5) ∧ (t.hart h.val).mepc = (s.hart h.val).pc ∧
        t.handed = s.handed ++ [e] ∧ e.cls = 0x06 ∧ e.severity = 0 ∧ t.chans = s.chans ∧ t.cores = s.cores ∧ t.px.sram = s.px.sram) ∧
    (∀ wa : BitVec 64, isAmo k = true → wa.toNat % n ≠ 0 → (s.hart h.val).mode = 3 → ∃ t, exec (.applicationCoreAccess h k size wa r v {}) s = .next t ∧
      (t.hart h.val).mcause = 6 ∧ (t.hart h.val).mtval = wa ∧ t.px.sram = s.px.sram ∧ t.chans = s.chans) ∧
    (∀ (x : BitVec 32) (pa : Nat), let q := s.hart h.val
      let run := exec (.applicationCoreAccess h .fetch size q.pc r 1 {}) s
      s.hartReach h.val q.pc 2 (accOf .fetch) = (s, .ok [(pa, 2)]) → s.hartReach h.val (q.pc + 2) 2 (accOf .fetch) = (s, .ok [(pa + 2, 2)]) →
      pa / 2 ^ 48 = 3 → pa % 2 ^ 48 + 4 ≤ 0xC000000 → s.px.sramErr = [] → q.ienable = 0 →
      (∀ i, i < 4 → s.px.sramRead (pa % 2 ^ 48 + i) = BitVec.ofNat 8 (x.toNat / 256 ^ i)) →
      (∀ (imm : BitVec 12) (a d : BitVec 5), x = imm ++ a ++ (0 : BitVec 3) ++ d ++ (0x13 : BitVec 7) → ∃ t, run = .next t ∧ OnlyHart h.val s t ∧
        t.hart h.val = (q.setX d (q.xr a + imm.signExtend 64)).retiredTo (q.pc + 4)) ∧
      (∀ d : BitVec 5, x = (0xF14 : BitVec 12) ++ (0 : BitVec 5) ++ (2 : BitVec 3) ++ d ++ (0x73 : BitVec 7) → q.mode = 3 → ∃ t, run = .next t ∧
        OnlyHart h.val s t ∧ t.hart h.val = (q.setX d (BitVec.ofNat 64 h.val)).retiredTo (q.pc + 4)) ∧
      (x = 0x73 → q.mode = 3 → ∃ t, run = .next t ∧ OnlyHart h.val s t ∧ (t.hart h.val).mcause = 11 ∧ (t.hart h.val).mepc = q.pc ∧
        (t.hart h.val).pc = q.mtvec &&& ~~~ 3 ∧ (t.hart h.val).x = q.x) ∧
      (x = 0x30200073 → q.mode = 3 → ∃ t, run = .next t ∧ OnlyHart h.val s t ∧ (t.hart h.val).mode = q.mpp ∧ (t.hart h.val).pc = q.mepc ∧
        (t.hart h.val).mie = q.mpie ∧ (t.hart h.val).x = q.x))

/-! ### Supplies, resets, Doldrums and heat (chapters 20 and 24) -/

/-- BOARD_PG rising begins the sequence with the plinth supply and a clear package. When the last power-good of a group arrives, the next
group is enabled, and after the last group power is good. A power-good 3 ms late stops the sequence with every enabled supply on, and is
recorded with severity 4. BOARD_PG falling removes every enabled supply, and so does a lost power-good, which is recorded. -/
def Obligations.SuppliesComeUpInOrder : Prop :=
  (∀ s : State, s.supply.boardPg = false → ∃ t, exec .boardPgRise s = .next t ∧
    t.supply = { s.supply with boardPg := true, enabled := 1, good := 0, group := 1, groupAt := s.t, timedOut := false, ppsOut := false } ∧
    t.cores = [] ∧ t.chans = [] ∧ t.log = {} ∧ t.boot = { flash := s.flashLeft } ∧ t.cpc.lastStart = (if s.cpc.tripped then 3 else 0) ∧ t.cpc.stopped = false) ∧
  (∀ (n : Fin 17) (s : State), s.supply.enabled.getLsbD n.val = true → s.supply.good.getLsbD n.val = false →
    let good := s.supply.good ||| BitVec.ofNat 17 (2 ^ n.val)
    let up := (supplyGroup s.supply.group).all (fun i => good.getLsbD i)
    (s.supply.timedOut = true ∨ up = false → ∃ t, exec (.supplyPowerGood n) s = .next t ∧ t = { s with supply := { s.supply with good := good } }) ∧
    (s.supply.timedOut = false → up = true → s.supply.group = 6 → ∃ t, exec (.supplyPowerGood n) s = .next t ∧
      t = { s with supply := { s.supply with good := good, group := 7 }, clock := { s.clock with started := s.t } }) ∧
    (s.supply.timedOut = false → up = true → 1 ≤ s.supply.group → s.supply.group ≤ 5 → ∃ t, exec (.supplyPowerGood n) s = .next t ∧
      t = { s with supply := t.supply, dies := t.dies } ∧ t.supply = { s.supply with
        good := good, group := s.supply.group + 1, groupAt := s.t, enabled := s.supply.enabled ||| maskOf (supplyGroup (s.supply.group + 1)) } ∧
      (∀ d, (t.dieRate d) = { s.dieRate d with railMv := if s.supply.group = 1 ∧ d < 7 then 800 else (s.dieRate d).railMv }))) ∧
  (∀ s : State, s.supply.timedOut = false → 1 ≤ s.supply.group → s.supply.group ≤ 6 →
    (s.supply.groupAt + 3000000 ≤ s.t → ∃ t r, exec .powerGoodTimeout s = .next t ∧
      t = { s with supply := { s.supply with timedOut := true }, handed := s.handed ++ [r] } ∧ r.cls = 0x08 ∧ r.severity = 4) ∧
    (s.t < s.supply.groupAt + 3000000 → exec .powerGoodTimeout s = .next s)) ∧
  (∀ s : State, s.supply.boardPg = true → ∃ t, exec .boardPgFall s = .next t ∧ t.cpc.stopped = true ∧ t.cores = [] ∧ t.mesh = [] ∧ t.colls = [] ∧
    t.supply = { s.supply with boardPg := false, enabled := 0, good := 0, group := 0, timedOut := false, ppsOut := false }) ∧
  (∀ (n : Fin 17) (s : State), s.supply.boardPg = true → s.supply.enabled.getLsbD n.val = true → s.supply.good.getLsbD n.val = true →
    ∃ t r, exec (.supplyPgLoss n) s = .next t ∧ t.cpc.stopped = true ∧ t.cores = [] ∧ t.mesh = [] ∧ t.colls = [] ∧
      t.supply = { s.supply with enabled := 0, good := 0, group := 0, ppsOut := false } ∧ t.handed = s.handed ++ [r] ∧ r.cls = 0x08 ∧ r.severity = 4)

/-- The reset pin and an image restart clear every register and store of the package but the flash, the error log, the pins and that a
channel has been migrated; last_start names the kind. An image restart first clears admitting on every die and waits. A compute-die reset
is ignored and recorded while a job names a band of the die or a migration runs; otherwise the die is busy and admits nothing, its cores
keep their slices alone, and no core of another die changes. -/
def Obligations.ResetsRestartThePackage : Prop :=
  (∀ s : State, s.supply.boardPg = true → ∃ t, exec .pkgResetAssert s = .next t ∧ t.supply.resetN = false ∧ t.supply.boardPg = true ∧
    t.cpc.lastStart = (if s.cpc.tripped then 3 else 1) ∧ t.cpc.stopped = false ∧ t.cores = [] ∧ s.KeepsMigrated t ∧ t.tens = [] ∧ t.fabrics = [] ∧ t.colls = [] ∧
    t.mesh = [] ∧ t.boot = { flash := s.flashLeft } ∧ t.tap = s.tap ∧ t.handed = s.handed ∧
    t.log.ring = s.log.ring ∧ t.log.unread = s.log.unread ∧ t.log.head = s.log.head ∧
    (s.supply.group = 0 → t.supply.group = 1 ∧ t.supply.enabled = 1 ∧ t.supply.good = 0) ∧
    (s.supply.group ≠ 0 → t.supply = { s.supply with resetN := false, ppsOut := false })) ∧
  (∀ s : State, (s.supply.resetN = false → ∃ t, exec .pkgResetRelease s = .next t ∧ t = { s with supply := { s.supply with resetN := true }, tap := {} }) ∧
    (s.supply.resetN = true → exec .pkgResetRelease s = .next s)) ∧
  (∀ s : State, s.cpc.stopped = false →
    (s.cpc.restarting = true → s.restartReady = true → ∃ t, exec .imageRestart s = .next t ∧ t.cpc.lastStart = 2 ∧ t.cpc.restarting = false ∧
      t.cores = [] ∧ s.KeepsMigrated t ∧ t.tens = [] ∧ t.fabrics = [] ∧ t.boot = { flash := s.boot.flash } ∧ t.log.ring = s.log.ring ∧
      t.log.unread = s.log.unread ∧ t.supply = { s.supply with ppsOut := false }) ∧
    (s.cpc.restarting = true → s.restartReady = false → exec .imageRestart s = .next s) ∧
    (s.cpc.restarting = false → (∀ n, n < 8 → (s.ten n).job.state = 0 ∨ (s.ten n).job.state = 3) → s.restartReady = false →
      ∃ t, exec .imageRestart s = .next t ∧ t.cpc.restarting = true ∧ (∀ d, d < 7 → (t.dieRate d).admitting = false) ∧ t.tens = s.tens ∧ t.cores = s.cores ∧
        (s.twin.mode = 0 → t.outbox = s.outbox))) ∧
  (∀ (d : CDie) (fails : List (CoreId × BitVec 6 × BitVec 16)) (s : State), s.cpc.stopped = false → (s.cdie d.val).busy = false →
    (s.dieNamed d.val = true ∨ (∃ c ∈ s.chans, c.2.state = 3) → ∃ t r, exec (.dieReset d fails) s = .next t ∧
      t = { s with handed := s.handed ++ [r] } ∧ r.cls = 0x0B ∧ r.severity = 0) ∧
    (s.dieNamed d.val = false → (∀ c ∈ s.chans, c.2.state ≠ 3) → s.cpc.dold = 0 → ∃ t, exec (.dieReset d fails) s = .next t ∧
      (t.cdie d.val).busy = true ∧ (t.dieRate d.val).admitting = false ∧ (t.dieRate d.val).breach = false ∧ t.chans = s.chans ∧ t.tens = s.tens ∧
      (∀ e, e ≠ d.val → t.dieRate e = s.dieRate e) ∧
      (∀ c : CoreId, c.die = d → (t.core c).rs = (s.core c).rs ∧ (t.core c).ws = [] ∧ (t.core c).entries = [] ∧ (t.core c).jobValid = false) ∧
      (∀ c : CoreId, c.die ≠ d → t.core c = s.core c)))

/-- A write of enter is ignored and recorded while a job runs, a checkpoint or a migration is on, or the twin syncs; otherwise every die
stops admitting, and once all admitted work has ended the package is in Doldrums: rails down, working stores lost, slices kept. A cause or
the timer wakes it: rails return to the floor voltage. -/
def Obligations.DoldrumsIsEnteredAndLeft : Prop :=
  (∀ s : State, s.cpc.stopped = false → s.cpc.dold = 0 →
    let bad := (∃ n, n < 8 ∧ ((s.ten n).job.running = true ∨ (s.ckpt n).state ≠ 0)) ∨ (∃ c ∈ s.chans, c.2.state = 3) ∨ s.twin.state = 2
    (bad → ∃ t r, exec .enter s = .next t ∧ t = { s with handed := s.handed ++ [r] } ∧ r.cls = 0x0B ∧ r.severity = 0) ∧
    (¬ bad → ∃ t, exec .enter s = .next t ∧ t = { s with cpc := { s.cpc with dold := 1, wakeCause := 0 }, dies := t.dies } ∧
      ∀ d, t.dieRate d = if d < 7 then { s.dieRate d with admitting := false } else s.dieRate d)) ∧
  (∀ s : State, s.cpc.dold = 1 → (∀ d, d < 7 → s.dieIdle d = true) → ∃ t, exec .doldrumsEntryDrained s = .next t ∧
    t.cpc = { s.cpc with dold := 2, enteredAt := s.t } ∧ t.px.sram = [] ∧ t.px.shared = [] ∧ t.px.dcache = [] ∧ t.chans = s.pxFlushAll.chans ∧ t.tens = s.tens ∧
    (∀ c : CoreId, (t.core c).ws = [] ∧ (t.core c).rs = (s.core c).rs ∧ (t.core c).regions = (s.core c).regions) ∧
    (∀ d, t.dieRate d = if d < 4 then { s.dieRate d with railMv := 0, lowSince := none, waitNs := 0 }
      else if d < 7 then { s.dieRate d with waitNs := 0 } else s.dieRate d) ∧
    (∀ h, h < 96 → (s.px.apps.get h).assigned = true → (t.px.apps.get h).held = true)) ∧
  (∀ s : State, s.cpc.dold = 1 → (∃ d, d < 7 ∧ s.dieIdle d = false) → exec .doldrumsEntryDrained s = .next s) ∧
  (∀ (cause : BitVec 4) (s : State), (s.cpc.dold = 2 ∧ cause = 1 ∨ s.cpc.dold = 3) → (∀ d, d < 7 → (s.dieRate d).waitNs = 0) →
    (∃ d, d < 7 ∧ (s.dieRate d).breach = false ∧ (s.dieRate d).floorLoss = false ∧ (s.dieRate d).mustResume = false ∧ (s.dieRate d).heat ≠ 2 ∧ (s.dieRate d).switching = false) →
    ∃ t, exec (.wake cause) s = .next t ∧ t.cpc = { s.cpc with dold := 3, wakeCause := if s.cpc.dold = 2 then 1 else s.cpc.wakeCause } ∧ t.px = s.px ∧ t.chans = s.chans ∧
      (∀ d, d < 4 → (t.dieRate d).railMv.toNat = floorMv s.cpc.active.toNat d) ∧ (∀ c : CoreId, (t.core c).ws = [] ∧ (t.core c).rs = (s.core c).rs)) ∧
  (∀ s : State, s.cpc.dold = 2 → s.cpc.timerMs ≠ 0 →
    (s.cpc.enteredAt + s.cpc.timerMs.toNat * 1000000 ≤ s.t → ∃ t, exec .doldrumsTimer s = .next t ∧ t = { s with cpc := { s.cpc with dold := 3, wakeCause := 5 } }) ∧
    (s.t < s.cpc.enteredAt + s.cpc.timerMs.toNat * 1000000 → exec .doldrumsTimer s = .next s))

/-- A die enters the hot state at 95 degrees, heat-hold at 110, where it stops admitting, and at 120 degrees the package trips: every
supply goes and a record of severity 4 is logged. The peak follows the readings. After 100 us below the exit value a die leaves its state,
and it admits again where nothing else forbids it, a breach without a resume since among the rest. -/
def Obligations.HeatStatesFollowTheReadings : Prop :=
  (∀ (d : Die) (tj pl : Byte) (s : State), s.cpc.stopped = false →
    let v := if d.val < 4 ∧ tj.toNat < pl.toNat then pl else tj
    let peak := if (s.dieRate d.val).tjPeak.toNat < v.toNat then v else (s.dieRate d.val).tjPeak
    (v.toNat < 95 → ∃ t, exec (.thermalSample d tj pl) s = .next t ∧ OnlyDie d.val s t ∧ (t.dieRate d.val).tj = v ∧ (t.dieRate d.val).tjPeak = peak ∧
      (t.dieRate d.val).heat = (s.dieRate d.val).heat ∧ (t.dieRate d.val).admitting = (s.dieRate d.val).admitting) ∧
    (95 ≤ v.toNat → v.toNat < 110 → (s.dieRate d.val).heat = 0 → ∃ t r, exec (.thermalSample d tj pl) s = .next t ∧
      t = { s with dies := t.dies, handed := s.handed ++ [r] } ∧ (∀ e, e ≠ d.val → t.dieRate e = s.dieRate e) ∧ (t.dieRate d.val).heat = 1 ∧
      (t.dieRate d.val).tj = v ∧ (t.dieRate d.val).admitting = (s.dieRate d.val).admitting ∧ r.cls = 0x07 ∧ r.severity = 1) ∧
    (110 ≤ v.toNat → v.toNat < 120 → (s.dieRate d.val).heat ≠ 2 → ∃ t r, exec (.thermalSample d tj pl) s = .next t ∧
      t = { s with dies := t.dies, handed := s.handed ++ [r], px := t.px } ∧ (d.val ≠ 4 → t.px = s.px) ∧ (∀ e, e ≠ d.val → t.dieRate e = s.dieRate e) ∧
      (t.dieRate d.val).heat = 2 ∧ (t.dieRate d.val).admitting = false ∧ r.cls = 0x07 ∧ r.severity = 3) ∧
    (120 ≤ v.toNat → ∃ t l r, exec (.thermalSample d tj pl) s = .next t ∧ t.cpc.stopped = true ∧ t.cpc.tripped = true ∧ t.supply.enabled = 0 ∧ t.cores = [] ∧
      t.handed = s.handed ++ l ++ [r] ∧ r.cls = 0x07 ∧ r.severity = 4 ∧ r.status = stHeatStop)) ∧
  (∀ (d : Die) (s : State), let r := s.dieRate d.val
    (r.heat = 2 → r.hotAt + 100000 ≤ s.t → ∃ t, exec (.thermalStateExit d) s = .next t ∧
      (t.dieRate d.val).heat = (if r.warmAt + 100000 ≤ s.t then 0 else 1) ∧ (∀ e, e ≠ d.val → t.dieRate e = s.dieRate e) ∧ t.cores = s.cores ∧
      (r.mustResume = true → (t.dieRate d.val).admitting = r.admitting) ∧
      (9 ≤ s.boot.phase.toNat → s.cpc.restarting = false →
        r.mustResume = false → r.breach = false → r.floorLoss = false → r.switching = false → s.cpc.stopped = false → s.twin.state ≠ 6 → r.waitNs = 0 → s.cpc.dold = 0 →
        (d.val < 4 → (s.cdie d.val).busy = false) → (t.dieRate d.val).admitting = true)) ∧
    (r.heat = 1 → r.warmAt + 100000 ≤ s.t → ∃ t, exec (.thermalStateExit d) s = .next t ∧ OnlyDie d.val s t ∧ t.dieRate d.val = { r with heat := 0 }) ∧
    (r.heat = 0 ∨ s.t < r.warmAt + 100000 → r.heat ≠ 2 → exec (.thermalStateExit d) s = .next s))

/-! ### Start, recovery and common time (chapters 19 and 21) -/

/-- While power is good and the reset pin is high, a start goes from step to step. A check that fails in steps 1 to 5 leads to recovery
with its code, at that step, with no identity left and nothing else changed; steps 1 to 4 of a good image leave its identity and alias,
step 5 its settings, every die not in heat-hold admitting at its profile and the service cores running, step 6 every core tested, step 7
every channel in service that did not fail, step 8 the package waiting for common time. In recovery the package announces its status once
a second, takes image data in order, and takes a whole image that passes the checks into its flash. An attestation request is answered
with a report in three fragments, or four with the device certificate. -/
def Obligations.StartRecoveryAndAttestation : Prop :=
  (∀ (found : StartFindings) (s : State),
    let img := s.boot.flash
    let chk := imageCheck img
    let p := max 1 s.boot.phase.toNat
    (s.mayStart = false → exec (.startSequence found) s = .next s) ∧
    let failed := fun (t : State) (code : Nat) => t = { s with boot := t.boot } ∧ t.boot.recovery = true ∧ t.boot.flash = img ∧
      t.boot.ready = s.boot.ready ∧ t.boot.aliasSeed = [] ∧ t.boot.failCode = BitVec.ofNat 8 code ∧ t.boot.phase.toNat = p
    (s.mayStart = true →
      (p ≤ 4 → ∃ t, exec (.startSequence found) s = .next t ∧
        if chk.1 ≠ 0 ∧ chk.2 ≤ p then failed t chk.1
        else if p ≤ 3 then t = { s with boot := { s.boot with phase := BitVec.ofNat 4 (p + 1) } }
        else t = { s with boot := t.boot, freeCount := s.freeCount + 1 } ∧ t.boot.phase = 5 ∧ t.boot.recovery = false ∧ t.boot.failCode = 0 ∧ t.boot.flash = img ∧
          t.boot.identity = identityDigest img ∧ t.boot.aliasSeed = aliasSeedOf img ∧ t.boot.version.toNat = fieldAt (manifestOf img) 8 8 % 2 ^ 64) ∧
      (p = 5 → ∃ t, exec (.startSequence found) s = .next t ∧
        if stepFive img ≠ 0 then failed t (stepFive img)
        else t.boot.phase = 6 ∧ t.boot.flash = img ∧ t.boot.keys = imageKeys img ∧
          (∀ d, d < 7 → (t.dieRate d).admitting = ((s.dieRate d).heat != 2) ∧ (t.dieRate d).floorRate.toNat = floorRateOf t.cpc.active.toNat) ∧
          ∀ h, 96 ≤ h → h < 100 → (t.hart h).mode = 3 ∧ (t.hart h).pc.toNat = Config.serviceSram % 2 ^ 64 ∧ t.hartRuns h = true) ∧
      (p = 6 → ∃ t, exec (.startSequence found) s = .next t ∧ t.boot = { s.boot with phase := 7 } ∧ t.chans = s.chans ∧
        (found.failedCores = [] → (∀ d, d < 4 → (s.cdie d).remaps = []) → ∀ c : CoreId, (t.core c).selfDone = true)) ∧
      (p = 7 → found.failedChans = [] → ∃ t, exec (.startSequence found) s = .next t ∧ t = { s with chans := t.chans, boot := { s.boot with phase := 8 } } ∧
        ∀ ch, ch < 20 → t.chan ch = if (s.chan ch).state = 4 then s.chan ch else { s.chan ch with state := 1 }) ∧
      (p = 8 → ∃ t, exec (.startSequence found) s = .next t ∧ t.boot.phase = 9 ∧ t.boot.waitFrom = s.t ∧ t.boot.nvme = found.nvme))) ∧
  (∀ s : State, s.boot.recovery = true → s.cpc.stopped = false →
    (s.boot.announced = none ∨ (∃ x, s.boot.announced = some x ∧ x + 1000000000 ≤ s.t) → ∃ t ca, exec .announce s = .next t ∧
      t = { s with boot := { s.boot with announced := some s.t }, outbox := s.outbox ++ [.startProto none ca (startFrame 1 0 1 0 (beBytes 8 s.startStatus))] } ∧
      ca.dstMac = 0xFFFFFFFFFFFF ∧ ca.srcMac = 0x025A51820000 ∧ ca.etherType = 0x88B7) ∧
    (∀ (off : BitVec 64) (data : List Byte),
      (off.toNat = s.boot.received.length → data.length ≤ 4096 → ∃ t ca, exec (.imageData off data) s = .next t ∧
        t = { s with boot := { s.boot with received := s.boot.received ++ data }, freeCount := s.freeCount + 1
                     outbox := s.outbox ++ [.startProto none ca (startFrame 3 0 1 (s.boot.received.length + data.length) [])] } ∧
        ca.srcMac = 0x025A51820000 ∧ ca.etherType = 0x88B7) ∧
      (off.toNat ≠ s.boot.received.length → ∃ t ca, exec (.imageData off data) s = .next t ∧
        t = { s with outbox := s.outbox ++ [.startProto none ca (startFrame 3 0 1 s.boot.received.length [])], freeCount := s.freeCount + 1 } ∧
        ca.srcMac = 0x025A51820000 ∧ ca.etherType = 0x88B7)) ∧
    (∀ len : BitVec 64, ∃ t, exec (.imageEnd len) s = .next t ∧ t = { s with boot := t.boot } ∧ t.boot.received = [] ∧
      if (imageCheck s.boot.received).1 = 0 then t.boot.flash = s.boot.received ∧ t.boot.recovery = false ∧ t.boot.failCode = 0 ∧ t.boot.phase = 1
      else t.boot.flash = s.boot.flash ∧ t.boot.recovery = true ∧ t.boot.failCode = BitVec.ofNat 8 (imageCheck s.boot.received).1)) ∧
  (∀ (nonce : List Byte) (dev : Bool) (s : State),
    (s.attests = true → s.boot.recovery = false → ∃ t ca, exec (.attestationRequest none nonce dev) s = .next t ∧
      let r := (s.report nonce dev).1
      let n := if dev then 4 else 3
      r.length = (if dev then 14301 else 8909) ∧ ca.etherType = (s.fab 0).ethertype + 2 ∧
      t = { s with freeCount := s.freeCount + 1, outbox := s.outbox ++ (List.range n).map (fun i =>
        .startProto none ca (startFrame 6 (BitVec.ofNat 8 i) (BitVec.ofNat 8 n) (3968 * i) (slice r (3968 * i) 3968))) }) ∧
    (s.attests = false → exec (.attestationRequest none nonce dev) s = .next s))

/-- The first lock steps common time and makes the package ready; a later one leaves common time where it is. A wait of 30 s for the lock
is recorded. An offset is kept, slewed and, above 100 us, counted and recorded. Leaving slave state begins holdover. PPS_OUT rises at a
whole second and falls 100 ms later, once time has locked. -/
def Obligations.CommonTimeIsKept : Prop :=
  (∀ (x : BitVec 64) (sp : BitVec 2) (ss : BitVec 6) (s : State),
    (s.ptpPort sp ss = true → s.clock.locked = false → s.boot.ready = false → ∃ t, exec (.ptpLock x sp ss) s = .next t ∧
      t = { s with clock := t.clock, boot := { s.boot with phase := 10, ready := true } } ∧ t.clock.now = x ∧ t.clock.locked = true ∧ t.clock.holdover = false ∧
      t.clock.everLocked = true ∧ t.clock.selPlane = sp ∧ t.clock.selSub = ss ∧ t.clock.lockLoss = s.clock.lockLoss) ∧
    (s.ptpPort sp ss = true → s.clock.locked = false → s.boot.ready = true → ∃ t, exec (.ptpLock x sp ss) s = .next t ∧
      t = { s with clock := { s.clock with locked := true, holdover := false, selPlane := sp, selSub := ss } })) ∧
  (∀ s : State, s.boot.phase = 9 → s.boot.timeWait = false →
    (s.boot.waitFrom + 30000000000 ≤ s.t → ∃ t r, exec .timeWaitExpiry s = .next t ∧
      t = { s with boot := { s.boot with timeWait := true }, handed := s.handed ++ [r] } ∧ r.cls = 0x05 ∧ r.severity = 3) ∧
    (s.t < s.boot.waitFrom + 30000000000 → exec .timeWaitExpiry s = .next s)) ∧
  (∀ (o : BitVec 64) (sp : BitVec 2) (ss : BitVec 6) (s : State), s.ptpPort sp ss = true → s.clock.everLocked = true →
    ∃ t, exec (.ptpMessage o sp ss) s = .next t ∧ t = { s with clock := t.clock, freeCount := t.freeCount, handed := t.handed } ∧
      t.clock.now = s.clock.now ∧ t.clock.offset.toInt = max (-(2 ^ 31 - 1)) (min (2 ^ 31 - 1) o.toInt) ∧
      (t.clock.locked = true ↔ o.toInt.natAbs ≤ 100) ∧ t.clock.holdover = false ∧ t.clock.selPlane = sp ∧ t.clock.selSub = ss ∧
      (o.toInt.natAbs ≤ 100000 → t.handed = s.handed ∧ t.clock.slewAlarm = s.clock.slewAlarm) ∧
      (100000 < o.toInt.natAbs → t.clock.slewAlarm = satInc s.clock.slewAlarm ∧ ∃ r, t.handed = s.handed ++ [r] ∧ r.cls = 0x05 ∧ r.severity = 3)) ∧
  (∀ s : State, s.clock.selPlane ≠ 3 → ∃ t, exec .holdoverEnter s = .next t ∧
    t = { s with clock := { s.clock with locked := false, holdover := true, lockLoss := satInc s.clock.lockLoss, selPlane := 3, selSub := 0 } }) ∧
  (∀ s : State,
    (s.clock.ppsEnd = none → s.clock.everLocked = true → s.cpc.stopped = false → s.t % 1000000000 ≤ 5 → ∃ t, exec .ppsOut s = .next t ∧
      t = { s with supply := { s.supply with ppsOut := true }, clock := { s.clock with ppsEnd := some (s.t + 100000000) } }) ∧
    (s.clock.ppsEnd = none → s.clock.everLocked = false → exec .ppsOut s = .next s) ∧
    (∀ e, s.clock.ppsEnd = some e → e ≤ s.t → ∃ t, exec .ppsOut s = .next t ∧
      t = { s with supply := { s.supply with ppsOut := false }, clock := { s.clock with ppsEnd := none } }))

/-! ### Errors, registers, test access (chapters 17, 22 to 24) -/

/-- The oldest record on its way is appended at the log's end and raises source 37, or is dropped and counted: of severity 0 or 1 from
3,840 unread records on, any other from 4,096. A pop consumes the record at head, and with none unread does nothing; but for a record of
severity 1, or a lowering of the profile that is due, it does no more. From step 9 of a start on, node firmware forwards an unread record
of severity 2 to 4 once, on the management port, to the host of the tenancy whose job it names, or to every configured host where no
tenancy holds its job; with nothing due, nothing is sent. An acknowledgement releases its frame, and no record leaves the log by either. -/
def Obligations.ErrorLogKeepsItsOrderAndIsForwarded : Prop :=
  (
    (∀ (s : State) (r : ErrRec) (rest : List ErrRec), s.handed = r :: rest →
      (r.severity.toNat < 2 → 3840 ≤ s.log.unread → ∃ t, exec .errorRecordAppend s = .next t ∧
        t = { s with handed := rest, log := { s.log with droppedLow := satInc s.log.droppedLow } }) ∧
      (2 ≤ r.severity.toNat → 4096 ≤ s.log.unread → ∃ t, exec .errorRecordAppend s = .next t ∧
        t = { s with handed := rest, log := { s.log with droppedHigh := satInc s.log.droppedHigh } }) ∧
      (s.log.unread < (if r.severity.toNat < 2 then 3840 else 4096) → ∃ t, exec .errorRecordAppend s = .next t ∧
        t = { s with handed := rest, signals := s.signals ++ [37], log := t.log } ∧ t.log.unread = s.log.unread + 1 ∧ t.log.head = s.log.head ∧
        t.log.droppedLow = s.log.droppedLow ∧ t.log.droppedHigh = s.log.droppedHigh ∧ t.log.ring.get ((s.log.head + s.log.unread) % 4096) = r ∧
        ∀ i, i ≠ (s.log.head + s.log.unread) % 4096 → t.log.ring.get i = s.log.ring.get i)) ∧
    (∀ s : State, s.handed = [] → exec .errorRecordAppend s = .next s) ∧
    (∀ s : State, (s.log.unread = 0 → exec .pop s = .next s) ∧
      (s.log.unread ≠ 0 → ∃ t, exec .pop s = .next t ∧ t.log.unread = s.log.unread - 1 ∧ t.log.head = (s.log.head + 1) % 4096 ∧ t.log.ring = s.log.ring ∧
        t.log.droppedLow = s.log.droppedLow ∧ t.log.droppedHigh = s.log.droppedHigh ∧ t.signals = s.signals ∧
        ((s.log.ring.get s.log.head).severity ≠ 1 → s.cpc.lowerDue = false → t = { s with log := t.log })))) ∧ (
    (∀ (tn : Fin 8) (s : State), let r := s.log.ring.get ((s.log.head + s.log.fwdAt) % 4096)
      s.cpc.stopped = false → 9 ≤ s.boot.phase.toNat → s.log.fwdLow = false → (s.ten tn.val).queues ≠ 0 → (∀ u, u < 8 → u ≠ tn.val → (s.ten u).queues = 0) →
      (s.log.fwdAt + 1 = s.log.unread → 2 ≤ r.severity.toNat → (s.recTen r = some tn.val ∨ s.recTen r = none) →
        ∃ t f, exec .logForward s = .next t ∧ t = { s with log := t.log, outbox := s.outbox ++ [.mgmt (s.mgmtCarriage tn.val f.pathId) f] } ∧
          f.type = 0xA ∧ f.dstRank = BitVec.ofNat 16 (0xFFF0 + tn.val) ∧
          f.payload = [0x22, if s.recTen r = none then 0xFF else BitVec.ofNat 8 tn.val, 1, 0, 0, 0, 0, 0] ++ r.bytes ∧
          t.log.fwdAt = s.log.unread ∧ t.log.unread = s.log.unread ∧ t.log.ring = s.log.ring ∧ t.log.head = s.log.head ∧
          t.log.fwdSeq.get tn.val = s.log.fwdSeq.get tn.val + 1 ∧ ∃ g, t.log.fwdOut = s.log.fwdOut ++ [g] ∧ g.seq = s.log.fwdSeq.get tn.val ∧ g.frame = f) ∧
      (s.log.unread ≤ s.log.fwdAt → ∃ t, exec .logForward s = .next t ∧ t = { s with log := t.log } ∧ t.log.fwdOut = s.log.fwdOut ∧ t.log.unread = s.log.unread ∧
        t.log.ring = s.log.ring)) ∧
    (∀ (a : MgmtAck) (s : State), ∃ t, exec (.logForwardAck a) s = .next t ∧ t = { s with log := { s.log with fwdOut := t.log.fwdOut } } ∧
      ∀ f, f ∈ t.log.fwdOut ↔ f ∈ s.log.fwdOut ∧ ¬ (f.frame.tag = a.tag ∧ f.seq = a.seq ∧ f.frame.origin = a.origin)))

/-- An aligned 8-byte store of a service core writes the register at its address: NUM_SEED of a core takes the value while no job is valid
there, a hole and a read-only register stay, a count field written with all ones reads 0. A store of another size or alignment, or outside
every extent, or one that physical memory protection forbids, traps with a store access fault; one outside every extent is recorded. A
remap entry that is valid and new takes effect once no job names the band: a column in use moves to a free one and becomes faulty; with
none free the core is retired and the entry refused. -/
def Obligations.RegisterWritesAndRemaps : Prop :=
  (∀ (k : Fin 4) (a : BitVec 48) (v : Reg) (s : State), s.hartRuns (96 + k.val) = true → a.toNat % 8 = 0 →
    s.pcsMayStore (96 + k.val) a.toNat 8 = true →
    (∀ c, pcsBlock a.toNat = .core c 0x400 → s.cpc.dold = 0 → ∃ t, exec (.registerWrite k a 3 v) s = .next t ∧ OnlyCore c s t ∧
      t.core c = { s.core c with seed := if (s.core c).jobValid then (s.core c).seed else v }) ∧
    (∀ c o, pcsBlock a.toNat = .core c o → s.cpc.dold = 2 ∨ s.cpc.dold = 3 → exec (.registerWrite k a 3 v) s = .next s) ∧
    (pcsBlock a.toNat = .hole → exec (.registerWrite k a 3 v) s = .next s) ∧
    (pcsBlock a.toNat = .identity 0x308 → ∃ t, exec (.registerWrite k a 3 v) s = .next t ∧ t = { s with clock := t.clock } ∧
      t.clock.lockLoss = (if v.toNat % 2 ^ 32 = 0xFFFFFFFF then 0 else s.clock.lockLoss) ∧
      t.clock.slewAlarm = (if v.toNat / 2 ^ 32 = 0xFFFFFFFF then 0 else s.clock.slewAlarm) ∧ t.clock.now = s.clock.now)) ∧
  (∀ (k : Fin 4) (a : BitVec 48) (size : Fin 4) (v : Reg) (s : State), s.hartRuns (96 + k.val) = true →
    (s.pcsMayStore (96 + k.val) a.toNat (2 ^ size.val) = false → exec (.registerWrite k a size v) s =
      .next (s.hartTrap (96 + k.val) 7 (BitVec.ofNat 64 (8 * 2 ^ 48 + a.toNat)))) ∧ (s.pcsMayStore (96 + k.val) a.toNat (2 ^ size.val) = true →
    (pcsBlock a.toNat = .outside → ∃ t r, exec (.registerWrite k a size v) s = .next t ∧ (t.hart (96 + k.val)).mcause = 7 ∧
      (t.hart (96 + k.val)).mepc = (s.hart (96 + k.val)).pc ∧ t.handed = s.handed ++ [r] ∧ r.cls = 0x0B ∧ r.severity = 0 ∧ r.address.toNat = a.toNat) ∧
    (pcsBlock a.toNat ≠ .outside → size ≠ 3 ∨ a.toNat % 8 ≠ 0 → ∃ t, exec (.registerWrite k a size v) s = .next t ∧ OnlyHart (96 + k.val) s t ∧
      (t.hart (96 + k.val)).mcause = 7 ∧ (t.hart (96 + k.val)).mepc = (s.hart (96 + k.val)).pc))) ∧
  (∀ (d : CDie) (n : Fin 256) (ups : List (CoreId × Upset)) (s : State), let e := (s.cdie d.val).remaps.get n.val
    (e.valid = false ∨ e.applied = true ∨ e.refused = true → exec (.remapApply d n ups) s = .next s) ∧
    (∀ c b, e.valid = true → e.applied = false → e.refused = false → remapCore d e = some c → s.bandOf c = some b → s.bandBusy b = true →
      exec (.remapApply d n ups) s = .next s) ∧
    (∀ c, e.valid = true → e.applied = false → e.refused = false → remapCore d e = some c → (∀ b, s.bandOf c = some b → s.bandBusy b = false) →
      let m := s.masks c
      (bitAt m.1 m.2.2.2 = false → ∃ t, exec (.remapApply d n []) s = .next t ∧ ((t.cdie d.val).remaps.get n.val).applied = true ∧
        t.masks c = (m.1, m.2.1 ||| 2 ^ m.2.2.2, m.2.2.1, m.2.2.2) ∧ t.cores = s.cores) ∧
      (∀ sp, bitAt m.1 m.2.2.2 = true → spareCol m.1 m.2.1 m.2.2.1 m.2.2.2 = some sp → ∃ t, exec (.remapApply d n []) s = .next t ∧
        ((t.cdie d.val).remaps.get n.val).applied = true ∧ bitAt (t.masks c).1 sp = true ∧ bitAt (t.masks c).1 m.2.2.2 = false ∧
        bitAt (t.masks c).2.1 m.2.2.2 = true) ∧
      (bitAt m.1 m.2.2.2 = true → spareCol m.1 m.2.1 m.2.2.1 m.2.2.2 = none → ∃ t, exec (.remapApply d n []) s = .next t ∧
        ((t.cdie d.val).remaps.get n.val).refused = true ∧ c ∈ t.pkg.retired ∧ t.masks c = m ∧ t.cores = s.cores)))

/-- BYPASS, IDCODE and SAMPLE/PRELOAD leave the pins to the package. EXTEST and its AC forms, CLAMP and HIGHZ drive or float the pins only
while the reset pin is low, and act as BYPASS at any other time. Nothing inside the package changes. The I3C target keeps the offset of a
private write, and a private read answers the register of the identity block there, 0 from 0x1000 on. SETDASA to its static address and
ENTDAA give it a dynamic address it has not, RSTDAA takes it away, GETPID answers its id, GETSTATUS its status. It writes nothing else in
the package. -/
def Obligations.TestAccessPortAndI3cTarget : Prop :=
  (
    ∀ (s : State) (cells : List Bool),
      (∃ t, exec .bypass s = .next t ∧ t = { s with tap := t.tap } ∧ t.tap.instr = .bypass ∧ t.tap.pins = none ∧ t.tap.floating = false) ∧
      (∃ t, exec .idcode s = .next t ∧ t = { s with tap := t.tap } ∧ t.tap.instr = .idcode ∧ t.tap.id = some 0x1082056B ∧ t.tap.pins = none ∧ t.tap.floating = false) ∧
      (∃ t, exec (.samplePreload cells) s = .next t ∧ t = { s with tap := t.tap } ∧ t.tap.cells = cells ∧ t.tap.pins = none ∧ t.tap.floating = false) ∧
      (∀ x ∈ [(Instr.extest cells, TapInstr.extest, cells), (.extestPulse cells, .extestPulse, cells), (.extestTrain cells, .extestTrain, cells),
          (.clamp, .clamp, s.tap.cells)],
        ∃ t, exec x.1 s = .next t ∧ t = { s with tap := t.tap } ∧ t.tap.floating = false ∧
          (s.supply.resetN = false → t.tap.instr = x.2.1 ∧ t.tap.pins = some x.2.2) ∧ (s.supply.resetN = true → t.tap.instr = .bypass ∧ t.tap.pins = none)) ∧
      (∃ t, exec .highz s = .next t ∧ t = { s with tap := t.tap } ∧ (s.supply.resetN = false → t.tap.instr = .highz ∧ t.tap.floating = true) ∧
        (s.supply.resetN = true → t.tap.instr = .bypass ∧ t.tap.pins = none ∧ t.tap.floating = false))) ∧ (
    ∀ s : State, s.cpc.stopped = false →
      (∀ off, ∃ t, exec (.i3cPrivateWrite off) s = .next t ∧ t = { s with i3c := { s.i3c with offset := off } }) ∧
      (∃ t, exec .i3cPrivateRead s = .next t ∧ t = { s with i3c := { s.i3c with answer := t.i3c.answer } } ∧
        t.i3c.answer = if s.i3c.offset.toNat < 0x1000 then BitVec.ofNat 64 (s.identityReg s.i3c.offset.toNat) else 0) ∧
      (∀ stat dyn, (stat = Config.i3cStatic → s.i3c.dynamic = none → ∃ t, exec (.setdasa stat dyn) s = .next t ∧
          t = { s with i3c := { s.i3c with dynamic := some dyn } }) ∧
        (stat ≠ Config.i3cStatic ∨ s.i3c.dynamic ≠ none → exec (.setdasa stat dyn) s = .next s)) ∧
      (∀ dyn, (s.i3c.dynamic = none → ∃ t, exec (.entdaa dyn) s = .next t ∧ t = { s with i3c := { s.i3c with dynamic := some dyn, answer := Config.i3cPid.setWidth 64 } }) ∧
        (s.i3c.dynamic ≠ none → exec (.entdaa dyn) s = .next s)) ∧
      (∃ t, exec .rstdaa s = .next t ∧ t = { s with i3c := { s.i3c with dynamic := none } }) ∧
      (∃ t, exec .getstatus s = .next t ∧ t = { s with i3c := t.i3c, freeCount := s.freeCount + 1 } ∧ t.i3c = { s.i3c with answer := (Config.i3cStatus s.freeCount).setWidth 64 }) ∧
      (∃ t, exec .getpid s = .next t ∧ t = { s with i3c := { s.i3c with answer := Config.i3cPid.setWidth 64 } }))

/-! ### The whole machine -/

/-- After reset every memory is in its canonical form, the error log and every queue are empty, and registers hold the values the spec
gives them: no job, no die admitting, no port up, `rate_min` and `sel_plane` at their highest, every bank powered, no group owned. -/
def Obligations.ResetLeavesRegistersAtTheirValues : Prop :=
  let s := State.reset
  s.memoriesOk ∧ s.logOk ∧ s.pending = [] ∧ s.handed = [] ∧ s.outbox = [] ∧ s.log.unread = 0 ∧ s.boot.phase = 0 ∧ s.boot.ready = false ∧
    s.clock.locked = false ∧ s.clock.selPlane = 3 ∧ s.cpc.dold = 0 ∧ s.twin.state = 0 ∧ s.twin.mode = 0 ∧
    (∀ c : CoreId, (s.core c).rateMin = 0xFFFF ∧ (s.core c).rateNow = 0 ∧ (s.core c).enable = false ∧ (s.core c).jobValid = false ∧ (s.core c).bankOn = 0x3F ∧
      (s.core c).dropped = 0 ∧ (s.core c).order = [] ∧ ∀ i, ((s.core c).entry i).code = .free) ∧
    (∀ d, (s.dieRate d).admitting = false ∧ (s.dieRate d).breach = false ∧ (s.dieRate d).floorLoss = false ∧ (s.dieRate d).heat = 0) ∧
    (∀ ch, (s.chan ch).state = 0 ∧ (s.chan ch).mem = [] ∧ (s.chan ch).corrected = 0) ∧
    (∀ n, (s.ten n).job.state = 0 ∧ (s.ten n).cmds = [] ∧ (s.ckpt n).state = 0) ∧
    (∀ g, (s.ec.groups.get g).owner = 15 ∧ (s.ec.groups.get g).interval = 0 ∧ s.ec.pending.get g = 0)

/-- Every step keeps every memory in its canonical form: addresses strictly rising, and no byte listed that an unlisted address reads. -/
def Obligations.EveryStepKeepsMemoriesCanonical : Prop :=
  ∀ s t : State, s.memoriesOk → step s = .next t → t.memoriesOk

/-- Every step keeps the error log within its 4,096 records, and its head on one of its places. -/
def Obligations.EveryStepKeepsTheErrorLogInBounds : Prop :=
  ∀ s t : State, s.logOk → step s = .next t → t.logOk
end

