-- ==== Sys2Proof/Laws/Table.lean ====
section
/-! SUPPORT. Reading after writing a sparse table or a byte memory, and the canonical form that every operation on
them keeps. -/

namespace Sys2Proof.Machine

section Tab
variable {α : Type} [Inhabited α] [DecidableEq α]

omit [DecidableEq α] in
@[simp] theorem Tab.get_nil (k : Nat) : Tab.get ([] : Tab α) k = default := rfl

omit [DecidableEq α] in
theorem Tab.get_cons (e : Nat × α) (r : Tab α) (k : Nat) :
    Tab.get (e :: r) k = if e.1 = k then e.2 else Tab.get r k := rfl

omit [Inhabited α] [DecidableEq α] in
theorem Tab.erase_cons (e : Nat × α) (r : Tab α) (k : Nat) :
    Tab.erase (e :: r) k = if e.1 = k then Tab.erase r k else e :: Tab.erase r k := by
  by_cases h : e.1 = k <;> simp [Tab.erase, h]

omit [DecidableEq α] in
theorem Tab.get_erase_same (t : Tab α) (k : Nat) : Tab.get (Tab.erase t k) k = default := by
  induction t with
  | nil => rfl
  | cons e r ih =>
    rw [Tab.erase_cons]
    split
    · exact ih
    · rename_i h
      simp [Tab.get_cons, h, ih]

omit [DecidableEq α] in
theorem Tab.get_erase_other (t : Tab α) {j k : Nat} (h : j ≠ k) : Tab.get (Tab.erase t k) j = Tab.get t j := by
  induction t with
  | nil => rfl
  | cons e r ih =>
    rw [Tab.erase_cons]
    split
    · rename_i he
      rw [ih, Tab.get_cons, if_neg (fun hj => h (hj.symm.trans he))]
    · simp [Tab.get_cons, ih]

omit [DecidableEq α] in
theorem Tab.get_ins_same (t : Tab α) (k : Nat) (v : α) : Tab.get (Tab.ins k v t) k = v := by
  induction t with
  | nil => simp [Tab.ins, Tab.get_cons]
  | cons e r ih =>
    by_cases h : e.1 < k
    · simp [Tab.ins, h, Tab.get_cons, Nat.ne_of_lt h, ih]
    · simp [Tab.ins, h, Tab.get_cons]

omit [DecidableEq α] in
theorem Tab.get_ins_other (t : Tab α) {j k : Nat} (v : α) (h : j ≠ k) : Tab.get (Tab.ins k v t) j = Tab.get t j := by
  induction t with
  | nil => simp [Tab.ins, Tab.get_cons, h.symm]
  | cons e r ih =>
    by_cases hk : e.1 < k
    · simp [Tab.ins, hk, Tab.get_cons, ih]
    · simp [Tab.ins, hk, Tab.get_cons, h.symm]

/-- Reading the key just written gives what was written. -/
@[simp] theorem Tab.get_set_same (t : Tab α) (k : Nat) (v : α) : Tab.get (Tab.set t k v) k = v := by
  unfold Tab.set
  split
  · rename_i h
    rw [Tab.get_erase_same, h]
  · exact Tab.get_ins_same _ _ _

/-- Writing one key leaves every other as it was. -/
theorem Tab.get_set_other (t : Tab α) {j k : Nat} (v : α) (h : j ≠ k) : Tab.get (Tab.set t k v) j = Tab.get t j := by
  unfold Tab.set
  split
  · exact Tab.get_erase_other t h
  · rw [Tab.get_ins_other _ v h, Tab.get_erase_other t h]

theorem Tab.get_set (t : Tab α) (j k : Nat) (v : α) : Tab.get (Tab.set t k v) j = if j = k then v else Tab.get t j := by
  split
  · subst_vars
    exact Tab.get_set_same _ _ _
  · rename_i h
    exact Tab.get_set_other _ _ h

theorem Tab.get_upd (t : Tab α) (j k : Nat) (f : α → α) :
    Tab.get (Tab.upd t k f) j = if j = k then f (Tab.get t k) else Tab.get t j := Tab.get_set _ _ _ _

/-! ### The canonical form -/

theorem Tab.wf_iff (t : Tab α) : Tab.wf t = true ↔ t.Pairwise (fun a b => a.1 < b.1) ∧ ∀ e ∈ t, e.2 ≠ default := by
  simp [Tab.wf]

@[simp] theorem Tab.wf_nil : Tab.wf ([] : Tab α) = true := by simp [Tab.wf_iff]

/-- Every part of a table in canonical form is in canonical form. -/
theorem Tab.wf_filter {t : Tab α} (h : Tab.wf t = true) (p : Nat × α → Bool) : Tab.wf (t.filter p) = true := by
  rw [Tab.wf_iff] at *
  exact ⟨h.1.sublist List.filter_sublist, fun e he => h.2 e (List.mem_of_mem_filter he)⟩

omit [Inhabited α] [DecidableEq α] in
theorem Tab.mem_ins {t : Tab α} {k : Nat} {v : α} {e : Nat × α} (h : e ∈ Tab.ins k v t) : e = (k, v) ∨ e ∈ t := by
  induction t with
  | nil => simpa [Tab.ins] using h
  | cons a r ih =>
    by_cases hk : a.1 < k
    · simp only [Tab.ins, hk, if_true, List.mem_cons] at h
      rcases h with h | h
      · exact .inr (by simp [h])
      · rcases ih h with h | h
        · exact .inl h
        · exact .inr (by simp [h])
    · simp only [Tab.ins, hk, if_false, List.mem_cons] at h
      rcases h with h | h | h
      · exact .inl h
      · exact .inr (by simp [h])
      · exact .inr (by simp [h])

theorem Tab.wf_ins {t : Tab α} (k : Nat) {v : α} (h : Tab.wf t = true) (hv : v ≠ default) (hk : ∀ e ∈ t, e.1 ≠ k) :
    Tab.wf (Tab.ins k v t) = true := by
  induction t with
  | nil => simp [Tab.ins, Tab.wf_iff, hv]
  | cons a r ih =>
    rw [Tab.wf_iff] at h
    obtain ⟨hp, hd⟩ := h
    rw [List.pairwise_cons] at hp
    have hr : Tab.wf r = true := (Tab.wf_iff r).2 ⟨hp.2, fun e he => hd e (List.mem_cons_of_mem _ he)⟩
    have hkr : ∀ e ∈ r, e.1 ≠ k := fun e he => hk e (List.mem_cons_of_mem _ he)
    by_cases hak : a.1 < k
    · have ih := ih hr hkr
      rw [Tab.wf_iff] at ih
      simp only [Tab.ins, hak, if_true, Tab.wf_iff, List.pairwise_cons]
      refine ⟨⟨fun e he => ?_, ih.1⟩, fun e he => ?_⟩
      · rcases Tab.mem_ins he with h | h
        · rw [h]; exact hak
        · exact hp.1 e h
      · rcases List.mem_cons.1 he with h | h
        · rw [h]; exact hd a (by simp)
        · exact ih.2 e h
    · have hka : k < a.1 := lt_of_le_of_ne (not_lt.1 hak) (Ne.symm (hk a (by simp)))
      simp only [Tab.ins, hak, if_false, Tab.wf_iff, List.pairwise_cons]
      refine ⟨⟨fun e he => ?_, hp⟩, fun e he => ?_⟩
      · rcases List.mem_cons.1 he with h | h
        · rw [h]; exact hka
        · exact lt_trans hka (hp.1 e h)
      · rcases List.mem_cons.1 he with h | h
        · rw [h]; exact hv
        · exact hd e h

omit [Inhabited α] [DecidableEq α] in
theorem Tab.key_erase {t : Tab α} {k : Nat} : ∀ e ∈ Tab.erase t k, e.1 ≠ k := by
  intro e he
  simpa using (List.mem_filter.1 he).2

/-- A write keeps the canonical form. -/
theorem Tab.wf_set {t : Tab α} (h : Tab.wf t = true) (k : Nat) (v : α) : Tab.wf (Tab.set t k v) = true := by
  unfold Tab.set
  split
  · exact Tab.wf_filter h _
  · rename_i hv
    exact Tab.wf_ins k (Tab.wf_filter h _) hv Tab.key_erase

theorem Tab.wf_upd {t : Tab α} (h : Tab.wf t = true) (k : Nat) (f : α → α) : Tab.wf (Tab.upd t k f) = true := Tab.wf_set h k _

/-- What a table holds after a write: the value written, or an entry that stood before. -/
theorem Tab.mem_set {t : Tab α} {k : Nat} {v : α} {e : Nat × α} (h : e ∈ Tab.set t k v) : e = (k, v) ∨ e ∈ t := by
  unfold Tab.set at h
  split at h
  · exact .inr (List.mem_of_mem_filter h)
  · rcases Tab.mem_ins h with h | h
    · exact .inl h
    · exact .inr (List.mem_of_mem_filter h)

omit [DecidableEq α] in
/-- What a table answers is its default or one of its entries. -/
theorem Tab.get_mem (t : Tab α) (k : Nat) : Tab.get t k = default ∨ (k, Tab.get t k) ∈ t := by
  induction t with
  | nil => exact .inl rfl
  | cons e r ih =>
    rw [Tab.get_cons]
    split
    · rename_i h
      exact .inr (by simp [← h])
    · rcases ih with h | h
      · exact .inl h
      · exact .inr (List.mem_cons_of_mem _ h)

omit [DecidableEq α] in
/-- A property of the default and of every entry holds of whatever the table answers. -/
theorem Tab.get_of_all {P : α → Prop} (t : Tab α) (hd : P default) (h : ∀ e ∈ t, P e.2) (k : Nat) : P (Tab.get t k) := by
  rcases Tab.get_mem t k with e | e
  · rw [e]; exact hd
  · exact h _ e

/-- A property of every entry is kept by writing a value that has it. -/
theorem Tab.all_set {P : α → Prop} {t : Tab α} (h : ∀ e ∈ t, P e.2) (k : Nat) {v : α} (hv : P v) :
    ∀ e ∈ Tab.set t k v, P e.2 := by
  intro e he
  rcases Tab.mem_set he with h' | h'
  · rw [h']; exact hv
  · exact h e h'

end Tab

/-! ### Memories -/

/-- A byte read after it was written is the byte written. -/
@[simp] theorem Mem.read_write_same (m : Mem) (a : Nat) (b : Byte) : (m.write a b).read a = b := Tab.get_set_same m a b

/-- A write leaves every other byte as it was. -/
theorem Mem.read_write_other (m : Mem) {a a' : Nat} (b : Byte) (h : a' ≠ a) : (m.write a b).read a' = m.read a' :=
  Tab.get_set_other m b h

theorem Mem.read_writeN_other (m : Mem) (a : Nat) (bs : List Byte) (a' : Nat) (h : a' < a ∨ a + bs.length ≤ a') :
    (m.writeN a bs).read a' = m.read a' := by
  induction bs generalizing m a with
  | nil => rfl
  | cons b r ih =>
    simp only [List.length_cons] at h
    rw [Mem.writeN, ih _ _ (by omega), Mem.read_write_other _ _ (by omega)]

theorem Mem.read_writeN_at (m : Mem) (a : Nat) (bs : List Byte) (i : Nat) (h : i < bs.length) :
    (m.writeN a bs).read (a + i) = bs[i] := by
  induction bs generalizing m a i with
  | nil => simp at h
  | cons b r ih =>
    cases i with
    | zero =>
      rw [Mem.writeN, Mem.read_writeN_other _ _ _ _ (by omega)]
      simp
    | succ i =>
      have := ih (m.write a b) (a + 1) i (by simpa using h)
      rw [Mem.writeN, show a + (i + 1) = a + 1 + i by omega, this]
      simp

theorem Mem.write_wf {m : Mem} (h : Memory.wf m = true) (a : Nat) (b : Byte) : Memory.wf (m.write a b) = true := Tab.wf_set h a b

theorem Mem.writeN_wf {m : Mem} (h : Memory.wf m = true) (a : Nat) (bs : List Byte) : Memory.wf (m.writeN a bs) = true := by
  induction bs generalizing m a with
  | nil => exact h
  | cons b r ih => exact ih (Mem.write_wf h a b) _

theorem Mem.clear_wf {m : Mem} (h : Memory.wf m = true) (a e : Nat) : Memory.wf (m.clear a e) = true := Tab.wf_filter h _

/-- Writes one after another keep the canonical form. -/
theorem Mem.foldl_write_wf {β : Type} (l : List β) (g : Mem → β → Mem) (hg : ∀ m x, Memory.wf m = true → Memory.wf (g m x) = true)
    {m : Mem} (h : Memory.wf m = true) : Memory.wf (l.foldl g m) = true := by
  induction l generalizing m with
  | nil => exact h
  | cons x r ih => exact ih (hg m x h)

end Sys2Proof.Machine
end

