-- ==== Sys2Proof/Laws/State.lean ====
section
/-! SUPPORT. What each update of State leaves as it was (one lemma per field per update), what it writes, and what the
accessors of units read after it. -/

namespace Sys2Proof.Machine

variable (s : State)

/-! ### State.hand -/

@[simp] theorem State.hand_pending (r : ErrRec) : (s.hand r).pending = s.pending := rfl
@[simp] theorem State.hand_freeCount (r : ErrRec) : (s.hand r).freeCount = s.freeCount := rfl
@[simp] theorem State.hand_clock (r : ErrRec) : (s.hand r).clock = s.clock := rfl
@[simp] theorem State.hand_cores (r : ErrRec) : (s.hand r).cores = s.cores := rfl
@[simp] theorem State.hand_dies (r : ErrRec) : (s.hand r).dies = s.dies := rfl
@[simp] theorem State.hand_cdies (r : ErrRec) : (s.hand r).cdies = s.cdies := rfl
@[simp] theorem State.hand_chans (r : ErrRec) : (s.hand r).chans = s.chans := rfl
@[simp] theorem State.hand_fabrics (r : ErrRec) : (s.hand r).fabrics = s.fabrics := rfl
@[simp] theorem State.hand_mesh (r : ErrRec) : (s.hand r).mesh = s.mesh := rfl
@[simp] theorem State.hand_tens (r : ErrRec) : (s.hand r).tens = s.tens := rfl
@[simp] theorem State.hand_ckpts (r : ErrRec) : (s.hand r).ckpts = s.ckpts := rfl
@[simp] theorem State.hand_collQ (r : ErrRec) : (s.hand r).collQ = s.collQ := rfl
@[simp] theorem State.hand_colls (r : ErrRec) : (s.hand r).colls = s.colls := rfl
@[simp] theorem State.hand_doneColls (r : ErrRec) : (s.hand r).doneColls = s.doneColls := rfl
@[simp] theorem State.hand_twin (r : ErrRec) : (s.hand r).twin = s.twin := rfl
@[simp] theorem State.hand_px (r : ErrRec) : (s.hand r).px = s.px := rfl
@[simp] theorem State.hand_ec (r : ErrRec) : (s.hand r).ec = s.ec := rfl
@[simp] theorem State.hand_log (r : ErrRec) : (s.hand r).log = s.log := rfl
@[simp] theorem State.hand_cpc (r : ErrRec) : (s.hand r).cpc = s.cpc := rfl
@[simp] theorem State.hand_boot (r : ErrRec) : (s.hand r).boot = s.boot := rfl
@[simp] theorem State.hand_pkg (r : ErrRec) : (s.hand r).pkg = s.pkg := rfl
@[simp] theorem State.hand_i3c (r : ErrRec) : (s.hand r).i3c = s.i3c := rfl
@[simp] theorem State.hand_tap (r : ErrRec) : (s.hand r).tap = s.tap := rfl
@[simp] theorem State.hand_supply (r : ErrRec) : (s.hand r).supply = s.supply := rfl
@[simp] theorem State.hand_signals (r : ErrRec) : (s.hand r).signals = s.signals := rfl
@[simp] theorem State.hand_outbox (r : ErrRec) : (s.hand r).outbox = s.outbox := rfl

/-! ### State.raise -/

@[simp] theorem State.raise_pending (n : Nat) : (s.raise n).pending = s.pending := rfl
@[simp] theorem State.raise_freeCount (n : Nat) : (s.raise n).freeCount = s.freeCount := rfl
@[simp] theorem State.raise_clock (n : Nat) : (s.raise n).clock = s.clock := rfl
@[simp] theorem State.raise_cores (n : Nat) : (s.raise n).cores = s.cores := rfl
@[simp] theorem State.raise_dies (n : Nat) : (s.raise n).dies = s.dies := rfl
@[simp] theorem State.raise_cdies (n : Nat) : (s.raise n).cdies = s.cdies := rfl
@[simp] theorem State.raise_chans (n : Nat) : (s.raise n).chans = s.chans := rfl
@[simp] theorem State.raise_fabrics (n : Nat) : (s.raise n).fabrics = s.fabrics := rfl
@[simp] theorem State.raise_mesh (n : Nat) : (s.raise n).mesh = s.mesh := rfl
@[simp] theorem State.raise_tens (n : Nat) : (s.raise n).tens = s.tens := rfl
@[simp] theorem State.raise_ckpts (n : Nat) : (s.raise n).ckpts = s.ckpts := rfl
@[simp] theorem State.raise_collQ (n : Nat) : (s.raise n).collQ = s.collQ := rfl
@[simp] theorem State.raise_colls (n : Nat) : (s.raise n).colls = s.colls := rfl
@[simp] theorem State.raise_doneColls (n : Nat) : (s.raise n).doneColls = s.doneColls := rfl
@[simp] theorem State.raise_twin (n : Nat) : (s.raise n).twin = s.twin := rfl
@[simp] theorem State.raise_px (n : Nat) : (s.raise n).px = s.px := rfl
@[simp] theorem State.raise_ec (n : Nat) : (s.raise n).ec = s.ec := rfl
@[simp] theorem State.raise_log (n : Nat) : (s.raise n).log = s.log := rfl
@[simp] theorem State.raise_cpc (n : Nat) : (s.raise n).cpc = s.cpc := rfl
@[simp] theorem State.raise_boot (n : Nat) : (s.raise n).boot = s.boot := rfl
@[simp] theorem State.raise_pkg (n : Nat) : (s.raise n).pkg = s.pkg := rfl
@[simp] theorem State.raise_i3c (n : Nat) : (s.raise n).i3c = s.i3c := rfl
@[simp] theorem State.raise_tap (n : Nat) : (s.raise n).tap = s.tap := rfl
@[simp] theorem State.raise_supply (n : Nat) : (s.raise n).supply = s.supply := rfl
@[simp] theorem State.raise_handed (n : Nat) : (s.raise n).handed = s.handed := rfl
@[simp] theorem State.raise_outbox (n : Nat) : (s.raise n).outbox = s.outbox := rfl

/-! ### State.send -/

@[simp] theorem State.send_pending (f : OutFrame) : (s.send f).pending = s.pending := rfl
@[simp] theorem State.send_freeCount (f : OutFrame) : (s.send f).freeCount = s.freeCount := rfl
@[simp] theorem State.send_clock (f : OutFrame) : (s.send f).clock = s.clock := rfl
@[simp] theorem State.send_cores (f : OutFrame) : (s.send f).cores = s.cores := rfl
@[simp] theorem State.send_dies (f : OutFrame) : (s.send f).dies = s.dies := rfl
@[simp] theorem State.send_cdies (f : OutFrame) : (s.send f).cdies = s.cdies := rfl
@[simp] theorem State.send_chans (f : OutFrame) : (s.send f).chans = s.chans := rfl
@[simp] theorem State.send_fabrics (f : OutFrame) : (s.send f).fabrics = s.fabrics := rfl
@[simp] theorem State.send_mesh (f : OutFrame) : (s.send f).mesh = s.mesh := rfl
@[simp] theorem State.send_tens (f : OutFrame) : (s.send f).tens = s.tens := rfl
@[simp] theorem State.send_ckpts (f : OutFrame) : (s.send f).ckpts = s.ckpts := rfl
@[simp] theorem State.send_collQ (f : OutFrame) : (s.send f).collQ = s.collQ := rfl
@[simp] theorem State.send_colls (f : OutFrame) : (s.send f).colls = s.colls := rfl
@[simp] theorem State.send_doneColls (f : OutFrame) : (s.send f).doneColls = s.doneColls := rfl
@[simp] theorem State.send_twin (f : OutFrame) : (s.send f).twin = s.twin := rfl
@[simp] theorem State.send_px (f : OutFrame) : (s.send f).px = s.px := rfl
@[simp] theorem State.send_ec (f : OutFrame) : (s.send f).ec = s.ec := rfl
@[simp] theorem State.send_log (f : OutFrame) : (s.send f).log = s.log := rfl
@[simp] theorem State.send_cpc (f : OutFrame) : (s.send f).cpc = s.cpc := rfl
@[simp] theorem State.send_boot (f : OutFrame) : (s.send f).boot = s.boot := rfl
@[simp] theorem State.send_pkg (f : OutFrame) : (s.send f).pkg = s.pkg := rfl
@[simp] theorem State.send_i3c (f : OutFrame) : (s.send f).i3c = s.i3c := rfl
@[simp] theorem State.send_tap (f : OutFrame) : (s.send f).tap = s.tap := rfl
@[simp] theorem State.send_supply (f : OutFrame) : (s.send f).supply = s.supply := rfl
@[simp] theorem State.send_handed (f : OutFrame) : (s.send f).handed = s.handed := rfl
@[simp] theorem State.send_signals (f : OutFrame) : (s.send f).signals = s.signals := rfl

/-! ### State.drawn -/

@[simp] theorem State.drawn_pending : (s.drawn).pending = s.pending := rfl
@[simp] theorem State.drawn_clock : (s.drawn).clock = s.clock := rfl
@[simp] theorem State.drawn_cores : (s.drawn).cores = s.cores := rfl
@[simp] theorem State.drawn_dies : (s.drawn).dies = s.dies := rfl
@[simp] theorem State.drawn_cdies : (s.drawn).cdies = s.cdies := rfl
@[simp] theorem State.drawn_chans : (s.drawn).chans = s.chans := rfl
@[simp] theorem State.drawn_fabrics : (s.drawn).fabrics = s.fabrics := rfl
@[simp] theorem State.drawn_mesh : (s.drawn).mesh = s.mesh := rfl
@[simp] theorem State.drawn_tens : (s.drawn).tens = s.tens := rfl
@[simp] theorem State.drawn_ckpts : (s.drawn).ckpts = s.ckpts := rfl
@[simp] theorem State.drawn_collQ : (s.drawn).collQ = s.collQ := rfl
@[simp] theorem State.drawn_colls : (s.drawn).colls = s.colls := rfl
@[simp] theorem State.drawn_doneColls : (s.drawn).doneColls = s.doneColls := rfl
@[simp] theorem State.drawn_twin : (s.drawn).twin = s.twin := rfl
@[simp] theorem State.drawn_px : (s.drawn).px = s.px := rfl
@[simp] theorem State.drawn_ec : (s.drawn).ec = s.ec := rfl
@[simp] theorem State.drawn_log : (s.drawn).log = s.log := rfl
@[simp] theorem State.drawn_cpc : (s.drawn).cpc = s.cpc := rfl
@[simp] theorem State.drawn_boot : (s.drawn).boot = s.boot := rfl
@[simp] theorem State.drawn_pkg : (s.drawn).pkg = s.pkg := rfl
@[simp] theorem State.drawn_i3c : (s.drawn).i3c = s.i3c := rfl
@[simp] theorem State.drawn_tap : (s.drawn).tap = s.tap := rfl
@[simp] theorem State.drawn_supply : (s.drawn).supply = s.supply := rfl
@[simp] theorem State.drawn_handed : (s.drawn).handed = s.handed := rfl
@[simp] theorem State.drawn_signals : (s.drawn).signals = s.signals := rfl
@[simp] theorem State.drawn_outbox : (s.drawn).outbox = s.outbox := rfl

/-! ### State.setCore -/

@[simp] theorem State.setCore_pending (c : CoreId) (k : Core) : (s.setCore c k).pending = s.pending := rfl
@[simp] theorem State.setCore_freeCount (c : CoreId) (k : Core) : (s.setCore c k).freeCount = s.freeCount := rfl
@[simp] theorem State.setCore_clock (c : CoreId) (k : Core) : (s.setCore c k).clock = s.clock := rfl
@[simp] theorem State.setCore_dies (c : CoreId) (k : Core) : (s.setCore c k).dies = s.dies := rfl
@[simp] theorem State.setCore_cdies (c : CoreId) (k : Core) : (s.setCore c k).cdies = s.cdies := rfl
@[simp] theorem State.setCore_chans (c : CoreId) (k : Core) : (s.setCore c k).chans = s.chans := rfl
@[simp] theorem State.setCore_fabrics (c : CoreId) (k : Core) : (s.setCore c k).fabrics = s.fabrics := rfl
@[simp] theorem State.setCore_mesh (c : CoreId) (k : Core) : (s.setCore c k).mesh = s.mesh := rfl
@[simp] theorem State.setCore_tens (c : CoreId) (k : Core) : (s.setCore c k).tens = s.tens := rfl
@[simp] theorem State.setCore_ckpts (c : CoreId) (k : Core) : (s.setCore c k).ckpts = s.ckpts := rfl
@[simp] theorem State.setCore_collQ (c : CoreId) (k : Core) : (s.setCore c k).collQ = s.collQ := rfl
@[simp] theorem State.setCore_colls (c : CoreId) (k : Core) : (s.setCore c k).colls = s.colls := rfl
@[simp] theorem State.setCore_doneColls (c : CoreId) (k : Core) : (s.setCore c k).doneColls = s.doneColls := rfl
@[simp] theorem State.setCore_twin (c : CoreId) (k : Core) : (s.setCore c k).twin = s.twin := rfl
@[simp] theorem State.setCore_px (c : CoreId) (k : Core) : (s.setCore c k).px = s.px := rfl
@[simp] theorem State.setCore_ec (c : CoreId) (k : Core) : (s.setCore c k).ec = s.ec := rfl
@[simp] theorem State.setCore_log (c : CoreId) (k : Core) : (s.setCore c k).log = s.log := rfl
@[simp] theorem State.setCore_cpc (c : CoreId) (k : Core) : (s.setCore c k).cpc = s.cpc := rfl
@[simp] theorem State.setCore_boot (c : CoreId) (k : Core) : (s.setCore c k).boot = s.boot := rfl
@[simp] theorem State.setCore_pkg (c : CoreId) (k : Core) : (s.setCore c k).pkg = s.pkg := rfl
@[simp] theorem State.setCore_i3c (c : CoreId) (k : Core) : (s.setCore c k).i3c = s.i3c := rfl
@[simp] theorem State.setCore_tap (c : CoreId) (k : Core) : (s.setCore c k).tap = s.tap := rfl
@[simp] theorem State.setCore_supply (c : CoreId) (k : Core) : (s.setCore c k).supply = s.supply := rfl
@[simp] theorem State.setCore_handed (c : CoreId) (k : Core) : (s.setCore c k).handed = s.handed := rfl
@[simp] theorem State.setCore_signals (c : CoreId) (k : Core) : (s.setCore c k).signals = s.signals := rfl
@[simp] theorem State.setCore_outbox (c : CoreId) (k : Core) : (s.setCore c k).outbox = s.outbox := rfl

/-! ### State.updCore -/

@[simp] theorem State.updCore_pending (c : CoreId) (g : Core → Core) : (s.updCore c g).pending = s.pending := rfl
@[simp] theorem State.updCore_freeCount (c : CoreId) (g : Core → Core) : (s.updCore c g).freeCount = s.freeCount := rfl
@[simp] theorem State.updCore_clock (c : CoreId) (g : Core → Core) : (s.updCore c g).clock = s.clock := rfl
@[simp] theorem State.updCore_dies (c : CoreId) (g : Core → Core) : (s.updCore c g).dies = s.dies := rfl
@[simp] theorem State.updCore_cdies (c : CoreId) (g : Core → Core) : (s.updCore c g).cdies = s.cdies := rfl
@[simp] theorem State.updCore_chans (c : CoreId) (g : Core → Core) : (s.updCore c g).chans = s.chans := rfl
@[simp] theorem State.updCore_fabrics (c : CoreId) (g : Core → Core) : (s.updCore c g).fabrics = s.fabrics := rfl
@[simp] theorem State.updCore_mesh (c : CoreId) (g : Core → Core) : (s.updCore c g).mesh = s.mesh := rfl
@[simp] theorem State.updCore_tens (c : CoreId) (g : Core → Core) : (s.updCore c g).tens = s.tens := rfl
@[simp] theorem State.updCore_ckpts (c : CoreId) (g : Core → Core) : (s.updCore c g).ckpts = s.ckpts := rfl
@[simp] theorem State.updCore_collQ (c : CoreId) (g : Core → Core) : (s.updCore c g).collQ = s.collQ := rfl
@[simp] theorem State.updCore_colls (c : CoreId) (g : Core → Core) : (s.updCore c g).colls = s.colls := rfl
@[simp] theorem State.updCore_doneColls (c : CoreId) (g : Core → Core) : (s.updCore c g).doneColls = s.doneColls := rfl
@[simp] theorem State.updCore_twin (c : CoreId) (g : Core → Core) : (s.updCore c g).twin = s.twin := rfl
@[simp] theorem State.updCore_px (c : CoreId) (g : Core → Core) : (s.updCore c g).px = s.px := rfl
@[simp] theorem State.updCore_ec (c : CoreId) (g : Core → Core) : (s.updCore c g).ec = s.ec := rfl
@[simp] theorem State.updCore_log (c : CoreId) (g : Core → Core) : (s.updCore c g).log = s.log := rfl
@[simp] theorem State.updCore_cpc (c : CoreId) (g : Core → Core) : (s.updCore c g).cpc = s.cpc := rfl
@[simp] theorem State.updCore_boot (c : CoreId) (g : Core → Core) : (s.updCore c g).boot = s.boot := rfl
@[simp] theorem State.updCore_pkg (c : CoreId) (g : Core → Core) : (s.updCore c g).pkg = s.pkg := rfl
@[simp] theorem State.updCore_i3c (c : CoreId) (g : Core → Core) : (s.updCore c g).i3c = s.i3c := rfl
@[simp] theorem State.updCore_tap (c : CoreId) (g : Core → Core) : (s.updCore c g).tap = s.tap := rfl
@[simp] theorem State.updCore_supply (c : CoreId) (g : Core → Core) : (s.updCore c g).supply = s.supply := rfl
@[simp] theorem State.updCore_handed (c : CoreId) (g : Core → Core) : (s.updCore c g).handed = s.handed := rfl
@[simp] theorem State.updCore_signals (c : CoreId) (g : Core → Core) : (s.updCore c g).signals = s.signals := rfl
@[simp] theorem State.updCore_outbox (c : CoreId) (g : Core → Core) : (s.updCore c g).outbox = s.outbox := rfl

/-! ### State.updDie -/

@[simp] theorem State.updDie_pending (d : Nat) (g : DieRate → DieRate) : (s.updDie d g).pending = s.pending := rfl
@[simp] theorem State.updDie_freeCount (d : Nat) (g : DieRate → DieRate) : (s.updDie d g).freeCount = s.freeCount := rfl
@[simp] theorem State.updDie_clock (d : Nat) (g : DieRate → DieRate) : (s.updDie d g).clock = s.clock := rfl
@[simp] theorem State.updDie_cores (d : Nat) (g : DieRate → DieRate) : (s.updDie d g).cores = s.cores := rfl
@[simp] theorem State.updDie_cdies (d : Nat) (g : DieRate → DieRate) : (s.updDie d g).cdies = s.cdies := rfl
@[simp] theorem State.updDie_chans (d : Nat) (g : DieRate → DieRate) : (s.updDie d g).chans = s.chans := rfl
@[simp] theorem State.updDie_fabrics (d : Nat) (g : DieRate → DieRate) : (s.updDie d g).fabrics = s.fabrics := rfl
@[simp] theorem State.updDie_mesh (d : Nat) (g : DieRate → DieRate) : (s.updDie d g).mesh = s.mesh := rfl
@[simp] theorem State.updDie_tens (d : Nat) (g : DieRate → DieRate) : (s.updDie d g).tens = s.tens := rfl
@[simp] theorem State.updDie_ckpts (d : Nat) (g : DieRate → DieRate) : (s.updDie d g).ckpts = s.ckpts := rfl
@[simp] theorem State.updDie_collQ (d : Nat) (g : DieRate → DieRate) : (s.updDie d g).collQ = s.collQ := rfl
@[simp] theorem State.updDie_colls (d : Nat) (g : DieRate → DieRate) : (s.updDie d g).colls = s.colls := rfl
@[simp] theorem State.updDie_doneColls (d : Nat) (g : DieRate → DieRate) : (s.updDie d g).doneColls = s.doneColls := rfl
@[simp] theorem State.updDie_twin (d : Nat) (g : DieRate → DieRate) : (s.updDie d g).twin = s.twin := rfl
@[simp] theorem State.updDie_px (d : Nat) (g : DieRate → DieRate) : (s.updDie d g).px = s.px := rfl
@[simp] theorem State.updDie_ec (d : Nat) (g : DieRate → DieRate) : (s.updDie d g).ec = s.ec := rfl
@[simp] theorem State.updDie_log (d : Nat) (g : DieRate → DieRate) : (s.updDie d g).log = s.log := rfl
@[simp] theorem State.updDie_cpc (d : Nat) (g : DieRate → DieRate) : (s.updDie d g).cpc = s.cpc := rfl
@[simp] theorem State.updDie_boot (d : Nat) (g : DieRate → DieRate) : (s.updDie d g).boot = s.boot := rfl
@[simp] theorem State.updDie_pkg (d : Nat) (g : DieRate → DieRate) : (s.updDie d g).pkg = s.pkg := rfl
@[simp] theorem State.updDie_i3c (d : Nat) (g : DieRate → DieRate) : (s.updDie d g).i3c = s.i3c := rfl
@[simp] theorem State.updDie_tap (d : Nat) (g : DieRate → DieRate) : (s.updDie d g).tap = s.tap := rfl
@[simp] theorem State.updDie_supply (d : Nat) (g : DieRate → DieRate) : (s.updDie d g).supply = s.supply := rfl
@[simp] theorem State.updDie_handed (d : Nat) (g : DieRate → DieRate) : (s.updDie d g).handed = s.handed := rfl
@[simp] theorem State.updDie_signals (d : Nat) (g : DieRate → DieRate) : (s.updDie d g).signals = s.signals := rfl
@[simp] theorem State.updDie_outbox (d : Nat) (g : DieRate → DieRate) : (s.updDie d g).outbox = s.outbox := rfl

/-! ### State.updCdie -/

@[simp] theorem State.updCdie_pending (d : Nat) (g : CompDie → CompDie) : (s.updCdie d g).pending = s.pending := rfl
@[simp] theorem State.updCdie_freeCount (d : Nat) (g : CompDie → CompDie) : (s.updCdie d g).freeCount = s.freeCount := rfl
@[simp] theorem State.updCdie_clock (d : Nat) (g : CompDie → CompDie) : (s.updCdie d g).clock = s.clock := rfl
@[simp] theorem State.updCdie_cores (d : Nat) (g : CompDie → CompDie) : (s.updCdie d g).cores = s.cores := rfl
@[simp] theorem State.updCdie_dies (d : Nat) (g : CompDie → CompDie) : (s.updCdie d g).dies = s.dies := rfl
@[simp] theorem State.updCdie_chans (d : Nat) (g : CompDie → CompDie) : (s.updCdie d g).chans = s.chans := rfl
@[simp] theorem State.updCdie_fabrics (d : Nat) (g : CompDie → CompDie) : (s.updCdie d g).fabrics = s.fabrics := rfl
@[simp] theorem State.updCdie_mesh (d : Nat) (g : CompDie → CompDie) : (s.updCdie d g).mesh = s.mesh := rfl
@[simp] theorem State.updCdie_tens (d : Nat) (g : CompDie → CompDie) : (s.updCdie d g).tens = s.tens := rfl
@[simp] theorem State.updCdie_ckpts (d : Nat) (g : CompDie → CompDie) : (s.updCdie d g).ckpts = s.ckpts := rfl
@[simp] theorem State.updCdie_collQ (d : Nat) (g : CompDie → CompDie) : (s.updCdie d g).collQ = s.collQ := rfl
@[simp] theorem State.updCdie_colls (d : Nat) (g : CompDie → CompDie) : (s.updCdie d g).colls = s.colls := rfl
@[simp] theorem State.updCdie_doneColls (d : Nat) (g : CompDie → CompDie) : (s.updCdie d g).doneColls = s.doneColls := rfl
@[simp] theorem State.updCdie_twin (d : Nat) (g : CompDie → CompDie) : (s.updCdie d g).twin = s.twin := rfl
@[simp] theorem State.updCdie_px (d : Nat) (g : CompDie → CompDie) : (s.updCdie d g).px = s.px := rfl
@[simp] theorem State.updCdie_ec (d : Nat) (g : CompDie → CompDie) : (s.updCdie d g).ec = s.ec := rfl
@[simp] theorem State.updCdie_log (d : Nat) (g : CompDie → CompDie) : (s.updCdie d g).log = s.log := rfl
@[simp] theorem State.updCdie_cpc (d : Nat) (g : CompDie → CompDie) : (s.updCdie d g).cpc = s.cpc := rfl
@[simp] theorem State.updCdie_boot (d : Nat) (g : CompDie → CompDie) : (s.updCdie d g).boot = s.boot := rfl
@[simp] theorem State.updCdie_pkg (d : Nat) (g : CompDie → CompDie) : (s.updCdie d g).pkg = s.pkg := rfl
@[simp] theorem State.updCdie_i3c (d : Nat) (g : CompDie → CompDie) : (s.updCdie d g).i3c = s.i3c := rfl
@[simp] theorem State.updCdie_tap (d : Nat) (g : CompDie → CompDie) : (s.updCdie d g).tap = s.tap := rfl
@[simp] theorem State.updCdie_supply (d : Nat) (g : CompDie → CompDie) : (s.updCdie d g).supply = s.supply := rfl
@[simp] theorem State.updCdie_handed (d : Nat) (g : CompDie → CompDie) : (s.updCdie d g).handed = s.handed := rfl
@[simp] theorem State.updCdie_signals (d : Nat) (g : CompDie → CompDie) : (s.updCdie d g).signals = s.signals := rfl
@[simp] theorem State.updCdie_outbox (d : Nat) (g : CompDie → CompDie) : (s.updCdie d g).outbox = s.outbox := rfl

/-! ### State.setChan -/

@[simp] theorem State.setChan_pending (n : Nat) (k : Channel) : (s.setChan n k).pending = s.pending := rfl
@[simp] theorem State.setChan_freeCount (n : Nat) (k : Channel) : (s.setChan n k).freeCount = s.freeCount := rfl
@[simp] theorem State.setChan_clock (n : Nat) (k : Channel) : (s.setChan n k).clock = s.clock := rfl
@[simp] theorem State.setChan_cores (n : Nat) (k : Channel) : (s.setChan n k).cores = s.cores := rfl
@[simp] theorem State.setChan_dies (n : Nat) (k : Channel) : (s.setChan n k).dies = s.dies := rfl
@[simp] theorem State.setChan_cdies (n : Nat) (k : Channel) : (s.setChan n k).cdies = s.cdies := rfl
@[simp] theorem State.setChan_fabrics (n : Nat) (k : Channel) : (s.setChan n k).fabrics = s.fabrics := rfl
@[simp] theorem State.setChan_mesh (n : Nat) (k : Channel) : (s.setChan n k).mesh = s.mesh := rfl
@[simp] theorem State.setChan_tens (n : Nat) (k : Channel) : (s.setChan n k).tens = s.tens := rfl
@[simp] theorem State.setChan_ckpts (n : Nat) (k : Channel) : (s.setChan n k).ckpts = s.ckpts := rfl
@[simp] theorem State.setChan_collQ (n : Nat) (k : Channel) : (s.setChan n k).collQ = s.collQ := rfl
@[simp] theorem State.setChan_colls (n : Nat) (k : Channel) : (s.setChan n k).colls = s.colls := rfl
@[simp] theorem State.setChan_doneColls (n : Nat) (k : Channel) : (s.setChan n k).doneColls = s.doneColls := rfl
@[simp] theorem State.setChan_twin (n : Nat) (k : Channel) : (s.setChan n k).twin = s.twin := rfl
@[simp] theorem State.setChan_px (n : Nat) (k : Channel) : (s.setChan n k).px = s.px := rfl
@[simp] theorem State.setChan_ec (n : Nat) (k : Channel) : (s.setChan n k).ec = s.ec := rfl
@[simp] theorem State.setChan_log (n : Nat) (k : Channel) : (s.setChan n k).log = s.log := rfl
@[simp] theorem State.setChan_cpc (n : Nat) (k : Channel) : (s.setChan n k).cpc = s.cpc := rfl
@[simp] theorem State.setChan_boot (n : Nat) (k : Channel) : (s.setChan n k).boot = s.boot := rfl
@[simp] theorem State.setChan_pkg (n : Nat) (k : Channel) : (s.setChan n k).pkg = s.pkg := rfl
@[simp] theorem State.setChan_i3c (n : Nat) (k : Channel) : (s.setChan n k).i3c = s.i3c := rfl
@[simp] theorem State.setChan_tap (n : Nat) (k : Channel) : (s.setChan n k).tap = s.tap := rfl
@[simp] theorem State.setChan_supply (n : Nat) (k : Channel) : (s.setChan n k).supply = s.supply := rfl
@[simp] theorem State.setChan_handed (n : Nat) (k : Channel) : (s.setChan n k).handed = s.handed := rfl
@[simp] theorem State.setChan_signals (n : Nat) (k : Channel) : (s.setChan n k).signals = s.signals := rfl
@[simp] theorem State.setChan_outbox (n : Nat) (k : Channel) : (s.setChan n k).outbox = s.outbox := rfl

/-! ### State.updChan -/

@[simp] theorem State.updChan_pending (n : Nat) (g : Channel → Channel) : (s.updChan n g).pending = s.pending := rfl
@[simp] theorem State.updChan_freeCount (n : Nat) (g : Channel → Channel) : (s.updChan n g).freeCount = s.freeCount := rfl
@[simp] theorem State.updChan_clock (n : Nat) (g : Channel → Channel) : (s.updChan n g).clock = s.clock := rfl
@[simp] theorem State.updChan_cores (n : Nat) (g : Channel → Channel) : (s.updChan n g).cores = s.cores := rfl
@[simp] theorem State.updChan_dies (n : Nat) (g : Channel → Channel) : (s.updChan n g).dies = s.dies := rfl
@[simp] theorem State.updChan_cdies (n : Nat) (g : Channel → Channel) : (s.updChan n g).cdies = s.cdies := rfl
@[simp] theorem State.updChan_fabrics (n : Nat) (g : Channel → Channel) : (s.updChan n g).fabrics = s.fabrics := rfl
@[simp] theorem State.updChan_mesh (n : Nat) (g : Channel → Channel) : (s.updChan n g).mesh = s.mesh := rfl
@[simp] theorem State.updChan_tens (n : Nat) (g : Channel → Channel) : (s.updChan n g).tens = s.tens := rfl
@[simp] theorem State.updChan_ckpts (n : Nat) (g : Channel → Channel) : (s.updChan n g).ckpts = s.ckpts := rfl
@[simp] theorem State.updChan_collQ (n : Nat) (g : Channel → Channel) : (s.updChan n g).collQ = s.collQ := rfl
@[simp] theorem State.updChan_colls (n : Nat) (g : Channel → Channel) : (s.updChan n g).colls = s.colls := rfl
@[simp] theorem State.updChan_doneColls (n : Nat) (g : Channel → Channel) : (s.updChan n g).doneColls = s.doneColls := rfl
@[simp] theorem State.updChan_twin (n : Nat) (g : Channel → Channel) : (s.updChan n g).twin = s.twin := rfl
@[simp] theorem State.updChan_px (n : Nat) (g : Channel → Channel) : (s.updChan n g).px = s.px := rfl
@[simp] theorem State.updChan_ec (n : Nat) (g : Channel → Channel) : (s.updChan n g).ec = s.ec := rfl
@[simp] theorem State.updChan_log (n : Nat) (g : Channel → Channel) : (s.updChan n g).log = s.log := rfl
@[simp] theorem State.updChan_cpc (n : Nat) (g : Channel → Channel) : (s.updChan n g).cpc = s.cpc := rfl
@[simp] theorem State.updChan_boot (n : Nat) (g : Channel → Channel) : (s.updChan n g).boot = s.boot := rfl
@[simp] theorem State.updChan_pkg (n : Nat) (g : Channel → Channel) : (s.updChan n g).pkg = s.pkg := rfl
@[simp] theorem State.updChan_i3c (n : Nat) (g : Channel → Channel) : (s.updChan n g).i3c = s.i3c := rfl
@[simp] theorem State.updChan_tap (n : Nat) (g : Channel → Channel) : (s.updChan n g).tap = s.tap := rfl
@[simp] theorem State.updChan_supply (n : Nat) (g : Channel → Channel) : (s.updChan n g).supply = s.supply := rfl
@[simp] theorem State.updChan_handed (n : Nat) (g : Channel → Channel) : (s.updChan n g).handed = s.handed := rfl
@[simp] theorem State.updChan_signals (n : Nat) (g : Channel → Channel) : (s.updChan n g).signals = s.signals := rfl
@[simp] theorem State.updChan_outbox (n : Nat) (g : Channel → Channel) : (s.updChan n g).outbox = s.outbox := rfl

/-! ### State.setFab -/

@[simp] theorem State.setFab_pending (n : Nat) (k : Fabric) : (s.setFab n k).pending = s.pending := rfl
@[simp] theorem State.setFab_freeCount (n : Nat) (k : Fabric) : (s.setFab n k).freeCount = s.freeCount := rfl
@[simp] theorem State.setFab_clock (n : Nat) (k : Fabric) : (s.setFab n k).clock = s.clock := rfl
@[simp] theorem State.setFab_cores (n : Nat) (k : Fabric) : (s.setFab n k).cores = s.cores := rfl
@[simp] theorem State.setFab_dies (n : Nat) (k : Fabric) : (s.setFab n k).dies = s.dies := rfl
@[simp] theorem State.setFab_cdies (n : Nat) (k : Fabric) : (s.setFab n k).cdies = s.cdies := rfl
@[simp] theorem State.setFab_chans (n : Nat) (k : Fabric) : (s.setFab n k).chans = s.chans := rfl
@[simp] theorem State.setFab_mesh (n : Nat) (k : Fabric) : (s.setFab n k).mesh = s.mesh := rfl
@[simp] theorem State.setFab_tens (n : Nat) (k : Fabric) : (s.setFab n k).tens = s.tens := rfl
@[simp] theorem State.setFab_ckpts (n : Nat) (k : Fabric) : (s.setFab n k).ckpts = s.ckpts := rfl
@[simp] theorem State.setFab_collQ (n : Nat) (k : Fabric) : (s.setFab n k).collQ = s.collQ := rfl
@[simp] theorem State.setFab_colls (n : Nat) (k : Fabric) : (s.setFab n k).colls = s.colls := rfl
@[simp] theorem State.setFab_doneColls (n : Nat) (k : Fabric) : (s.setFab n k).doneColls = s.doneColls := rfl
@[simp] theorem State.setFab_twin (n : Nat) (k : Fabric) : (s.setFab n k).twin = s.twin := rfl
@[simp] theorem State.setFab_px (n : Nat) (k : Fabric) : (s.setFab n k).px = s.px := rfl
@[simp] theorem State.setFab_ec (n : Nat) (k : Fabric) : (s.setFab n k).ec = s.ec := rfl
@[simp] theorem State.setFab_log (n : Nat) (k : Fabric) : (s.setFab n k).log = s.log := rfl
@[simp] theorem State.setFab_cpc (n : Nat) (k : Fabric) : (s.setFab n k).cpc = s.cpc := rfl
@[simp] theorem State.setFab_boot (n : Nat) (k : Fabric) : (s.setFab n k).boot = s.boot := rfl
@[simp] theorem State.setFab_pkg (n : Nat) (k : Fabric) : (s.setFab n k).pkg = s.pkg := rfl
@[simp] theorem State.setFab_i3c (n : Nat) (k : Fabric) : (s.setFab n k).i3c = s.i3c := rfl
@[simp] theorem State.setFab_tap (n : Nat) (k : Fabric) : (s.setFab n k).tap = s.tap := rfl
@[simp] theorem State.setFab_supply (n : Nat) (k : Fabric) : (s.setFab n k).supply = s.supply := rfl
@[simp] theorem State.setFab_handed (n : Nat) (k : Fabric) : (s.setFab n k).handed = s.handed := rfl
@[simp] theorem State.setFab_signals (n : Nat) (k : Fabric) : (s.setFab n k).signals = s.signals := rfl
@[simp] theorem State.setFab_outbox (n : Nat) (k : Fabric) : (s.setFab n k).outbox = s.outbox := rfl

/-! ### State.updFab -/

@[simp] theorem State.updFab_pending (n : Nat) (g : Fabric → Fabric) : (s.updFab n g).pending = s.pending := rfl
@[simp] theorem State.updFab_freeCount (n : Nat) (g : Fabric → Fabric) : (s.updFab n g).freeCount = s.freeCount := rfl
@[simp] theorem State.updFab_clock (n : Nat) (g : Fabric → Fabric) : (s.updFab n g).clock = s.clock := rfl
@[simp] theorem State.updFab_cores (n : Nat) (g : Fabric → Fabric) : (s.updFab n g).cores = s.cores := rfl
@[simp] theorem State.updFab_dies (n : Nat) (g : Fabric → Fabric) : (s.updFab n g).dies = s.dies := rfl
@[simp] theorem State.updFab_cdies (n : Nat) (g : Fabric → Fabric) : (s.updFab n g).cdies = s.cdies := rfl
@[simp] theorem State.updFab_chans (n : Nat) (g : Fabric → Fabric) : (s.updFab n g).chans = s.chans := rfl
@[simp] theorem State.updFab_mesh (n : Nat) (g : Fabric → Fabric) : (s.updFab n g).mesh = s.mesh := rfl
@[simp] theorem State.updFab_tens (n : Nat) (g : Fabric → Fabric) : (s.updFab n g).tens = s.tens := rfl
@[simp] theorem State.updFab_ckpts (n : Nat) (g : Fabric → Fabric) : (s.updFab n g).ckpts = s.ckpts := rfl
@[simp] theorem State.updFab_collQ (n : Nat) (g : Fabric → Fabric) : (s.updFab n g).collQ = s.collQ := rfl
@[simp] theorem State.updFab_colls (n : Nat) (g : Fabric → Fabric) : (s.updFab n g).colls = s.colls := rfl
@[simp] theorem State.updFab_doneColls (n : Nat) (g : Fabric → Fabric) : (s.updFab n g).doneColls = s.doneColls := rfl
@[simp] theorem State.updFab_twin (n : Nat) (g : Fabric → Fabric) : (s.updFab n g).twin = s.twin := rfl
@[simp] theorem State.updFab_px (n : Nat) (g : Fabric → Fabric) : (s.updFab n g).px = s.px := rfl
@[simp] theorem State.updFab_ec (n : Nat) (g : Fabric → Fabric) : (s.updFab n g).ec = s.ec := rfl
@[simp] theorem State.updFab_log (n : Nat) (g : Fabric → Fabric) : (s.updFab n g).log = s.log := rfl
@[simp] theorem State.updFab_cpc (n : Nat) (g : Fabric → Fabric) : (s.updFab n g).cpc = s.cpc := rfl
@[simp] theorem State.updFab_boot (n : Nat) (g : Fabric → Fabric) : (s.updFab n g).boot = s.boot := rfl
@[simp] theorem State.updFab_pkg (n : Nat) (g : Fabric → Fabric) : (s.updFab n g).pkg = s.pkg := rfl
@[simp] theorem State.updFab_i3c (n : Nat) (g : Fabric → Fabric) : (s.updFab n g).i3c = s.i3c := rfl
@[simp] theorem State.updFab_tap (n : Nat) (g : Fabric → Fabric) : (s.updFab n g).tap = s.tap := rfl
@[simp] theorem State.updFab_supply (n : Nat) (g : Fabric → Fabric) : (s.updFab n g).supply = s.supply := rfl
@[simp] theorem State.updFab_handed (n : Nat) (g : Fabric → Fabric) : (s.updFab n g).handed = s.handed := rfl
@[simp] theorem State.updFab_signals (n : Nat) (g : Fabric → Fabric) : (s.updFab n g).signals = s.signals := rfl
@[simp] theorem State.updFab_outbox (n : Nat) (g : Fabric → Fabric) : (s.updFab n g).outbox = s.outbox := rfl

/-! ### State.updTen -/

@[simp] theorem State.updTen_pending (n : Nat) (g : Tenancy → Tenancy) : (s.updTen n g).pending = s.pending := rfl
@[simp] theorem State.updTen_freeCount (n : Nat) (g : Tenancy → Tenancy) : (s.updTen n g).freeCount = s.freeCount := rfl
@[simp] theorem State.updTen_clock (n : Nat) (g : Tenancy → Tenancy) : (s.updTen n g).clock = s.clock := rfl
@[simp] theorem State.updTen_cores (n : Nat) (g : Tenancy → Tenancy) : (s.updTen n g).cores = s.cores := rfl
@[simp] theorem State.updTen_dies (n : Nat) (g : Tenancy → Tenancy) : (s.updTen n g).dies = s.dies := rfl
@[simp] theorem State.updTen_cdies (n : Nat) (g : Tenancy → Tenancy) : (s.updTen n g).cdies = s.cdies := rfl
@[simp] theorem State.updTen_chans (n : Nat) (g : Tenancy → Tenancy) : (s.updTen n g).chans = s.chans := rfl
@[simp] theorem State.updTen_fabrics (n : Nat) (g : Tenancy → Tenancy) : (s.updTen n g).fabrics = s.fabrics := rfl
@[simp] theorem State.updTen_mesh (n : Nat) (g : Tenancy → Tenancy) : (s.updTen n g).mesh = s.mesh := rfl
@[simp] theorem State.updTen_ckpts (n : Nat) (g : Tenancy → Tenancy) : (s.updTen n g).ckpts = s.ckpts := rfl
@[simp] theorem State.updTen_collQ (n : Nat) (g : Tenancy → Tenancy) : (s.updTen n g).collQ = s.collQ := rfl
@[simp] theorem State.updTen_colls (n : Nat) (g : Tenancy → Tenancy) : (s.updTen n g).colls = s.colls := rfl
@[simp] theorem State.updTen_doneColls (n : Nat) (g : Tenancy → Tenancy) : (s.updTen n g).doneColls = s.doneColls := rfl
@[simp] theorem State.updTen_twin (n : Nat) (g : Tenancy → Tenancy) : (s.updTen n g).twin = s.twin := rfl
@[simp] theorem State.updTen_px (n : Nat) (g : Tenancy → Tenancy) : (s.updTen n g).px = s.px := rfl
@[simp] theorem State.updTen_ec (n : Nat) (g : Tenancy → Tenancy) : (s.updTen n g).ec = s.ec := rfl
@[simp] theorem State.updTen_log (n : Nat) (g : Tenancy → Tenancy) : (s.updTen n g).log = s.log := rfl
@[simp] theorem State.updTen_cpc (n : Nat) (g : Tenancy → Tenancy) : (s.updTen n g).cpc = s.cpc := rfl
@[simp] theorem State.updTen_boot (n : Nat) (g : Tenancy → Tenancy) : (s.updTen n g).boot = s.boot := rfl
@[simp] theorem State.updTen_pkg (n : Nat) (g : Tenancy → Tenancy) : (s.updTen n g).pkg = s.pkg := rfl
@[simp] theorem State.updTen_i3c (n : Nat) (g : Tenancy → Tenancy) : (s.updTen n g).i3c = s.i3c := rfl
@[simp] theorem State.updTen_tap (n : Nat) (g : Tenancy → Tenancy) : (s.updTen n g).tap = s.tap := rfl
@[simp] theorem State.updTen_supply (n : Nat) (g : Tenancy → Tenancy) : (s.updTen n g).supply = s.supply := rfl
@[simp] theorem State.updTen_handed (n : Nat) (g : Tenancy → Tenancy) : (s.updTen n g).handed = s.handed := rfl
@[simp] theorem State.updTen_signals (n : Nat) (g : Tenancy → Tenancy) : (s.updTen n g).signals = s.signals := rfl
@[simp] theorem State.updTen_outbox (n : Nat) (g : Tenancy → Tenancy) : (s.updTen n g).outbox = s.outbox := rfl

/-! ### State.updCkpt -/

@[simp] theorem State.updCkpt_pending (n : Nat) (g : Ckpt → Ckpt) : (s.updCkpt n g).pending = s.pending := rfl
@[simp] theorem State.updCkpt_freeCount (n : Nat) (g : Ckpt → Ckpt) : (s.updCkpt n g).freeCount = s.freeCount := rfl
@[simp] theorem State.updCkpt_clock (n : Nat) (g : Ckpt → Ckpt) : (s.updCkpt n g).clock = s.clock := rfl
@[simp] theorem State.updCkpt_cores (n : Nat) (g : Ckpt → Ckpt) : (s.updCkpt n g).cores = s.cores := rfl
@[simp] theorem State.updCkpt_dies (n : Nat) (g : Ckpt → Ckpt) : (s.updCkpt n g).dies = s.dies := rfl
@[simp] theorem State.updCkpt_cdies (n : Nat) (g : Ckpt → Ckpt) : (s.updCkpt n g).cdies = s.cdies := rfl
@[simp] theorem State.updCkpt_chans (n : Nat) (g : Ckpt → Ckpt) : (s.updCkpt n g).chans = s.chans := rfl
@[simp] theorem State.updCkpt_fabrics (n : Nat) (g : Ckpt → Ckpt) : (s.updCkpt n g).fabrics = s.fabrics := rfl
@[simp] theorem State.updCkpt_mesh (n : Nat) (g : Ckpt → Ckpt) : (s.updCkpt n g).mesh = s.mesh := rfl
@[simp] theorem State.updCkpt_tens (n : Nat) (g : Ckpt → Ckpt) : (s.updCkpt n g).tens = s.tens := rfl
@[simp] theorem State.updCkpt_collQ (n : Nat) (g : Ckpt → Ckpt) : (s.updCkpt n g).collQ = s.collQ := rfl
@[simp] theorem State.updCkpt_colls (n : Nat) (g : Ckpt → Ckpt) : (s.updCkpt n g).colls = s.colls := rfl
@[simp] theorem State.updCkpt_doneColls (n : Nat) (g : Ckpt → Ckpt) : (s.updCkpt n g).doneColls = s.doneColls := rfl
@[simp] theorem State.updCkpt_twin (n : Nat) (g : Ckpt → Ckpt) : (s.updCkpt n g).twin = s.twin := rfl
@[simp] theorem State.updCkpt_px (n : Nat) (g : Ckpt → Ckpt) : (s.updCkpt n g).px = s.px := rfl
@[simp] theorem State.updCkpt_ec (n : Nat) (g : Ckpt → Ckpt) : (s.updCkpt n g).ec = s.ec := rfl
@[simp] theorem State.updCkpt_log (n : Nat) (g : Ckpt → Ckpt) : (s.updCkpt n g).log = s.log := rfl
@[simp] theorem State.updCkpt_cpc (n : Nat) (g : Ckpt → Ckpt) : (s.updCkpt n g).cpc = s.cpc := rfl
@[simp] theorem State.updCkpt_boot (n : Nat) (g : Ckpt → Ckpt) : (s.updCkpt n g).boot = s.boot := rfl
@[simp] theorem State.updCkpt_pkg (n : Nat) (g : Ckpt → Ckpt) : (s.updCkpt n g).pkg = s.pkg := rfl
@[simp] theorem State.updCkpt_i3c (n : Nat) (g : Ckpt → Ckpt) : (s.updCkpt n g).i3c = s.i3c := rfl
@[simp] theorem State.updCkpt_tap (n : Nat) (g : Ckpt → Ckpt) : (s.updCkpt n g).tap = s.tap := rfl
@[simp] theorem State.updCkpt_supply (n : Nat) (g : Ckpt → Ckpt) : (s.updCkpt n g).supply = s.supply := rfl
@[simp] theorem State.updCkpt_handed (n : Nat) (g : Ckpt → Ckpt) : (s.updCkpt n g).handed = s.handed := rfl
@[simp] theorem State.updCkpt_signals (n : Nat) (g : Ckpt → Ckpt) : (s.updCkpt n g).signals = s.signals := rfl
@[simp] theorem State.updCkpt_outbox (n : Nat) (g : Ckpt → Ckpt) : (s.updCkpt n g).outbox = s.outbox := rfl

/-! ### State.updHart -/

@[simp] theorem State.updHart_pending (n : Nat) (g : HartRegs → HartRegs) : (s.updHart n g).pending = s.pending := rfl
@[simp] theorem State.updHart_freeCount (n : Nat) (g : HartRegs → HartRegs) : (s.updHart n g).freeCount = s.freeCount := rfl
@[simp] theorem State.updHart_clock (n : Nat) (g : HartRegs → HartRegs) : (s.updHart n g).clock = s.clock := rfl
@[simp] theorem State.updHart_cores (n : Nat) (g : HartRegs → HartRegs) : (s.updHart n g).cores = s.cores := rfl
@[simp] theorem State.updHart_dies (n : Nat) (g : HartRegs → HartRegs) : (s.updHart n g).dies = s.dies := rfl
@[simp] theorem State.updHart_cdies (n : Nat) (g : HartRegs → HartRegs) : (s.updHart n g).cdies = s.cdies := rfl
@[simp] theorem State.updHart_chans (n : Nat) (g : HartRegs → HartRegs) : (s.updHart n g).chans = s.chans := rfl
@[simp] theorem State.updHart_fabrics (n : Nat) (g : HartRegs → HartRegs) : (s.updHart n g).fabrics = s.fabrics := rfl
@[simp] theorem State.updHart_mesh (n : Nat) (g : HartRegs → HartRegs) : (s.updHart n g).mesh = s.mesh := rfl
@[simp] theorem State.updHart_tens (n : Nat) (g : HartRegs → HartRegs) : (s.updHart n g).tens = s.tens := rfl
@[simp] theorem State.updHart_ckpts (n : Nat) (g : HartRegs → HartRegs) : (s.updHart n g).ckpts = s.ckpts := rfl
@[simp] theorem State.updHart_collQ (n : Nat) (g : HartRegs → HartRegs) : (s.updHart n g).collQ = s.collQ := rfl
@[simp] theorem State.updHart_colls (n : Nat) (g : HartRegs → HartRegs) : (s.updHart n g).colls = s.colls := rfl
@[simp] theorem State.updHart_doneColls (n : Nat) (g : HartRegs → HartRegs) : (s.updHart n g).doneColls = s.doneColls := rfl
@[simp] theorem State.updHart_twin (n : Nat) (g : HartRegs → HartRegs) : (s.updHart n g).twin = s.twin := rfl
@[simp] theorem State.updHart_ec (n : Nat) (g : HartRegs → HartRegs) : (s.updHart n g).ec = s.ec := rfl
@[simp] theorem State.updHart_log (n : Nat) (g : HartRegs → HartRegs) : (s.updHart n g).log = s.log := rfl
@[simp] theorem State.updHart_cpc (n : Nat) (g : HartRegs → HartRegs) : (s.updHart n g).cpc = s.cpc := rfl
@[simp] theorem State.updHart_boot (n : Nat) (g : HartRegs → HartRegs) : (s.updHart n g).boot = s.boot := rfl
@[simp] theorem State.updHart_pkg (n : Nat) (g : HartRegs → HartRegs) : (s.updHart n g).pkg = s.pkg := rfl
@[simp] theorem State.updHart_i3c (n : Nat) (g : HartRegs → HartRegs) : (s.updHart n g).i3c = s.i3c := rfl
@[simp] theorem State.updHart_tap (n : Nat) (g : HartRegs → HartRegs) : (s.updHart n g).tap = s.tap := rfl
@[simp] theorem State.updHart_supply (n : Nat) (g : HartRegs → HartRegs) : (s.updHart n g).supply = s.supply := rfl
@[simp] theorem State.updHart_handed (n : Nat) (g : HartRegs → HartRegs) : (s.updHart n g).handed = s.handed := rfl
@[simp] theorem State.updHart_signals (n : Nat) (g : HartRegs → HartRegs) : (s.updHart n g).signals = s.signals := rfl
@[simp] theorem State.updHart_outbox (n : Nat) (g : HartRegs → HartRegs) : (s.updHart n g).outbox = s.outbox := rfl

/-! ### What the first four write -/

@[simp] theorem State.hand_handed (r : ErrRec) : (s.hand r).handed = s.handed ++ [{ r with time := s.t }] := rfl
@[simp] theorem State.raise_signals (n : Nat) : (s.raise n).signals = s.signals ++ [n] := rfl
@[simp] theorem State.send_outbox (f : OutFrame) : (s.send f).outbox = s.outbox ++ [f] := rfl
@[simp] theorem State.drawn_freeCount : s.drawn.freeCount = s.freeCount + 1 := rfl

/-! ### Units read after a write of a unit -/

/-- Two cores with one key are one core. -/
theorem coreKey_inj {c d : CoreId} (h : coreKey c = coreKey d) : c = d := by
  obtain ⟨⟨a, ha⟩, ⟨p, hp⟩⟩ := c
  obtain ⟨⟨b, hb⟩, ⟨q, hq⟩⟩ := d
  simp only [coreKey] at h
  have : a = b ∧ p = q := by omega
  simp [this.1, this.2]

@[simp] theorem State.core_setCore (c d : CoreId) (k : Core) : (s.setCore c k).core d = if d = c then k else s.core d := by
  unfold State.core State.setCore
  rw [Tab.get_set]
  by_cases h : d = c
  · simp [h]
  · rw [if_neg (fun e => h (coreKey_inj e)), if_neg h]

@[simp] theorem State.core_updCore (c d : CoreId) (g : Core → Core) :
    (s.updCore c g).core d = if d = c then g (s.core c) else s.core d := State.core_setCore _ _ _ _

@[simp] theorem State.dieRate_updDie (a b : Nat) (g : DieRate → DieRate) : (s.updDie a g).dieRate b = if b = a then g (s.dieRate a) else s.dieRate b := Tab.get_upd _ _ _ _
@[simp] theorem State.cdie_updCdie (a b : Nat) (g : CompDie → CompDie) : (s.updCdie a g).cdie b = if b = a then g (s.cdie a) else s.cdie b := Tab.get_upd _ _ _ _
@[simp] theorem State.ten_updTen (a b : Nat) (g : Tenancy → Tenancy) : (s.updTen a g).ten b = if b = a then g (s.ten a) else s.ten b := Tab.get_upd _ _ _ _
@[simp] theorem State.ckpt_updCkpt (a b : Nat) (g : Ckpt → Ckpt) : (s.updCkpt a g).ckpt b = if b = a then g (s.ckpt a) else s.ckpt b := Tab.get_upd _ _ _ _
@[simp] theorem State.hart_updHart (a b : Nat) (g : HartRegs → HartRegs) : (s.updHart a g).hart b = if b = a then g (s.hart a) else s.hart b := Tab.get_upd _ _ _ _
@[simp] theorem State.chan_setChan (a b : Nat) (k : Channel) : (s.setChan a k).chan b = if b = a then k else s.chan b := Tab.get_set _ _ _ _
@[simp] theorem State.chan_updChan (a b : Nat) (g : Channel → Channel) : (s.updChan a g).chan b = if b = a then g (s.chan a) else s.chan b := Tab.get_set _ _ _ _
@[simp] theorem State.fab_setFab (a b : Nat) (k : Fabric) : (s.setFab a k).fab b = if b = a then k else s.fab b := Tab.get_set _ _ _ _
@[simp] theorem State.fab_updFab (a b : Nat) (g : Fabric → Fabric) : (s.updFab a g).fab b = if b = a then g (s.fab a) else s.fab b := Tab.get_set _ _ _ _

/-! ### Units that a write of another kind of unit leaves as they were -/

@[simp] theorem State.core_of_hand (r : ErrRec) (u : CoreId) : (s.hand r).core u = s.core u := rfl
@[simp] theorem State.dieRate_of_hand (r : ErrRec) (u : Nat) : (s.hand r).dieRate u = s.dieRate u := rfl
@[simp] theorem State.cdie_of_hand (r : ErrRec) (u : Nat) : (s.hand r).cdie u = s.cdie u := rfl
@[simp] theorem State.chan_of_hand (r : ErrRec) (u : Nat) : (s.hand r).chan u = s.chan u := rfl
@[simp] theorem State.fab_of_hand (r : ErrRec) (u : Nat) : (s.hand r).fab u = s.fab u := rfl
@[simp] theorem State.ten_of_hand (r : ErrRec) (u : Nat) : (s.hand r).ten u = s.ten u := rfl
@[simp] theorem State.ckpt_of_hand (r : ErrRec) (u : Nat) : (s.hand r).ckpt u = s.ckpt u := rfl
@[simp] theorem State.hart_of_hand (r : ErrRec) (u : Nat) : (s.hand r).hart u = s.hart u := rfl
@[simp] theorem State.t_of_hand (r : ErrRec) : (s.hand r).t = s.t := rfl
@[simp] theorem State.core_of_raise (n : Nat) (u : CoreId) : (s.raise n).core u = s.core u := rfl
@[simp] theorem State.dieRate_of_raise (n : Nat) (u : Nat) : (s.raise n).dieRate u = s.dieRate u := rfl
@[simp] theorem State.cdie_of_raise (n : Nat) (u : Nat) : (s.raise n).cdie u = s.cdie u := rfl
@[simp] theorem State.chan_of_raise (n : Nat) (u : Nat) : (s.raise n).chan u = s.chan u := rfl
@[simp] theorem State.fab_of_raise (n : Nat) (u : Nat) : (s.raise n).fab u = s.fab u := rfl
@[simp] theorem State.ten_of_raise (n : Nat) (u : Nat) : (s.raise n).ten u = s.ten u := rfl
@[simp] theorem State.ckpt_of_raise (n : Nat) (u : Nat) : (s.raise n).ckpt u = s.ckpt u := rfl
@[simp] theorem State.hart_of_raise (n : Nat) (u : Nat) : (s.raise n).hart u = s.hart u := rfl
@[simp] theorem State.t_of_raise (n : Nat) : (s.raise n).t = s.t := rfl
@[simp] theorem State.core_of_send (f : OutFrame) (u : CoreId) : (s.send f).core u = s.core u := rfl
@[simp] theorem State.dieRate_of_send (f : OutFrame) (u : Nat) : (s.send f).dieRate u = s.dieRate u := rfl
@[simp] theorem State.cdie_of_send (f : OutFrame) (u : Nat) : (s.send f).cdie u = s.cdie u := rfl
@[simp] theorem State.chan_of_send (f : OutFrame) (u : Nat) : (s.send f).chan u = s.chan u := rfl
@[simp] theorem State.fab_of_send (f : OutFrame) (u : Nat) : (s.send f).fab u = s.fab u := rfl
@[simp] theorem State.ten_of_send (f : OutFrame) (u : Nat) : (s.send f).ten u = s.ten u := rfl
@[simp] theorem State.ckpt_of_send (f : OutFrame) (u : Nat) : (s.send f).ckpt u = s.ckpt u := rfl
@[simp] theorem State.hart_of_send (f : OutFrame) (u : Nat) : (s.send f).hart u = s.hart u := rfl
@[simp] theorem State.t_of_send (f : OutFrame) : (s.send f).t = s.t := rfl
@[simp] theorem State.core_of_drawn (u : CoreId) : (s.drawn).core u = s.core u := rfl
@[simp] theorem State.dieRate_of_drawn (u : Nat) : (s.drawn).dieRate u = s.dieRate u := rfl
@[simp] theorem State.cdie_of_drawn (u : Nat) : (s.drawn).cdie u = s.cdie u := rfl
@[simp] theorem State.chan_of_drawn (u : Nat) : (s.drawn).chan u = s.chan u := rfl
@[simp] theorem State.fab_of_drawn (u : Nat) : (s.drawn).fab u = s.fab u := rfl
@[simp] theorem State.ten_of_drawn (u : Nat) : (s.drawn).ten u = s.ten u := rfl
@[simp] theorem State.ckpt_of_drawn (u : Nat) : (s.drawn).ckpt u = s.ckpt u := rfl
@[simp] theorem State.hart_of_drawn (u : Nat) : (s.drawn).hart u = s.hart u := rfl
@[simp] theorem State.t_of_drawn : (s.drawn).t = s.t := rfl
@[simp] theorem State.dieRate_of_setCore (c : CoreId) (k : Core) (u : Nat) : (s.setCore c k).dieRate u = s.dieRate u := rfl
@[simp] theorem State.cdie_of_setCore (c : CoreId) (k : Core) (u : Nat) : (s.setCore c k).cdie u = s.cdie u := rfl
@[simp] theorem State.chan_of_setCore (c : CoreId) (k : Core) (u : Nat) : (s.setCore c k).chan u = s.chan u := rfl
@[simp] theorem State.fab_of_setCore (c : CoreId) (k : Core) (u : Nat) : (s.setCore c k).fab u = s.fab u := rfl
@[simp] theorem State.ten_of_setCore (c : CoreId) (k : Core) (u : Nat) : (s.setCore c k).ten u = s.ten u := rfl
@[simp] theorem State.ckpt_of_setCore (c : CoreId) (k : Core) (u : Nat) : (s.setCore c k).ckpt u = s.ckpt u := rfl
@[simp] theorem State.hart_of_setCore (c : CoreId) (k : Core) (u : Nat) : (s.setCore c k).hart u = s.hart u := rfl
@[simp] theorem State.t_of_setCore (c : CoreId) (k : Core) : (s.setCore c k).t = s.t := rfl
@[simp] theorem State.dieRate_of_updCore (c : CoreId) (g : Core → Core) (u : Nat) : (s.updCore c g).dieRate u = s.dieRate u := rfl
@[simp] theorem State.cdie_of_updCore (c : CoreId) (g : Core → Core) (u : Nat) : (s.updCore c g).cdie u = s.cdie u := rfl
@[simp] theorem State.chan_of_updCore (c : CoreId) (g : Core → Core) (u : Nat) : (s.updCore c g).chan u = s.chan u := rfl
@[simp] theorem State.fab_of_updCore (c : CoreId) (g : Core → Core) (u : Nat) : (s.updCore c g).fab u = s.fab u := rfl
@[simp] theorem State.ten_of_updCore (c : CoreId) (g : Core → Core) (u : Nat) : (s.updCore c g).ten u = s.ten u := rfl
@[simp] theorem State.ckpt_of_updCore (c : CoreId) (g : Core → Core) (u : Nat) : (s.updCore c g).ckpt u = s.ckpt u := rfl
@[simp] theorem State.hart_of_updCore (c : CoreId) (g : Core → Core) (u : Nat) : (s.updCore c g).hart u = s.hart u := rfl
@[simp] theorem State.t_of_updCore (c : CoreId) (g : Core → Core) : (s.updCore c g).t = s.t := rfl
@[simp] theorem State.core_of_updDie (d : Nat) (g : DieRate → DieRate) (u : CoreId) : (s.updDie d g).core u = s.core u := rfl
@[simp] theorem State.cdie_of_updDie (d : Nat) (g : DieRate → DieRate) (u : Nat) : (s.updDie d g).cdie u = s.cdie u := rfl
@[simp] theorem State.chan_of_updDie (d : Nat) (g : DieRate → DieRate) (u : Nat) : (s.updDie d g).chan u = s.chan u := rfl
@[simp] theorem State.fab_of_updDie (d : Nat) (g : DieRate → DieRate) (u : Nat) : (s.updDie d g).fab u = s.fab u := rfl
@[simp] theorem State.ten_of_updDie (d : Nat) (g : DieRate → DieRate) (u : Nat) : (s.updDie d g).ten u = s.ten u := rfl
@[simp] theorem State.ckpt_of_updDie (d : Nat) (g : DieRate → DieRate) (u : Nat) : (s.updDie d g).ckpt u = s.ckpt u := rfl
@[simp] theorem State.hart_of_updDie (d : Nat) (g : DieRate → DieRate) (u : Nat) : (s.updDie d g).hart u = s.hart u := rfl
@[simp] theorem State.t_of_updDie (d : Nat) (g : DieRate → DieRate) : (s.updDie d g).t = s.t := rfl
@[simp] theorem State.core_of_updCdie (d : Nat) (g : CompDie → CompDie) (u : CoreId) : (s.updCdie d g).core u = s.core u := rfl
@[simp] theorem State.dieRate_of_updCdie (d : Nat) (g : CompDie → CompDie) (u : Nat) : (s.updCdie d g).dieRate u = s.dieRate u := rfl
@[simp] theorem State.chan_of_updCdie (d : Nat) (g : CompDie → CompDie) (u : Nat) : (s.updCdie d g).chan u = s.chan u := rfl
@[simp] theorem State.fab_of_updCdie (d : Nat) (g : CompDie → CompDie) (u : Nat) : (s.updCdie d g).fab u = s.fab u := rfl
@[simp] theorem State.ten_of_updCdie (d : Nat) (g : CompDie → CompDie) (u : Nat) : (s.updCdie d g).ten u = s.ten u := rfl
@[simp] theorem State.ckpt_of_updCdie (d : Nat) (g : CompDie → CompDie) (u : Nat) : (s.updCdie d g).ckpt u = s.ckpt u := rfl
@[simp] theorem State.hart_of_updCdie (d : Nat) (g : CompDie → CompDie) (u : Nat) : (s.updCdie d g).hart u = s.hart u := rfl
@[simp] theorem State.t_of_updCdie (d : Nat) (g : CompDie → CompDie) : (s.updCdie d g).t = s.t := rfl
@[simp] theorem State.core_of_setChan (n : Nat) (k : Channel) (u : CoreId) : (s.setChan n k).core u = s.core u := rfl
@[simp] theorem State.dieRate_of_setChan (n : Nat) (k : Channel) (u : Nat) : (s.setChan n k).dieRate u = s.dieRate u := rfl
@[simp] theorem State.cdie_of_setChan (n : Nat) (k : Channel) (u : Nat) : (s.setChan n k).cdie u = s.cdie u := rfl
@[simp] theorem State.fab_of_setChan (n : Nat) (k : Channel) (u : Nat) : (s.setChan n k).fab u = s.fab u := rfl
@[simp] theorem State.ten_of_setChan (n : Nat) (k : Channel) (u : Nat) : (s.setChan n k).ten u = s.ten u := rfl
@[simp] theorem State.ckpt_of_setChan (n : Nat) (k : Channel) (u : Nat) : (s.setChan n k).ckpt u = s.ckpt u := rfl
@[simp] theorem State.hart_of_setChan (n : Nat) (k : Channel) (u : Nat) : (s.setChan n k).hart u = s.hart u := rfl
@[simp] theorem State.t_of_setChan (n : Nat) (k : Channel) : (s.setChan n k).t = s.t := rfl
@[simp] theorem State.core_of_updChan (n : Nat) (g : Channel → Channel) (u : CoreId) : (s.updChan n g).core u = s.core u := rfl
@[simp] theorem State.dieRate_of_updChan (n : Nat) (g : Channel → Channel) (u : Nat) : (s.updChan n g).dieRate u = s.dieRate u := rfl
@[simp] theorem State.cdie_of_updChan (n : Nat) (g : Channel → Channel) (u : Nat) : (s.updChan n g).cdie u = s.cdie u := rfl
@[simp] theorem State.fab_of_updChan (n : Nat) (g : Channel → Channel) (u : Nat) : (s.updChan n g).fab u = s.fab u := rfl
@[simp] theorem State.ten_of_updChan (n : Nat) (g : Channel → Channel) (u : Nat) : (s.updChan n g).ten u = s.ten u := rfl
@[simp] theorem State.ckpt_of_updChan (n : Nat) (g : Channel → Channel) (u : Nat) : (s.updChan n g).ckpt u = s.ckpt u := rfl
@[simp] theorem State.hart_of_updChan (n : Nat) (g : Channel → Channel) (u : Nat) : (s.updChan n g).hart u = s.hart u := rfl
@[simp] theorem State.t_of_updChan (n : Nat) (g : Channel → Channel) : (s.updChan n g).t = s.t := rfl
@[simp] theorem State.core_of_setFab (n : Nat) (k : Fabric) (u : CoreId) : (s.setFab n k).core u = s.core u := rfl
@[simp] theorem State.dieRate_of_setFab (n : Nat) (k : Fabric) (u : Nat) : (s.setFab n k).dieRate u = s.dieRate u := rfl
@[simp] theorem State.cdie_of_setFab (n : Nat) (k : Fabric) (u : Nat) : (s.setFab n k).cdie u = s.cdie u := rfl
@[simp] theorem State.chan_of_setFab (n : Nat) (k : Fabric) (u : Nat) : (s.setFab n k).chan u = s.chan u := rfl
@[simp] theorem State.ten_of_setFab (n : Nat) (k : Fabric) (u : Nat) : (s.setFab n k).ten u = s.ten u := rfl
@[simp] theorem State.ckpt_of_setFab (n : Nat) (k : Fabric) (u : Nat) : (s.setFab n k).ckpt u = s.ckpt u := rfl
@[simp] theorem State.hart_of_setFab (n : Nat) (k : Fabric) (u : Nat) : (s.setFab n k).hart u = s.hart u := rfl
@[simp] theorem State.t_of_setFab (n : Nat) (k : Fabric) : (s.setFab n k).t = s.t := rfl
@[simp] theorem State.core_of_updFab (n : Nat) (g : Fabric → Fabric) (u : CoreId) : (s.updFab n g).core u = s.core u := rfl
@[simp] theorem State.dieRate_of_updFab (n : Nat) (g : Fabric → Fabric) (u : Nat) : (s.updFab n g).dieRate u = s.dieRate u := rfl
@[simp] theorem State.cdie_of_updFab (n : Nat) (g : Fabric → Fabric) (u : Nat) : (s.updFab n g).cdie u = s.cdie u := rfl
@[simp] theorem State.chan_of_updFab (n : Nat) (g : Fabric → Fabric) (u : Nat) : (s.updFab n g).chan u = s.chan u := rfl
@[simp] theorem State.ten_of_updFab (n : Nat) (g : Fabric → Fabric) (u : Nat) : (s.updFab n g).ten u = s.ten u := rfl
@[simp] theorem State.ckpt_of_updFab (n : Nat) (g : Fabric → Fabric) (u : Nat) : (s.updFab n g).ckpt u = s.ckpt u := rfl
@[simp] theorem State.hart_of_updFab (n : Nat) (g : Fabric → Fabric) (u : Nat) : (s.updFab n g).hart u = s.hart u := rfl
@[simp] theorem State.t_of_updFab (n : Nat) (g : Fabric → Fabric) : (s.updFab n g).t = s.t := rfl
@[simp] theorem State.core_of_updTen (n : Nat) (g : Tenancy → Tenancy) (u : CoreId) : (s.updTen n g).core u = s.core u := rfl
@[simp] theorem State.dieRate_of_updTen (n : Nat) (g : Tenancy → Tenancy) (u : Nat) : (s.updTen n g).dieRate u = s.dieRate u := rfl
@[simp] theorem State.cdie_of_updTen (n : Nat) (g : Tenancy → Tenancy) (u : Nat) : (s.updTen n g).cdie u = s.cdie u := rfl
@[simp] theorem State.chan_of_updTen (n : Nat) (g : Tenancy → Tenancy) (u : Nat) : (s.updTen n g).chan u = s.chan u := rfl
@[simp] theorem State.fab_of_updTen (n : Nat) (g : Tenancy → Tenancy) (u : Nat) : (s.updTen n g).fab u = s.fab u := rfl
@[simp] theorem State.ckpt_of_updTen (n : Nat) (g : Tenancy → Tenancy) (u : Nat) : (s.updTen n g).ckpt u = s.ckpt u := rfl
@[simp] theorem State.hart_of_updTen (n : Nat) (g : Tenancy → Tenancy) (u : Nat) : (s.updTen n g).hart u = s.hart u := rfl
@[simp] theorem State.t_of_updTen (n : Nat) (g : Tenancy → Tenancy) : (s.updTen n g).t = s.t := rfl
@[simp] theorem State.core_of_updCkpt (n : Nat) (g : Ckpt → Ckpt) (u : CoreId) : (s.updCkpt n g).core u = s.core u := rfl
@[simp] theorem State.dieRate_of_updCkpt (n : Nat) (g : Ckpt → Ckpt) (u : Nat) : (s.updCkpt n g).dieRate u = s.dieRate u := rfl
@[simp] theorem State.cdie_of_updCkpt (n : Nat) (g : Ckpt → Ckpt) (u : Nat) : (s.updCkpt n g).cdie u = s.cdie u := rfl
@[simp] theorem State.chan_of_updCkpt (n : Nat) (g : Ckpt → Ckpt) (u : Nat) : (s.updCkpt n g).chan u = s.chan u := rfl
@[simp] theorem State.fab_of_updCkpt (n : Nat) (g : Ckpt → Ckpt) (u : Nat) : (s.updCkpt n g).fab u = s.fab u := rfl
@[simp] theorem State.ten_of_updCkpt (n : Nat) (g : Ckpt → Ckpt) (u : Nat) : (s.updCkpt n g).ten u = s.ten u := rfl
@[simp] theorem State.hart_of_updCkpt (n : Nat) (g : Ckpt → Ckpt) (u : Nat) : (s.updCkpt n g).hart u = s.hart u := rfl
@[simp] theorem State.t_of_updCkpt (n : Nat) (g : Ckpt → Ckpt) : (s.updCkpt n g).t = s.t := rfl
@[simp] theorem State.core_of_updHart (n : Nat) (g : HartRegs → HartRegs) (u : CoreId) : (s.updHart n g).core u = s.core u := rfl
@[simp] theorem State.dieRate_of_updHart (n : Nat) (g : HartRegs → HartRegs) (u : Nat) : (s.updHart n g).dieRate u = s.dieRate u := rfl
@[simp] theorem State.cdie_of_updHart (n : Nat) (g : HartRegs → HartRegs) (u : Nat) : (s.updHart n g).cdie u = s.cdie u := rfl
@[simp] theorem State.chan_of_updHart (n : Nat) (g : HartRegs → HartRegs) (u : Nat) : (s.updHart n g).chan u = s.chan u := rfl
@[simp] theorem State.fab_of_updHart (n : Nat) (g : HartRegs → HartRegs) (u : Nat) : (s.updHart n g).fab u = s.fab u := rfl
@[simp] theorem State.ten_of_updHart (n : Nat) (g : HartRegs → HartRegs) (u : Nat) : (s.updHart n g).ten u = s.ten u := rfl
@[simp] theorem State.ckpt_of_updHart (n : Nat) (g : HartRegs → HartRegs) (u : Nat) : (s.updHart n g).ckpt u = s.ckpt u := rfl
@[simp] theorem State.t_of_updHart (n : Nat) (g : HartRegs → HartRegs) : (s.updHart n g).t = s.t := rfl

end Sys2Proof.Machine
end

