-- ==== Sys2Proof/Tests/Slice0.lean ====
section
/-! SUPPORT. Tests of single steps, and for each statement with hypotheses a state and operands that meet them: a witness names its
statement, and its clauses follow those of the statement (`_1`, `_2` are parts of one). Expected results are worked out by hand from the
rules the statements cite. A signature or an image that verifies is a premise on a constant without a value (log 7): there the other
premises are shown. -/

namespace Sys2Proof.Tests

set_option Elab.async false

open Sys2Proof Sys2Proof.Machine

/-- The state after a command. -/
def after (i : Instr) (s : State) : State := match exec i s with | .next t => t | _ => s

/-- Core 0 of compute die 0, the core beside it, and its first solver core. -/
def c0 : CoreId := ⟨0, ⟨0, by decide⟩⟩
def c1 : CoreId := ⟨0, ⟨1, by decide⟩⟩
def sv0 : CoreId := ⟨0, ⟨21504, by decide⟩⟩

/-- A block of bytes from fields (offset, size, value). -/
def blob (n : Nat) (l : List (Nat × Nat × Nat)) : Desc :=
  (List.range n).map (fun i => l.foldl (fun b x => if x.1 ≤ i ∧ i < x.1 + x.2.1 then BitVec.ofNat 8 (x.2.2 / 256 ^ (i - x.1)) else b) 0)

/-- A memory that lists one block. -/
def memAt (a : Nat) (l : List Byte) : Mem := (l.zipIdx.map (fun p => (a + p.2, p.1))).filter (fun e => e.2 != 0)

/-- A byte address of the issuing core's working store as an NPA. -/
def ws (a : Nat) : Nat := 2 * 2 ^ 48 + a

/-- What holds of every listed entry and of the default holds of what any key reads. -/
theorem tab_all {α : Type} [Inhabited α] (p : α → Bool) (hd : p default = true) : ∀ t : Tab α, t.all (fun e => p e.2) = true → ∀ k, p (t.get k) = true
  | [], _, _ => hd
  | e :: r, h, k => by
    simp only [List.all_cons, Bool.and_eq_true] at h
    simp only [Tab.get]
    split
    · exact h.1
    · exact tab_all p hd r h.2 k

/-- `State.NothingWaits` and `State.NoMirrorWaits`, over the listed entries alone. -/
def quiet (s : State) : Bool :=
  s.fabrics.all (fun e => e.2.waiting == [] && e.2.dups == []) && ((s.fab 0).outst ++ (s.fab 1).outst).all (fun o => o.again == none) &&
    s.ckpts.all (fun e => e.2.phase != .mirror && e.2.phase != .jobMirror)

theorem quiet_waits (s : State) (h : quiet s = true) : s.NothingWaits ∧ s.NoMirrorWaits := by
  simp only [quiet, Bool.and_eq_true] at h
  refine ⟨⟨fun pl => ?_, fun o ho => ?_⟩, fun t => ?_⟩
  · simpa [State.fab] using tab_all (fun f : Fabric => f.waiting == [] && f.dups == []) (by decide) _ h.1.1 pl
  · simpa using List.all_eq_true.mp h.1.2 o ho
  · simpa [State.ckpt] using tab_all (fun c : Ckpt => c.phase != .mirror && c.phase != .jobMirror) (by decide) _ h.2 t

/-! ### Well-formedness refuses -/

theorem test_wf_upset : (Instr.eiss c0 1 1 0 [.cells false 0 0 0 0]).wf = false := by decide
theorem test_wf_upset_outside : (Instr.scrubRow c0 [.wrongRow true (10 ^ 9)] []).wf = false := by decide
theorem test_wf_newer : (Instr.scrubRow c0 [] [3, 3]).wf = false := by decide
theorem test_wf_mismatch : (Instr.matrixTilePassEnd c0 (some { first := [{ unit := 16, what := .product 3 5 14 }] }) []).wf = false := by decide
theorem test_wf_vector_mismatch : (Instr.vectorTileEnd c0 (some { first := [{ check := 5, what := .pair 0 1 }] }) []).wf = false := by decide
theorem test_wf_compared : (Instr.matrixTilePassEnd c0 (some { first := [{ check := 4, what := .pair 0 1 }] }) []).wf = false ∧
    (Instr.matrixTilePassEnd c0 (some { first := [{ check := 5, what := .pair 0 1 }] }) []).wf = true ∧ (Instr.solverCheckStep c0 (some {}) []).wf = false := by decide
/-- The worked example of chapter 4: the product of 11 and 13 is read as 159, which leaves 4 where the checker predicts 19; an error of 31 goes
undetected. -/
theorem test_product_check : predicted false (.product 11 13 159) = 19 ∧ observed false (.product 11 13 159) = 4 ∧
    checkFails false { what := .product 11 13 174 } = false := by decide
theorem test_wf_symbols : (Instr.gddrRequest 0 [{ pos := 1, diff := 0 }]).wf = false := by decide
theorem test_wf_sectors : (Instr.memRead 0 [(32, { pos := 1, diff := 1 })]).wf = false := by decide
theorem test_wf_sector : (Instr.squallExit 0 (4 * 2 ^ 25)).wf = false := by decide
theorem test_wf_frame : (Instr.wtStore 0 0 { self := true }).wf = false := by decide
theorem test_wf_peer : (Instr.creditUpdateSend 0 (2 ^ 129)).wf = false := by decide
theorem test_wf_digest : (Instr.commit 0 default 0 0 []).wf = false := by decide
theorem test_wf_mirror : (Instr.mirrorData default 2 0 0 0).wf = false := by decide
theorem test_wf_views : (Instr.restoreView 0 default [] {}).wf = false := by decide
theorem test_wf_start : (Instr.startSequence { failedChans := [1, 1] }).wf = false := by decide
theorem test_wf_nonce : (Instr.attestationRequest none [] false).wf = false := by decide
theorem test_wf_wake : (Instr.wake 6).wf = false := by decide
theorem test_wf_reset : (Instr.dieReset 1 [(c0, 0, 0)]).wf = false := by decide
theorem test_wf_rails : (Instr.powerBudgetWindow 0 [(0, 1), (0, 2)]).wf = false := by decide
theorem test_wf_access : (Instr.xld 0 0 false 1 1 1 { flips := [(0, 73)] }).wf = false := by decide
theorem test_wf_submit : (Instr.collectiveSubmit 0 0 (List.replicate 513 0)).wf = false := by decide +kernel
theorem test_wf_good : (Instr.enext c0 1).wf = true := by decide

/-- No row of the table gives bits, so no word spells a command. -/
theorem test_no_word : decodeTableWord 32 0x0000000B = none := by decide
theorem test_no_fetch : State.reset.withFetchWord 32 0x0000000B = State.reset := by decide

/-! ### The machine -/

theorem test_step : ((match step { State.reset with pending := [.bypass, .idcode] } with | .next t => t | _ => State.reset)).pending.length = 1 := by decide +kernel
theorem witness_IdleStepPassesOneNanosecond : State.reset.pending = [] ∧ State.reset.colls.all (fun c => !c.badRank) = true ∧ State.reset.clock.now ≠ BitVec.allOnes 64 := by decide
theorem test_reset_rate : (State.reset.core c0).rateMin = 0xFFFF := by decide

/-! ### Control unit -/

/-- A copy of 64 bytes within the working store. -/
def copyD : Desc := blob 96 [(0, 1, 2), (1, 1, 1), (2, 1, 3), (4, 4, 0x77), (24, 8, ws 0x800),
  (0x20, 8, ws 0x400), (0x28, 8, ws 0x600), (0x32, 1, 6), (0x34, 4, 64), (0x38, 4, 1)]
def badD : Desc := blob 96 [(0, 1, 9), (2, 1, 3)]
def cuCore : Core := { cuRunning := true, enable := true, xregs := [(1, 0x200), (2, 0x77)], pc := 0x40 }
def one (k : Core) : State := { cores := [(0, k)], dies := [(0, { admitting := true, floorRate := 800 })] }
def eissS : State := one { cuCore with ws := memAt 0x200 copyD }
def eissBad : State := one { cuCore with ws := memAt 0x200 badD }
def eissOff : State := { eissS with dies := [] }

theorem witness_EissAdmitsOrRefuses_1 :
    let s := eissS
    let r := (s.upset c0 []).readDesc c0 0x200
    let d := r.2.2
    let k := r.1.core c0
    (s.core c0).cuReady = true ∧ ((s.core c0).x 1).toNat = 0x200 ∧ (s.core c0).banksReady c0 0x200 32 = true ∧ r.2.1 = false ∧ r.1.descBad c0 0x200 d = false ∧
      k.pickFree 5 = some 5 ∧ k.enable = true ∧ k.member = false ∧ r.1.dieAdmits 0 = true ∧ r.1.badExtent c0 d = none ∧ k.narrowOnly = false ∧
      r.1.namesLost c0 (r.1.planOf c0 d) = false ∧ r.1.credsOk c0 (r.1.planOf c0 d) d = true ∧ k.resolveDep d 5 ≠ .broken ∧ d.engine ≠ 3 ∧
      ((after (.eiss c0 3 1 5 []) s).core c0).x 3 = 5 ∧ ((after (.eiss c0 3 1 5 []) s).core c0).order = [5] ∧
      (((after (.eiss c0 3 1 5 []) s).core c0).entry 5).desc = copyD := by decide +kernel
theorem witness_EissAdmitsOrRefuses_2 :
    (let r := (eissBad.upset c0 []).readDesc c0 0x200
     (eissBad.core c0).cuReady = true ∧ r.2.1 = false ∧ r.1.descBad c0 0x200 r.2.2 = true ∧ ((after (.eiss c0 3 1 5 []) eissBad).core c0).mcause = 2) ∧
    (let r := (eissOff.upset c0 []).readDesc c0 0x200
     r.2.1 = false ∧ r.1.descBad c0 0x200 r.2.2 = false ∧ r.1.dieAdmits 0 = false ∧ ((after (.eiss c0 3 1 5 []) eissOff).core c0).x 3 = 0x80000003) ∧
    (((eissS.core c0).x 2).toNat % 32 ≠ 0 ∧ ((after (.eiss c0 3 2 5 []) eissS).core c0).cuTrapped = true) := by decide +kernel

/-- A core with entries in the states of R93. -/
def tabCore : Core := { cuCore with xregs := [(1, 4), (2, 0x77)], order := [4], entries := [(4, { code := .done, desc := copyD, status := 1, op := 1 })], sums := [(4, 9)] }
def tab (e : Entry) : State := one { tabCore with entries := [(4, e)] }
def runE : Entry := { code := .running, desc := copyD, op := 1 }

theorem witness_EnextDeliversAndEabortAnswers_1 :
    (let s := one { tabCore with order := [], entries := [] }
     (s.core c0).cuReady = true ∧ (s.core c0).order = [] ∧ ((after (.enext c0 3) s).core c0).x 3 = 0xFFFFFFFF) ∧
    (let s := one tabCore
     (s.core c0).order = [4] ∧ ((s.core c0).entry 4).ended = true ∧ s.castFull c0 = false ∧ ((after (.enext c0 3) s).core c0).x 3 = 0x401 ∧
       (((after (.enext c0 3) s).core c0).entry 4).code = .free) ∧
    (let s := tab runE
     ((s.core c0).entry 4).ended = false ∧ ((after (.enext c0 3) s).core c0).wait = .enext 3) := by decide +kernel
theorem witness_EnextDeliversAndEabortAnswers_2 :
    (let s := tab { code := .done, desc := copyD, status := 0, op := 1 }
     (s.core c0).cuReady = true ∧ ((s.core c0).entry 4).code = .done ∧ ((after (.eabort c0 3 1 2) s).core c0).x 3 = 1) ∧
    (let s := tab { code := .failed, desc := copyD, status := 0x44, op := 1 }
     ((s.core c0).entry 4).code = .failed ∧ ((s.core c0).entry 4).d.opTag = (s.core c0).x 2 ∧ ((after (.eabort c0 3 1 2) s).core c0).x 3 = 0x44) ∧
    (let s := tab runE
     ((s.core c0).entry 4).code = .running ∧ ((s.core c0).entry 4).d.opTag = (s.core c0).x 2 ∧ ((s.core c0).entry 4).outcome = none ∧
       (((after (.eabort c0 3 1 2) s).core c0).entry 4).abortReq = true) := by decide +kernel
theorem test_cu_words : cuWord c0 7 0x0005008B = some (.eiss c0 1 10 7 []) ∧ cuWord c0 0 0x00C5B08B = some (.eabort c0 1 11 12) ∧
    cuWord c0 0 0x0000500B = none ∧ cuWord c0 0 0x0200000B = none := by decide +kernel
theorem witness_EtestEsumAndWfi :
    (tabCore.cuReady = true ∧ tabCore.order = [4] ∧ ((after (.etest c0 3) (one tabCore)).core c0).x 3 = 0x403 ∧
      ((after (.esum c0 3 1) (one tabCore)).core c0).x 3 = 9) ∧
    (((tab runE).core c0).drained = false ∧ ((after (.wfi c0) (tab runE)).core c0).wait = .wfi) ∧
    ((one tabCore).core c0).wait = .none := by decide +kernel
theorem witness_OperationsStartInOrderAndEnd :
    (let s := tab { runE with code := .admitted }
     ((s.core c0).entry 4).code = .admitted ∧ ((s.core c0).entry 4).dep = .none ∧ (s.core c0).engineFree ((s.core c0).entry 4) = true ∧
       ((s.core c0).entry 4).d.engine ≤ 2 ∧ ((after (.opStart c0 4) s).core c0).dma.entry = some 4) ∧
    (let s := tab { runE with outcome := some stDone }
     ((s.core c0).entry 4).code = .running ∧ ((s.core c0).entry 4).outcome = some stDone ∧ (s.core c0).wait = .none ∧
       (∀ y ∈ (s.core c0).entries, y.2.code = .admitted → y.2.dep ≠ .on 1 ∧ y.2.dep ≠ .broken) ∧ ((s.core c0).entry 4).d.engine ≠ 3 ∧
       (((after (.opEnd c0 4) s).core c0).entry 4).code = .done) ∧
    (let s := tab { runE with outcome := some stDone, abortReq := true, abortStatus := stAborted }
     stDone ≠ stAborted ∧ isF stDone = false ∧ (((after (.opEnd c0 4) s).core c0).entry 4).code = .aborted) ∧
    (((tab runE).core c0).entry 4).outcome = none := by decide +kernel
theorem witness_ControlUnitLoadsAndStores :
    (let s := one { cuCore with ws := [(0x203, 0x80)], xregs := [(1, 0x1234)] }
     (s.core c0).cuReady = true ∧ (0x203 : Nat) % 2 ^ 0 = 0 ∧ cuPlace c0 0x203 1 = some (false, 0x203) ∧ (s.core c0).banksReady c0 0x203 1 = true ∧
       ((after (.controlUnitLoadStore c0 .load 0 false 0x203 3 []) s).core c0).x 3 = 0xFFFFFF80 ∧
       ((after (.controlUnitLoadStore c0 .load 0 true 0x203 3 []) s).core c0).x 3 = 0x80 ∧
       ((after (.controlUnitLoadStore c0 .store 1 false 0x202 1 []) s).core c0).ws = [(0x202, 0x34), (0x203, 0x12)] ∧
       cuPlace c0 0x10000000 4 = some (true, 0) ∧ ((after (.controlUnitLoadStore c0 .store 2 false 0x10000000 1 []) s).core c0).rs = [(0, 0x34), (1, 0x12)]) ∧
    (let s := one cuCore
     (s.core c0).cuReady = true ∧ (0x201 : Nat) % 2 ^ 1 ≠ 0 ∧ ((after (.controlUnitLoadStore c0 .store 1 false 0x201 1 []) s).core c0).mcause = 6) := by decide +kernel
/-- Core 0 at 0x1000_0100 with an instruction there. -/
def cuAt (x : BitVec 32) : State :=
  one { cuCore with rs := ((List.range 4).map (fun i => (0x100 + i, BitVec.ofNat 8 (x.toNat / 256 ^ i)))).filter (fun p => p.2 != 0), pc := 0x10000100, xregs := [(10, 0xFFFFFFF0), (11, 3)] }
def cuDid (x : BitVec 32) : Core := (after (.controlUnitLoadStore c0 .fetch 0 true 0x10000100 0 []) (cuAt x)).core c0
theorem witness_ControlUnitLoadsAndStores_2 :
    ((cuAt 0x00158513).core c0).cuReady = true ∧ (List.range 4).all (fun i => ((cuAt 0x00158513).core c0).rs.read (0x100 + i) == BitVec.ofNat 8 (0x00158513 / 256 ^ i)) = true ∧
    (0x00158513 : BitVec 32) = (1 : BitVec 12) ++ (11 : BitVec 5) ++ (0 : BitVec 3) ++ (10 : BitVec 5) ++ (0x13 : BitVec 7) ∧ (cuDid 0x00158513).x 10 = 4 ∧
    (cuDid 0x00B50533).x 10 = 0xFFFFFFF3 ∧ (cuDid 0x40B50533).x 10 = 0xFFFFFFED ∧ (cuDid 0x02B50533).x 10 = 0xFFFFFFD0 ∧ (cuDid 0x001000EF).pc = 0x10000900 ∧
    (cuDid 0x00B50463).pc = 0x10000104 ∧ (cuDid 0x00B58463).pc = 0x10000108 ∧ (cuDid 0x4515).x 10 = 5 ∧ (cuDid 0x4515).pc = 0x10000102 ∧
    (cuDid 0xF1402573).x 10 = BitVec.ofNat 32 ((cuAt 0).logNum c0) ∧ (cuDid 0x73).mcause = 11 ∧ (cuDid 0x0000100B).x 0 = 0 := by decide +kernel
/-- Words of RISC-V's own encoding, and what C stands for in RV32 and RV64. -/
theorem test_riscv_words : rvExpand false 0x2001 = some 0x000000EF ∧ rvExpand true 0x2505 = some 0x0015051B ∧ rvExpand false 0x8D0D = some 0x40B50533 ∧
    rvExpand true 0x611C = some 0x00053783 ∧ rvExpand false 0x611C = none ∧ rvExpand false 0 = none ∧ rvExpand true 0x1502 = some 0x02051513 := by decide +kernel
def req1 : DmaReq := { id := 3, phase := 1, waiting := 1, len := 64, dst := ws 0x600 }

/-! ### Engines -/

/-- INT8 1 × 1 × k: A at 0x400, B at 0x600, C at 0x800. -/
def mxD (m k : Nat) : Desc := blob 128 [(1, 1, 1), (2, 1, 4), (4, 4, 0x77), (24, 8, ws 0xA00), (0x20, 8, ws 0x400), (0x28, 8, ws 0x600), (0x30, 8, ws 0x800),
  (0x38, 2, m), (0x3A, 2, 1), (0x3C, 4, k), (0x40, 4, 8), (0x44, 4, 1), (0x48, 4, 4), (0x4C, 1, 8), (0x4D, 1, 8), (0x4E, 1, 9)]
def mxS (m k : Nat) (e : Entry := {}) : State := one { cuCore with
  entries := [(4, { e with code := .running, desc := mxD m k, op := 1 })], mx := some { entry := 4 }, ws := [(0x400, 3), (0x600, 0xFE)] }
def mxT (m k : Nat) : State := after (.matrixTilePassEnd c0 none []) (mxS m k)

theorem witness_MatrixAndVectorTilesEndClean_1 :
    (((mxS 1 1).core c0).mx = some { entry := 4 } ∧ (((mxS 1 1).core c0).entry 4).busy = true ∧ (((mxS 1 1).core c0).entry 4).abortReq = false ∧
      ((mxS 1 1).core c0).tileq = false ∧ ((mxS 1 1).core c0).wsErr = [] ∧ (mxD 1 1).nanTrap = false ∧ (mxD 1 1).mx.passes = 1 ∧
      (((mxT 1 1).core c0).entry 4).outcome = some stDone ∧
      ((mxT 1 1).core c0).ws.filter (fun e => e.1 ≥ 0x800) = [(0x800, 0xFA), (0x801, 0xFF), (0x802, 0xFF), (0x803, 0xFF)]) ∧
    ((mxD 17 1).mx.tilesM = 2 ∧ ((mxT 17 1).core c0).mx = some { entry := 4, tile := 1 }) ∧
    ((mxD 1 257).mx.passes = 2 ∧ (((mxT 1 257).core c0).mx.map (·.pass)) = some 1) := by decide +kernel

/-- A chain of one stage, neg, FP32: 0x400 to 0x800. -/
def vxD (n : Nat) : Desc := blob 160 [(0, 1, 1), (1, 1, 1), (2, 1, 5), (4, 4, 0x77), (24, 8, ws 0xA00), (0x20, 8, ws 0x400), (0x38, 8, ws 0x800),
  (0x40, 4, n), (0x44, 1, 2), (0x45, 1, 2), (0x46, 1, 2), (0x47, 1, 2), (0x60, 4, 9)]
def vxS (n : Nat) (e : Entry := {}) : State := one { cuCore with
  entries := [(4, { e with code := .running, desc := vxD n, op := 1 })], vx := some { entry := 4 }, ws := [(0x402, 0x80), (0x403, 0x3F)] }
def vxT (n : Nat) : State := after (.vectorTileEnd c0 none []) (vxS n)

theorem witness_MatrixAndVectorTilesEndClean_2 :
    (((vxS 1).core c0).vx = some { entry := 4 } ∧ (((vxS 1).core c0).entry 4).busy = true ∧ (vxD 1).nanTrap = false ∧
      ((vxS 1).vxTile c0 (vxD 1) { entry := 4 }).bad = none ∧ ((vxS 1).vxTile c0 (vxD 1) { entry := 4 }).next = none ∧
      (((vxT 1).core c0).entry 4).outcome = some stDone ∧
      ((vxT 1).core c0).ws.filter (fun e => e.1 ≥ 0x800) = [(0x802, 0x80), (0x803, 0xBF)]) ∧
    (((vxS 257).vxTile c0 (vxD 257) { entry := 4 }).bad = none ∧ ((vxT 257).core c0).vx = some { entry := 4, tile := 1 }) := by decide +kernel

/-- One failed check, in the first execution or in both: a rounding, or an integer product. -/
def mis (again : Bool) (n : BitVec 3 := 2) : Mismatch :=
  let f : Finding := { check := n, stage := 0, what := if n = 3 then .product 3 5 14 else .round 5 2 1 22 }
  { first := [f], second := if again then [f] else [] }
theorem witness_SecondMismatchEndsTheOperation :
    (((mxS 1 1 { reexec := true }).core c0).entry 4).reexec = true ∧ (mis true).second ≠ [] ∧ ((vxS 1).tileView c0 true).core c0 = (vxS 1).core c0 ∧ misFits true (vxD 1).vxChecks (mis true) = some (mis true) ∧ misFits false ((mxD 1 1).mx.hasCheck true) (mis true 3) = some (mis true 3) ∧
    (((after (.matrixTilePassEnd c0 (some (mis true 3)) []) (mxS 1 1)).core c0).entry 4).outcome = some stResidueFault ∧
    (((after (.matrixTilePassEnd c0 (some (mis false 3)) []) (mxS 1 1 { reexec := true })).core c0).entry 4).outcome = some stResidueFault ∧
    (((after (.vectorTileEnd c0 (some (mis true)) []) (vxS 1)).core c0).entry 4).outcome = some stResidueFault ∧
    ((after (.vectorTileEnd c0 (some (mis true)) []) (vxS 1)).core c0).suspect = true := by decide +kernel

/-- CGLS over a team of one member: core 0 of the band. -/
def svD : Desc := blob 160 [(0, 1, 3), (1, 1, 3), (2, 1, 5), (4, 4, 0x77), (16, 2, 1), (24, 8, ws 0x800), (0x28, 8, ws 0x400), (0x30, 8, ws 0x600), (0x38, 8, ws 0x1000),
  (0x60, 4, 1), (0x64, 4, 1), (0x6C, 2, 2), (0x94, 2, 0), (0x96, 2, 1)]
def svS (v : SvRun) (km : Core := {}) (cnt : Nat := 1) : State :=
  { cores := [(0, km), (21504, { jobId := 5, jobValid := true, entries := [(4, { code := .running, desc := svD.set 0x96 (BitVec.ofNat 8 cnt), op := 1 })], sv := some v })]
    cdies := [(0, { used := (List.range 128).map (fun i => (i, BitVec.ofNat 168 (2 ^ 160 - 1))), svUsed := BitVec.ofNat 68 (2 ^ 64 - 1) })] }
def run0 : SvRun := { entry := 4 }
/-- Five adjacent cells flip: two of one word of the solver's right side. -/
def svHit : Upset := .cells false 1 0 0 5

theorem witness_SolvesGoThroughTheirSteps_1 :
    let s := svS run0
    (s.core sv0).sv = some run0 ∧ ((s.core sv0).entry 4).busy = true ∧ ((s.core sv0).entry 4).abortReq = false ∧ svD.sv.iterative = true ∧ run0.stage = 3 ∧
    (∀ m ∈ s.team sv0 svD.sv, m.1 ≠ sv0) ∧ (s.team sv0 svD.sv).length = 1 ∧
    (((after (.solverCheckStep sv0 none [svHit]) s).core sv0).entry 4).outcome = some stMemUnc ∧
    (((after (.solverCheckStep sv0 (some (mis true)) []) s).core sv0).entry 4).outcome = some stResidueFault ∧
    (s.svRead sv0 svD (s.svWho sv0 svD)).2.1 = stDone ∧ s.lentLive sv0 4 = false ∧ (mis true).second ≠ [] ∧ (∀ m ∈ s.members sv0 4, m ≠ sv0) ∧
    (((after (.solverCheckStep sv0 none []) s).core sv0).entry 4).outcome = none ∧
    (let s2 := s.upset sv0 [svHit]
     (s2.svRead sv0 svD (s2.svWho sv0 svD)).2.1 = stMemUnc ∧ (((after (.solverCheckStep sv0 none []) s2).core sv0).entry 4).outcome = some stMemUnc) ∧
    (let s2 := s.updCore sv0 (fun k => k.updEntry 4 (fun e => { e with abortReq := true, abortStatus := stAborted }))
     ((s2.core sv0).entry 4).abortReq = true ∧ (((after (.solverCheckStep sv0 none []) s2).core sv0).entry 4).outcome = some stAborted) ∧
    run0.product = [] ∧ svD.sv.optimistic = false ∧ ((after (.solveDeadlineCheck sv0 true) (svS { run0 with stage := 0 })).core sv0).sv = some { run0 with stage := 0 } := by decide +kernel

/-- A member with one forward descriptor, whose 4 result bytes stand at 0x40. -/
def memK (code : EntryCode) (st : Byte) : Core :=
  { member := true, jobId := 5, jobValid := true, lent := [7], entries := [(7, { code := code, status := st })], ws := [(0x40, 9)], teamBlock := blob 64 [(0, 1, 1), (1, 1, 1), (0x14, 4, 0x40), (0x1C, 4, 4)] }
def run1 : SvRun := { run0 with stage := 0 }
theorem witness_SolvesGoThroughTheirSteps_2 :
    (let s := svS run1 (memK .done 0) 2
     (s.core sv0).sv = some run1 ∧ run1.stage ≠ 3 ∧ (s.team sv0 ((s.core sv0).entry 4).d.sv)[0]? = some (c0, 0) ∧ c0 ≠ sv0 ∧ run1.product = [] ∧
       (teamList (s.core c0).teamBlock 0).length = 1 ∧ (∀ i ∈ (s.core c0).lent, ((s.core c0).entry i).code ≠ .failed) ∧
       1 ≤ ((s.core c0).lent.filter (fun i => ((s.core c0).entry i).code != .free)).length ∧
       (∀ i ∈ (s.core c0).lent.take 1, ((s.core c0).entry i).code = .done) ∧
       (let f := s.meshMove sv0 c0 false false 0x40 4 [] ((s.core sv0).entry 4).d.opTag
        f.2 = (stDone, [9, 0, 0, 0]) ∧ (f.1.core sv0).sv = some run1 ∧ (f.1.core c0).lent = [7]) ∧
       (let s2 := svS run1 { memK .done 0 with teamBlock := blob 64 [(0, 1, 1), (1, 1, 1), (0x14, 4, 0x300000), (0x1C, 4, 4)] } 2
        let f := s2.meshMove sv0 c0 false false 0x300000 4 [] ((s2.core sv0).entry 4).d.opTag
        f.2.1 = stWindowFault ∧ f.1.lentLive sv0 4 = false ∧ (((after (.teamProductDone sv0 0) s2).core sv0).entry 4).outcome = some stWindowFault) ∧
       run1.product.length + 1 < (s.team sv0 ((s.core sv0).entry 4).d.sv).length ∧
       (((after (.teamProductDone sv0 0) s).core sv0).sv.map (·.product)) = some [(0, [9, 0, 0, 0])] ∧
       (((after (.teamProductDone sv0 0) s).core c0).entry 7).code = .free) ∧
    (let s := svS run1 (memK .failed 0x44) 2
     (s.core c0).lent = [7] ∧ ((s.core c0).entry 7).code = .failed ∧ (((after (.teamProductDone sv0 0) s).core sv0).entry 4).outcome = some 0x44) := by decide +kernel

/-! ### DMA and mesh -/

def dmaS (d : Desc) : State := one { cuCore with entries := [(4, { runE with desc := d, gddrCred := (List.range 20).map (fun c => (c, 1)) })], dma := { entry := some 4 }, ws := [(0x400, 5), (0x43F, 6)] }
def gddrD : Desc := blob 96 [(0, 1, 2), (1, 1, 1), (2, 1, 3), (12, 2, 1), (24, 8, ws 0x800), (0x20, 8, 0x100), (0x28, 8, ws 0x600), (0x32, 1, 6), (0x34, 4, 64), (0x38, 4, 1)]
def ansS (row : Nat) (a : DmaAns) : State := one { cuCore with
  entries := [(4, { runE with desc := copyD })], dma := { entry := some 4, row := row, outst := [req1], answers := [a] } }

theorem witness_DmaRequestsAreIssuedAndEnd :
    (let s := dmaS copyD
     let x := copyD.dma
     (s.core c0).dma = { entry := some 4, nextReq := (s.core c0).dma.nextReq } ∧ ((s.core c0).entry 4).busy = true ∧ ((s.core c0).entry 4).abortReq = false ∧
       s.twin.mode = 0 ∧ copyD.opcode = 1 ∧ x.srcKind = 0 ∧ x.dstKind = 0 ∧ x.src / 2 ^ 48 = 2 ∧ x.dst / 2 ^ 48 = 2 ∧ x.count = 1 ∧ 1 ≤ x.length ∧
       x.length ≤ 64 ∧ 6 ≤ x.reqLog2 ∧ (s.core c0).wsErr = [] ∧ (s.core c0).parts = [] ∧
       ((after (.dmaRequestIssue c0 []) s).core c0).ws = [(0x400, 5), (0x43F, 6), (0x600, 5), (0x63F, 6)] ∧
       (((after (.dmaRequestIssue c0 []) s).core c0).entry 4).outcome = some stDone) ∧
    (let s := dmaS gddrD
     let x := gddrD.dma
     x.src / 2 ^ 48 = 0 ∧ x.src % 256 + x.length ≤ 256 ∧ 0 < ((s.core c0).entry 4).gddrCred.get (s.steer (x.src / 256)).1 ∧ ((after (.dmaRequestIssue c0 []) s).core c0).dma.outst.length = 1 ∧
       ((after (.dmaRequestIssue c0 []) s).chan (s.steer 1).1).queue.length = 1) ∧
    (let s := ansS 1 { req := 3, part := 0, status := stDone, data := [] }
     (s.core c0).dma.outst = [req1] ∧ copyD.dmaRows ≤ 1 ∧ (((after (.dmaRequestAnswer c0 3 []) s).core c0).entry 4).outcome = some stDone) ∧
    (let s := ansS 0 { req := 3, part := 0, status := stDone, data := [] }
     0 < copyD.dmaRows ∧ (((after (.dmaRequestAnswer c0 3 []) s).core c0).entry 4).outcome = none) ∧
    (let s := ansS 0 { req := 3, part := 0, status := stMemUnc, data := [] }
     let t := after (.dmaRequestAnswer c0 3 []) (s.updCore c0 (fun k => { k with dma := { k.dma with outst := [req1, { req1 with id := 5 }] } }))
     (((after (.dmaRequestAnswer c0 3 []) s).core c0).entry 4).outcome = some stMemUnc ∧ (t.core c0).dma.outst.map (·.id) = [5] ∧
       (t.core c0).dma.fail = stMemUnc ∧ s.twin.mode = 0 ∧ after (.dmaRequestIssue c0 []) t = t) := by decide +kernel

def fl (kind : BitVec 4) (payload : List Byte) (job : BitVec 16 := 1) : Flit :=
  { dst := 0, src := 1, kind := kind, lenM1 := 3, jobId := job, off := 0x40, payload := payload, req := 3 }
def meshS (f : Flit) : State :=
  { cores := [(0, { jobId := 1, jobValid := true, ws := [(0x41, 7)], dma := { entry := some 4, outst := [req1] } })], mesh := [f]
    dies := [(0, { admitting := true })]
    cdies := [(0, { used := (List.range 128).map (fun i => (i, BitVec.ofNat 168 (2 ^ 160 - 1))), svUsed := BitVec.ofNat 68 (2 ^ 64 - 1) })] }
theorem witness_FlitsReachStoresAndComeBack :
    (meshS (fl 0 [1, 2, 3, 4])).phys 0 = some c0 ∧ (meshS (fl 0 [1, 2, 3, 4])).flitAccepted c0 (fl 0 [1, 2, 3, 4]) = true ∧ (fl 0 [1, 2, 3, 4]).len = 4 ∧
    ((meshS (fl 0 [1, 2, 3, 4])).core c0).banksReady c0 0x40 4 = true ∧
    ((after (.flitStore 1 0) (meshS (fl 0 [1, 2, 3, 4]))).core c0).ws = [(0x40, 1), (0x41, 2), (0x42, 3), (0x43, 4)] ∧
    (after (.flitLoadRequest 1 0) (meshS (fl 1 []))).mesh.map (·.payload) = [[0, 7, 0, 0]] ∧
    ((after (.flitTileTransfer 1 0) (meshS (fl 3 [1, 2, 3, 4]))).core c0).ws = [(0x40, 1), (0x41, 2), (0x42, 3), (0x43, 4)] ∧
    (∃ r ∈ ((meshS (fl 2 [1])).core c0).dma.outst, r.id = 3) ∧ (meshS (fl 2 [1])).flitAccepted c0 (fl 2 [1]) = true ∧
    ((after (.flitLoadResponse 1 0) (meshS (fl 2 [1]))).core c0).dma.answers = [{ req := 3, part := 0, status := 0, data := [1] }] ∧
    ((after (.flitCompletionNotice 1 0) (meshS (fl 4 []))).core c0).dma.answers = [{ req := 3, part := 0, status := 0, data := [] }] ∧
    ((fl 0 [1, 2, 3, 4] 2).jobId ≠ ((meshS (fl 0 [1, 2, 3, 4] 2)).core c0).jobId ∧ ((after (.flitStore 1 0) (meshS (fl 0 [1, 2, 3, 4] 2))).core c0).dropped = 1) := by
  decide +kernel

def resF : Flit := { fl 0 [1, 2, 3, 4] with resident := true }
def sliceS : State := { cores := [(0, { foreign := [{ asker := .flit resF, op := .store, addr := 0x40, len := 4, data := [1, 2, 3, 4] }], rs := [(0x41, 7)], rsErr := [(2, [3])] })]
                        cdies := [(0, { scrubOn := true, scrubUs := 1 })], clock := { now := 1000 } }
theorem witness_SlicesServeAndAreScrubbed :
    (let s := { sliceS with cores := [(0, { (sliceS.core c0) with rsErr := [] })] }
     (s.core c0).foreign.map (·.asker) = [.flit resF] ∧ (s.core c0).foreignHeld = [] ∧ resF.off.toNat + resF.len ≤ rsSize c0 ∧ resF.payload.length = resF.len ∧
       ((after (.foreignRequestServe c0 []) s).core c0).rs = [(0x40, 1), (0x41, 2), (0x42, 3), (0x43, 4)]) ∧
    ((sliceS.cdie 0).scrubOn = true ∧ sliceS.railsUp 0 = true ∧ sliceS.scrubDue c0 ≤ sliceS.t ∧ (sliceS.core c0).scrubAt < rsSize c0 / 512 ∧
      (2 : Nat) / 64 = (sliceS.core c0).scrubAt ∧ ((after (.scrubRow c0 [] []) sliceS).core c0).rsErr = [] ∧
      ((after (.scrubRow c0 [] []) sliceS).core c0).rsCorrected = 1) := by decide +kernel

/-- `chol` of one unknown (R219, R229, R234): H = 4, g = 8; and H = -1. -/
def chD : Desc := blob 160 [(0, 1, 3), (1, 1, 2), (2, 1, 5), (0x30, 8, ws 0x1000), (0x64, 4, 1), (0x6C, 2, 2)]
def chRun (h : Nat) : SvRun := { entry := 4, x := [0], given := chD ++ leBytes 8 h ++ leBytes 8 0x4020000000000000 }
theorem test_chol_one_unknown :
    (let v := chRun 0x4010000000000000
     chD.sv.op = 2 ∧ chD.sv.iterative = false ∧ chD.sv.worksInGddr = false ∧ chD.sv.fp32 = false ∧
       (v.factor chD).1.map (·.map codes64) = some [[0x4000000000000000]] ∧ codes64 (v.solve chD ((v.factor chD).1.getD [])).1 = [0x4000000000000000] ∧
       (({ v with x := [0x4000000000000000] } : SvRun).ratioNow chD).1 = 0) ∧
    ((chRun 0xBFF0000000000000).factor chD).1.isNone = true := by decide +kernel
def chV (h : Nat) : State := (svS (chRun h)).updCore sv0 (fun k => k.updEntry 4 (fun e => { e with desc := chD }))
theorem witness_SolvesGoThroughTheirSteps_3 :
    (let s := chV 0x4010000000000000
     (s.core sv0).sv = some (chRun 0x4010000000000000) ∧ ((s.core sv0).entry 4).busy = true ∧ (∀ m ∈ s.members sv0 4, m ≠ sv0) ∧
       ((after (.solveDeadlineCheck sv0 false) s).core sv0).sv.map (fun w => (w.x, w.factored)) = some ([0x4000000000000000], true) ∧
       chD.sv.keepHist = false ∧ chD.sv.x / 2 ^ 48 = 2 ∧ isSolver sv0 = true ∧ (s.core sv0).wsErr = [] ∧ s.lentLive sv0 4 = false ∧
       ((after (.solveDeadlineCheck sv0 false) s).core sv0).ws = [(0x1007, 0x40)]) ∧
    (((after (.solveDeadlineCheck sv0 false) (chV 0xBFF0000000000000)).core sv0).entry 4).health.flags = flNV ∧
    (let s := svS run1 (memK .done 0)
     s.team sv0 ((s.core sv0).entry 4).d.sv = [(c0, 0)]) := by decide +kernel

/-! ### Rates and core registers -/

def dieS (r : DieRate) (now : BitVec 64 := 1000000) : State := { dies := [(6, r)], clock := { now := now } }
theorem witness_RatesAreMeasured :
    (let s : State := { dies := [(0, { guardRate := 840 })] }
     s.railsUp 0 = true ∧ ((after (.rateMonitorWindow c0 839) s).core c0).rateMin = 839 ∧ bitAt (((after (.rateMonitorWindow c0 839) s).core c0).reg c0 840 0x040) 32 = true ∧
       bitAt (((after (.rateMonitorWindow c0 840) s).core c0).reg c0 840 0x040) 32 = false ∧ ((after (.minClear c0) (after (.rateMonitorWindow c0 839) s)).core c0).rateMin = 0xFFFF) ∧
    (let s : State := { cores := [(0, { rateNow := 810, rateSeen := true }), (1, { rateNow := 805, rateSeen := true })] }
     s.railsUp 0 = true ∧ s.coreRateMin 0 = some 805 ∧ ((after (.dieRateUpdate 0 0 800) s).dieRate 0).rateMin = 805) ∧
    (let s : State := { dies := [(6, { floorRate := 800, admitting := true })], fabrics := [(1, { outst := [default] })] }
     s.railsUp 6 = true ∧ s.dieIdle 6 = false ∧ (900 : Nat) = ceilMv ∧ ((after (.dieRateUpdate 6 799 900) s).dieRate 6).floorLoss = true ∧
       ((after (.dieRateUpdate 6 799 900) s).dieRate 6).admitting = false ∧ ((after (.dieRateUpdate 6 800 900) s).dieRate 6).floorLoss = false ∧
       ((after (.dieRateUpdate 6 799 100) s).dieRate 6).railMv = 780 ∧ ((after (.dieRateUpdate 6 799 100) s).dieRate 6).admitting = true) ∧
    (let s : State := { dies := [(6, { floorRate := 800, guardRate := 840, railMv := 780, admitting := true })] }
     s.railsUp 6 = true ∧ ((after (.dieRateUpdate 6 839 0) s).dieRate 6).railMv = 781) ∧
    (let s : State := { dies := [(6, { floorRate := 800, guardRate := 840, railMv := 900, breach := true, lowSince := some 3 })] }
     s.railsUp 6 = true ∧ ((after (.dieRateUpdate 6 839 900) s).dieRate 6).lowSince = none) := by decide +kernel
theorem witness_BreachAndResume :
    (let s := dieS { lowSince := some 990000, admitting := true }
     (s.dieRate 6).lowSince = some 990000 ∧ (s.dieRate 6).breach = false ∧ 990000 + 10000 ≤ s.t ∧ ((after (.floorBreach 6) s).dieRate 6).breach = true ∧
       (after (.floorBreach 6) s).signals = [7]) ∧
    (let s := dieS { guardRate := 840, rateMin := 840 }
     (s.dieRate 6).breach = false ∧ (s.dieRate 6).floorLoss = false ∧ ((after (.resume 6) s).dieRate 6).okSince = some 1000000) ∧
    (let s := { dieS { okSince := some 900000, resume := true } with boot := { phase := 9 } }
     (s.dieRate 6).okSince = some 900000 ∧ (s.dieRate 6).waitNs = 0 ∧ 900000 + 100000 ≤ s.t ∧ s.mayAdmit 6 = true ∧ s.cpc.dold = 0 ∧
       ((after (.admissionResume 6) s).dieRate 6).admitting = true) := by decide +kernel
theorem witness_ProfilesChangeAndRailsComeDown :
    (State.reset.cpc.target = none ∧ ((after (.change 2) State.reset).dieRate 3).switching = true) ∧
    (let s : State := { boot := { phase := 9 }, cpc := { target := some 1 }, dies := [(6, { switching := true })] }
     s.cpc.target ≠ none ∧ 9 ≤ s.boot.phase.toNat ∧ (s.dieRate 6).switching = true ∧ s.dieIdle 6 = true ∧ s.twin.state ≠ 6 ∧ (after (.dieProfileSwitch 6) s).cpc.active = 1 ∧
       ((after (.dieProfileSwitch 6) s).dieRate 6).floorRate = 600 ∧ ((after (.dieProfileSwitch 6) s).dieRate 6).admitting = true) ∧
    (let s : State := { cpc := { target := some 1 }, dies := [(5, { switching := true }), (6, { switching := true })] }
     (∃ e : Fin 7, e ≠ 6 ∧ (s.dieRate e.val).switching = true) ∧ (after (.dieProfileSwitch 6) s).cpc = s.cpc) ∧
    (let s : State := { cpc := { budgetW := 100 }, dies := [(6, { railMv := 850, floorRate := 800 })] }
     s.cpc.budgetW.toNat < 101 ∧ ((after (.powerBudgetWindow 101 [(6, 700)]) s).dieRate 6).railMv = 780 ∧
       ((after (.powerBudgetWindow 101 [(6, 870)]) s).dieRate 6).railMv = 850) ∧
    (let s : State := { boot := { phase := 9 }, cpc := { target := some 1 }, dies := [(6, { switching := true, mustResume := true })] }
     s.cpc.target = some 1 ∧ (s.dieRate 6).mustResume = true ∧ s.dieIdle 6 = true ∧ ((after (.dieProfileSwitch 6) s).dieRate 6).admitting = false) := by decide +kernel
theorem witness_SlicesServeAndAreScrubbed_2 :
    (State.reset.core c0).rsErr = [] ∧ ((State.reset.upset c0 [.cells true 0 1 70 4]).core c0).rsErr.length = 4 := by decide +kernel
theorem witness_BreachAndResume_2 :
    (let s := dieS { breach := true }
     (s.dieRate 6).breach = true ∧ ((after (.resume 6) s).dieRate 6).resume = false) := by decide +kernel
theorem witness_ProfilesChangeAndRailsComeDown_2 :
    (let s : State := { pkg := { grade := 1 } }
     s.pkg.grade = 1 ∧ ((after (.change 0) s).handed.map (·.cls)) = [0x0B]) ∧
    (let s : State := { cpc := { target := some 1 } }
     s.cpc.target ≠ none ∧ (after (.change 2) s).cpc.target = some 1 ∧ (after (.change 2) s).cpc.request = 2) ∧
    (let s : State := { cpc := { budgetW := 100 } }
     (100 : Nat) ≤ s.cpc.budgetW.toNat ∧ (after (.powerBudgetWindow 100 [(6, 600)]) s).cpc.powerW = 100) := by decide +kernel
theorem witness_CoreControlAndSelfTest :
    ((State.reset.core c0).entries = [] ∧ (State.reset.core c0).jobValid = false ∧ ((after (.tileqEnable c0 true) State.reset).core c0).tileq = true) ∧
    (let s := tab runE
     (s.core c0).entries = [(4, runE)] ∧ runE.code = .running ∧ runE.outcome = none ∧ (((after (.abortAll c0) s).core c0).entry 4).abortStatus = stAborted) ∧
    (let s := tab { runE with code := .admitted }
     (s.core c0).wait = .none ∧ runE.d.engine ≠ 3 ∧ (((after (.abortAll c0) s).core c0).entry 4).status = stAborted) ∧
    (let s := one { cuTrapped := true, jobValid := true, tileq := false }
     (s.core c0).jobValid = true ∧ ((after (.haltCu c0 false) s).core c0).cuRunning = false ∧ ((after (.tileqEnable c0 true) s).core c0).tileq = false ∧
       ((after (.mxSelftestStart c0) s).core c0).selfBusy = false) ∧
    (let s := one { tileq := true, selfBusy := true, suspect := true }
     (s.core c0).tileq = true ∧ (s.core c0).selfBusy = true ∧ ((after (.selftestDone c0 0x3F 0) s).core c0).suspect = false) ∧
    (let s := { one { selfBusy := true, suspect := true } with cdies := [(0, { used := [(0, BitVec.ofNat 168 (2 ^ 168 - 1))] })] }
     s.freeSpare c0 = false ∧ ((after (.selftestDone c0 0x27 0) s).core c0).narrowOnly = true) := by
  decide +kernel
theorem witness_PartitionsAndBanks :
    (let s := one { parts := [(1, { baseRow := 16, rows := 8, valid := true })], bankReady := 0x3E, ws := [(5, 1), (8192, 1)] }
     isSolver c0 = false ∧ (s.core c0).drained = true ∧ (∀ e ∈ (s.core c0).parts, e.1 ≠ 0 → (partOf 0x20800).overlaps e.2 = false) ∧
       ((after (.wsPartWrite c0 0 0x20800) s).core c0).parts.get 0 = { baseRow := 0, rows := 8, valid := true } ∧
       (s.core c0).bankKept 1 = true ∧ (s.core c0).bankKept 0 = false ∧ ((after (.wsBankPowerWrite c0 0x3C) s).core c0).bankOn = 0x3E ∧
       ((after (.wsBankPowerWrite c0 0x3C) s).core c0).ws = [(8192, 1)] ∧ (∃ e ∈ (s.core c0).parts, e.1 ≠ 0 ∧ (partOf 0x20814).overlaps e.2 = true) ∧
       ((after (.wsPartWrite c0 0 0x20814) s).handed.map (·.cls)) = [0x0B] ∧
       (s.core c0).bankOn.getLsbD 0 = true ∧ (s.core c0).bankReady.getLsbD 0 = false ∧ ((after (.bankReady c0 0) s).core c0).ws = [(8192, 1)]) ∧
    (isSolver sv0 = true ∧ ((tab runE).core c0).drained = false) := by decide +kernel

/-! ### GDDR -/

def chS (c : Channel) (now : BitVec 64 := 1000000) : State := { chans := [(0, c)], clock := { now := now } }
theorem witness_SingleSymbolErrorsAreCorrected : (2 : Nat) ≤ (SymErr.mk 69 0x80).pos.val ∧ (SymErr.mk 69 0x80).diff ≠ 0 ∧ rsDecode false [SymErr.mk 69 0x80] = .corrected [SymErr.mk 69 0x80] := by
  decide +kernel
def memReq (op : MemOp) (data : List Byte) : MemReq := { asker := .dma c0 3 0, op := op, addr := 0x10, len := 4, data := data }
def servS (m : MemReq) : State := { chS { state := 1, queue := [m], mem := [(0x10, 7)] } with cores := [(0, { entries := [(4, runE)], dma := { entry := some 4, outst := [req1] } })] }
theorem witness_ChannelsServeRequests :
    (let s := servS (memReq .store [1, 2, 3, 4])
     (∃ r ∈ (s.core c0).dma.outst, r.id = 3) ∧ (0x10 : Nat) / 256 = 0 ∧ (s.steer 0).1 = 0 ∧ (s.chan 0).state = 1 ∧ (s.chan 0).dead = false ∧
       (∀ k : Fin 4, (s.chan 0).errsAt 0 ((s.chan 0).spared 0) k.val = []) ∧ (s.chan 0).window = [] ∧ (s.chan 0).combining = [] ∧
       (s.chan 0).tracker = [] ∧ s.px.harts = [] ∧ (0x10 : Nat) % 256 + 4 ≤ 256 ∧
       ((after (.gddrRequest 0 []) s).chan 0).mem = [(0x10, 1), (0x11, 2), (0x12, 3), (0x13, 4)] ∧
       ((after (.gddrRequest 0 []) s).core c0).dma.answers = [⟨3, 0, stDone, [], false⟩]) ∧
    (let s := servS (memReq .load [])
     ((after (.gddrRequest 0 []) s).core c0).dma.answers = [⟨3, 0, stDone, [7, 0, 0, 0], false⟩]) := by decide +kernel
theorem witness_SquallCreditAndUpkeep :
    (let s := chS { combining := [(5, List.replicate 64 9)], lineAsk := [(5, 2)] }
     ((s.chan 0).combining.get 5).length = 64 ∧ ((s.chan 0).recent 5 s.t).length < 8 ∧ (s.chan 0).lineHeld = [] ∧ (s.chan 0).lineAsk = [(5, 2)] ∧
       ((after (.squallExit 0 5) s).chan 0).mem.length = 64 ∧ ((after (.squallExit 0 5) s).chan 0).mem.read (256 + 64) = 9 ∧
       ((after (.lineCreditGrant 0 5) s).chan 0).lineHeld = [(5, 2)]) ∧
    (let s := chS { state := 1 }
     (s.chan 0).state = 1 ∧ (s.chan 0).heat = 0 ∧ ((after (.gddrTempRead 0 106) s).chan 0).shown = 7 ∧ ((after (.gddrTempRead 0 105) s).chan 0).shown = 6 ∧
       ((after (.gddrTempRead 0 95) s).chan 0).shown = 1 ∧ ((after (.gddrRetrain 0 false) s).chan 0).shown = 2 ∧
       ((after (.gddrRefreshSlice 0 5) s).chan 0).deviceCorrected = 5) ∧
    (let s := chS { state := 3, retraining := true, heat := 1, hotAt := 900000 }
     (s.chan 0).retraining = true ∧ (s.chan 0).shown = 2 ∧ ((after (.gddrRetrain 0 true) s).chan 0).retraining = false ∧
       (s.chan 0).hotAt + 100000 ≤ s.t ∧ ((after (.gddrHeatExit 0) s).chan 0).heat = 0) ∧
    (let s := chS { state := 1, heat := 2, hotAt := 900000 }
     (s.chan 0).hotAt + 100000 ≤ s.t ∧ ((after (.gddrHeatExit 0) s).chan 0).shown = 6) := by decide +kernel
def copyingSpare : RowSpare := { fromGroup := 5, copying := true, copied := 5 }
theorem witness_MigrationSparesAndLostChannels :
    (let s := chS { state := 1, mem := [(0x5000, 3)], spares := [(2, copyingSpare)] }
     copyingSpare.assigned = false ∧ copyingSpare.copied < 14 ∧ (s.chan 0).dead = false ∧
       ((after (.rowSpareCopy 0 2) s).chan 0).mem = [(5 * 256, 3), (80 * 256, 3)]) ∧
    (let s := chS { state := 1, spares := [(2, { fromGroup := 5 })] }
     s.otherMigration 0 = false ∧ (s.chan 0).state = 1 ∧ ((after (.start 0) s).chan 0).draining = true ∧ (s.chan 0).queue = [] ∧ (s.chan 0).window = [] ∧
       s.pkg.density = false ∧ 5 < uData false / 15 ∧ (((after (.rowSpareCopy 0 2) s).chan 0).spares.get 2).copying = true ∧
       (after (.rowSpareCopy 0 2) s).pkg.migrating = true ∧
       ((after (.channelLost 0) s).chan 0).lostNow = true ∧ (after (.channelLost 0) s).signals = [12]) ∧
    (let s := { chS { state := 1, queue := [{ asker := .dma c0 3 0, op := .load, addr := 0, len := 4 }] } with
                cores := [(0, { dma := { entry := some 4, outst := [{ id := 3 }] } })] }
     (s.chan 0).window = [] ∧ (∃ r ∈ (s.core c0).dma.outst, r.id = 3) ∧
       ((after (.channelLost 0) s).core c0).dma.answers = [⟨3, 0, stMemUnc, [], false⟩]) ∧
    (let s := chS { state := 3, draining := true }
     (s.chan 0).oldOps = [] ∧ ((after (.migrationDrained 0) s).chan 0).draining = false) ∧
    (let s := chS { state := 3, mem := [(256, 7)], pointer := 1 }
     let tgt := migTarget false 0 1
     (s.chan 0).draining = false ∧ (s.chan 0).migLost = false ∧ (s.chan 0).dead = false ∧ (s.chan tgt.1).spares = [] ∧ tgt.1 ≠ 0 ∧ 1 + 1 < uUse s.pkg.density ∧
       ((after (.migrationUnitCopy 0 []) s).chan tgt.1).mem = [(tgt.2 * 256, 7)] ∧ ((after (.migrationUnitCopy 0 []) s).chan 0).pointer = 2) := by decide +kernel

/-! ### Transport -/

/-- A package with the job 1 of tenancy 0 and one link up on plane A. -/
def netS (fb : Fabric := {}) (now : BitVec 64 := 1000000) : State :=
  { tens := [(0, { job := { jobId := 1, jobGen := 1, state := 2, ownRank := 3, rankCount := 16 } })], clock := { now := now }
    fabrics := [(0, { fb with ports := [(0, { mode := 1, up := 1 })], path := [0] }), (1, { ports := [(0, { mode := 1, up := 1 })], path := [0] })]
    dies := [(5, { admitting := true }), (6, { admitting := true })] }
def frame (type : BitVec 4) (payload : List Byte) (f : WtFrame := {}) : WtFrame :=
  wtSeal { f with type := type, jobId := 1, jobGen := 1, dstRank := 3, tSend := 1000000, payload := payload }
def winQ (bs : List Byte) : List Byte := ({ (default : ReqSub) with offset := 0x10, window := 2, length := 4, data := bs } : ReqSub).bytes
def winE (space : BitVec 2) : Window := { jobId := 1, jobGen := 1, space := space, permR := true, permW := true, permA := true, valid := true, base := 0x100, length := 0x100 }
theorem witness_WindowRequestsAreTakenUpOnce_1 :
    (let s := netS { windows := [(2, winE 0)] }
     let f := frame 1 (winQ [1, 2, 3, 4])
     let q := reqSub f.payload
     s.linkIn 0 0 = true ∧ (s.port 0 0).twin = false ∧ wtBad f false = false ∧ f.twin = false ∧ quiet s = true ∧ s.hopOf f ≤ (s.fab 0).allowance + 100 ∧ f.jobId ≠ 0 ∧
       s.twin.state ≠ 6 ∧ s.activeTen 1 1 = some 0 ∧ f.dstRank = (s.ten 0).job.ownRank ∧ s.cpc.dold.toNat < 2 ∧ s.dieAdmits 5 = true ∧
       ((s.space (s.peerOf 0 f) f.origin).floor f.ackFloor).classify f.seq f.ackFloor = .new ∧ windowReason (winE 0) f q = none ∧
       s.needLine (s.peerOf 0 f) (windowNpa (winE 0) q) 4 = none ∧ (s.chan (s.steer 1).1).windowOpen 0 (s.peerOf 0 f) = true ∧ (s.chan (s.steer 1).1).window = [] ∧
       ((after (.wtStore 0 0 f) s).chan (s.steer 1).1).queue.map (fun m => (m.addr, m.data)) = [(0x110, [1, 2, 3, 4])] ∧
       (((after (.wtStore 0 0 f) s).fab 0).windows.get 2).busy = 1) ∧
    (let s := netS { windows := [(2, { winE 0 with permW := false })] }
     let f := frame 1 (winQ [1, 2, 3, 4])
     windowReason { winE 0 with permW := false } f (reqSub f.payload) = some 3 ∧ ((after (.wtStore 0 0 f) s).fab 0).winFault = 1) := by decide +kernel
theorem witness_WindowRequestsAreTakenUpOnce_3 :
    let f := frame 1 (winQ [1, 2, 3, 4])
    let s0 := netS { windows := [(2, winE 0)] }
    let s := s0.setSpace (s0.peerOf 0 f) f.origin { ((s0.space (s0.peerOf 0 f) f.origin).floor f.ackFloor) with seen := [(f.seq, stDone)] }
    s.linkIn 0 0 = true ∧ (s.port 0 0).twin = false ∧ wtBad f false = false ∧ f.twin = false ∧ quiet s = true ∧ s.activeTen 1 1 = some 0 ∧ s.dieAdmits 5 = true ∧
      s.castHalted = false ∧ (s.fab (s.spaceHome f.origin)).replay = [] ∧ (s.fab 0).path ≠ [] ∧ s.hopOf f ≤ (s.fab 0).allowance + 100 ∧ s.cpc.dold.toNat < 2 ∧
      ((s.space (s.peerOf 0 f) f.origin).floor f.ackFloor).classify f.seq f.ackFloor = .dup (some stDone) ∧ stDone ≠ seqPending ∧
      (after (.wtStore 0 0 f) s).outbox.length = 1 ∧ (after (.wtStore 0 0 f) s).chans = s.chans := by decide +kernel
def slicedS : State := { netS { windows := [(2, { winE 1 with base := 0 })] } with
  cdies := [(0, { used := (List.range 128).map (fun i => (i, BitVec.ofNat 168 (2 ^ 160 - 1))), svUsed := BitVec.ofNat 68 (2 ^ 64 - 1) })] }
theorem witness_WindowRequestsAreTakenUpOnce_2 :
    let f := frame 2 ({ (default : ReqSub) with offset := 0x10, window := 2, length := 4, remoteRs := true } : ReqSub).bytes
    windowReason { winE 1 with base := 0 } f (reqSub f.payload) = none ∧ slicedS.rsTarget 0x10 = some (c0, 0x10) ∧ (slicedS.core c0).foreign = [] ∧
      ((after (.loadRequest 0 0 f) slicedS).core c0).foreign.length = 1 := by decide +kernel

def outR : OutReq := { tag := 5, seq := 9, owner := .dma c0 3 0, peer := 7, tFirst := 900000, frame := frame 1 [1, 2] { tag := 5, seq := 9 } }
def outS (o : OutReq) (cr : Nat := 0) : State := { netS { outst := [o], ranks := [(3, { mac := 9, valid := true })], credits := [(7, { granted := BitVec.ofNat 16 cr })] } with
  cores := [(0, { dma := { entry := some 4, outst := [req1] } })] }
def ackF (st : Byte) : WtFrame := wtSeal { frame 6 [] with tag := 5, seq := 9, status := st }
theorem witness_RequestsEndByAnswerOrAreResent_1 :
    (outS outR).linkIn 0 0 = true ∧ ((outS outR).port 0 0).twin = false ∧ wtBad (ackF 0) false = false ∧ (ackF 0).twin = false ∧ quiet (outS outR) = true ∧
    (ackF 0).jobId ≠ 0 ∧ (outS outR).twin.state ≠ 6 ∧ (outS outR).activeTen 1 1 = some 0 ∧ (ackF 0).dstRank = ((outS outR).ten 0).job.ownRank ∧
    (outS outR).findOut 5 9 false = some outR ∧ (∃ r ∈ ((outS outR).core c0).dma.outst, r.id = 3) ∧ (ackF 0).status ≠ stNotAdmitted ∧
    ((after (.acknowledgement 0 0 (ackF 0)) (outS outR)).fab 0).outst = [] ∧
    ((after (.acknowledgement 0 0 (ackF 0)) (outS outR)).core c0).dma.answers = [⟨3, 0, 0, [], false⟩] ∧
    (((after (.acknowledgement 0 0 (ackF stNotAdmitted)) (outS outR)).fab 0).outst.map (·.refusedAt)) = [some 1000000] ∧
    (outS { outR with seq := 8 }).findOut 5 9 false = none ∧ ((after (.acknowledgement 0 0 (ackF 0)) (outS { outR with seq := 8 })).fab 0).dupDrop = 1 := by decide +kernel
theorem witness_RequestsEndByAnswerOrAreResent_2 :
    (let s := outS { outR with tFirst := 997500 } 1
     s.outReq 0 5 = some { outR with tFirst := 997500 } ∧ s.castHalted = false ∧ resendPlan 0 = some (2500, false, 1) ∧ 997500 + 2500 ≤ s.t ∧
       s.reqPlane outR 0 = 0 ∧ outR.frame.self = false ∧ s.canPay 0 7 1 = true ∧ (s.reqDest 0 { outR with tFirst := 997500 }).isSome = true ∧
       (s.fab 0).alive = true ∧ (s.egress 0 false (pathOf 5 + 1)).isSome = true ∧ (after (.resendTimer 0 5) s).outbox.length = 1 ∧ (((after (.resendTimer 0 5) s).fab 0).outst.map (·.resends)) = [1]) ∧
    (let s := outS { outR with refusedAt := some 999750 } 1
     999750 + 250 ≤ s.t ∧ s.reqPlane outR 0 = 0 ∧ s.canPay 0 7 1 = true ∧ (s.reqDest 0 outR).isSome = true ∧ (s.egress 0 false outR.frame.pathId).isSome = true ∧
       (((after (.notAdmittedResend 0 5) s).fab 0).outst.map (fun o => (o.refusedAt, o.tFirst))) = [(none, 1000000)]) ∧
    (let o := { outR with refusedAt := some 999750, frame := { outR.frame with self := true } }
     let s := { outS o with dies := [] }
     o.frame.self = true ∧ s.dieAdmits 5 = false ∧ o.frame.tag = 5 ∧ o.frame.seq = o.seq ∧ o.frame.origin = o.origin ∧
       (((after (.notAdmittedResend 0 5) s).fab 0).outst.map (·.refusedAt)) = [some 1000000]) ∧
    (let s := outS { outR with tFirst := 950000 }
     950000 + 50000 ≤ s.t ∧ quiet s = true ∧ outR.frame.self = false ∧ ((after (.retryBudgetExpiry 0 5) s).core c0).dma.answers = [⟨3, 0, stTargetLost, [], false⟩] ∧
       (((after (.retryBudgetExpiry 0 5) s).fab 1).rackMap.get 0).lost = true) := by decide +kernel
theorem witness_CreditsMoveAsTheirFramesSay :
    (let f := wtSeal { frame 7 [] with creditGrant := 12, flags := 4 }
     let s := netS
     s.linkIn 0 0 = true ∧ (s.port 0 0).twin = false ∧ wtBad f false = false ∧ f.twin = false ∧ quiet s = true ∧ f.type = 7 ∧ f.flags.getLsbD 2 = true ∧ 8 ≤ (s.fab 0).shared ∧
       ((after (.creditUpdate 0 0 f) s).fab 0).shared = (s.fab 0).shared - 8 ∧ (((after (.creditUpdate 0 0 f) s).fab 0).credits.get (s.peerOf 0 f)).granted = 12) ∧
    (let s := netS { credits := [(7, { untold := 4 })] }
     4 ≤ ((s.fab 0).credits.get 7).untold ∧ ((s.fab 0).credits.get 7).fourAt + 200 ≤ s.t ∧ s.planeUp 0 = true ∧
       (((after (.creditUpdateSend 0 7) s).fab 0).credits.get 7).untold = 0 ∧ (after (.creditUpdateSend 0 7) s).outbox.length = 1) ∧
    (let s := netS { credits := [(7, { lent := 8 })], shared := 16 }
     ((s.fab 0).credits.get 7).lent ≠ 0 ∧ ((s.fab 0).credits.get 7).lastUse + 1000000 ≤ s.t ∧ ((after (.sharedBufferExpiry 0 7) s).fab 0).shared = 24) := by decide +kernel
theorem witness_PathsAreMeasuredAndRebuilt :
    (let f := frame 0xB [] { tag := 5, seq := 9 }
     let s := netS
     s.linkIn 0 0 = true ∧ (s.port 0 0).twin = false ∧ wtBad f false = false ∧ f.twin = false ∧ quiet s = true ∧ f.dstRank = (s.ten 0).job.ownRank ∧ s.twin.state ≠ 6 ∧
       s.hopOf f ≤ (s.fab 0).allowance + 100 ∧ s.cpc.dold.toNat < 2 ∧ (s.fab 0).path ≠ [] ∧
       s.activeTen f.jobId f.jobGen = some 0 ∧ ((s.space (s.peerOf 0 f) f.origin).floor f.ackFloor).classify f.seq f.ackFloor = .new ∧
       (after (.pathProbe 0 0 f) s).outbox.length = 1 ∧ s.dieAdmits 5 = true) ∧
    ((netS.fab 0).winAt + 100000 ≤ netS.t ∧ sumN ((netS.fab 0).hist.get 0) < 64 ∧ ((after (.pathTableRebuild 0) netS).fab 0).path = [0, 0, 0]) := by decide +kernel
theorem witness_SubPortsGoDownAndComeUp :
    (netS.fab 0).alive = true ∧ (netS.port 0 0).isUp 0 = true ∧ (netS.port 0 0).failed.getLsbD 0 = false ∧
    ((after (.subPortDown 0 0 .lockLost) netS).port 0 0).failed = 1 ∧ ((after (.subPortDown 0 0 .lockLost) netS).fab 0).path = [] ∧
    netS.cpc.stopped = false ∧ ((after (.linkReset 0 0 0) netS).port 0 0).failed = 0 ∧ ((after (.linkReset 0 0 0) netS).port 0 0).up = 0 ∧
    (0 : Nat) % 4 < (netS.port 0 0).subs ∧ (netS.port 0 0).twin = false ∧ ((after (.linkUp 0 0) netS).port 0 0).isUp 0 = true ∧ 0 ∈ ((after (.linkUp 0 0) netS).fab 0).path ∧ netS.portDeaf 0 0 = false ∧ netS.linkBusy = false := by
  decide +kernel
def twoS (cr : Nat) : State :=
  let o := { outR with lastSub := 4 }
  let s := outS o cr
  s.updFab 0 (fun f => { f with ports := [(0, { mode := 1, up := 1 }), (1, { mode := 1, up := 1 })], path := [0, 0, 0, 4, 4, 4] })
theorem witness_SubPortsGoDownAndComeUp_2 :
    let o := { outR with lastSub := 4 }
    let t := after (.subPortDown 0 4 .fecErrors) (twoS 1)
    ((twoS 1).fab 0).alive = true ∧ ((twoS 1).port 0 4).isUp 4 = true ∧ o ∈ ((twoS 1).fab 0).outst ∧
      (((twoS 1).fab 0).outst ++ ((twoS 1).fab 1).outst).filter (fun x => x.lastPlane == 0 && x.lastSub == 4) = [o] ∧
      o.refusedAt = none ∧ o.frame.self = false ∧ o.frame.twin = false ∧ (t.fab 0).path ≠ [] ∧ (twoS 1).castHalted = false ∧
      (twoS 1).canPay 0 7 1 = true ∧ ((twoS 1).reqDest 0 o).isSome = true ∧ t.outbox.length = 1 ∧ (twoS 65528).canPay 0 7 1 = false ∧
      ((after (.subPortDown 0 4 .fecErrors) (twoS 65528)).fab 0).outst = [{ o with again := some (0, o.frame.pathId, true) }] := by
  decide +kernel
theorem witness_AFailedPlaneIsTakenOver :
    (netS.fab 0).alive = true ∧ (netS.fab 1).alive = true ∧ ((netS.fab 1).spaces.get (spaceKey 7 false)).takenOver = false ∧
    (after (.planeTakeover 0) netS).pkg.onePlane = true ∧ (after (.planeTakeover 0) netS).space 7 false = { known := false, takenOver := true } := by decide +kernel

/-! ### Collectives -/

/-- A barrier of group 0, and a reduction of one block, by the contributor with the given local index. -/
def barD (i : Nat) (cseq : Nat := 5) : Desc := blob 128 [(0, 1, 5), (2, 2, i), (4, 4, cseq), (0xE, 1, 64), (0x28, 8, ws 0x40)]
def sumD (n : Nat) (onFull : Nat) : Desc := blob 128 [(0, 1, 1), (4, 4, 5), (8, 4, n), (0xC, 1, 1), (0xD, 1, 1), (0xE, 1, 64 + 8 * onFull), (0x18, 8, ws 0x400), (0x20, 8, ws 0x800), (0x28, 8, ws 0x40)]
/-- A descriptor of core 0, queued by its job. -/
def cd (b : Desc) : CollDesc := { bytes := b, jobId := 1, jobGen := 1 }
def grp (n : Nat) (l : List (BitVec 16)) : Group :=
  { jobId := 1, jobGen := 1, valid := true, localCount := BitVec.ofNat 12 n, members := BitVec.ofNat 17 l.length, list := l }
/-- A group of given ranks, with core 0 of the job. -/
def collS (l : List (BitVec 16)) (q : List CollDesc := []) (cs : List Coll := []) (fb : Fabric := {}) : State :=
  let s := netS fb
  let fab := fun (f : Fabric) => { f with groups := [(0, grp 1 l)], hallBound := 2000, ranks := l.map (fun r => (r.toNat, { mac := 9, valid := true })) }
  { s with collQ := [(0, q)], colls := cs, fabrics := s.fabrics.map (fun e => (e.1, fab e.2)), cores := [(0, { jobId := 1, jobGen := 1, jobValid := true })]
           cdies := slicedS.cdies }
theorem witness_CollectivesAreQueuedAndAdmitted_1 :
    ((8 : BitVec 15).toNat % 128 ≠ 0 ∧ (after (.collectiveSubmit 0 8 (barD 0)) (collS [3])).handed.length = 1) ∧
    (let s := collS [3]
     let x := collBody (barD 0)
     let g := s.groupOf 0 x.group
     s.phys 0 = some c0 ∧ x.bad (barD 0) g = false ∧ s.groupOk 0 g = true ∧ (s.core c0).tenancy = 0 ∧ (s.core c0).jobValid = true ∧ x.record / 2 ^ 48 = 2 ∧
       s.regionOk c0 x.record 64 .w = true ∧ s.collRegionsOk c0 g 0 x = true ∧ s.beyondRack 0 g = false ∧ g.ended = [] ∧ (s.collQ.get 0).length < 1024 ∧ s.homeAdmits x = true ∧
       ((after (.collectiveSubmit 0 0 (barD 0)) s).collQ.get 0) = [cd (barD 0)]) ∧
    (let s := (collS [3]).updGroup 0 0 (fun g => { g with ended := [(5, stTargetLost)] })
     (s.groupOf 0 0).ended.find? (·.1 == 5) = some (5, stTargetLost) ∧ (after (.collectiveSubmit 0 0 (barD 0)) s).collQ = s.collQ ∧
       ((after (.collectiveSubmit 0 0 (barD 0)) s).core c0).ws.head? = some (0x40, stTargetLost)) ∧
    (let s := { collS [3] with dies := [] }
     let x := collBody (barD 0)
     let g := s.groupOf 0 x.group
     x.bad (barD 0) g = false ∧ s.groupOk 0 g = true ∧ s.regionOk c0 x.record 64 .w = true ∧ s.collRegionsOk c0 g 0 x = true ∧ s.beyondRack 0 g = false ∧ s.homeAdmits x = false ∧
       (after (.collectiveSubmit 0 0 (barD 0)) s).collQ = s.collQ ∧ ((after (.collectiveSubmit 0 0 (barD 0)) s).core c0).ws.head? = some (0x40, stNotAdmitted)) := by decide +kernel
theorem witness_CollectivesAreQueuedAndAdmitted_2 :
    (let s := collS [3] [cd (barD 0), cd (barD 0 6)]
     (collBody (barD 0)).cop = 5 ∧ s.groupOk 0 (s.groupOf 0 0) = true ∧ s.castShadow = false ∧ s.measure.pickHome (collBody (barD 0)) = 0 ∧ s.dieAdmits 5 = true ∧
       (collBody (barD 0)).slots = 0 ∧ serialLt 6 5 = false ∧ (s.groupOf 0 0).memberList = [3] ∧
       (after (.collectiveLocalAdmit 0 5 []) s).collQ.get 0 = [cd (barD 0 6)] ∧ (after (.collectiveLocalAdmit 0 5 []) s).colls = [] ∧
       ((after (.collectiveLocalAdmit 0 5 []) s).groupOf 0 0).lastCseq = 5 ∧ ((after (.collectiveLocalAdmit 0 5 []) s).core c0).ws.head? = some (0x42, 5)) ∧
    (let s := collS [7, 3] [cd (barD 0)]
     (∀ r ∈ (s.groupOf 0 0).memberList, (s.rankDest 0 0 r).isSome = true ∧ (s.rankDest 1 0 r).isSome = true) ∧ (s.groupOf 0 0).memberList.findIdx? (· == 3) = some 1 ∧ ((after (.collectiveLocalAdmit 0 5 []) s).colls.map (fun c => (c.cseq, c.me, c.home))) = [(5, 1, 0)]) ∧
    (let s := collS [3] [cd (sumD 64 2)]
     let x := collBody (sumD 64 2)
     x.slots = 1 ∧ x.onFull = 2 ∧ ¬ (((s.fab 0).slotsUsed.get 0).toNat + x.slots ≤ ((s.fab 0).slotQuota.get 0).toNat) ∧
       (after (.collectiveLocalAdmit 0 5 []) s).collQ.get 0 = [] ∧ ((after (.collectiveLocalAdmit 0 5 []) s).core c0).ws.head? = some (0x40, stSlotsExhausted)) ∧
    (let s := collS [3] [cd (sumD 64 1)] [] { slotQuota := [(0, 4)], slotsUsed := [(0, 4)] }
     (collBody (sumD 64 1)).onFull = 1 ∧ ¬ (((s.fab 0).slotsUsed.get 0).toNat + 1 ≤ ((s.fab 0).slotQuota.get 0).toNat) ∧ 1 ≤ ((s.fab 0).slotQuota.get 0).toNat) := by decide +kernel

def coll0 (cop : Nat) : Coll := { cseq := 5, descs := [cd (if cop = 5 then barD 0 else sumD 64 0)], members := [7, 3], me := 1, tAdmit := 900000, tStart := 900000 }
def collF (type : BitVec 4) (q : CollSub) (bs : List AccBlock) : WtFrame := frame type (collFrame q bs) { srcRank := 7 }
/-- A chunk without blocks, of three members' vectors. -/
def coll3 : Coll := { coll0 1 with members := [7, 9, 3], me := 2, got := [(2, 0, 1, 0)] }
def chunkF : WtFrame := collF 8 { cseq := 5, cop := 1, first := 0, tAdmit := 910000 } []
def barF : WtFrame := collF 9 { cseq := 5, cop := 5, stage := 1, checksum := blocksSum 0 [] } []
def abdF : WtFrame := collF 9 { cseq := 5, cop := 5, abandon := true, astatus := stTargetLost } []
theorem witness_CollectiveFramesMoveTheirCollective_1 :
    let s := collS [7, 9, 3] [] [coll3]
    let q := collSub chunkF.payload
    s.linkIn 0 0 = true ∧ (s.port 0 0).twin = false ∧ wtBad chunkF false = false ∧ chunkF.twin = false ∧ quiet s = true ∧ s.hopOf chunkF ≤ (s.fab 0).allowance + 100 ∧ s.activeTen 1 1 = some 0 ∧ chunkF.dstRank = (s.ten 0).job.ownRank ∧ s.cpc.dold.toNat < 2 ∧
    (∀ r ∈ coll3.members, (s.rankDest 0 0 r).isSome = true ∧ (s.rankDest 1 0 r).isSome = true) ∧ coll3.doms = [] ∧ coll3.finished = false ∧ coll3.badRank = false ∧
    ((s.space (s.peerOf 0 chunkF) chunkF.origin).floor chunkF.ackFloor).classify chunkF.seq chunkF.ackFloor = .new ∧
    (s.groupOf 0 q.group).valid = true ∧ (s.groupOf 0 q.group).gen = q.gen ∧ s.findColl 0 q.cseq = some coll3 ∧ q.first + q.blocks ≤ coll3.frameBlocks 8 0 ∧
    coll3.members.findIdx? (· == chunkF.srcRank.toNat) = some 0 ∧ q.abandon = false ∧ collHasData q chunkF.payload = true ∧ (q.rereq = true → q.blocks = 0) ∧ q.stage = coll3.stageOf 8 0 ∧
    coll3.agree = false ∧ coll3.b.cop = 1 ∧ coll3.spilled = false ∧ coll3.pointsDone = false ∧ coll3.shardDone = false ∧ (∀ k ∈ coll3.got, ¬ (k.1 = 0 ∧ k.2.1 = q.first)) ∧
    (∀ k ∈ coll3.shardsAt 2, ({ coll3 with got := coll3.got ++ [(0, q.first, q.blocks, q.checksum)] } : Coll).shardFull k = false) ∧
    ((after (.collectiveChunk 0 0 chunkF) s).findColl 0 5).map (fun c => (c.got.length, c.tStart, c.acc.length)) = some (2, 910000, 0) := by decide +kernel
theorem witness_CollectiveFramesMoveTheirCollective_2 :
    (let s := collS [7, 3] [] [coll0 5]
     let q := collSub barF.payload
     wtBad barF false = false ∧ q.abandon = false ∧ s.findColl 0 q.cseq = some (coll0 5) ∧ (coll0 5).b.cop = 5 ∧ q.blocks = 0 ∧ collHasData q barF.payload = true ∧
       q.stage = (coll0 5).stageOf 9 0 ∧ q.checksum = blocksSum q.first [] ∧ (after (.collectiveResult 0 0 barF) s).colls = [] ∧
       ((after (.collectiveResult 0 0 barF) s).groupOf 0 0).lastCseq = 5) ∧
    (let s := collS [7, 3] [] [coll0 5]
     wtBad abdF false = false ∧ (collSub abdF.payload).abandon = true ∧ (after (.abandon 0 0 abdF) s).colls = [] ∧
       ((after (.abandon 0 0 abdF) s).core c0).ws.head? = some (0x40, stTargetLost)) ∧
    (let o := { outR with owner := .coll 0 5, tFirst := 950000 }
     let s := collS [7, 3] [] [coll0 5] { outst := [o] }
     (s.fab 0).outst.find? (fun o => o.tag == 5) = some o ∧ o.refusedAt = none ∧ o.tFirst + 50000 ≤ s.t ∧ s.findColl 0 5 = some (coll0 5) ∧
       (collSub o.frame.payload).group = 0 ∧ (s.groupOf 0 0).valid = true ∧ (s.groupOf 0 0).gen = (collSub o.frame.payload).gen ∧
       (after (.collectiveTargetLost 0 5) s).colls = [] ∧ ((after (.collectiveTargetLost 0 5) s).groupOf 0 0).memberLost = true ∧
       (after (.collectiveTargetLost 0 5) s).handed.head?.map (fun r => (r.cls, r.status)) = some (0x04, stTargetLost)) := by decide +kernel

/-! ### Host queues and jobs -/

/-- A command: code, body length and fields of the body; a signed one has begun, so that no signature stands in the way. -/
def cmd (code n : Nat) (l : List (Nat × Nat × Nat)) (started : Bool := false) (dig : List Byte := []) (at0 : Nat := 0) : HostCmd :=
  { code := BitVec.ofNat 8 code, started := started, queue := 1, cid := 9, tAccept := 5
    payload := (blob (8 + n) ([(0, 1, 0x20), (1, 1, 1), (2, 2, 9), (4, 1, code), (6, 2, n)] ++ l.map (fun x => (8 + x.1, x.2)))).take (if dig.isEmpty then 8 + n else 8 + at0) ++ dig }
/-- Tenancy 0 with the command, its job in some state, and all of the first 64 KiB of GDDR. -/
def hostS (c : List HostCmd) (st : BitVec 3) (more : State → State := id) : State :=
  more { netS with tens := [(0, { queues := 4, cmds := c, regions := [(0, { permR := true, permW := true, valid := true, limit := 0x10000 })]
                                  job := { jobId := 1, jobGen := 1, state := st, ownRank := 3, rankCount := 4 } })] }
def jobOf (i : Instr) (s : State) : BitVec 3 := ((after i s).ten 0).job.state
/-- Status and reason of the last frame sent, if it is a completion of tenancy 0's command 9 on queue 1. -/
def answer (i : Instr) (s : State) : Option (List Byte) :=
  match (after i s).outbox.getLast? with | some (.mgmt _ f) => if f.dstRank = 0xFFF0 ∧ f.payload.take 4 = [0x21, 1, 9, 0] then some (f.payload.drop 4 |>.take 2) else none | _ => none

/-- Digests in these tests are SHAKE256 by an implementation outside the model. -/
theorem test_shake : digest32 [] = leBytes 32 0x2F76D56E64270CB5821BB862EA52CD3F24EB3E74EB3F3B23138DA80B2BDDB946 := by decide +kernel

def hcF (code : Nat) : WtFrame := wtSeal { type := 0xA, srcRank := 0xFFF0, dstRank := 0xFFFF, srcMac := 5, payload := (cmd code 0 []).payload }
def hcS (n : Nat) : State :=
  let s := netS
  { s with tens := [(0, { queues := 4, hostMac := 5, cmds := List.replicate n (cmd 1 0 []) })], dies := [(4, { admitting := true }), (5, { admitting := true }), (6, { admitting := true })]
           boot := { s.boot with ready := true } }
theorem witness_HostCommandsQueueAndUnsignedOnesComplete_1 :
    (let s := hcS 0
     s.linkIn 0 0 = true ∧ (s.port 0 0).twin = false ∧ wtBad (hcF 1) false = false ∧ (hcF 1).twin = false ∧ quiet s = true ∧ ((hcF 1).payload.getD 1 0).toNat % 64 < (s.ten 0).queues.toNat ∧ hostTen (hcF 1) = some 0 ∧ s.hostFrom 0 (hcF 1) = true ∧
       ((s.space (s.peerOf 0 (hcF 1)) (hcF 1).origin).floor (hcF 1).ackFloor).classify (hcF 1).seq (hcF 1).ackFloor = .new ∧ (cmdRow 5).isSome = true ∧ s.cpc.dold = 0 ∧
       s.dieAdmits 4 = true ∧ s.dieAdmits 5 = true ∧ s.boot.ready = true ∧ wtBad (hcF 5) false = false ∧
       (((after (.hostCommand (some (0, 0)) (hcF 5)) s).ten 0).cmds.map (fun c => (c.code, c.queue, c.cid, c.tAccept))) = [(5, 1, 9, 1000000)] ∧
       s.cpc.stopped = false ∧ (((after (.hostCommand none (hcF 1)) s).ten 0).cmds.map (·.code)) = [1]) ∧
    (let s := { hcS 0 with dies := [(4, { admitting := true })] }
     s.dieAdmits 5 = false ∧ s.cpc.dold = 0 ∧ ((after (.hostCommand (some (0, 0)) (hcF 5)) s).ten 0).cmds = []) ∧
    (hcS 32).queueLoad 0 1 = 32 ∧ (hcS 0).queueLoad 0 1 = 0 ∧ answer (.hostCommand none (hcF 1)) (hcS 32) = some [stNotAdmitted, 0] ∧
    (let s := { hcS 0 with cpc := { (hcS 0).cpc with dold := 2 } }
     s.cpc.stopped = false ∧ answer (.hostCommand none (hcF 5)) s = some [stNotAdmitted, 0] ∧ ((after (.hostCommand none (hcF 5)) s).ten 0).cmds = []) := by decide +kernel

/-- The next command is ready. -/
def rdy (s : State) (code : Nat) : Bool :=
  match s.nextCmd 0 code with | some c => (c.started || s.preCheck 0 c == .ok) && (c.endBy == 0 || decide (s.t ≤ c.endBy)) | none => false
theorem rdy_ready (s : State) (code : Nat) (c : HostCmd) (h : rdy s code = true) (hn : s.nextCmd 0 code = some c) : s.Ready 0 code c := by
  refine ⟨hn, ?_⟩
  simpa [rdy, hn] using h
theorem witness_HostCommandsQueueAndUnsignedOnesComplete_2 :
    (rdy (hostS [cmd 1 0 []] 2) 1 = true ∧ answer (.nop 0) (hostS [cmd 1 0 []] 2) = some [0, 0] ∧ ((after (.nop 0) (hostS [cmd 1 0 []] 2)).ten 0).cmds = []) ∧
    (let c := cmd 2 16 [(0, 8, 0x100), (8, 8, 0x42)]
     let s := hostS [c] 2
     let q := s.steer 1
     rdy s 2 = true ∧ s.tenCovers 0 (c.num 0 8) (c.bodyLen - 8) .w = true ∧ (s.chan q.1).lostNow = false ∧ (s.chan q.1).combining = [] ∧ (s.chan q.1).tracker = [] ∧
       (∀ k : Fin 4, (s.chan q.1).errsAt q.2 ((s.chan q.1).spared q.2) k.val = []) ∧
       (c.num 0 8) % 256 + (c.bytes 8 (c.bodyLen - 8)).length ≤ 256 ∧
       answer (.memWrite 0) s = some [0, 0] ∧ ((after (.memWrite 0) s).chan q.1).mem.read ((s.chan q.1).spared q.2 * 256) = 0x42) ∧
    (let s := hostS [cmd 2 16 [(0, 8, 0x20000)]] 2
     rdy s 2 = true ∧ s.tenCovers 0 0x20000 8 .w = false ∧ answer (.memWrite 0) s = some [stWindowFault, 6]) ∧
    (let s := hostS [cmd 3 16 [(0, 8, 0x100), (8, 4, 8)]] 2
     rdy s 3 = true ∧ s.tenCovers 0 0x100 8 .r = true ∧ (((s.pruneDigests 0).gddrStrike []).svcRead 0x100 8).2.1 = true ∧ answer (.memRead 0 []) s = some [0, 0]) ∧
    (let s := hostS [cmd 3 16 [(0, 8, 0xFFFF), (8, 4, 8)]] 2
     rdy s 3 = true ∧ s.tenCovers 0 0xFFFF 8 .r = false ∧ answer (.memRead 0 []) s = some [stWindowFault, 6]) ∧
    (rdy (hostS [cmd 4 0 []] 2) 4 = true ∧ answer (.status 0) (hostS [cmd 4 0 []] 2) = some [0, 0]) ∧
    (let s := hostS [cmd 6 8 [(0, 2, 65)]] 2 (fun s => { s with ec := { s.ec with groups := [(1, { owner := 0 })] } })
     rdy s 6 = true ∧ s.ringOk 0 65 = true ∧ answer (.ring 0) s = some [0, 0] ∧ (after (.ring 0) s).ec.isPending 65 = true) ∧
    (let s := hostS [cmd 6 8 [(0, 2, 4095)]] 2
     rdy s 6 = true ∧ s.ringOk 0 4095 = false ∧ answer (.ring 0) s = some [stWindowFault, 6]) := by decide +kernel

def loadC : HostCmd := cmd 0x10 56 [(0, 2, 7), (2, 2, 1), (6, 1, 0), (8, 4, 1), (12, 8, 0x100)] true (leBytes 32 0x366A66D9B4EC08D7556C23891864FA91EB0853BF8B915347DE87949EEAF2A57E) 20
/-- A descriptor that names no band and no program. -/
def jobD : Desc := blob 208 [(0, 4, 0x5A510010), (4, 2, 1), (6, 2, 1), (0x28, 4, 0x10000000)]
def startC : HostCmd := cmd 0x11 48 [(0, 8, 0x100), (8, 8, 208)] true (leBytes 32 0x7BB69AC5DFCDDFE99D02921CC2E96903FB5D92629C1FDAC916EBDE7A0CD01D8B) 16
/-- The block stands at a unit of GDDR. -/
def gddrAt (u : Nat) (l : List Byte) (s : State) : State :=
  { s with chans := [((s.steer u).1, { mem := memAt ((s.chan (s.steer u).1).spared (s.steer u).2 * 256) l })] }
/-- The blob is good, and the check of the id after it. -/
def blobOk (s : State) (npa n : Nat) (dig : List Byte) : Bool := match (s.pruneDigests 0).blob 0 npa n dig with | (_, .ok _) => true | _ => false
def idOk (s : State) (npa n : Nat) (dig : List Byte) (id gen : BitVec 16) : Bool := (((s.pruneDigests 0).blob 0 npa n dig).1.idCheck id gen).isNone
theorem test_job_load : jobOf (.jobLoad 0) (hostS [loadC] 0) = 1 := by decide +kernel
theorem witness_JobsAreLoadedStartedAndRun_1 :
    let s := hostS [loadC] 0
    rdy s 0x10 = true ∧ loadC.num 8 4 = 1 ∧ loadC.num 4 2 < loadC.num 8 4 ∧ blobOk s (loadC.num 12 8) 64 (loadC.bytes 20 32) = true ∧
    idOk s (loadC.num 12 8) 64 (loadC.bytes 20 32) 7 1 = true ∧ s.pkg.memoryBroken = false ∧ s.boot.layoutBad = false ∧ s.cpc.active.toNat = loadC.num 6 1 ∧
    answer (.jobLoad 0) s = some [0, 0] := by decide +kernel
theorem witness_JobsAreLoadedStartedAndRun_2 :
    let s := hostS [startC] 1 (gddrAt 1 jobD)
    rdy s 0x11 = true ∧ startC.num 8 8 = 208 ∧ blobOk s (startC.num 0 8) 208 (startC.bytes 16 32) = true ∧ fieldAt jobD 0x20 4 = 0 ∧ s.jobDescOk 0 jobD = true ∧
    s.bandCores (fieldAt jobD 8 8) = [] ∧ jobOf (.jobStart 0) s = 2 := by decide +kernel
theorem witness_JobsAreLoadedStartedAndRun_3 :
    (let s := hostS [cmd 5 0 []] 2 (fun s => { s with cores := [(0, { jobValid := true, haltCu := true })] })
     rdy s 5 = true ∧ s.standby = false ∧ (s.core c0).jobValid = true ∧ (s.core c0).tenancy = 0 ∧ answer (.jobRun 0) s = some [0, 0] ∧
       ((after (.jobRun 0) s).core c0).haltCu = false ∧ ((after (.jobRun 0) s).core c0).cuRunning = true ∧ ((after (.jobRun 0) s).ten 0).job.running = true) ∧
    (hostS [cmd 5 0 []] 2 (fun s => { s with twin := { s.twin with mode := 1, role := true } })).standby = true := by decide +kernel
def revC : HostCmd := cmd 0x12 8 [(0, 2, 1), (2, 2, 1)] true
theorem witness_JobsAreRevokedAndFreed :
    (let s := hostS [revC] 2
     rdy s 0x12 = true ∧ revC.num 0 2 = 1 ∧ revC.num 2 2 = 1 ∧ jobOf (.jobRevoke 0) s = 3 ∧ ((after (.jobRevoke 0) s).ten 0).revoke = some revC) ∧
    (rdy (hostS [revC] 1) 0x12 = true ∧ ((hostS [revC] 1).ckpt 0).state ≠ 3 ∧ jobOf (.jobRevoke 0) (hostS [revC] 1) = 4) ∧
    (let s := after (.jobRevoke 0) (hostS [revC] 2 (fun s => { s with cores := [(0, { jobValid := true })] }))
     (s.ten 0).revoke = some revC ∧ s.cpc.stopped = false ∧ s.revokeIdle 0 = true ∧ jobOf (.revokeDrained 0) s = 4 ∧ answer (.revokeDrained 0) s = some [0, 0] ∧
       ((after (.revokeDrained 0) s).core c0).jobValid = false) ∧
    (let s := hostS [cmd 0x13 0 [] true] 4
     rdy s 0x13 = true ∧ s.pkg.history.length < 64 ∧ jobOf (.jobFree 0) s = 0 ∧ (after (.jobFree 0) s).pkg.history = [(1, 1, 1000000)]) ∧
    (let s := hostS [cmd 0x14 0 [] true] 1
     rdy s 0x14 = true ∧ answer (.restore 0) s = some [0, 0] ∧ ((after (.restore 0) s).ckpt 0).state = 3) := by decide +kernel

/-- Window 2 of tenancy 0, over GDDR. -/
def winC (st : Bool) : HostCmd := cmd 0x18 32 [(0, 1, 2), (8, 8, 1 + 2 ^ 16 + 2 ^ 34 + 2 ^ 38), (16, 8, 0x100), (24, 8, 0x100)] st
def grpC : HostCmd := cmd 0x19 48 [(0, 1, 2), (2, 2, 1), (4, 4, 1), (8, 8, 0x100)] true (leBytes 32 0x3E2FA3D0BE81D6163570844A718EB54F971405E4FFB9583D27592F1444E500D3) 16
def rankC (n : Nat) (dig : List Byte) : HostCmd := cmd 0x1B 48 [(0, 4, 6), (4, 4, n), (8, 8, 0x100)] true dig 16
theorem witness_TablesAndImageAreSetByCommands_1 :
    (let s := hostS [winC true] 2
     rdy s 0x18 = true ∧ (windowWord ((winC true).num 8 8) 0x100 0x100).jobId = 1 ∧ answer (.windowSet 0) s = some [0, 0] ∧
       ((after (.windowSet 0) s).fab 1).windows.get 2 = windowWord ((winC true).num 8 8) 0x100 0x100) ∧
    (let s := hostS [winC true] 2 (fun s => { s with fabrics := [(0, { windows := [(2, { winE 0 with busy := 1 })] })] })
     ((s.fab 0).windows.get 2).busy ≠ 0 ∧ (((after (.windowSet 0) s).fab 0).windows.get 2).valid = false ∧ (after (.windowSet 0) s).outbox = []) ∧
    (let w := windowWord ((winC false).num 8 8) 0x100 0x100
     (winC false).num 8 8 < 2 ^ 39 ∧ w.space = 0 ∧ w.mirror = false ∧ (hostS [winC false] 2).windowFits 0 w = true) ∧
    (let s := hostS [grpC] 2
     rdy s 0x19 = true ∧ grpC.num 0 1 = 2 ∧ grpC.num 2 2 = 1 ∧ grpC.num 4 4 = 1 ∧ blobOk s 0x100 2 (grpC.bytes 16 32) = true ∧ 
       ((after (.groupSet 0) s).groupOf 0 2).valid = true ∧ ((after (.groupSet 0) s).groupOf 0 2).list = [0]) ∧
    (let c := rankC 1 (leBytes 32 0xA9781D76F243969B0F00353718BFA5AC3534613F57C42BCDF7299AA0BF49629)
     let s := hostS [c] 2 (gddrAt 1 (leBytes 8 (2 ^ 48 + 77) ++ List.replicate 56 0))
     rdy s 0x1B = true ∧ c.num 0 4 + c.num 4 4 ≤ 65536 ∧ blobOk s 0x100 64 (c.bytes 16 32) = true ∧ 
       ((after (.rankSet 0) s).fab 0).ranks.get 6 = { mac := 77, valid := true }) := by decide +kernel
theorem witness_TablesAndImageAreSetByCommands_2 :
    (let s := hostS [cmd 0x28 48 [(0, 8, 0x100), (8, 8, 0)] true] 2 (fun s => { s with boot := { s.boot with imageWriting := true } })
     rdy s 0x28 = true ∧ answer (.imageWrite 0) s = some [0, 0] ∧ (after (.imageWrite 0) s).boot.imageWriting = false) ∧
    (let c := cmd 0x28 48 [(0, 8, 0x100), (8, 8, 64)] true (leBytes 32 0x366A66D9B4EC08D7556C23891864FA91EB0853BF8B915347DE87949EEAF2A57E) 16
     blobOk (hostS [c] 2) 0x100 64 (c.bytes 16 32) = true ∧ (hostS [c] 2).boot.imageWriting = false) := by decide +kernel

/-! ### Checkpoint and restore -/

/-- A plan at GDDR 0x100: step 10, generation 1 staged, and one replicated shard 0 of 8 bytes with the replicas 0 and 2. -/
def planB (n : Nat) : Desc := blob 0x84 [(0, 8, 10), (0x1C, 4, 1), (0x24, 2, n), (0x26, 2, 2 * n), (0x30, 8, 0x180), (0x44, 4, 1), (0x48, 8, 0x190), (0x50, 8, 0x1A0), (0x58, 8, 8), (0x82, 2, 2)]
def ckS (own rank : Nat) (c : Ckpt) (n : Nat := 1) : State :=
  let s := hostS [] 2 (gddrAt 1 (planB n))
  { s with tens := s.tens.map (fun e => (e.1, { e.2 with job := { e.2.job with ownRank := BitVec.ofNat 16 own, rankCount := BitVec.ofNat 17 rank } }))
           ckpts := [(0, { c with enable := true, moduleOk := true, planAddr := 0x100 })]
           fabrics := s.fabrics.map (fun e => (e.1, { e.2 with ranks := [(0, { mac := 50, valid := true }), (1, { mac := 51, valid := true }), (2, { mac := 52, valid := true })] })) }
/-- A good service frame of a rank, and whether a package takes it in. -/
def svc (r : Nat) : SvcFrom := ⟨0, 0, wtSeal { type := 0xA, srcRank := BitVec.ofNat 16 r, srcMac := BitVec.ofNat 48 (50 + r), tSend := 1000000 }⟩
def got (s : State) (r : Nat) : Bool := (s.svcIn 0 (svc r)).2
/-- What node firmware has sent to a rank through fabric die A. -/
def toldIn (rank : Nat) (t : State) : List (List Byte) :=
  ((t.fab 0).outst.filter (fun o => o.ten == 0 && o.owner == .none && o.frame.type == 0xA && o.frame.dstRank.toNat == rank)).map (·.frame.payload)
    ++ ((t.fab 0).waiting.filter (fun r => r.ten == 0 && r.owner == .none && r.type == 0xA && r.rank == rank)).map (·.payload)
def mayTell (s : State) (rank : Nat) : Bool := s.usePlane 0 == 0 && (s.fwDest 0 0 rank).isSome
def ckA (i : Instr) (s : State) : Ckpt := (after i s).ckpt 0
theorem witness_CutsAreTriggeredAndSet_1 :
    (let s := ckS 0 2 { periodMs := 1, stepInterval := 5, actedPeriod := 7 }
     s.triggers 0 = true ∧ (s.ckpt 0).periodMs ≠ 0 ∧ s.t / 1000000 ≠ (s.ckpt 0).actedPeriod ∧ (s.ckpt 0).state = 0 ∧ (s.planHead 0).2.1 = true ∧
       ((s.planHead 0).1.planHead 0).2.1 = true ∧ (ckA (.ckptPeriodTrigger 0) s).state = 1 ∧ (ckA (.ckptPeriodTrigger 0) s).replies = [(0, 10)] ∧
       mayTell s 1 = true ∧ toldIn 1 (after (.ckptPeriodTrigger 0) s) = [[1, 0, 0, 0, 1]] ∧ (s.ckpt 0).stepInterval ≠ 0 ∧ fieldAt (s.planHead 0).2.2 0 8 = 10 ∧
       (ckA (.ckptStepPoll 0) s).gen = 1 ∧ (ckA (.ckptStepPoll 0) s).actedStep = some 10) ∧
    (let s := ckS 0 2 { periodMs := 1, stepInterval := 5, state := 2, actedPeriod := 7 }
     s.triggers 0 = true ∧ (ckA (.ckptPeriodTrigger 0) s).deferred = true ∧ (ckA (.ckptStepPoll 0) s).deferred = true) ∧
    (let s := ckS 0 2 { stepInterval := 3 }
     s.triggers 0 = true ∧ (ckA (.ckptStepPoll 0) s).actedStep = none) := by decide +kernel
theorem witness_CutsAreTriggeredAndSet_2 :
    (let s := ckS 2 3 {}
     got s 0 = true ∧ s.isRank0 0 = false ∧ s.jobActive 0 = true ∧ s.ckptActs = true ∧ s.linkIn 0 0 = true ∧ (s.port 0 0).twin = false ∧ wtBad (svc 0).frame false = false ∧
       (svc 0).frame.twin = false ∧ quiet s = true ∧ s.svcFrom 0 (svc 0) = true ∧
       ((s.space (s.peerOf 0 (svc 0).frame) (svc 0).frame.origin).floor (svc 0).frame.ackFloor).classify (svc 0).frame.seq (svc 0).frame.ackFloor = .new ∧
       (s.fab 0).path ≠ [] ∧ s.hopOf (svc 0).frame ≤ (s.fab 0).allowance + 100 ∧ (s.svcIn 0 (svc 0)).1.outbox.length = 1 ∧ (ckA (.cutQuery 0 (svc 0) 1) s).state = 1 ∧
       mayTell (s.svcIn 0 (svc 0)).1 0 = true ∧
       toldIn 0 (after (.cutQuery 0 (svc 0) 1) s) = [[2, 0, 0, 0, 1, 0, 0, 0, 0, 0, 0, 0, 10]]) ∧
    (let s := ckS 0 3 { state := 1, gen := 1, replies := [(0, 10)] }
     got s 1 = true ∧ s.isRank0 0 = true ∧ (ckA (.cutReply 0 (svc 1) 1 12) s).state = 1 ∧ (ckA (.cutReply 0 (svc 1) 1 12) s).replies = [(0, 10), (1, 12)]) ∧
    (let s := ckS 0 2 { state := 1, gen := 1, replies := [(0, 10)] }
     (ckA (.cutReply 0 (svc 1) 1 12) s).state = 2 ∧ (ckA (.cutReply 0 (svc 1) 1 12) s).step = 14) ∧
    (let s := ckS 2 3 { state := 1, gen := 1 }
     got s 0 = true ∧ s.isRank0 0 = false ∧ (s.ckpt 0).nextCut = none ∧ (ckA (.cutSet 0 (svc 0) 1 14) s).state = 2 ∧ (ckA (.cutSet 0 (svc 0) 1 14) s).step = 14) ∧
    (let s := ckS 2 3 { state := 2, gen := 1 }
     got s 0 = true ∧ (ckA (.cutQuery 0 (svc 0) 2) s).nextCut = some (2, none) ∧ (ckA (.cutQuery 0 (svc 0) 2) s).gen = 1) ∧
    (let s := ckS 2 3 { state := 2, gen := 1, nextCut := some (2, none) }
     got s 0 = true ∧ (ckA (.cutSet 0 (svc 0) 2 20) s).nextCut = some (2, some 20)) := by decide +kernel

def plan0 (s : State) : State × Bool × List PlanEntry × List Nat := (s.planHead 0).1.planEntries 0 (s.planHead 0).2.2
theorem witness_GenerationsAreWrittenAndCommitted :
    (let s := ckS 2 3 { state := 2, gen := 1 }
     (s.planHead 0).2.1 = true ∧ fieldAt (s.planHead 0).2.2 0x1C 4 = 1 ∧ (plan0 s).2.1 = true ∧ (ckA (.stagedGenSeen 0) s).phase = .shards ∧
       got s 0 = true ∧ ((plan0 s).2.2.1.zipIdx.find? (fun x => x.1.shard == 0 && x.1.replicated)).isSome = true ∧
       (match (plan0 s).2.2.1 with | [e] => writerOf e (plan0 s).2.2.2 2 | _ => 9) = 0 ∧ (ckA (.digestNote 0 (svc 0) 1 0 []) s).notes = [(0, [])] ∧
       (ckA (.ckptAbandon 0 (svc 0) 1 3) s).abandoned = 1 ∧ (ckA (.ckptAbandon 0 (svc 0) 1 3) s).state = 0) ∧
    (ckA (.nvmeCompletion (some 0) true) (ckS 2 3 { state := 2, gen := 1, phase := .manifest })).phase = .flush2 ∧
    ((ckS 2 3 { state := 2, gen := 1, phase := .flush2 }).mirrorOpen 0 = false ∧ mayTell (ckS 2 3 { state := 2 }) 0 = true ∧ (ckA (.nvmeCompletion (some 0) true) (ckS 2 3 { state := 2, gen := 1, phase := .flush2 })).phase = .written) ∧
    ((ckA (.nvmeCompletion (some 0) true) (ckS 2 3 { state := 2, gen := 1, phase := .committing })).lastGen = 1 ∧
      ((ckA (.nvmeCompletion (some 0) true) (ckS 2 3 { state := 2, gen := 1, phase := .committing })).slots.get 0).committed = true) ∧
    (let s := ckS 0 3 { state := 2, gen := 1, timeoutS := 1 }
     got s 1 = true ∧ s.isRank0 0 = true ∧ (s.ckpt 0).deferred = false ∧ (s.ckpt 0).nextCut = none ∧ (ckA (.pkgWritten 0 (svc 1) 1 stDone 0 [7]) s).written = [(1, [7])] ∧
       (ckA (.pkgWritten 0 (svc 1) 1 stAborted 3 []) s).state = 0 ∧ (toldIn 1 (after (.pkgWritten 0 (svc 1) 1 stAborted 3 []) s), toldIn 2 (after (.pkgWritten 0 (svc 1) 1 stAborted 3 []) s)) = ([[7, 0, 0, 0, 1, 3]], [[7, 0, 0, 0, 1, 3]]) ∧
       let s1 := { s with clock := { now := 2000000000 } }
       1000000000 ≤ s1.t ∧ (ckA (.ckptTimeout 0) s1).abandoned = 1) ∧
    (let s := ckS 2 3 { state := 2, gen := 1, phase := .written }
     got s 0 = true ∧ (ckA (.commit 0 (svc 0) 1 14 [5]) s).phase = .committing ∧ (after (.commit 0 (svc 0) 1 14 [5]) s).outbox.length = 2) := by decide +kernel

def wait0 : ShardWait := { shard := 0, digest := leBytes 32 0, got := [1, 2, 3] }
def view1 : SlotView := ⟨1, 14, 0, true, []⟩
theorem witness_RestoresGoThroughTheirSteps :
    (let s := ckS 2 3 { state := 3 }
     s.isRank0 0 = false ∧ mayTell s 0 = true ∧ (ckA (.restoreView 0 (svc 2) [] {}) s).views = [(2, (restoreJudged {} 1).1)] ∧
       (ckA (.restoreView 0 (svc 2) [] {}) s).records = [] ∧ toldIn 0 (after (.restoreView 0 (svc 2) [] {}) s) = [viewBytes (restoreJudged {} 1).1] ∧ (s.ckpt 0).nextCut = none ∧ mayTell (s.svcIn 0 (svc 0)).1 0 = true ∧
       got s 0 = true ∧ (ckA (.restoreGo 0 (svc 0) (BitVec.allOnes 32) []) s).state = 0 ∧
       toldIn 0 (after (.restoreGo 0 (svc 0) (BitVec.allOnes 32) []) s) = [[0x0C, 255, 255, 255, 255, stNoGeneration]]) ∧
    (let s := ckS 2 3 { state := 3 } 0
     fieldAt (s.planHead 0).2.2 0x24 2 = 0 ∧ (s.ckpt 0).restoreBad = false ∧ (ckA (.restoreGo 0 (svc 0) 1 []) s).lastGen = 1) ∧
    (let s := ckS 0 3 { state := 3, views := [(0, [])] }
     got s 1 = true ∧ s.isRank0 0 = true ∧ (ckA (.restoreView 0 (svc 1) [view1] {}) s).views = [(0, []), (1, [view1])]) ∧
    (let s := ckS 2 3 { state := 3, waitShards := [wait0] }
     (match (plan0 s).2.2.1 with | [e] => (e.shard, writerOf e (plan0 s).2.2.2 2, e.len) | _ => (9, 9, 9)) = (0, 0, 8) ∧
       ((ckA (.shardData 0 (svc 0) 0 3 [4]) s).waitShards.map (·.got)) = [[1, 2, 3, 4]] ∧
       (ckA (.shardData 0 (svc 0) 0 3 [4, 5, 6, 7, 8]) s).waitShards = [] ∧ (toldIn 0 (after (.shardData 0 (svc 0) 0 3 [4, 5, 6, 7, 8]) s)).length = 1) ∧
    (let s := ckS 0 3 { state := 3, restoreGen := 1, dones := [(0, stDone)] }
     (ckA (.restoreDone 0 (svc 1) 1 stDone) s).dones = [(0, stDone), (1, stDone)] ∧
       let s := ckS 0 3 { state := 3, restoreGen := 1, dones := [(0, stDone), (2, stDone)] }
       (ckA (.restoreDone 0 (svc 1) 1 stDone) s).state = 0 ∧ (ckA (.restoreDone 0 (svc 1) 1 stDone) s).report.getD 0 1 = 0) := by decide +kernel

/-- Half `h` of LBA 9 of slot 2 of the mirror region, in a frame of the twin; a package with a twin link. -/
def halfF (h : Byte) (tag : BitVec 16) (seq : BitVec 24) : SvcFrom :=
  ⟨0, 12, wtSeal { type := 0xA, tag := tag, seq := seq, tSend := 1000000, payload := [8, 1, 2, h, 0] ++ beBytes 8 9 ++ List.replicate 2048 h }⟩
def mirrorS (l : List (Plane × WtFrame)) (fl : List (List (Plane × WtFrame)) := []) : State :=
  { netS with twin := { netS.twin with mode := 1, mirrored := l, flushing := fl }, fabrics := [(0, { ports := [(3, { mode := 1, up := 1, twin := true })] })] }
theorem good_sealed (f : WtFrame) (hf : f.fcsOk = true) (hv : f.version = 1) (hr : wtReserved f.type = false) (hl : f.payload.length ≤ 4096) :
    wtBad (wtSeal f) false = false := by
  have hc : (wtSeal f).crc = wtCrc (wtSeal f) := rfl
  have hn : f.payload.length % 65536 = f.payload.length := Nat.mod_eq_of_lt (by omega)
  have h4 : (wtSeal f).payload.length ≤ 4096 := hl
  simp only [wtBad, ← hc]
  simp [wtSeal, hf, hv, hr, hn, hl]
theorem witness_RestoresGoThroughTheirSteps_mirror :
    let a := halfF 0 5 0
    let f := halfF 1 6 1
    let s := mirrorS [(0, a.frame)]
    wtBad f.frame false = false ∧ s.linkIn 0 12 = true ∧ (s.port 0 12).twin = true ∧ isMirror f.frame = true ∧ f.frame.jobId = 0 ∧ quiet s = true ∧
    s.hopOf f.frame ≤ (s.fab 0).allowance + 100 ∧
    ((s.space twinPeer f.frame.origin).floor f.frame.ackFloor).classify f.frame.seq f.frame.ackFloor = .new ∧ s.twin.mode ≠ 0 ∧ f.frame.payload.length = 2061 ∧
    mirrorKey a.frame.payload = (1, 2, 0, 9) ∧ mirrorKey f.frame.payload = (1, 2, 1, 9) :=
  ⟨good_sealed _ rfl rfl rfl (by decide +kernel), by decide +kernel⟩
theorem witness_RestoresGoThroughTheirSteps_flushed :
    let z := fun (tag : BitVec 16) => ((0 : Plane), { (default : WtFrame) with type := 0xA, tag := tag, twin := true })
    let s := mirrorS [] [[z 5, z 6]]
    s.twinUp 0 = true ∧ (z 5).2.self = false ∧ (after (.nvmeCompletion none true) s).twin.flushing = [] ∧
    (after (.nvmeCompletion none true) s).outbox.map (fun o => match o with | .wt 0 _ _ g => (g.type, g.tag, g.status) | _ => (0, 0, 9)) = [(6, 5, 0), (6, 6, 0)] := by
  decide +kernel

/-! ### Twins -/

/-- A package with a twin link up on both planes. -/
def twS (t : Twin) : State :=
  { netS with twin := t, fabrics := [(0, { ethertype := 0x88B5, ports := [(0, { mode := 1, up := 1 }), (3, { mode := 1, up := 1, twin := true })] }),
      (1, { ethertype := 0x88B5, ports := [(3, { mode := 1, up := 1, twin := true })] })] }
def twF (kind : Byte) (payload : List Byte) : TwinFrame :=
  let f : TwinFrame := { kind := kind, payload := payload, length := BitVec.ofNat 16 payload.length }
  { f with crc := crc32c (twinBody f) }
/-- A heartbeat with state, role and took_over. -/
def hb (v : Byte) : TwinFrame := twF 1 (List.replicate 8 0 ++ [v] ++ List.replicate 7 0)
def inTurn (s : State) (pl : Plane) (f : TwinFrame) (kind : Byte) : Bool :=
  s.twinUp pl.val && s.twinGood pl.val f && f.kind == kind && f.tseq == s.twin.tseqIn.get (f.plane.toNat % 2) && s.twin.early == []
theorem inTurn_iff (s : State) (pl : Plane) (f : TwinFrame) (kind : Byte) : inTurn s pl f kind = true ↔ s.InTurn pl f kind := by
  simp [inTurn, State.InTurn, and_assoc]
def twA (i : Instr) (s : State) : Twin := (after i s).twin
theorem witness_HeartbeatsKeepThePair :
    (let s := twS { mode := 1, state := 2, role := true, syncSent := true }
     inTurn s 0 (hb 3) 1 = true ∧ (twA (.heartbeat 0 (hb 3)) s).state = 3 ∧ (twA (.heartbeat 0 (hb 3)) s).tseqIn.get 0 = 1) ∧
    (let s := twS { mode := 1, state := 3 }
     inTurn s 0 (hb 19) 1 = true ∧ bitAt 19 3 = false ∧ bitAt 19 4 = true ∧ (twA (.heartbeat 0 (hb 19)) s).state = 6 ∧
       ((after (.heartbeat 0 (hb 19)) s).dieRate 5).admitting = false ∧ inTurn s 1 (hb 10) 1 = true ∧ (twA (.heartbeat 1 (hb 10)) s).lastHeard = 1000000 ∧ inTurn s 1 (hb 5) 1 = true ∧
       (twA (.heartbeat 1 (hb 5)) s).state = 5) ∧
    (let s := twS { mode := 1, state := 3, beats := [(0, 950001)], lastHeard := 500000 }
     s.twinUp 0 = true ∧ s.twin.beats.get 0 + 50000 ≤ s.t + 1 ∧ (after (.heartbeatSend 0) s).outbox.length = 1 ∧ (twA (.heartbeatSend 0) s).beats.get 0 = 1000001 ∧
       s.twin.lastHeard + 500000 ≤ s.t ∧ (twA .twinLost s).state = 4 ∧ (after .twinLost s).handed.length = 1) ∧
    (let s := twS { mode := 1, state := 3, out := [{ frame := hb 3, tSent := 997500 }] }
     (s.twin.out.find? (fun o => o.plane == 0 && o.frame.tseq == 0)).map (·.resends) = some 0 ∧ (after (.twinFrameResend 0 0) s).outbox = [.twin 0 (s.twinCarriage 0) (hb 3)] ∧
       ((twA (.twinFrameResend 0 0) s).out.map (·.resends)) = [1]) ∧
    (let s := twS { mode := 1, state := 3, out := [{ frame := hb 3, tSent := 995000, resends := 1 }] }
     (after (.twinFrameResend 0 0) s).outbox = [.twin 1 (s.twinCarriage 1) (hb 3)] ∧ (s.twinCarriage 1).etherType = 0x88B6) := by decide +kernel

def fwdF (kind : Byte) : TwinFrame := twF kind (forwardBytes 1 1 0x110 [7, 8])
def castF (status : Byte) : TwinFrame := twF 4 (blob 24 [(4, 4, 9), (12, 1, status.toNat), (16, 8, 77)])
/-- A remote copy runs on the shadow's core 0 under accumulator number 9. -/
def shadowS : State :=
  { twS { mode := 3, state := 3, role := true } with
    cores := [(0, { dma := { entry := some 4 }, entries := [(4, { code := .running, acc := 9, desc := blob 96 [(0, 1, 2), (1, 1, 2)] })] })], cdies := slicedS.cdies }
theorem witness_TwinFramesActOnce :
    (let s := twS { mode := 1, state := 3, role := true }
     let q := s.steer 1
     inTurn s 0 (fwdF 2) 2 = true ∧ inTurn s 0 (fwdF 3) 3 = true ∧ (0x110 : Nat) % 256 + 2 ≤ 256 ∧ (s.chan q.1).lostNow = false ∧ (s.chan q.1).combining = [] ∧
       (s.chan q.1).tracker = [] ∧ (∀ k : Fin 4, (s.chan q.1).errsAt q.2 ((s.chan q.1).spared q.2) k.val = []) ∧ s.twin.detaching = false ∧
       ((after (.writeForward 0 (fwdF 2)) s).chan q.1).mem.read ((s.chan q.1).spared q.2 * 256 + 0x11) = 8 ∧
       ((after (.copyData 0 (fwdF 3)) s).chan q.1).mem.read ((s.chan q.1).spared q.2 * 256 + 0x10) = 7 ∧ (after (.copyData 0 (fwdF 3)) s).outbox.length = 1) ∧
    (let s := twS { mode := 3, state := 3, mine := [{ acc := 9, c := 77 }] }
     inTurn s 0 (castF 0) 4 = true ∧ (castF 0).payload.length = 24 ∧ (twA (.castRecords 0 (castF 0)) s).compared = 1 ∧ (twA (.castRecords 0 (castF 0)) s).diverged = false ∧
       inTurn s 0 (castF 1) 4 = true ∧ (twA (.castRecords 0 (castF 1)) s).diverged = true) ∧
    (let f := twF 5 (beBytes 4 0 ++ beBytes 4 9 ++ List.replicate 8 0)
     inTurn shadowS 0 f 5 = true ∧ shadowS.castShadow = true ∧ f.payload.length = 16 ∧ shadowS.phys 0 = some c0 ∧
       ((shadowS.core c0).entries.find? (fun e => e.2.acc == 9 && (e.2.live || e.2.ended) && e.2.code != .free)).map (·.1) = some 4 ∧
       ((shadowS.core c0).entry 4).d.mayGoOut = true ∧ (shadowS.core c0).wait = .none ∧
       (((after (.castCompletion 0 f) shadowS).core c0).entry 4).outcome = some 0) ∧
    (let s := twS { mode := 1, state := 3, role := true }
     inTurn s 0 (twF 6 [0x40]) 6 = true ∧ (twA (.stopping 0 (twF 6 [0x40])) s).stopped = some 0x40 ∧ inTurn s 0 (twF 7 []) 7 = true ∧ s.twinReportOk [] = false ∧
       (twA (.attach 0 (twF 7 [])) s).state = 1 ∧ inTurn s 0 (twF 8 []) 8 = true ∧ (twA (.announcement 0 (twF 8 [])) s).state = 3) := by decide +kernel

def mirS (t : Twin) (ws : Tab Window) : State := let s := twS t; { s with fabrics := s.fabrics.map (fun e => (e.1, { e.2 with windows := ws })) }
theorem witness_TwinsAttachSyncAndTakeOver :
    (let s := twS { mode := 1, state := 4, role := true }
     let q := State.peerOfRank { s with fabrics := s.fabrics.map (fun e => (e.1, { e.2 with ranks := [(0, { mac := 7, valid := true })] })) } 0
     let s1 := { s with fabrics := s.fabrics.map (fun e => (e.1, { e.2 with ranks := [(0, { mac := 7, valid := true })], credits := [(q, { granted := 4 })] }))
                        tens := [(0, { job := { state := 2, rankCount := 1 } })] }
     let p := after (.takeoverStart false) s1
     s.mayTakeOver = true ∧ (twA (.takeoverStart false) s).takeoverStep = 2 ∧ s.twin.stopped = none ∧ (s1.rankDest 0 0 0).isSome = true ∧
       s1.canPay 0 (s1.peerOfRank 0) 0xB = true ∧ ((p.fab 0).outst.map (·.frame.type)) = [0xB] ∧ p.probing = true ∧ (twA (.takeoverStart false) p) = p.twin ∧
       (twA (.takeoverStart true) p).takeoverStep = 0 ∧ (after (.takeoverStart true) p).probing = false ∧
       (twA (.takeoverStart false) (after (.takeoverStart false) s)).tookOver = true ∧
       (twA .takeover s).tookOver = true ∧ (twA .takeover s).role = false ∧ (after .takeover s).handed.length = 1) ∧
    (twS { mode := 1, state := 3 }).mayTakeOver = false ∧
    (let s := { twS { mode := 1, state := 6 } with boot := { (twS {}).boot with aliasSeed := [1] } }
     s.attests = true ∧ s.twin.state ≠ 2 ∧ (twA .attachStart s).state = 1 ∧ (twA .attachStart s).role = true) ∧
    (let s := twS { mode := 1, state := 2, role := true }
     let s1 := { s with ckpts := [(0, { slots := [(1, { committed := true })] })] }
     s.syncSlots = [] ∧ s.copiesOpen = false ∧ (twA .syncUnitCopy s).syncSent = true ∧ s1.syncSlots = [(0, 1)] ∧ (twA .syncUnitCopy s1).syncLba = 1) ∧
    ((mirS { mode := 1, state := 2 } []).mirrorWindows = [] ∧ (twA .syncUnitCopy (mirS { mode := 1, state := 2 } [])).state = 3) ∧
    (let w : Window := { winE 0 with mirror := true }
     let s := mirS { mode := 1, state := 2, syncWin := 0xC0 } [(0xC0, w)]
     s.mirrorWindows = [(0xC0, w)] ∧ s.twin.syncUnit < w.length.toNat / 256 ∧ (s.gddrRead 0x100 256 { source := 1 }).2.1 = stDone ∧
       (twA .syncUnitCopy s).syncUnit = 1 ∧ (twA .syncUnitCopy s).state = 2 ∧
       let s1 := mirS { mode := 1, state := 2, syncWin := 0xC0, syncUnit := 1 } [(0xC0, w)]
       w.length.toNat / 256 ≤ s1.twin.syncUnit ∧ (twA .syncUnitCopy s1).state = 3) ∧
    (quiet (twS { mode := 1, state := 3 }) = true ∧ (twA .detach (twS { mode := 1, state := 3 })).state = 5 ∧ (twA .detach (twS { mode := 1, state := 3, out := [{ frame := fwdF 2 }] })).state = 3) ∧
    (let s := twA .detach (twS { mode := 1, state := 3, out := [{ frame := fwdF 2 }] })
     let f : TwinFrame := let f := { hb 3 with tack := 1 }; { f with crc := crc32c (twinBody f) }
     s.detaching = true ∧ inTurn (twS s) 0 f 1 = true ∧ (∀ o ∈ s.out, o.plane = 0 ∧ (f.tack - 1 - o.frame.tseq).toNat < 2 ^ 31) ∧ bitAt 3 4 = false ∧
       (twA (.heartbeat 0 f) (twS s)).state = 5) := by decide +kernel

/-! ### Event concentrator and processor die -/

/-- Hart 0, an application hart of tenancy 0, and hart 96, with the concentrator given. -/
def pxS (e : Ec) (r : HartRegs := {}) (r96 : HartRegs := {}) : State :=
  { netS with ec := e, px := { netS.px with apps := [(0, { assigned := true, running := true })], harts := [(0, r), (96, r96)], ways := [(0, { sram := 1, cache := 2 })] }, boot := { phase := 10 }
              cores := [(0, { regions := [(0, { base := 0x3000100000000, limit := 0x3000100010000, permW := true, valid := true })] })]
              tens := [(0, { regions := [(0, { permR := true, permW := true, permA := true, valid := true, limit := 0x10000 })] })] }
/-- Source 65 of tenancy 0, pending with priority 2, and enabled at target 0; 66 has priority 1. -/
def ecOne (svc : List Nat := []) : Ec :=
  { pending := [(1, 6)], prio := [(65, 2), (66, 1)], groups := [(1, { owner := 0, interval := 3 })], targets := [(0, { enable := [(1, 6)], service := svc })] }
theorem witness_EventSourcesAreRungClaimedAndCompleted_1 :
    (let s := pxS { groups := [(1, { owner := 0 })] }
     s.hartRuns 0 = true ∧ isService 0 = false ∧ s.hartTen 0 = some 0 ∧ s.ringOk 0 65 = true ∧ (after (.doorbell (.hart 0) 0 65 true) s).ec.isPending 65 = true ∧
       [0, 8].all (fun o => s.regionOk c0 (3 * 2 ^ 48 + ecBase + o) 8 .w) = true ∧ (after (.doorbell (.core c0) 0 65 true) s).ec.isPending 65 = true ∧ (after (.retract (.hart 0) 0 65 true) s).ec.isPending 65 = false ∧
       s.ringOk 0 4095 = false ∧ (after (.doorbell (.hart 0) 0 4095 true) s).ec.bellDrop = 1 ∧ s.ringOk 0 128 = false) ∧
    ((pxS {}).hartRuns 96 = true ∧ isService 96 = true) ∧
    ((after (.ecPendingWrite 0 0xFFFFFFFFFFFFFFFF) (pxS {})).ec.pending.get 0 = 0x3FFFFFFFFE) ∧
    (let r : HartRegs := { mode := 1, pc := 0x100, mtvec := 0x801, ienable := 0x800, wfi := true }
     let s := { pxS { ecOne with pending := [] } with px := { (pxS {}).px with harts := [(0, r)] } }
     let t := after (.ecPendingWrite 1 2) s
     ({ s with ec := t.ec }).irq 0 = true ∧ ({ s with ec := t.ec }).hartIrq 0 = some 11 ∧ (t.hart 0).pc = 0x82C ∧ (t.hart 0).mcause = 0x800000000000000B ∧
       (let s := { s with px := { s.px with harts := [(0, { r with ienable := 0 })] } }
        (after (.ecPendingWrite 1 2) s).hart 0 = { r with ienable := 0, wfi := false } ∧ ({ s with ec := t.ec }).hartIrq 0 = none)) ∧
    (let s := { pxS {} with signals := [3, 70] }
     s.signals = [3] ++ (70 : BitVec 12).toNat :: [] ∧ (after (.ecSourceEvent 70) s).signals = [3] ∧ (after (.ecSourceEvent 70) s).ec.isPending 70 = true) := by decide +kernel
theorem witness_EventSourcesAreRungClaimedAndCompleted_2 :
    (let s := pxS {}
     s.hartRuns 0 = true ∧ s.eligible 0 = [] ∧ ((after (.claim 0 5) s).hart 0).xr 5 = 0xFFF ∧ (after (.claim 0 5) s).ec.spurious = 1) ∧
    (let s := pxS (ecOne)
     s.eligible 0 = [65, 66] ∧ ((after (.claim 0 5) s).hart 0).xr 5 = 65 ∧ (after (.claim 0 5) s).ec.isPending 65 = false ∧
       ((after (.claim 0 5) s).ec.targets.get 0).service = [65] ∧ ((after (.claim 0 5) s).ec.groups.get 1).holdEnd = some 1000300) ∧
    (let s := pxS (ecOne [70])
     ((after (.complete 0 70) s).ec.targets.get 0).service = [] ∧ (after (.complete 0 71) s).ec.badComplete = 1) ∧
    (let s := pxS { groups := [(1, { holdEnd := some 999999 })] }
     (999999 : Nat) ≤ s.t ∧ ((after (.gustHoldEnd 1) s).ec.groups.get 1).holdEnd = none) := by decide +kernel

/-- Registers f1 and f2 with the unit on, and x1 at package SRAM, x2 at 0. -/
def xzR (a b : Nat) (frm : BitVec 3 := 0) : HartRegs :=
  { mode := 3, pc := 0x100, mtvec := 0x800, fs := 1, frm := frm, x := [(1, 0x3000000000000)], f := [(1, BitVec.ofNat 64 a), (2, BitVec.ofNat 64 b)] }
def xz (i : Instr) (a b : Nat) (frm : BitVec 3 := 0) : Nat := ((after i (pxS {} (xzR a b frm))).hart 0).vec false 3
/-- R500's own example: `add.f32 q3, q1, q2`. -/
theorem test_xszv_words : xszvWord 0 0x0420E18B = some (.add 0 6 true 3 1 2) ∧ xszvWord 0 0xD800000B = none ∧ xszvWord 0 0x0220E18B = none ∧
    ((match (pxS {} { mode := 3, pc := 0x100 }).xszvRun 0 0xD800000B with | .next t => t | _ => State.reset).hart 0).mcause = 2 := by decide +kernel
theorem witness_XszvIntegerArithmetic :
    (pxS {} (xzR 1 2)).hartRuns 0 = true ∧ (pxS {} (xzR 1 2)).xszvOff 0 = false ∧ q3 false 3 1 2 = true ∧ q3 true 3 1 2 = true ∧
    xz (.add 0 0 false 3 1 2) 0x01FF 0x0101 = 0x0200 ∧ xz (.sub 0 1 false 3 1 2) 0x0000 0x0001 = 0xFFFF ∧ xz (.mul 0 2 false 3 1 2) 0x10001 0x10001 = 0x20001 ∧
    xz (.min 0 0 false 3 1 2) 0x80 0x7F = 0x80 ∧ xz (.minu 0 0 false 3 1 2) 0x80 0x7F = 0x7F ∧ xz (.max 0 0 false 3 1 2) 0x80 0x7F = 0x7F ∧
    xz (.maxu 0 0 false 3 1 2) 0x80 0x7F = 0x80 ∧ xz (.avg 0 0 false 3 1 2) 0xFF 0xFE = 0xFF ∧ xz (.abs 0 0 false 3 1 0) 0x80FF 0 = 0x8001 := by decide +kernel
theorem witness_XszvFloatArithmetic :
    frmRnd (xzR 0 0 1).frm = some .rtz ∧ xz (.add 0 6 false 3 1 2) 0x3F800000 0x40000000 = 0x40400000 ∧ xz (.sub 0 4 false 3 1 2) 0x3C00 0x4000 = 0xBC00 ∧
    xz (.mul 0 6 false 3 1 2) 0x40400000 0x40400000 = 0x41100000 ∧ xz (.abs 0 6 false 3 1 0) 0xC0400000 0 = 0x40400000 ∧
    xz (.min 0 6 false 3 1 2) 0x3F800000 0xBF800000 = 0xBF800000 ∧ xz (.max 0 6 false 3 1 2) 0x3F800000 0x7FC00000 = 0x3F800000 ∧
    5 ≤ (xzR 0 0 5).frm.toNat ∧ ((after (.add 0 6 false 3 1 2) (pxS {} (xzR 0 0 5))).hart 0).mcause = 2 := by decide +kernel
theorem witness_XszvComparesAndSelects :
    xz (.cmpeq 0 0 false 3 1 2) 0x0102 0x0103 = 0xFFFFFFFFFFFFFF00 ∧ xz (.cmplt 0 0 false 3 1 2) 0x80 0x01 = 0xFF ∧ xz (.cmpltu 0 0 false 3 1 2) 0x80 0x01 = 0 ∧
    xz (.cmple 0 6 false 3 1 2) 0x7FC00000 0x7FC00000 = 0xFFFFFFFF00000000 ∧ xz (.sel 0 3 false 3 1 2) 0xAB 0xCD = 0xCD ∧ xz (.splat 0 0 false 3 4 0) 0 0 = 0 ∧
    xz (.shuf 0 0 false 3 1 2) 0x0706050403020100 0x0800FF07 = 0x0000000000000007 ∧
    ((after (.mtest 0 0 false 5 1 0) (pxS {} (xzR 0x80FF7F80 0))).hart 0).xr 5 = 13 := by decide +kernel
theorem witness_XszvWidensNarrowsAndSums :
    q2 false 3 1 = true ∧ xz (.widen 0 0 false 3 1 0) 0x00000000FF80 0 = 0xFFFFFF80 ∧ xz (.widenu 0 0 false 3 1 0) 0x80 0 = 0x80 ∧ xz (.widenh 0 1 false 3 1 0) 0x0000000100000000 0 = 1 ∧
    xz (.widen 0 4 false 3 1 0) 0x3C00 0 = 0x3F800000 ∧ xz (.narrow 0 1 false 3 1 2) 0x0100 0xFF00 = 0x000000800000007F ∧ xz (.narrowu 0 1 false 3 1 2) 0xFFFF 0x0100 = 0x000000FF00000000 ∧
    xz (.narrow 0 6 false 3 1 2) 0x3F800000 0 = 0x3C00 ∧ xz (.dot 0 2 false 3 1 2) 0x01FF 0x0203 = 0xFFFFFFFF ∧ xz (.dotus 0 2 false 3 1 2) 0xFF 0xFF = 0xFFFFFF01 ∧
    xz (.sad 0 2 false 3 1 2) 0x05 0x08 = 3 := by decide +kernel
theorem witness_XszvLoadsAndStores :
    (let s := { pxS {} (xzR 0x0102 0x80) with px := { (pxS {} (xzR 0x0102 0x80)).px with sram := (List.range 8).map (fun i => (i, [9, 0, 0, 0, 0, 7, 0, 0].getD i 0)) } }
     ((s.gddrStrike []).elemLoads 0 0x3000000000000 1 [] 0 8 []).2.1 = [9, 0, 0, 0, 0, 7, 0, 0] ∧
       ((s.gddrStrike []).elemLoads 0 0x3000000000000 1 [] 0 8 []).2.2 = .ok [] ∧
       ((after (.xld 0 0 false 3 1 0 {}) s).hart 0).vec false 3 = 0x70000000009 ∧ ((after (.xldff 0 0 false 3 1 0 {}) s).hart 0).szvff = 8 ∧
       (s.elemStores 0 0x3000000000000 1 0x0102 (fun _ => true) 0 8).2.2 = .ok [] ∧ ((after (.xst 0 0 false 1 1 0) s).px.sram.map (·.2)) = [2, 1, 0, 0, 0, 0, 0, 0] ∧
       (s.elemStores 0 0x3000000000000 1 0x0102 (fun i => bitAt 0x80 (8 * i + 8 - 1)) 0 8).2.2 = .ok [] ∧ ((after (.xstm 0 0 false 1 1 2) s).px.sram.map (·.2)) = [2, 0, 0, 0, 0, 7, 0, 0]) ∧
    (let s := pxS {} { xzR 0 0 with x := [(1, 0x3000000BFFFFC)] }
     let s := { s with px := { s.px with sram := (List.range 4).map (fun i => (0xBFFFFC + i, 0)) } }
     ((s.gddrStrike []).elemLoads 0 0x3000000BFFFFC 1 [] 0 8 []).2.1 = [0, 0, 0, 0] ∧ ((s.gddrStrike []).elemLoads 0 0x3000000BFFFFC 1 [] 0 8 []).2.2 = .fault 5 ∧
       ((after (.xldff 0 0 false 3 1 0 {}) s).hart 0).szvff = 4) ∧
    (let s := pxS {} { xzR 0 0 with fs := 0 }
     s.xszvOff 0 = true ∧ ((after (.xst 0 0 false 1 1 0) s).hart 0).mcause = 2 ∧ ((after (.add 0 0 false 3 1 2) s).hart 0).pc = 0x800) := by decide +kernel
/-- Hart 0 in M mode at a trap handler's package, with four bytes of SRAM way 0, and line 1 of GDDR in its data cache and in way 1. -/
def accS (r : HartRegs := {}) : State :=
  { pxS {} r with px := { (pxS {} r).px with sram := [(8, 0xFE), (9, 0xFF), (10, 0xFF), (11, 0xFF)], shared := [(1, 1)], dcache := [(0, [1])] }
                  chans := [(0, { state := 1, mem := [(64, 5)] })] }
def acc (k : AccKind) (va : BitVec 64) (v : Reg) (r : HartRegs := {}) : State := after (.applicationCoreAccess 0 k 2 va 5 v {}) (accS r)
/-- An access of four bytes reaches one piece, at its own address. -/
def reaches (k : AccKind) (a : Nat) : Bool :=
  match ((accS {}).hartReach 0 (BitVec.ofNat 64 a) 4 (accOf k)).2 with
  | .ok [p] => p == (a, 4)
  | _ => false
theorem witness_ApplicationCoresReachTheirTenancy_1 :
    (accS {}).hartRuns 0 = true ∧ [AccKind.load, .store, .fetch, .lr, .sc, .amoAdd].all (fun k => reaches k 0x3000000000008) = true ∧
    ((acc .load 0x3000000000008 0).hart 0).xr 5 = 0xFFFFFFFFFFFFFFFE ∧ (acc .store 0x3000000000008 0x01020304).px.sram = [(8, 4), (9, 3), (10, 2), (11, 1)] ∧
    ((acc .lr 0x3000000000008 0).hart 0).reserved = some 0xC0000000000 ∧ ((acc .sc 0x3000000000008 5).hart 0).xr 5 = 1 ∧
    ((acc .sc 0x3000000000008 5 { reserved := some 0xC0000000000 }).px.sram.map (·.2)) = [5, 0, 0, 0] ∧ ((acc .amoAdd 0x3000000000008 5).px.sram.map (·.2)) = [3, 0, 0, 0] ∧
    ((acc .amoAdd 0x3000000000008 5).hart 0).xr 5 = 0xFFFFFFFFFFFFFFFE := by decide +kernel
theorem witness_ApplicationCoresReachTheirTenancy_2 :
    reaches .load 64 = true ∧ (accS {}).dirtyAt (some 0) 1 = [] ∧ ((acc .load 64 0).hart 0).xr 5 = 5 ∧ ((acc .load 64 0).hart 0).hpm = [] ∧
    (accS {}).tenancyOk 0 0x10000 4 (accOf .store) = false ∧ ((accS {}).hart 0).pmpOk 3 0x10000 4 (accOf .store) = true ∧
    ((acc .store 0x10000 5).hart 0).mcause = 7 ∧ (acc .store 0x10000 5).handed.length = 1 ∧
    ((acc .amoAdd 0x300000000000A 5).hart 0).mcause = 6 ∧
    (let s := { accS { mode := 1, satp := 0x9000000000000000, pmpcfg := [(0, 0x0F)], pmpaddr := [(0, 0xFFFFFFFFFF)] } with chans := [] }
     (match (s.hartReach 0 0 4 (accOf .load)).2 with | .error .wait => true | _ => false) = true ∧ (after (.applicationCoreAccess 0 .load 2 0 5 0 {}) s).px = s.px) := by decide +kernel


/-- Hart 0 in M mode at 0x100 of SRAM way 0, with an instruction there. -/
def hartAt (x : BitVec 32) (r : HartRegs) : State :=
  let s := pxS {} { r with mode := 3, pc := 0x3000000000100, mtvec := 0x800 }
  { s with px := { s.px with sram := (List.range 4).map (fun i => (0x100 + i, BitVec.ofNat 8 (x.toNat / 256 ^ i))) } }
def hartDid (x : BitVec 32) (r : HartRegs := { x := [(11, 3), (12, 4)] }) : HartRegs := (after (.applicationCoreAccess 0 .fetch 0 0x3000000000100 0 1 {}) (hartAt x r)).hart 0
theorem witness_ApplicationCoresReachTheirTenancy_3 :
    (let s := hartAt 0x00158513 {}
     s.hartRuns 0 = true ∧ (s.hart 0).ienable = 0 ∧ s.px.sramErr = [] ∧ (List.range 4).all (fun i => s.px.sramRead (0x100 + i) == BitVec.ofNat 8 (0x00158513 / 256 ^ i)) = true ∧
       (match (s.hartReach 0 0x3000000000100 2 (accOf .fetch)).2 with | .ok l => l == [(0x3000000000100, 2)] | _ => false) = true ∧
       (match (s.hartReach 0 0x3000000000102 2 (accOf .fetch)).2 with | .ok l => l == [(0x3000000000102, 2)] | _ => false) = true) ∧
    (hartDid 0x00158513).xr 10 = 4 ∧ (hartDid 0x00158513).pc = 0x3000000000104 ∧ (hartDid 0xF1402573 { x := [(10, 7)] }).xr 10 = 0 ∧
    (hartDid 0x73).mcause = 11 ∧ (hartDid 0x73).mepc = 0x3000000000100 ∧ (hartDid 0x30200073 { mepc := 0x40, mpp := 1 }).mode = 1 := by decide +kernel
/-- MULH, CLZ, FADD.D, FCVT.L.D and SH1ADD by hand. -/
theorem test_hart_results : (hartDid 0x02C59533 { x := [(11, 0x8000000000000000), (12, 4)] }).xr 10 = 0xFFFFFFFFFFFFFFFE ∧ (hartDid 0x60059513).xr 10 = 62 ∧
    (hartDid 0x20C5A533).xr 10 = 10 ∧ ((hartDid 0x02C58553 { fs := 1, f := [(11, 0x3FF0000000000000), (12, 0x4000000000000000)] }).f.get 10) = 0x4008000000000000 ∧
    (hartDid 0xC2259553 { fs := 1, f := [(11, 0xBFF8000000000000)] }).xr 10 = 0xFFFFFFFFFFFFFFFF ∧ (hartDid 0x02C58553).mcause = 2 := by decide +kernel

/-! ### Supplies, resets, Doldrums, heat -/

/-- A package with every supply up and some state to lose. -/
def pwS (f : Supply → Supply := id) : State :=
  { netS with supply := f { boardPg := true, enabled := 0x1FFFF, good := 0x1FFFF, group := 7, resetN := true }, cores := [(0, { rs := [(0, 7)], ws := [(0, 9)], jobValid := true }), (1, { ws := [(4, 5)] }), (22000, { ws := [(4, 5)] })] }
theorem witness_SuppliesComeUpInOrder :
    (let s := State.reset
     s.supply.boardPg = false ∧ (after .boardPgRise s).supply.enabled = 1 ∧ (after .boardPgRise s).supply.group = 1) ∧
    (let s := after .boardPgRise State.reset
     s.supply.enabled.getLsbD 0 = true ∧ s.supply.good.getLsbD 0 = false ∧ s.supply.timedOut = false ∧ (supplyGroup 1).all (fun i => (s.supply.good ||| 1).getLsbD i) = true ∧
       (after (.supplyPowerGood 0) s).supply.group = 2 ∧ (after (.supplyPowerGood 0) s).supply.enabled = 1 ||| maskOf (supplyGroup 2) ∧
       let s3 := { s with clock := { now := 3000000 } }
       s3.supply.groupAt + 3000000 ≤ s3.t ∧ (after .powerGoodTimeout s3).supply.timedOut = true ∧ (after .powerGoodTimeout s3).handed.length = 1) ∧
    (let last := (supplyGroup 6).headD 0
     let s := pwS (fun u => { u with group := 6, good := 0x1FFFF &&& ~~~ BitVec.ofNat 17 (2 ^ last) })
     last < 17 ∧ s.supply.good.getLsbD last = false ∧ (after (.supplyPowerGood ⟨last % 17, by omega⟩) s).supply.group = 7) ∧
    ((after .boardPgFall (pwS)).cpc.stopped = true ∧ (after .boardPgFall (pwS)).cores = []) ∧
    ((pwS).supply.good.getLsbD 5 = true ∧ (after (.supplyPgLoss 5) (pwS)).supply.enabled = 0 ∧ (after (.supplyPgLoss 5) (pwS)).handed.length = 1) := by decide +kernel
theorem witness_ResetsRestartThePackage_1 :
    (let s := pwS
     s.supply.boardPg = true ∧ s.supply.group ≠ 0 ∧ (after .pkgResetAssert s).supply.resetN = false ∧ (after .pkgResetAssert s).cpc.lastStart = 1 ∧ (after .pkgResetAssert s).cores = [] ∧
       (after .pkgResetRelease (pwS (fun u => { u with resetN := false }))).supply.resetN = true) ∧
    ((after .pkgResetAssert { pwS with chans := [(3, { state := 4, pointer := 9, temp := 70 }), (4, { state := 1, mem := [(0, 1)] })] }).chans = [(3, { state := 4, pointer := 9 })]) ∧
    ((pwS (fun u => { u with group := 0 })).supply.group = 0 ∧ (after .pkgResetAssert (pwS (fun u => { u with group := 0 }))).supply.group = 1) ∧
    (let s := { pwS with cpc := { (pwS).cpc with restarting := true }, cores := [], tens := [] }
     s.cpc.stopped = false ∧ s.restartReady = true ∧ (after .imageRestart s).cpc.lastStart = 2 ∧ (after .imageRestart s).cpc.restarting = false) ∧
    (let s := { pwS with cpc := { (pwS).cpc with restarting := true }, tens := [(0, { revoke := some {} })] }
     s.restartReady = false ∧ (after .imageRestart s).cpc.restarting = true) ∧
    (let s := { pwS with tens := [(0, { job := { state := 3 }, revoke := some {} })] }
     s.restartReady = false ∧ (s.ten 0).job.state = 3 ∧ (after .imageRestart s).cpc.restarting = true ∧ ((after .imageRestart s).dieRate 5).admitting = false) := by decide +kernel
theorem witness_ResetsRestartThePackage_2 :
    (let s := { pwS with tens := [(0, { job := { jobId := 1, state := 2, bands := 1 } })] }
     s.dieNamed 0 = true ∧ (after (.dieReset 0 []) s).handed.length = 1 ∧ (after (.dieReset 0 []) s).cores = s.cores) ∧
    (let s := { pwS with tens := [] }
     s.dieNamed 0 = false ∧ s.chans = [] ∧ (s.cdie 0).busy = false ∧ s.cpc.dold = 0 ∧ ((after (.dieReset 0 []) s).cdie 0).busy = true ∧
       ((after (.dieReset 0 []) s).core c0).ws = [] ∧ ((after (.dieReset 0 []) s).core c0).rs = [(0, 7)] ∧ ((after (.dieReset 0 []) s).core (coreOfKey 22000)).ws = [(4, 5)]) := by decide +kernel

def dold (n : BitVec 2) (f : Cpc → Cpc := id) : State := { pwS with cpc := f { (pwS).cpc with dold := n }, tens := [], cores := [(0, { rs := [(0, 7)] })], dies := [(5, { admitting := true })] }
theorem witness_DoldrumsIsEnteredAndLeft :
    (let s := { dold 0 with tens := [(2, { job := { running := true } })] }
     s.cpc.stopped = false ∧ (s.ten 2).job.running = true ∧ (after .enter s).handed.length = 1 ∧ (after .enter s).cpc.dold = 0) ∧
    (let s := dold 0
     (List.range 8).all (fun n => !(s.ten n).job.running && (s.ckpt n).state == 0) = true ∧ s.chans = [] ∧ s.twin.state ≠ 2 ∧ (after .enter s).cpc.dold = 1 ∧
       ((after .enter s).dieRate 5).admitting = false) ∧
    (let s := { dold 1 with cores := [(0, { rs := [(0, 7)], ws := [(1, 1)] })] }
     (List.range 7).all (fun d => s.dieIdle d) = true ∧ (after .doldrumsEntryDrained s).cpc.dold = 2 ∧ ((after .doldrumsEntryDrained s).core c0).ws = [] ∧
       ((after .doldrumsEntryDrained s).core c0).rs = [(0, 7)]) ∧
    (let s := { dold 1 with cores := [(0, { order := [1], entries := [(1, runE)] })] }
     s.dieIdle 0 = false ∧ (after .doldrumsEntryDrained s).cpc.dold = 1) ∧
    (let s := dold 2
     (List.range 7).all (fun d => (s.dieRate d).waitNs == 0) = true ∧ (s.dieRate 0).breach = false ∧ (s.dieRate 0).floorLoss = false ∧ (s.dieRate 0).heat ≠ 2 ∧ (s.dieRate 0).switching = false ∧
       (after (.wake 1) s).cpc.dold = 3 ∧ (after (.wake 1) s).cpc.wakeCause = 1 ∧ ((after (.wake 1) s).dieRate 0).railMv.toNat = floorMv s.cpc.active.toNat 0) ∧
    (let s := dold 2 (fun c => { c with timerMs := 1 })
     s.cpc.timerMs ≠ 0 ∧ s.cpc.enteredAt + 1000000 ≤ s.t ∧ (after .doldrumsTimer s).cpc.dold = 3 ∧ (after .doldrumsTimer s).cpc.wakeCause = 5) ∧
    (dold 2 (fun c => { c with timerMs := 2 })).t < 2000000 := by decide +kernel

def hot (r : DieRate) : State := { dold 0 with dies := [(0, r)] }
theorem witness_HeatStatesFollowTheReadings :
    ((hot { tjPeak := 60 }).cpc.stopped = false ∧ ((after (.thermalSample 0 50 70) (hot { tjPeak := 60 })).dieRate 0).tjPeak = 70) ∧
    (((after (.thermalSample 0 95 0) (hot { admitting := true })).dieRate 0).heat = 1 ∧ ((after (.thermalSample 0 95 0) (hot { admitting := true })).dieRate 0).admitting = true) ∧
    (((after (.thermalSample 0 119 0) (hot { admitting := true, heat := 1 })).dieRate 0).heat = 2 ∧ ((after (.thermalSample 0 119 0) (hot { admitting := true, heat := 1 })).dieRate 0).admitting = false) ∧
    ((after (.thermalSample 0 120 0) (hot {})).cpc.stopped = true ∧ (after (.thermalSample 0 120 0) (hot {})).cpc.tripped = true) ∧
    (let s := { hot { heat := 2, hotAt := 900000, warmAt := 950000 } with boot := { phase := 9 } }
     (900000 : Nat) + 100000 ≤ s.t ∧ s.twin.state ≠ 6 ∧ (s.cdie 0).busy = false ∧ ((after (.thermalStateExit 0) s).dieRate 0).heat = 1 ∧ ((after (.thermalStateExit 0) s).dieRate 0).admitting = true) ∧
    (let s := { hot { heat := 2, hotAt := 900000, warmAt := 950000, mustResume := true } with boot := { phase := 9 } }
     (s.dieRate 0).mustResume = true ∧ ((after (.thermalStateExit 0) s).dieRate 0).heat = 1 ∧ ((after (.thermalStateExit 0) s).dieRate 0).admitting = false) ∧
    (let s := hot { heat := 1, warmAt := 900000 }
     ((after (.thermalStateExit 0) s).dieRate 0).heat = 0) ∧
    ((hot {}).dieRate 0).heat = 0 := by decide +kernel

/-! ### Start and common time -/

def stS (f : Start → Start := id) (k : Clock → Clock := id) (tripped : Bool := false) : State :=
  { pwS with boot := f (pwS).boot, clock := k (pwS).clock, cpc := { (pwS).cpc with tripped := tripped } }
def noFind : StartFindings := {}
theorem witness_StartRecoveryAndAttestation_1 :
    (let s := stS
     s.mayStart = true ∧ max 1 s.boot.phase.toNat = 1 ∧ (imageCheck s.boot.flash).1 = 1 ∧ (after (.startSequence noFind) s).boot.recovery = true ∧ (after (.startSequence noFind) s).boot.failCode = 1 ∧
       (after (.startSequence noFind) s).boot.phase = 1 ∧ (stS (fun b => { b with phase := 9 })).mayStart = false) ∧
    (let s := stS (fun b => { b with phase := 5 })
     s.mayStart = true ∧ stepFive s.boot.flash = 8 ∧ (after (.startSequence noFind) s).boot.failCode = 8) ∧
    ((stS (fun b => { b with phase := 6 })).mayStart = true ∧ (List.range 4).all (fun d => ((stS (fun b => { b with phase := 6 })).cdie d).remaps.isEmpty) = true) ∧
    (let s := { stS (fun b => { b with phase := 7 }) with chans := [(3, { state := 4 })] }
     s.mayStart = true ∧ ((after (.startSequence noFind) s).chan 0).state = 1 ∧ ((after (.startSequence noFind) s).chan 3).state = 4 ∧ (after (.startSequence noFind) s).boot.phase = 8) ∧
    ((stS (fun b => { b with phase := 8 })).mayStart = true ∧ (after (.startSequence noFind) (stS (fun b => { b with phase := 8 }))).boot.phase = 9) := by decide +kernel
theorem witness_StartRecoveryAndAttestation_2 :
    (let s := stS (fun b => { b with recovery := true, received := [1, 2], announced := some 0 }) (fun c => { c with now := 1000000000 })
     s.boot.recovery = true ∧ s.cpc.stopped = false ∧ 0 + 1000000000 ≤ s.t ∧ (after .announce s).outbox.length = 1 ∧ (after (.imageData 2 [3]) s).boot.received = [1, 2, 3] ∧
       (after (.imageData 1 [3]) s).boot.received = [1, 2] ∧ (after (.imageEnd 2) s).boot.received = [] ∧ (after (.imageEnd 2) s).boot.failCode = 1 ∧
       (imageCheck s.boot.received).1 = 1) ∧
    (let s := stS (fun b => { b with aliasSeed := [1] })
     s.attests = true ∧ s.boot.recovery = false ∧ (stS).attests = false) := by decide +kernel
theorem witness_CommonTimeIsKept :
    (let s := stS (fun b => { b with phase := 9 })
     s.ptpPort 2 0 = true ∧ s.clock.locked = false ∧ s.boot.ready = false ∧ (after (.ptpLock 77 2 0) s).clock.now = 77 ∧ (after (.ptpLock 77 2 0) s).boot.ready = true) ∧
    (let s := stS (fun b => { b with phase := 10, ready := true }) (fun c => { c with holdover := true, everLocked := true })
     s.ptpPort 0 0 = true ∧ s.clock.everLocked = true ∧ (after (.ptpLock 77 0 0) s).clock.now = 1000000 ∧ (after (.ptpLock 77 0 0) s).clock.holdover = false ∧
       (after (.ptpMessage 50 0 0) s).clock.locked = true ∧ (after (.ptpMessage 50 0 0) s).clock.offset = 50 ∧
       (after (.ptpMessage 100001 0 0) s).clock.slewAlarm = 1 ∧ (after (.ptpMessage 100001 0 0) s).clock.locked = false) ∧
    (let s := stS (fun b => { b with phase := 9 }) (fun c => { c with now := 30000000000 })
     s.boot.timeWait = false ∧ s.boot.waitFrom + 30000000000 ≤ s.t ∧ (after .timeWaitExpiry s).boot.timeWait = true) ∧
    (let s := stS id (fun c => { c with locked := true, selPlane := 2 })
     s.clock.selPlane ≠ 3 ∧ (after .holdoverEnter s).clock.selPlane = 3 ∧ (after .holdoverEnter s).clock.holdover = true ∧ (after .holdoverEnter s).clock.lockLoss = 1) ∧
    (let s := stS id (fun c => { c with everLocked := true, now := 3000000005 })
     s.clock.ppsEnd = none ∧ s.t % 1000000000 ≤ 5 ∧ (after .ppsOut s).supply.ppsOut = true ∧ (after .ppsOut s).clock.ppsEnd = some 3100000005) ∧
    (let s := stS id (fun c => { c with ppsEnd := some 999999 })
     (999999 : Nat) ≤ s.t ∧ (after .ppsOut s).clock.ppsEnd = none) := by decide +kernel

/-! ### Errors, registers, test access -/

def rec (sev : Byte) : ErrRec := { cls := 1, severity := sev, jobId := 1 }
def logS (n : Nat) (h : List ErrRec) : State := { stS with log := { unread := n, head := 4095, ring := [(4095, rec 2)] }, handed := h }
theorem witness_ErrorLogKeepsItsOrderAndIsForwarded_1 :
    ((after .errorRecordAppend (logS 3840 [rec 1])).log.droppedLow = 1 ∧ (after .errorRecordAppend (logS 3840 [rec 2])).log.unread = 3841 ∧
      (after .errorRecordAppend (logS 4096 [rec 2])).log.droppedHigh = 1) ∧
    ((after .errorRecordAppend (logS 1 [rec 3, rec 1])).log.ring.get 0 = rec 3 ∧ (after .errorRecordAppend (logS 1 [rec 3, rec 1])).handed = [rec 1] ∧
      (after .errorRecordAppend (logS 1 [rec 3, rec 1])).signals = [37]) ∧
    ((logS 1 []).handed = [] ∧ (after .pop (logS 1 [])).log.head = 0 ∧ (after .pop (logS 1 [])).log.unread = 0 ∧ (logS 0 []).log.unread = 0) := by decide +kernel
theorem witness_ErrorLogKeepsItsOrderAndIsForwarded_2 :
    (let s := { logS 1 [] with boot := { phase := 9 }, tens := [(2, { queues := 1, job := { jobId := 1, state := 2 } })] }
     s.cpc.stopped = false ∧ 9 ≤ s.boot.phase.toNat ∧ s.log.fwdLow = false ∧ s.log.fwdAt + 1 = s.log.unread ∧ s.recTen (s.log.ring.get 4095) = some 2 ∧ (s.ten 2).queues ≠ 0 ∧
       (List.range 8).all (fun u => u == 2 || (s.ten u).queues == 0) = true ∧ (after .logForward s).outbox.length = 1 ∧ (after .logForward s).log.fwdOut.map (·.seq) = [0] ∧
       let s1 := after .logForward s
       s1.log.unread ≤ s1.log.fwdAt ∧ (after .logForward s1).outbox.length = 1 ∧ s1.log.fwdOut.map (fun g => (after (.logForwardAck ⟨g.frame.tag, g.seq, g.frame.origin⟩) s1).log.fwdOut) = [[]] ∧
       (after (.logForwardAck ⟨0, 0, false⟩) s1).log.fwdOut.length = 1) := by decide +kernel

/-- Service core 0 is hart 96. Column 3 of row 0 of die 0 is faulty by a remap entry. -/
def rmS (used faulty : BitVec 168) (svc : List (Nat × Core) := []) : State :=
  { stS with tens := [], cores := svc, cdies := [(0, { used := [(0, used)], faulty := [(0, faulty)], remaps := [(0, { row := 0, column := 3, valid := true })] })] }
theorem witness_RegisterWritesAndRemaps_0 :
    (let s := stS (fun b => { b with phase := 10 })
     s.hartRuns 96 = true ∧ s.pcsMayStore 96 0x308 8 = true ∧ s.pcsMayStore 96 0x000101001400 8 = true ∧ s.pcsMayStore 96 0x00F000000000 8 = true) ∧
    (let s := { stS (fun b => { b with phase := 10 }) with px := { (stS).px with harts := [(96, { mode := 0 })] } }
     s.hartRuns 96 = true ∧ s.pcsMayStore 96 0x308 8 = false ∧ ((after (.registerWrite 0 0x308 3 0) s).hart 96).mcause = 7 ∧
       ((after (.registerWrite 0 0x308 3 0) s).hart 96).mode = 3) := by decide +kernel
theorem witness_RegisterWritesAndRemaps :
    (let s := stS (fun b => { b with phase := 10 })
     let seed : BitVec 48 := 0x000100000000 + 0x01000000 + 0x1000 + 0x400
     s.hartRuns 96 = true ∧ pcsBlock seed.toNat = .core c1 0x400 ∧ s.cpc.dold = 0 ∧ ((after (.registerWrite 0 seed 3 77) s).core c1).seed = 77 ∧
       pcsBlock 0x000E00000008 = .hole ∧ pcsBlock 0x308 = .identity 0x308 ∧
       (after (.registerWrite 0 0x308 3 0x5FFFFFFFF) (stS (fun b => { b with phase := 10 }) (fun c => { c with lockLoss := 4, slewAlarm := 6 }))).clock.lockLoss = 0 ∧
       (after (.registerWrite 0 0x308 3 0x5FFFFFFFF) (stS (fun b => { b with phase := 10 }) (fun c => { c with lockLoss := 4, slewAlarm := 6 }))).clock.slewAlarm = 6 ∧
       pcsBlock 0x00F000000000 = .outside ∧ ((after (.registerWrite 0 0x00F000000000 3 0) s).hart 96).mcause = 7 ∧ (after (.registerWrite 0 0x00F000000000 3 0) s).handed.length = 1 ∧
       ((after (.registerWrite 0 seed 2 0) s).hart 96).mcause = 7 ∧ (after (.registerWrite 0 seed 2 0) s).handed = []) ∧
    (let s := { stS (fun b => { b with phase := 10 }) with cpc := { (stS).cpc with dold := 2 } }
     s.hartRuns 96 = true ∧ ((after (.registerWrite 0 (0x000101001400) 3 77) s).core c1).seed = (s.core c1).seed) ∧
    (let s := rmS 1 0
     remapCore 0 ((s.cdie 0).remaps.get 0) = some ⟨0, ⟨3, by decide⟩⟩ ∧ s.bandOf ⟨0, ⟨3, by decide⟩⟩ = none ∧ bitAt (s.masks ⟨0, ⟨3, by decide⟩⟩).1 3 = false ∧
       (((after (.remapApply 0 0 []) s).cdie 0).remaps.get 0).applied = true ∧ ((after (.remapApply 0 0 []) s).cdie 0).faulty.get 0 = 8) ∧
    (let s := rmS 9 2
     spareCol 9 2 168 3 = some 2 ∧ bitAt (s.masks ⟨0, ⟨3, by decide⟩⟩).1 3 = true ∧ ((after (.remapApply 0 0 []) s).cdie 0).used.get 0 = 5 ∧ ((after (.remapApply 0 0 []) s).cdie 0).faulty.get 0 = 10) ∧
    (let s := rmS 9 (BitVec.allOnes 168 - 9)
     spareCol 9 (2 ^ 168 - 10) 168 3 = none ∧ (((after (.remapApply 0 0 []) s).cdie 0).remaps.get 0).refused = true ∧ (after (.remapApply 0 0 []) s).pkg.retired.length = 1) ∧
    (let s := { rmS 9 0 with tens := [(0, { job := { state := 2, bands := BitVec.allOnes 64 } })] }
     (s.bandOf ⟨0, ⟨3, by decide⟩⟩).map s.bandBusy = some true) := by decide +kernel
theorem witness_TestAccessPortAndI3cTarget_1 :
    ((pwS (fun u => { u with resetN := false })).supply.resetN = false ∧ (pwS).supply.resetN = true ∧ (after (.extest [true]) (pwS (fun u => { u with resetN := false }))).tap.pins = some [true] ∧
      (after (.extest [true]) (pwS)).tap.instr = .bypass) ∧
    ((pwS).cpc.stopped = false ∧ (pwS).i3c.dynamic = none ∧ (after (.entdaa 5) (pwS)).i3c.dynamic = some 5 ∧ (after .rstdaa (after (.entdaa 5) (pwS))).i3c.dynamic = none) := by decide +kernel
/-- The static address is a constant without a value; SETDASA to it gives the target its address. -/
theorem witness_TestAccessPortAndI3cTarget_2 : exec (.setdasa Config.i3cStatic 5) (pwS) = .next { pwS with i3c := { (pwS).i3c with dynamic := some 5 } } := by
  have h : (pwS).cpc.stopped = false := by decide
  have d : (pwS).i3c.dynamic = none := by decide
  simp [exec, execSetdasa, h, d]

/-! ### The whole machine -/

theorem witness_EveryStepKeepsMemoriesCanonical : State.reset.memoriesOk ∧ eissS.memoriesOk :=
  ⟨⟨by decide, by decide⟩, ⟨by decide +kernel, by decide +kernel⟩⟩
theorem witness_EveryStepKeepsTheErrorLogInBounds : State.reset.logOk ∧ (logS 4096 []).logOk := ⟨⟨by decide, by decide⟩, ⟨by decide, by decide⟩⟩

end Sys2Proof.Tests
end

section
/-! PROOFS. Flits between cores (R33 to R36): how one is taken from the mesh, what an access finds in a working store without standing
errors, and what arrives, is answered, comes back or is dropped. -/

namespace Sys2Proof.Machine

/-! ### Taking the oldest flit of a pair (R36) -/

theorem takeFirst_append_cons {α : Type} {p : α → Bool} {m l : List α} {a : α} (hm : ∀ b ∈ m, p b = false) (ha : p a = true) :
    takeFirst p (m ++ a :: l) = some (a, m ++ l) := by
  induction m with
  | nil => simp [takeFirst, ha]
  | cons b m ih =>
    have hb : p b = false := hm b (by simp)
    have htail := ih (fun x hx => hm x (by simp [hx]))
    simp [takeFirst, hb, htail]

/-- `f` is the oldest flit of its pair of cores, between the flits `m` before it and `l` behind it. -/
def State.Oldest (s : State) (m : List Flit) (f : Flit) (l : List Flit) : Prop :=
  s.mesh = m ++ f :: l ∧ ∀ g ∈ m, g.src ≠ f.src ∨ g.dst ≠ f.dst

section Oldest
variable {s : State} {m l : List Flit} {f : Flit} {d : CoreId} {kind : BitVec 4}

theorem State.oldest_of_cons (h : s.mesh = f :: l) : s.Oldest [] f l := ⟨h, by simp⟩

theorem State.flitTake_oldest (h : s.Oldest m f l) :
    s.flitTake f.src f.dst kind = if f.kind = kind then some (f, { s with mesh := m ++ l }) else none := by
  obtain ⟨hmesh, hm⟩ := h
  have htake : takeFirst (fun g : Flit => g.src == f.src && g.dst == f.dst) s.mesh = some (f, m ++ l) := by
    rw [hmesh]
    refine takeFirst_append_cons (fun g hg => ?_) (by simp)
    simpa [imp_iff_not_or] using hm g hg
  simp [State.flitTake, htake]

/-! Flits of a pair arrive in their order: behind an oldest flit of another kind, a command for this kind finds nothing. -/

theorem State.flitRequest_of_other_kind (h : s.Oldest m f l) (hk : f.kind ≠ kind) : s.flitRequest f.src f.dst kind = s := by
  simp [State.flitRequest, State.flitTake_oldest h, hk]

theorem State.flitBack_of_other_kind (h : s.Oldest m f l) (hk : f.kind ≠ kind) : s.flitBack f.src f.dst kind = s := by
  simp [State.flitBack, State.flitTake_oldest h, hk]

theorem State.phys_mesh (n : Nat) (ms : List Flit) : ({ s with mesh := ms } : State).phys n = s.phys n := rfl

theorem State.flitAccepted_mesh (ms : List Flit) : ({ s with mesh := ms } : State).flitAccepted d f = s.flitAccepted d f := rfl

/-- An accepted request to a working store is served as it arrives (R191). -/
theorem State.flitRequest_accepted (h : s.Oldest m f l) (hd : s.phys f.dst.toNat = some d) (ha : s.flitAccepted d f = true)
    (hres : f.resident = false) : s.flitRequest f.src f.dst f.kind = State.flitServe { s with mesh := m ++ l } d f := by
  simp [State.flitRequest, State.flitTake_oldest h, State.phys_mesh, State.flitAccepted_mesh, hd, ha, hres]

/-- What a core does with a request that it does not accept: the flit is dropped, and its sender is answered all the same. -/
theorem State.flitRequest_dropped (h : s.Oldest m f l) (hd : s.phys f.dst.toNat = some d) (ha : s.flitAccepted d f = false) :
    ∃ st data, s.flitRequest f.src f.dst f.kind =
      ((State.flitDropped { s with mesh := m ++ l } d f).flitAnswer d f st data true).drawn := by
  simp only [State.flitRequest, State.flitTake_oldest h, if_true, State.phys_mesh, State.flitAccepted_mesh, hd, ha, Bool.not_false]
  exact ⟨_, _, rfl⟩

/-- What comes back to a core that accepts it is an answer to its DMA engine. -/
theorem State.flitBack_accepted (h : s.Oldest m f l) (hd : s.phys f.dst.toNat = some d) (ha : s.flitAccepted d f = true)
    (hrec : f.record = false) :
    s.flitBack f.src f.dst f.kind = State.dmaAnswer { s with mesh := m ++ l } d f.req f.part f.err f.payload f.logged := by
  simp [State.flitBack, State.flitTake_oldest h, State.phys_mesh, State.flitAccepted_mesh, hd, ha, hrec]

end Oldest

/-! ### Cores, and the answers of a core -/

theorem onlyCore_updCore (c : CoreId) (s : State) (g : Core → Core) : OnlyCore c s (s.updCore c g) :=
  ⟨rfl, fun d hd => by simp [hd]⟩

/-- An answer to an outstanding request joins the answers of the DMA engine. -/
theorem State.dmaAnswer_outstanding {s : State} {c : CoreId} {req : Nat} (h : ∃ r ∈ (s.core c).dma.outst, r.id = req)
    (part : Nat) (st : Byte) (data : List Byte) (logged : Bool) :
    ((s.dmaAnswer c req part st data logged).core c).dma.answers =
      (s.core c).dma.answers ++ [{ req := req, part := part, status := st, data := data, logged := logged }] := by
  have hany : (s.core c).dma.outst.any (fun r => r.id == req) = true := by simpa using h
  simp only [State.dmaAnswer, State.core_updCore, if_true, hany]

/-- The answer of core `d` to a request that ended well: with the core's own number and job (R34). -/
def State.flitReply (s : State) (d : CoreId) (f : Flit) (data : List Byte) : Flit :=
  { dst := f.src, src := BitVec.ofNat 17 (s.logNum d), kind := if f.kind = 1 then 2 else 4, lenM1 := f.lenM1, last := f.last
    jobId := if (s.core d).jobValid then (s.core d).jobId else 0, opTag := f.opTag, payload := data, req := f.req, part := f.part
    record := f.record }

theorem State.flitAnswer_done {s : State} {f : Flit} (hsrc : f.src ≠ 0x1FFFF) (hk : f.kind.toNat ≤ 1) (d : CoreId) (data : List Byte) :
    s.flitAnswer d f stDone data false = s.sendFlit (s.flitReply d f data) := by
  have hno : ¬ (f.src = 0x1FFFF ∨ 1 < f.kind.toNat) := not_or.2 ⟨hsrc, Nat.not_lt.2 hk⟩
  rw [State.flitAnswer, if_neg hno]
  rfl

theorem State.flitAnswer_of_no_request {s : State} {f : Flit} (hk : 1 < f.kind.toNat) (d : CoreId) (st : Byte) (data : List Byte) (logged : Bool) :
    s.flitAnswer d f st data logged = s := by
  simp [State.flitAnswer, hk]

/-- Whatever an answer says, it touches the mesh alone. -/
theorem State.flitAnswer_eq_mesh (s : State) (d : CoreId) (f : Flit) (st : Byte) (data : List Byte) (logged : Bool) :
    ∃ ms, s.flitAnswer d f st data logged = { s with mesh := ms } := by
  unfold State.flitAnswer
  split
  · exact ⟨s.mesh, rfl⟩
  · exact ⟨_, rfl⟩

/-! ### A working store without partitions and standing errors (R193, R199) -/

theorem Core.physBytes_of_no_parts {k : Core} (h : k.parts = []) (c : CoreId) (res : Bool) (a n : Nat) :
    k.physBytes c res a n = (List.range n).map (a + ·) := by
  simp [Core.physBytes, Core.wsPhys, Core.gridPart, h]

theorem State.judge_of_no_errors {s : State} {c : CoreId} {res : Bool} (h : (if res then (s.core c).rsErr else (s.core c).wsErr) = [])
    (words : List Nat) (w : Who) : s.judge c res words w = (s, []) := by
  simp [State.judge, h]

/-- Writing bytes one by one at rising addresses is writing them all. -/
theorem Mem.foldl_write_zip_range (m : Mem) (a : Nat) (bs : List Byte) :
    (((List.range bs.length).map (a + ·)).zip bs).foldl (fun m x => m.write x.1 x.2) m = m.writeN a bs := by
  induction bs generalizing m a with
  | nil => rfl
  | cons b bs ih =>
    have hshift : (List.range (bs.length + 1)).map (a + ·) = a :: (List.range bs.length).map (a + 1 + ·) := by
      simp [List.range_succ_eq_map, Nat.add_assoc, Nat.add_comm 1]
    rw [List.length_cons, hshift, List.zip_cons_cons, List.foldl_cons, ih]
    rfl

theorem padTo_length (bs : List Byte) : padTo bs.length bs = bs := by simp [padTo]

/-- The core with bytes written in its working store. -/
def Core.wsPut (k : Core) (a : Nat) (bs : List Byte) : Core := { k with ws := k.ws.writeN a bs }

section Sound
variable {s : State} {d : CoreId} (herr : (s.core d).wsErr = []) (hparts : (s.core d).parts = [])
include herr hparts

theorem State.storeRead_sound (a n : Nat) (w : Who) :
    s.storeRead d false a n w = (s, false, (List.range n).map (fun i => (s.core d).ws.read (a + i))) := by
  simp [State.storeRead, State.judge_of_no_errors (s := s) (c := d) (res := false) herr, Core.physBytes_of_no_parts hparts]

theorem State.storeWrite_sound (a : Nat) (bs : List Byte) (w : Who) :
    s.storeWrite d false a bs w = (s.updCore d (·.wsPut a bs), false) := by
  have hput : ∀ cleared, (s.core d).putPhys false (((List.range bs.length).map (a + ·)).zip bs) cleared = (s.core d).wsPut a bs := by
    intro cleared
    simp only [Core.putPhys, Core.wsPut, Mem.foldl_write_zip_range, herr, List.filter_nil, Bool.false_eq_true, if_false]
  simp [State.storeWrite, State.judge_of_no_errors (s := s) (c := d) (res := false) herr, Core.physBytes_of_no_parts hparts,
    State.updCore, hput]

/-! ### A flit served at such a store -/

variable {f : Flit} (hres : f.resident = false) (hroom : f.off.toNat + f.len ≤ wsSize d)
  (hbanks : (s.core d).banksReady d f.off.toNat f.len = true)
include hres hroom hbanks

theorem State.flitAccess_load (hk : f.kind = 1) :
    s.flitAccess d f = (s, stDone, (List.range f.len).map (fun i => (s.core d).ws.read (f.off.toNat + i))) := by
  simp [State.flitAccess, hres, Nat.not_lt.2 hroom, hbanks, hk, State.storeRead_sound herr hparts]

theorem State.flitAccess_write (hk : f.kind ≠ 1) (hlen : f.payload.length = f.len) :
    s.flitAccess d f = (s.updCore d (·.wsPut f.off.toNat f.payload), stDone, []) := by
  have hpad : padTo f.len f.payload = f.payload := hlen ▸ padTo_length _
  simp only [State.flitAccess, hres, Bool.false_eq_true, if_false, Nat.not_lt.2 hroom, hbanks, Bool.not_true, Bool.and_false, if_neg hk, hpad,
    State.storeWrite_sound herr hparts]

theorem State.flitServe_load (hk : f.kind = 1) (hsrc : f.src ≠ 0x1FFFF) :
    s.flitServe d f = s.sendFlit (s.flitReply d f ((List.range f.len).map (fun i => (s.core d).ws.read (f.off.toNat + i)))) := by
  simp [State.flitServe, State.flitAccess_load herr hparts hres hroom hbanks hk, State.flitAnswer_done hsrc (f := f) (by simp [hk])]

/-- The notice is that of the core before the write, which leaves its number and its job as they were. -/
theorem State.flitServe_store (hk : f.kind = 0) (hlen : f.payload.length = f.len) (hsrc : f.src ≠ 0x1FFFF) :
    s.flitServe d f = (s.sendFlit (s.flitReply d f [])).updCore d (·.wsPut f.off.toNat f.payload) := by
  have hreply : (s.updCore d (·.wsPut f.off.toNat f.payload)).flitReply d f [] = s.flitReply d f [] := by
    simp only [State.flitReply, State.core_updCore, if_true, Core.wsPut]
    rfl
  simp only [State.flitServe, State.flitAccess_write herr hparts hres hroom hbanks (by simp [hk]) hlen, State.updCore_handed, bne_self_eq_false,
    State.flitAnswer_done hsrc (f := f) (by simp [hk]), hreply]
  rfl

/-- A tile transfer gets no answer (R33). -/
theorem State.flitServe_tile (hk : f.kind = 3) (hlen : f.payload.length = f.len) :
    s.flitServe d f = s.updCore d (·.wsPut f.off.toNat f.payload) := by
  simp [State.flitServe, State.flitAccess_write herr hparts hres hroom hbanks (by simp [hk]) hlen,
    State.flitAnswer_of_no_request (f := f) (by simp [hk])]

end Sound

/-! ### What a written core reads -/

theorem State.ws_updCore_wsPut (s : State) (d : CoreId) (a : Nat) (bs : List Byte) :
    (∀ i (h : i < bs.length), ((s.updCore d (·.wsPut a bs)).core d).ws.read (a + i) = bs[i]) ∧
      ∀ p, p < a ∨ a + bs.length ≤ p → ((s.updCore d (·.wsPut a bs)).core d).ws.read p = (s.core d).ws.read p := by
  simp only [State.core_updCore, if_true, Core.wsPut]
  exact ⟨Mem.read_writeN_at _ _ _, Mem.read_writeN_other _ _ _⟩

/-! ### A flit that is dropped (R35) -/

/-- A core accepts no flit of a job that is not its own, but those with job 0. -/
theorem State.flitAccepted_of_other_job {s : State} {d : CoreId} {f : Flit} (hjob : f.jobId ≠ (s.core d).jobId) (h0 : f.jobId ≠ 0) :
    s.flitAccepted d f = false := by
  simp only [State.flitAccepted, beq_false_of_ne hjob.symm, beq_false_of_ne h0, Bool.and_false, Bool.false_and, Bool.or_false]

/-- A dropped flit is counted and recorded, and its core's stores stand. -/
theorem State.flitDropped_spec (s : State) (d : CoreId) (f : Flit) :
    ((s.flitDropped d f).core d) = { s.core d with dropped := satInc (s.core d).dropped } ∧
      ∃ r, (s.flitDropped d f).handed = s.handed ++ [r] ∧ r.cls = 0x06 ∧ r.severity = 0 := by
  refine ⟨?_, _, rfl, rfl, rfl⟩
  simp [State.flitDropped]

end Sys2Proof.Machine
end

section
/-! PROOFS. The statement about flits, from the lemmas above. -/

namespace Sys2Proof.Machine

theorem exec_flitStore (src dst : BitVec 17) (s : State) : exec (.flitStore src dst) s = .next (s.flitRequest src dst 0) := rfl
theorem exec_flitLoadRequest (src dst : BitVec 17) (s : State) : exec (.flitLoadRequest src dst) s = .next (s.flitRequest src dst 1) := rfl
theorem exec_flitTileTransfer (src dst : BitVec 17) (s : State) : exec (.flitTileTransfer src dst) s = .next (s.flitRequest src dst 3) := rfl
theorem exec_flitLoadResponse (src dst : BitVec 17) (s : State) : exec (.flitLoadResponse src dst) s = .next (s.flitBack src dst 2) := rfl
theorem exec_flitCompletionNotice (src dst : BitVec 17) (s : State) : exec (.flitCompletionNotice src dst) s = .next (s.flitBack src dst 4) := rfl

/-- A response or a notice that a core accepts changes nothing but the answers of its DMA engine. -/
theorem State.flitBack_joins_answers {s : State} {f : Flit} {l : List Flit} {d : CoreId} (h : s.Oldest [] f l)
    (hd : s.phys f.dst.toNat = some d) (ha : s.flitAccepted d f = true) (hrec : f.record = false)
    (hout : ∃ r ∈ (s.core d).dma.outst, r.id = f.req) :
    let t := s.flitBack f.src f.dst f.kind
    t.mesh = l ∧ OnlyCore d { s with mesh := l } t ∧
      (t.core d).dma.answers = (s.core d).dma.answers ++ [{ req := f.req, part := f.part, status := f.err, data := f.payload, logged := f.logged }] := by
  simp only [State.flitBack_accepted h hd ha hrec, List.nil_append]
  exact ⟨rfl, onlyCore_updCore _ _ _, State.dmaAnswer_outstanding (s := { s with mesh := l }) hout _ _ _ _⟩

/-- A request of a job that does not own the core's band is dropped: counted and recorded, and the core's stores stand. -/
theorem State.flitRequest_of_other_job {s : State} {f : Flit} {l : List Flit} {d : CoreId} (h : s.Oldest [] f l)
    (hd : s.phys f.dst.toNat = some d) (hjob : f.jobId ≠ (s.core d).jobId) (h0 : f.jobId ≠ 0) :
    ∃ r, ((s.flitRequest f.src f.dst f.kind).core d).dropped = satInc (s.core d).dropped ∧
      ((s.flitRequest f.src f.dst f.kind).core d).ws = (s.core d).ws ∧ ((s.flitRequest f.src f.dst f.kind).core d).rs = (s.core d).rs ∧
      (s.flitRequest f.src f.dst f.kind).handed = s.handed ++ [r] ∧ r.cls = 0x06 ∧ r.severity = 0 := by
  obtain ⟨st, data, hreq⟩ := State.flitRequest_dropped h hd (State.flitAccepted_of_other_job hjob h0)
  let s1 : State := { s with mesh := [] ++ l }
  obtain ⟨ms, hans⟩ := (s1.flitDropped d f).flitAnswer_eq_mesh d f st data true
  obtain ⟨hcore, r, hhanded, hcls, hsev⟩ := s1.flitDropped_spec d f
  have hafter : (s.flitRequest f.src f.dst f.kind).core d = { s.core d with dropped := satInc (s.core d).dropped } := by
    rw [hreq, hans]
    exact hcore
  refine ⟨r, by rw [hafter], by rw [hafter], by rw [hafter], ?_, hcls, hsev⟩
  rw [hreq, hans]
  exact hhanded

/-- Settles O13, from what a taken flit's request, answer and drop do, by the kind of the flit. -/
theorem flitsReachStoresAndComeBack : Obligations.FlitsReachStoresAndComeBack := by
  unfold Obligations.FlitsReachStoresAndComeBack
  refine ⟨?served, ?back, ?dropped, ?inOrder⟩
  case served =>
    intro s f m l d hmesh hm hd ha hres hroom hbanks herr hparts back hlen hsrc
    have hreq := State.flitRequest_accepted ⟨hmesh, hm⟩ hd ha hres
    let s1 : State := { s with mesh := m ++ l }
    refine ⟨fun hk => ?store, fun hk => ?load, fun hk => ?tile⟩
    case store =>
      have hlen0 : f.payload.length = f.len := by simpa [hk] using hlen
      have hserve := State.flitServe_store (s := s1) herr hparts hres hroom hbanks hk hlen0 hsrc
      have hreply : s1.flitReply d f [] = back := by simp only [State.flitReply, hk]; rfl
      obtain ⟨hin, hout⟩ := (s1.sendFlit back).ws_updCore_wsPut d f.off.toNat f.payload
      rw [hk, hserve, hreply] at hreq
      rw [exec_flitStore, hreq]
      exact ⟨_, rfl, rfl, onlyCore_updCore _ _ _, hin, hlen0 ▸ hout⟩
    case load =>
      have hserve := State.flitServe_load (s := s1) herr hparts hres hroom hbanks hk hsrc
      rw [hk, hserve] at hreq
      rw [exec_flitLoadRequest, hreq]
      refine ⟨_, rfl, rfl, ?_⟩
      simp only [State.sendFlit, State.flitReply, hk, if_true]
      rfl
    case tile =>
      have hlen3 : f.payload.length = f.len := by simpa [hk] using hlen
      have hserve := State.flitServe_tile (s := s1) herr hparts hres hroom hbanks hk hlen3
      obtain ⟨hin, hout⟩ := s1.ws_updCore_wsPut d f.off.toNat f.payload
      rw [hk, hserve] at hreq
      rw [exec_flitTileTransfer, hreq]
      exact ⟨_, rfl, rfl, onlyCore_updCore _ _ _, hin, hlen3 ▸ hout⟩
  case back =>
    intro s f l d hmesh hd ha hrec hout
    have hjoin := State.flitBack_joins_answers (State.oldest_of_cons hmesh) hd ha hrec hout
    refine ⟨fun hk => ⟨_, exec_flitLoadResponse _ _ _, ?_⟩, fun hk => ⟨_, exec_flitCompletionNotice _ _ _, ?_⟩⟩
    · rw [← hk]; exact hjoin
    · rw [← hk]; exact hjoin
  case dropped =>
    intro s f l d hmesh hd hk hjob h0
    obtain ⟨r, hr⟩ := State.flitRequest_of_other_job (State.oldest_of_cons hmesh) hd hjob h0
    refine ⟨_, r, exec_flitStore _ _ _, ?_⟩
    rw [← hk]
    exact hr
  case inOrder =>
    intro s f m l hmesh hm
    have hold : s.Oldest m f l := ⟨hmesh, hm⟩
    refine ⟨fun hk => ?_, fun hk => ?_, fun hk => ?_, fun hk => ?_, fun hk => ?_⟩
    · rw [exec_flitStore, State.flitRequest_of_other_kind hold hk]
    · rw [exec_flitLoadRequest, State.flitRequest_of_other_kind hold hk]
    · rw [exec_flitLoadResponse, State.flitBack_of_other_kind hold hk]
    · rw [exec_flitTileTransfer, State.flitRequest_of_other_kind hold hk]
    · rw [exec_flitCompletionNotice, State.flitBack_of_other_kind hold hk]

end Sys2Proof.Machine
end

section
/-! PROOFS. The control unit and its operation table (R61, R66, R69, R93): what a core reads after an instruction retires, what reads and
writes of a core's stores leave of its control unit, and what a delivery and an abort do. -/

namespace Sys2Proof.Machine

/-! ### A core after an instruction retires (R66) -/

section Retire
variable (k : Core) (r : BitVec 5) (v : BitVec 32)

@[simp] theorem Core.x_setX_same : (k.setX r v).x r = if r = 0 then 0 else v := by
  by_cases h : r = 0
  · simp [Core.x, h]
  · simp only [Core.x, Core.setX, if_neg h]
    exact Tab.get_set_same _ _ _

@[simp] theorem Core.setX_entries : (k.setX r v).entries = k.entries := by unfold Core.setX; split <;> rfl
@[simp] theorem Core.setX_order : (k.setX r v).order = k.order := by unfold Core.setX; split <;> rfl

@[simp] theorem Core.x_retire_same : (k.retire r v).x r = if r = 0 then 0 else v := Core.x_setX_same k r v
@[simp] theorem Core.retire_entries : (k.retire r v).entries = k.entries := Core.setX_entries k r v
@[simp] theorem Core.retire_order : (k.retire r v).order = k.order := Core.setX_order k r v
@[simp] theorem Core.retire_pc : (k.retire r v).pc = k.pc + 4 := rfl

end Retire

/-- The entry table after one entry is written. -/
@[simp] theorem Core.entry_setEntry (k : Core) (i j : Nat) (e : Entry) : (k.setEntry i e).entry j = if j = i then e else k.entry j :=
  Tab.get_set _ _ _ _

/-- An instruction that only retires changes its core alone, leaves the operation table, and writes its result. -/
theorem State.retire_spec (s : State) (c : CoreId) (rd : BitVec 5) (v : BitVec 32) :
    let t := s.updCore c (fun k => k.retire rd v)
    OnlyCore c s t ∧ (t.core c).entries = (s.core c).entries ∧ (t.core c).x rd = if rd = 0 then 0 else v :=
  ⟨onlyCore_updCore _ _ _, by simp, by simp⟩

/-! ### What accesses to a core's stores leave of its control unit -/

/-- Operation table, issue order and program counter of a core are as they were. -/
def Core.SameControl (k k' : Core) : Prop := k'.entries = k.entries ∧ k'.order = k.order ∧ k'.pc = k.pc

theorem Core.SameControl.refl (k : Core) : k.SameControl k := ⟨rfl, rfl, rfl⟩

theorem Core.SameControl.trans {k k' k'' : Core} (h : k.SameControl k') (h' : k'.SameControl k'') : k.SameControl k'' := by
  obtain ⟨he, ho, hp⟩ := h
  obtain ⟨he', ho', hp'⟩ := h'
  exact ⟨he'.trans he, ho'.trans ho, hp'.trans hp⟩

theorem State.sameControl_updCore {s : State} {c : CoreId} {k : Core} (h : s.core c = k) {g : Core → Core}
    (hg : ∀ k : Core, k.SameControl (g k)) : k.SameControl ((s.updCore c g).core c) := by
  simpa [h] using hg k

theorem State.core_ite_hand (s : State) (p : Prop) [Decidable p] (r : ErrRec) (c : CoreId) :
    (if p then s.hand r else s).core c = s.core c := by split <;> rfl

theorem State.sameControl_storeCorrect (s : State) (c : CoreId) (res : Bool) (word bit : Nat) (w : Who) :
    (s.core c).SameControl ((s.storeCorrect c res word bit w).core c) := by
  refine State.sameControl_updCore (s.core_ite_hand _ _ c) (fun k => ?_)
  cases res <;> exact ⟨rfl, rfl, rfl⟩

theorem State.sameControl_storeUnc (s : State) (c : CoreId) (res : Bool) (word : Nat) (w : Who) :
    (s.core c).SameControl ((s.storeUnc c res word w).core c) := by
  refine State.sameControl_updCore rfl (fun k => ?_)
  cases res <;> exact ⟨rfl, rfl, rfl⟩

theorem State.sameControl_judge (s : State) (c : CoreId) (res : Bool) (words : List Nat) (w : Who) :
    (s.core c).SameControl ((s.judge c res words w).1.core c) := by
  unfold State.judge
  refine List.foldlRecOn (motive := fun acc : State × List Nat => (s.core c).SameControl (acc.1.core c)) _ _
    (Core.SameControl.refl _) (fun acc hacc e _ => ?_)
  split
  · exact hacc
  · exact hacc.trans (State.sameControl_storeCorrect _ _ _ _ _ _)
  · exact hacc.trans (State.sameControl_storeUnc _ _ _ _ _)

theorem State.sameControl_storeRead (s : State) (c : CoreId) (res : Bool) (a n : Nat) (w : Who) :
    (s.core c).SameControl ((s.storeRead c res a n w).1.core c) := State.sameControl_judge _ _ _ _ _

theorem State.sameControl_storeWrite (s : State) (c : CoreId) (res : Bool) (a : Nat) (bs : List Byte) (w : Who) :
    (s.core c).SameControl ((s.storeWrite c res a bs w).1.core c) := by
  refine (s.sameControl_judge c res _ w).trans (State.sameControl_updCore rfl (fun k => ?_))
  cases res <;> exact ⟨rfl, rfl, rfl⟩

/-- Adding an operation's counts to a health slot reads and writes the slice alone (R185). -/
theorem State.sameControl_healthSlots (s : State) (c : CoreId) (e : Entry) (n i : Nat) :
    (s.core c).SameControl ((s.healthSlots c e n i).core c) := by
  induction n generalizing s i with
  | zero => exact Core.SameControl.refl _
  | succ n ih =>
    have hread := s.sameControl_storeRead c true
    rw [State.healthSlots]
    dsimp only
    split
    · exact (hread _ _ _).trans (ih _ _)
    · split
      · split
        · exact (hread _ _ _).trans (State.sameControl_storeRead _ _ _ _ _ _)
        · exact ((hread _ _ _).trans (State.sameControl_storeRead _ _ _ _ _ _)).trans (State.sameControl_storeWrite _ _ _ _ _ _)
      · exact (hread _ _ _).trans (ih _ _)

/-- A Cast record goes to the twin and leaves the cores (R474). -/
theorem State.core_castDeliver (s : State) (c d : CoreId) (e : Entry) : (s.castDeliver c e).core d = s.core d := by
  unfold State.castDeliver
  split <;> rfl

/-! ### Delivery (R69) and aborts (R92, R93) -/

/-- A delivery frees the entry, takes it off the issue order, and writes its status and index. -/
theorem State.deliver_spec {s : State} {c : CoreId} {i : Nat} {l : List Nat} (h : (s.core c).order = i :: l) (rd : BitVec 5) :
    let k := (s.deliver c rd i).core c
    k.order = l ∧ (k.entry i).code = .free ∧ (∀ j, j ≠ i → k.entry j = (s.core c).entry j) ∧
      k.x rd = (if rd = 0 then 0 else BitVec.ofNat 32 (((s.core c).entry i).status.toNat + i * 256)) ∧ k.pc = (s.core c).pc + 4 := by
  let e := (s.core c).entry i
  let s2 := (if e.code = .done ∧ (s.core c).healthOn then s.healthSlots c e 8 0 else s).castDeliver c e
  let k1 := if e.code = .done ∧ e.d.sumEn then { s2.core c with sums := (s2.core c).sums.set e.d.sumSlot e.summary } else s2.core c
  have hcore : (s.deliver c rd i).core c =
      { k1.setEntry i {} with order := k1.order.tail }.retire rd (BitVec.ofNat 32 (e.status.toNat + i * 256)) := by
    simp only [State.deliver, State.core_updCore, if_true]
    rfl
  have hs2 : (s.core c).SameControl (s2.core c) := by
    rw [State.core_castDeliver]
    split
    · exact s.sameControl_healthSlots c e 8 0
    · exact Core.SameControl.refl _
  have hk1 : (s2.core c).SameControl k1 := by
    unfold k1
    split <;> exact ⟨rfl, rfl, rfl⟩
  obtain ⟨hentries, horder, hpc⟩ := hs2.trans hk1
  have hentry : ∀ j, ((s.deliver c rd i).core c).entry j = if j = i then {} else (s.core c).entry j := by
    intro j
    rw [hcore, Core.entry, Core.retire_entries]
    exact (k1.entry_setEntry i j {}).trans (by rw [Core.entry, hentries]; rfl)
  refine ⟨?_, by rw [hentry, if_pos rfl], fun j hj => by rw [hentry, if_neg hj], ?_, ?_⟩
  · rw [hcore, Core.retire_order]
    simp [horder, h]
  · rw [hcore, Core.x_retire_same]
  · rw [hcore, Core.retire_pc]
    exact congrArg (· + 4) hpc

theorem Core.headEnded_cons {k : Core} {i : Nat} {l : List Nat} (h : k.order = i :: l) :
    k.headEnded = if (k.entry i).ended then some (i, k.entry i) else none := by
  simp [Core.headEnded, h]

/-- An abort tells a running entry whose engine has not finished to stop with the abort's status. -/
theorem State.abortEntry_running {s : State} {c : CoreId} {i : Nat} (hrun : ((s.core c).entry i).code = .running)
    (hreq : ((s.core c).entry i).abortReq = false) (hout : ((s.core c).entry i).outcome = none) (st : Byte) :
    s.abortEntry c i st = s.updCore c (fun _ => (s.core c).setEntry i { (s.core c).entry i with abortReq := true, abortStatus := st }) := by
  simp [State.abortEntry, hrun, hreq, hout, State.updCore, Core.updEntry]

/-! ### ENEXT and EABORT by case -/

section Issue
variable {c : CoreId} {s : State} (hcu : (s.core c).cuReady = true) (rd rs1 rs2 : BitVec 5)
include hcu

theorem exec_enext_empty (h : (s.core c).order = []) :
    exec (.enext c rd) s = .next (s.updCore c (fun k => k.retire rd 0xFFFFFFFF)) := by
  change execEnext c rd s = _
  simp [execEnext, hcu, h]

theorem exec_enext_ended {i : Nat} {l : List Nat} (h : (s.core c).order = i :: l) (hend : ((s.core c).entry i).ended = true)
    (hcast : s.castFull c = false) : exec (.enext c rd) s = .next (s.deliver c rd i) := by
  change execEnext c rd s = _
  simp [execEnext, hcu, Core.headEnded_cons h, h, hend, hcast]

theorem exec_enext_waits {i : Nat} {l : List Nat} (h : (s.core c).order = i :: l) (hend : ((s.core c).entry i).ended = false) :
    exec (.enext c rd) s = .next (s.updCore c (fun k => { k with wait := .enext rd })) := by
  change execEnext c rd s = _
  simp [execEnext, hcu, Core.headEnded_cons h, h, hend]

variable {e : Entry} (he : (s.core c).entry (((s.core c).x rs1).toNat % 64) = e)
include he

theorem exec_eabort_past (h : e.code = .free ∨ e.d.opTag ≠ (s.core c).x rs2 ∨ e.code = .done) :
    exec (.eabort c rd rs1 rs2) s = .next (s.updCore c (fun k => k.retire rd 1)) := by
  change execEabort c rd rs1 rs2 s = _
  simp only [execEabort, he, hcu, Bool.not_true, Bool.false_eq_true, if_false, if_pos h]
  rfl

theorem exec_eabort_ended (h : e.code = .aborted ∨ e.code = .failed) (htag : e.d.opTag = (s.core c).x rs2) :
    exec (.eabort c rd rs1 rs2) s = .next (s.updCore c (fun k => k.retire rd (BitVec.ofNat 32 e.status.toNat))) := by
  change execEabort c rd rs1 rs2 s = _
  have hcase : ¬ (e.code = .free ∨ e.d.opTag ≠ (s.core c).x rs2 ∨ e.code = .done) := by
    rcases h with h | h <;> simp [h, htag]
  have hlive : e.live = false := by
    rcases h with h | h <;> simp [Entry.live, h]
  simp only [execEabort, he, hcu, Bool.not_true, Bool.false_eq_true, if_false, if_neg hcase, hlive]

theorem exec_eabort_running (h : e.code = .running) (htag : e.d.opTag = (s.core c).x rs2) :
    exec (.eabort c rd rs1 rs2) s = .next ((s.updCore c (fun k =>
      { k with wait := .eabort rd (((s.core c).x rs1).toNat % 64) e.op })).abortEntry c (((s.core c).x rs1).toNat % 64) stAborted) := by
  change execEabort c rd rs1 rs2 s = _
  have hcase : ¬ (e.code = .free ∨ e.d.opTag ≠ (s.core c).x rs2 ∨ e.code = .done) := by simp [h, htag]
  have hlive : e.live = true := by simp [Entry.live, h]
  simp only [execEabort, he, hcu, Bool.not_true, Bool.false_eq_true, if_false, if_neg hcase, hlive, if_true]

end Issue

/-- EABORT of a running entry whose engine has not finished marks the entry, and its control unit waits. -/
theorem State.abort_waiting_spec {s : State} {c : CoreId} {i : Nat} (hrun : ((s.core c).entry i).code = .running)
    (hreq : ((s.core c).entry i).abortReq = false) (hout : ((s.core c).entry i).outcome = none) (w : CuWait) :
    let t := (s.updCore c (fun k => { k with wait := w })).abortEntry c i stAborted
    OnlyCore c s t ∧ (t.core c).entry i = { (s.core c).entry i with abortReq := true, abortStatus := stAborted } ∧ (t.core c).wait = w := by
  let s1 := s.updCore c (fun k => { k with wait := w })
  have hcore : s1.core c = { s.core c with wait := w } := by simp [s1]
  have hentry : (s1.core c).entry i = (s.core c).entry i := by rw [hcore]; rfl
  have habort := State.abortEntry_running (s := s1) (c := c) (i := i) (by rw [hentry, hrun]) (by rw [hentry, hreq])
    (by rw [hentry, hout]) stAborted
  simp only [s1] at habort hentry hcore
  simp only [habort]
  refine ⟨⟨rfl, fun d hd => by simp [hd]⟩, ?_, ?_⟩
  · rw [State.core_updCore, if_pos rfl, Core.entry_setEntry, if_pos rfl, hentry]
  · rw [State.core_updCore, if_pos rfl, hcore]
    rfl

end Sys2Proof.Machine
end

section
/-! PROOFS. Rates, rails, breaches and profiles (R37 to R41, R53 to R58, R579, R580): the voltages that the CPC steers to, what a breach,
a floor loss and an admission change, and what an update of a die, a change of profile and a power window leave. -/

namespace Sys2Proof.Machine

/-! ### Voltages (R37 to R39) -/

theorem floorMv_le_ceilMv (p d : Nat) : floorMv p d ≤ ceilMv := by
  unfold floorMv ceilMv
  split <;> split_ifs <;> omega

theorem toNat_ofNat16 {n : Nat} (h : n < 65536) : (BitVec.ofNat 16 n).toNat = n := (BitVec.toNat_ofNat _ _).trans (Nat.mod_eq_of_lt h)

/-- A rail register of 16 bits holds every voltage up to the ceiling. -/
theorem toNat_railMv {mv : Nat} (h : mv ≤ ceilMv) : (BitVec.ofNat 16 mv).toNat = mv := toNat_ofNat16 (h.trans_lt (by decide))

/-- The floor voltage of a die that works at the floor rate of a profile is that profile's. -/
theorem DieRate.lowMv_of_floorRate {r : DieRate} {p : Nat} (h : r.floorRate.toNat = floorRateOf p) (d : Nat) : r.lowMv d = floorMv p d := by
  have hne : r.floorRate ≠ 0 := by
    intro h0
    rw [h0] at h
    match p with
    | 0 | 1 | _ + 2 => simp [floorRateOf] at h
  rw [DieRate.lowMv, if_neg hne, h]
  match p with
  | 0 | 1 | _ + 2 => rfl

theorem DieRate.lowMv_le_ceilMv (r : DieRate) (d : Nat) : r.lowMv d ≤ ceilMv := by
  unfold DieRate.lowMv
  split
  · exact Nat.zero_le _
  · exact floorMv_le_ceilMv _ _

section Steer
variable (r : DieRate) (d : Nat) (idle below : Bool) (want : Nat)

theorem DieRate.steerMv_le_ceilMv : r.steerMv d idle below want ≤ ceilMv := Nat.min_le_left _ _

theorem DieRate.lowMv_le_steerMv : r.lowMv d ≤ r.steerMv d idle below want :=
  Nat.le_min.2 ⟨r.lowMv_le_ceilMv d, (Nat.le_max_left _ _).trans (Nat.le_max_left _ _)⟩

/-- The CPC may always steer to the ceiling. -/
theorem DieRate.steerMv_ceilMv : r.steerMv d idle below ceilMv = ceilMv := Nat.min_eq_left (Nat.le_max_right _ _)

/-- Below the guard rate, the rail of a die that may hold work rises until it is at the ceiling (R38). -/
theorem DieRate.steerMv_rises (hwork : idle = false ∨ r.admitting = true) :
    r.steerMv d idle true want = ceilMv ∨ r.railMv.toNat < r.steerMv d idle true want := by
  have hup : (true && !(idle && !r.admitting)) = true := by
    rcases hwork with h | h <;> simp [h]
  have hstep : r.railMv.toNat + 1 ≤ Nat.max (Nat.max (r.lowMv d) (r.railMv.toNat + 1)) want :=
    (Nat.le_max_right _ _).trans (Nat.le_max_left _ _)
  simp only [DieRate.steerMv, hup, if_true]
  rcases Nat.le_total ceilMv (Nat.max (Nat.max (r.lowMv d) (r.railMv.toNat + 1)) want) with h | h
  · exact .inl (Nat.min_eq_left h)
  · exact .inr (lt_of_lt_of_eq (Nat.lt_of_succ_le hstep) (Nat.min_eq_right h).symm)

end Steer

/-! ### Breach, floor loss, admission (R53 to R55) -/

/-- A breach changes its die, and of the rest only what the end of a wake changes. -/
theorem State.breachDie_eq (s : State) (d : Nat) (note : DieRate → DieRate) :
    ∃ cpc px, s.breachDie d note = { s.updDie d (fun r => note r.breached) with cpc := cpc, px := px } := by
  unfold State.breachDie
  dsimp only
  split
  · exact ⟨s.cpc, s.px, rfl⟩
  · unfold State.wakeGoesOn
    split
    · exact ⟨_, _, rfl⟩
    · exact ⟨s.cpc, s.px, rfl⟩

theorem State.withdrawDie_eq (s : State) (d : Nat) : ∃ pkg, s.withdrawDie d = { s with pkg := pkg } := by
  unfold State.withdrawDie
  split
  · exact ⟨_, rfl⟩
  · exact ⟨s.pkg, rfl⟩

/-- What stopping a die's admission leaves and does: the die's own record, a record of class 0x08 and severity 3, and a signal
to node firmware. -/
def State.StoppedBy (s t : State) (d : Nat) (r' : DieRate) : Prop :=
  (∀ e, t.dieRate e = if e = d then r' else s.dieRate e) ∧ t.cores = s.cores ∧ t.chans = s.chans ∧ t.signals = s.signals ++ [d + 1] ∧
    ∃ r, t.handed = s.handed ++ [r] ∧ r.cls = 0x08 ∧ r.severity = 3

theorem State.stoppedBy_breachDie (s : State) (d : Nat) (note : DieRate → DieRate) {r : ErrRec} (hcls : r.cls = 0x08) (hsev : r.severity = 3) :
    s.StoppedBy (((s.breachDie d note).hand r).raise (d + 1)) d (note (s.dieRate d).breached) := by
  obtain ⟨cpc, px, h⟩ := s.breachDie_eq d note
  rw [h]
  exact ⟨s.dieRate_updDie d (g := fun r => note r.breached), rfl, rfl, rfl, _, rfl, hcls, hsev⟩

theorem State.StoppedBy.withdrawDie {s t : State} {d : Nat} {r' : DieRate} (h : s.StoppedBy t d r') (e : Nat) :
    s.StoppedBy (t.withdrawDie e) d r' := by
  obtain ⟨pkg, ht⟩ := t.withdrawDie_eq e
  rw [ht]
  exact h

/-- A floor loss (R54), whether or not it has the profile lowered (R614). -/
theorem State.stoppedBy_floorLoss (s : State) (d : Nat) :
    s.StoppedBy (s.floorLoss d) d { (s.dieRate d).breached with floorLoss := true } := by
  unfold State.floorLoss
  refine State.StoppedBy.withdrawDie ?_ d
  by_cases hd : 4 ≤ d
  · simp only [if_pos hd]
    exact State.stoppedBy_breachDie { s with cpc := { s.cpc with lowerDue := true } } d _ rfl rfl
  · simp only [if_neg hd]
    exact s.stoppedBy_breachDie d _ rfl rfl

/-! ### Monitors of the cores (R40) -/

/-- A flag above two fields of 16 bits each stands alone in bit 32. -/
theorem bitAt_flag_above_fields {a b : Nat} (ha : a < 2 ^ 16) (hb : b < 2 ^ 16) (p : Bool) :
    bitAt (a + b * 2 ^ 16 + b2n p * 2 ^ 32) 32 = p := by
  have hdiv : (a + b * 2 ^ 16 + b2n p * 2 ^ 32) / 2 ^ 32 = b2n p := by omega
  rw [bitAt, hdiv]
  cases p <;> rfl

theorem word_of_three (a b c i j k : Nat) : word [(a, i), (b, j), (c, k)] = a * 2 ^ i + b * 2 ^ j + c * 2 ^ k := by
  simp [word, sumN]

theorem Core.rateReg (k : Core) (c : CoreId) (guard : BitVec 16) :
    k.reg c guard 0x040 = word [(k.rateNow.toNat, 0), (k.rateMin.toNat, 16), (b2n (decide (k.rateNow.toNat < guard.toNat)), 32)] := by
  unfold Core.reg
  iterate 3 rw [if_neg (by decide)]
  rw [if_pos rfl]

/-- Bit 32 of a core's rate register tells whether its rate is below the guard rate of its die. -/
theorem Core.bitAt_rateReg (k : Core) (c : CoreId) (guard : BitVec 16) :
    bitAt (k.reg c guard 0x040) 32 = decide (k.rateNow.toNat < guard.toNat) := by
  rw [Core.rateReg, word_of_three, pow_zero, Nat.mul_one]
  exact bitAt_flag_above_fields k.rateNow.isLt k.rateMin.isLt _

/-- A core's monitor after a window with this rate. -/
def Core.monitored (k : Core) (rate : BitVec 16) : Core :=
  { k with rateNow := rate, rateMin := if rate.toNat < k.rateMin.toNat then rate else k.rateMin, rateSeen := true }

theorem Core.rateMin_monitored (k : Core) (rate : BitVec 16) :
    (k.monitored rate).rateMin.toNat = min k.rateMin.toNat rate.toNat := by
  simp only [Core.monitored]
  split <;> omega

theorem exec_rateMonitorWindow_up {c : CoreId} {s : State} (hup : s.railsUp c.die.val = true) (rate : BitVec 16) :
    exec (.rateMonitorWindow c rate) s = .next (s.updCore c (·.monitored rate)) := by
  change execRateMonitorWindow c rate s = _
  rw [execRateMonitorWindow, hup]
  rfl

theorem exec_minClear (c : CoreId) (s : State) :
    exec (.minClear c) s = .next (s.updCore c (fun k => { k with rateMin := 0xFFFF })) := rfl

/-- The lowest rate of a die's cores is one that a rate register holds. -/
theorem State.coreRateMin_lt {s : State} {d m : Nat} (h : s.coreRateMin d = some m) : m < 65536 := by
  suffices hall : ∀ x ∈ s.coreRateMin d, x < 65536 from hall m h
  unfold State.coreRateMin
  refine List.foldlRecOn (motive := fun o : Option Nat => ∀ x ∈ o, x < 65536) _ _ (by simp) (fun o ho c _ => ?_)
  have hnow := c.2.rateNow.isLt
  cases o with
  | none => simpa using hnow
  | some x => simpa using .inr hnow

/-! ### A die's update (R38, R41) -/

section Update
variable (s : State) (d : Die) (own mv : BitVec 16)

/-- The rate that a die's update takes. -/
def State.updateRate : Nat :=
  if d.val < 4 then (s.coreRateMin d.val).getD (s.dieRate d.val).rateMin.toNat else own.toNat

/-- That rate is below the guard rate. -/
def State.belowGuard : Bool := decide (s.updateRate d own < (s.dieRate d.val).guardRate.toNat)

/-- The voltage that a die's update steers its rail to. -/
def State.updateMv : Nat := (s.dieRate d.val).steerMv d.val (s.dieIdle d.val) (s.belowGuard d own) mv.toNat

/-- A die's record after its update, floor loss aside. -/
def State.updateRec : DieRate :=
  let r := s.dieRate d.val
  { r with
    rateMin := BitVec.ofNat 16 (s.updateRate d own), railMv := BitVec.ofNat 16 (s.updateMv d own mv)
    lowest := BitVec.ofNat 16 (Nat.min r.lowest.toNat (s.updateRate d own))
    lowSince := if s.belowGuard d own && s.updateMv d own mv == ceilMv && !r.breach then some (r.lowSince.getD s.t) else none
    okSince := if (r.resume ∨ r.waitNs ≠ 0) ∧ ¬ s.belowGuard d own then some (r.okSince.getD s.t) else none }

/-- The update finds a floor loss: a rate below the floor rate with the rail at its ceiling (R54). -/
def State.losesFloor : Bool :=
  s.updateMv d own mv == ceilMv && decide (s.updateRate d own < (s.dieRate d.val).floorRate.toNat) && !(s.dieRate d.val).floorLoss

/-- A die's update: its record, and what a floor loss does then. -/
def State.updateDie : State :=
  let s1 := s.updDie d.val (fun _ => s.updateRec d own mv)
  if s.losesFloor d own mv then s1.floorLoss d.val else s1

theorem exec_dieRateUpdate_up (hup : s.railsUp d.val = true) :
    exec (.dieRateUpdate d own mv) s = .next (s.updateDie d own mv) := by
  change execDieRateUpdate d own mv s = _
  rw [execDieRateUpdate, hup]
  rfl

theorem State.updateRate_lt : s.updateRate d own < 65536 := by
  unfold State.updateRate
  split
  · cases h : s.coreRateMin d.val with
    | none => exact (s.dieRate d.val).rateMin.isLt
    | some m => exact State.coreRateMin_lt h
  · exact own.isLt

theorem State.stoppedBy_updateDie (h : s.losesFloor d own mv = true) :
    s.StoppedBy (s.updateDie d own mv) d.val { (s.updateRec d own mv).breached with floorLoss := true } := by
  obtain ⟨hdies, hrest⟩ := State.stoppedBy_floorLoss (s.updDie d.val (fun _ => s.updateRec d own mv)) d.val
  rw [State.updateDie, if_pos h]
  refine ⟨fun e => ?_, hrest⟩
  rw [hdies e, State.dieRate_updDie, if_pos rfl, State.dieRate_updDie]
  split <;> rfl

theorem State.updateDie_quiet (h : s.losesFloor d own mv = false) :
    s.updateDie d own mv = s.updDie d.val (fun _ => s.updateRec d own mv) := by
  simp [State.updateDie, h]

/-- The die's record after an update is that of the rate and the rail, with a breach added where the floor is lost; no other die's changes. -/
theorem State.dieRate_updateDie (e : Nat) :
    (s.updateDie d own mv).dieRate e =
      if e = d.val then
        (if s.losesFloor d own mv then { (s.updateRec d own mv).breached with floorLoss := true } else s.updateRec d own mv)
      else s.dieRate e := by
  cases h : s.losesFloor d own mv with
  | true =>
    obtain ⟨hdies, -⟩ := s.stoppedBy_updateDie d own mv h
    exact hdies e
  | false =>
    rw [s.updateDie_quiet d own mv h]
    exact State.dieRate_updDie _ _ _ _

theorem State.updateDie_frame : (s.updateDie d own mv).cores = s.cores ∧ (s.updateDie d own mv).chans = s.chans := by
  cases h : s.losesFloor d own mv with
  | true =>
    obtain ⟨-, hcores, hchans, -⟩ := s.stoppedBy_updateDie d own mv h
    exact ⟨hcores, hchans⟩
  | false =>
    rw [s.updateDie_quiet d own mv h]
    exact ⟨rfl, rfl⟩

theorem State.updateDie_rateMin : ((s.updateDie d own mv).dieRate d.val).rateMin = BitVec.ofNat 16 (s.updateRate d own) := by
  rw [State.dieRate_updateDie, if_pos rfl]
  split <;> rfl

theorem State.updateDie_rateMin_toNat : ((s.updateDie d own mv).dieRate d.val).rateMin.toNat = s.updateRate d own := by
  rw [State.updateDie_rateMin]
  exact toNat_ofNat16 (s.updateRate_lt d own)

theorem State.updateDie_railMv_toNat : ((s.updateDie d own mv).dieRate d.val).railMv.toNat = s.updateMv d own mv := by
  have hrec : (s.updateRec d own mv).railMv.toNat = s.updateMv d own mv := toNat_railMv (DieRate.steerMv_le_ceilMv _ _ _ _ _)
  rw [State.dieRate_updateDie, if_pos rfl]
  split <;> exact hrec

/-- A breach that stands is not timed again. -/
theorem State.updateDie_lowSince (h : (s.dieRate d.val).breach = true) : ((s.updateDie d own mv).dieRate d.val).lowSince = none := by
  rw [State.dieRate_updateDie, if_pos rfl]
  split
  · rfl
  · simp [State.updateRec, h]

/-- Below the ceiling an update loses no floor. -/
theorem State.losesFloor_of_below_ceiling (h : ceilMv ≠ s.updateMv d own mv) : s.losesFloor d own mv = false := by
  simp [State.losesFloor, h.symm]

/-- At the ceiling, a rate below the floor rate loses the floor, unless it is lost already. -/
theorem State.losesFloor_at_ceiling (hmv : mv.toNat = ceilMv) (hlow : s.updateRate d own < (s.dieRate d.val).floorRate.toNat)
    (hnot : (s.dieRate d.val).floorLoss = false) : s.losesFloor d own mv = true := by
  have htop : s.updateMv d own mv = ceilMv := by
    rw [State.updateMv, hmv]
    exact DieRate.steerMv_ceilMv _ _ _ _
  simp [State.losesFloor, htop, hlow, hnot]

end Update

/-! ### Changes of profile (R58, R579) -/

/-- What an update of every listed die brings about holds of each of them. -/
theorem Tab.get_foldl_upd_of_mem {α : Type} [Inhabited α] [DecidableEq α] {P : α → Prop} {f : α → α} (hf : ∀ a, P (f a)) (t : Tab α)
    {l : List Nat} {k : Nat} (hk : k ∈ l) : P (Tab.get (l.foldl (fun t d => t.upd d f) t) k) := by
  induction l using List.reverseRecOn with
  | nil => simp at hk
  | append_singleton l d ih =>
    rw [List.foldl_concat, Tab.get_upd]
    split
    · exact hf _
    · next hne => exact ih ((List.mem_append.1 hk).resolve_right (by simpa using hne))

theorem State.dieRate_startChange (s : State) (p : BitVec 2) {d : Nat} (hd : d < 7) :
    ((s.startChange p).dieRate d).admitting = false ∧ ((s.startChange p).dieRate d).switching = true := by
  have hall := Tab.get_foldl_upd_of_mem (P := fun r : DieRate => r.admitting = false ∧ r.switching = true)
    (f := fun r => { r with admitting := false, switching := true }) (fun _ => ⟨rfl, rfl⟩) s.dies (List.mem_range.2 hd)
  simpa only [State.dieRate, State.startChange] using hall

/-- A change that begins is noted by the CPC and by the dies. -/
theorem State.startChange_eq (s : State) (p : BitVec 2) :
    ∃ dies, s.startChange p = { s with cpc := { s.cpc with target := some p }, dies := dies } := ⟨_, rfl⟩

/-- The request asks for a profile that the package has: not a reserved one, nor Full on a package of grade 1. -/
def State.profileAsked (s : State) (req : BitVec 2) : Prop := req ≠ 3 ∧ (req = 0 → s.pkg.grade ≠ 1)

theorem exec_change_asked {s : State} {req : BitVec 2} (h : s.profileAsked req) :
    exec (.change req) s = .next
      (if s.cpc.target.isSome then { s with cpc := { s.cpc with request := req } }
       else State.startChange { s with cpc := { s.cpc with request := req } } req) := by
  change Host.Outcome.next (s.changeWrite req) = _
  have hgo : ¬ (req = 3 ∨ (req = 0 ∧ s.pkg.grade = 1)) := by
    rintro (h3 | ⟨h0, hgrade⟩)
    · exact h.1 h3
    · exact h.2 h0 hgrade
  rw [State.changeWrite, if_neg hgo]

/-- A request for no profile of the package is recorded, and changes no die. -/
theorem exec_change_refused {s : State} {req : BitVec 2} (h : req = 3 ∨ (req = 0 ∧ s.pkg.grade = 1)) :
    ∃ t r, exec (.change req) s = .next t ∧ t.dies = s.dies ∧ t.cpc.target = s.cpc.target ∧ t.handed = s.handed ++ [r] ∧ r.cls = 0x0B := by
  change ∃ t r, Host.Outcome.next (s.changeWrite req) = .next t ∧ _
  rw [State.changeWrite, if_pos h]
  exact ⟨_, _, rfl, rfl, rfl, rfl, rfl⟩

/-! ### A die switches (R58) -/

section Switch
variable (s : State) (d : Die) (p : BitVec 2)

/-- A die's record once it has switched to a profile, before it may admit. -/
def State.switchedRec : DieRate :=
  let r := s.dieRate d.val
  { r with
    switching := false, railMv := BitVec.ofNat 16 (floorMv p.toNat d.val), lowSince := none
    okSince := if guardRateOf p.toNat ≤ r.rateMin.toNat then r.okSince else none
    floorRate := BitVec.ofNat 16 (floorRateOf p.toNat), guardRate := BitVec.ofNat 16 (guardRateOf p.toNat) }

/-- The package once a die has switched, and admits where nothing keeps it from that. -/
def State.switchDie : State := (s.updDie d.val (fun _ => s.switchedRec d p)).admitNow d.val

/-- Every die has switched: the package works at the profile, and a record says so. -/
def State.profileReached : State :=
  { s with cpc := { s.cpc with active := p, target := none, budgetW := BitVec.ofNat 16 (budgetOf p.toNat), lowerDue := false } }.hand
    { unit := commonUnit 2 0, cls := 0x08, severity := 3, detail := padTo 24 [p.setWidth 8] }

/-- What a die's switch leaves: the last one ends the change of profile. -/
def State.profileSwitch : State :=
  if (List.range 7).any (fun e => ((s.switchDie d p).dieRate e).switching) then s.switchDie d p else (s.switchDie d p).profileReached p

theorem exec_dieProfileSwitch_idle (htarget : s.cpc.target = some p) (hsw : (s.dieRate d.val).switching = true)
    (hidle : s.dieIdle d.val = true) :
    exec (.dieProfileSwitch d) s = .next (s.profileSwitch d p) := by
  change execDieProfileSwitch d s = _
  simp only [execDieProfileSwitch, htarget, hsw, hidle]
  exact (apply_ite _ _ _ _).symm

theorem State.floorRate_switchedRec : (s.switchedRec d p).floorRate.toNat = floorRateOf p.toNat := by
  refine toNat_ofNat16 ?_
  unfold floorRateOf
  split <;> omega

theorem State.guardRate_switchedRec : (s.switchedRec d p).guardRate.toNat = guardRateOf p.toNat := by
  refine toNat_ofNat16 ?_
  unfold guardRateOf
  split <;> omega

theorem State.railMv_switchedRec : (s.switchedRec d p).railMv.toNat = floorMv p.toNat d.val := toNat_railMv (floorMv_le_ceilMv _ _)

end Switch

theorem State.budgetW_profileReached (s : State) (p : BitVec 2) : (s.profileReached p).cpc.budgetW.toNat = budgetOf p.toNat := by
  refine toNat_ofNat16 ?_
  unfold budgetOf
  split <;> omega

/-- A die that admits again changes nothing of the package but its record and the end of its reset. -/
theorem State.reopenDie_eq (s : State) (d : Nat) : ∃ cdies, s.reopenDie d = { s.updDie d (fun r => r.reopen d) with cdies := cdies } := by
  unfold State.reopenDie
  dsimp only
  split
  · exact ⟨_, rfl⟩
  · exact ⟨s.cdies, rfl⟩

/-- Nothing keeps a die from admitting, and it waits for nothing. -/
def State.admitsNow (s : State) (d : Nat) : Bool := s.mayAdmit d && !(s.dieRate d).mustResume && (s.dieRate d).waitNs == 0

theorem State.dieRate_admitNow (s : State) (d e : Nat) :
    (s.admitNow d).dieRate e = if e = d then (if s.admitsNow d then (s.dieRate d).reopen d else s.dieRate d) else s.dieRate e := by
  obtain ⟨cdies, h⟩ := s.reopenDie_eq d
  rw [State.admitNow, h]
  change (if s.admitsNow d = true then _ else _ : State).dieRate e = _
  cases s.admitsNow d with
  | true => exact s.dieRate_updDie d e (fun r => r.reopen d)
  | false =>
    by_cases he : e = d
    · simp [he]
    · simp [he]

theorem State.admitNow_frame (s : State) (d : Nat) :
    (s.admitNow d).cores = s.cores ∧ (s.admitNow d).cpc = s.cpc ∧ (s.admitNow d).handed = s.handed := by
  obtain ⟨cdies, h⟩ := s.reopenDie_eq d
  rw [State.admitNow, h]
  split
  · exact ⟨rfl, rfl, rfl⟩
  · exact ⟨rfl, rfl, rfl⟩

section Switched
variable (s : State) (d : Die) (p : BitVec 2)

/-- The switched die admits: nothing keeps it from that. -/
def State.admitsSwitched : Bool := (s.updDie d.val (fun _ => s.switchedRec d p)).admitsNow d.val

theorem State.dieRate_switchDie_self :
    (s.switchDie d p).dieRate d.val = if s.admitsSwitched d p then (s.switchedRec d p).reopen d.val else s.switchedRec d p := by
  rw [State.switchDie, State.dieRate_admitNow, if_pos rfl, State.dieRate_updDie, if_pos rfl]
  rfl

theorem State.dieRate_switchDie_other {e : Nat} (he : e ≠ d.val) : (s.switchDie d p).dieRate e = s.dieRate e := by
  rw [State.switchDie, State.dieRate_admitNow, if_neg he, State.dieRate_updDie, if_neg he]

/-- The rates and the rail of a die that has switched are those of the profile, whether or not it admits. -/
theorem State.switchDie_profile :
    let r := (s.switchDie d p).dieRate d.val
    r.switching = false ∧ r.floorRate.toNat = floorRateOf p.toNat ∧ r.guardRate.toNat = guardRateOf p.toNat ∧
      r.railMv.toNat = floorMv p.toNat d.val := by
  have hfloor := s.floorRate_switchedRec d p
  have hguard := s.guardRate_switchedRec d p
  have hrail := s.railMv_switchedRec d p
  have hreopen : ((s.switchedRec d p).reopen d.val).railMv.toNat = floorMv p.toNat d.val := by
    simp only [DieRate.reopen, hrail, DieRate.lowMv_of_floorRate hfloor, Nat.max_self]
    exact toNat_railMv (floorMv_le_ceilMv _ _)
  rw [State.dieRate_switchDie_self]
  split
  · exact ⟨rfl, hfloor, hguard, hreopen⟩
  · exact ⟨rfl, hfloor, hguard, hrail⟩

/-- A die that only `resume` lets admit again does not admit for having switched (R55). -/
theorem State.switchDie_mustResume (h : (s.dieRate d.val).mustResume = true) :
    ((s.switchDie d p).dieRate d.val).admitting = (s.dieRate d.val).admitting := by
  have hno : s.admitsSwitched d p = false := by simp [State.admitsSwitched, State.admitsNow, State.switchedRec, h]
  rw [State.dieRate_switchDie_self, hno]
  rfl

/-- Without a start, a restart, a stop, a breach, heat, a takeover or Doldrums in its way, the switched die admits. -/
theorem State.admitsSwitched_of_free (hphase : 9 ≤ s.boot.phase.toNat) (hrestart : s.cpc.restarting = false)
    (hmust : (s.dieRate d.val).mustResume = false) (hwait : (s.dieRate d.val).waitNs = 0) (hbreach : (s.dieRate d.val).breach = false)
    (hloss : (s.dieRate d.val).floorLoss = false) (hheat : (s.dieRate d.val).heat ≠ 2) (hstop : s.cpc.stopped = false)
    (htwin : s.twin.state ≠ 6) (hdold : s.cpc.dold = 0) : s.admitsSwitched d p = true := by
  have hheat' : ((s.dieRate d.val).heat != 2) = true := bne_iff_ne.2 hheat
  have htwin' : (s.twin.state != 6) = true := bne_iff_ne.2 htwin
  simp only [State.admitsSwitched, State.admitsNow, State.mayAdmit, State.dieRate_updDie, if_true, State.switchedRec, State.updDie_cpc,
    State.updDie_boot, State.updDie_twin, hphase, hrestart, hmust, hwait, hbreach, hloss, hheat', hstop, htwin', hdold]
  rfl

theorem State.switchDie_admits (h : s.admitsSwitched d p = true) : ((s.switchDie d p).dieRate d.val).admitting = true := by
  rw [State.dieRate_switchDie_self, if_pos h]
  rfl

/-- A die still switches once `d` has just when another one does. -/
theorem State.any_switching_switchDie :
    (List.range 7).any (fun e => ((s.switchDie d p).dieRate e).switching) = true ↔
      ∃ e : Fin 7, e ≠ d ∧ (s.dieRate e.val).switching = true := by
  obtain ⟨hself, -⟩ := s.switchDie_profile d p
  rw [List.any_eq_true]
  constructor
  · rintro ⟨e, he, hsw⟩
    have hne : e ≠ d.val := by
      rintro rfl
      exact absurd hsw (by simp [hself])
    rw [s.dieRate_switchDie_other d p hne] at hsw
    exact ⟨⟨e, List.mem_range.1 he⟩, fun h => hne (congrArg Fin.val h), hsw⟩
  · rintro ⟨e, hne, hsw⟩
    exact ⟨e.val, List.mem_range.2 e.isLt, by rwa [s.dieRate_switchDie_other d p (fun h => hne (Fin.ext h))]⟩

theorem State.dieRate_profileSwitch (e : Nat) : (s.profileSwitch d p).dieRate e = (s.switchDie d p).dieRate e := by
  unfold State.profileSwitch
  split <;> rfl

theorem State.profileSwitch_cores : (s.profileSwitch d p).cores = s.cores := by
  obtain ⟨hcores, -⟩ := (s.updDie d.val (fun _ => s.switchedRec d p)).admitNow_frame d.val
  unfold State.profileSwitch
  split <;> exact hcores

/-- While another die has to switch, the change of profile goes on. -/
theorem State.profileSwitch_goes_on (h : ∃ e : Fin 7, e ≠ d ∧ (s.dieRate e.val).switching = true) :
    (s.profileSwitch d p).cpc = s.cpc ∧ (s.profileSwitch d p).handed = s.handed := by
  obtain ⟨-, hcpc, hhanded⟩ := (s.updDie d.val (fun _ => s.switchedRec d p)).admitNow_frame d.val
  rw [State.profileSwitch, if_pos ((s.any_switching_switchDie d p).2 h)]
  exact ⟨hcpc, hhanded⟩

/-- The switch of the last die ends the change of profile. -/
theorem State.profileSwitch_ends (h : ∀ e : Fin 7, e ≠ d → (s.dieRate e.val).switching = false) :
    s.profileSwitch d p = (s.switchDie d p).profileReached p := by
  refine if_neg (fun hany => ?_)
  obtain ⟨e, hne, hsw⟩ := (s.any_switching_switchDie d p).1 hany
  simp [h e hne] at hsw

end Switched

/-! ### The power window (R580) -/

/-- A die's record after its rail is brought down: not below its floor voltage, and not up (R38). -/
def DieRate.lowered (r : DieRate) (d want : Nat) : DieRate :=
  let mv := Nat.min r.railMv.toNat (Nat.max (r.lowMv d) want)
  { r with railMv := BitVec.ofNat 16 mv, lowSince := if mv = ceilMv then r.lowSince else none }

theorem DieRate.railMv_lowered (r : DieRate) (d want : Nat) :
    (r.lowered d want).railMv.toNat = Nat.min r.railMv.toNat (Nat.max (r.lowMv d) want) :=
  toNat_ofNat16 ((Nat.min_le_left _ _).trans_lt r.railMv.isLt)

theorem DieRate.floorMv_le_lowered {r : DieRate} {p d : Nat} (hp : r.floorRate.toNat = floorRateOf p) (h : floorMv p d ≤ r.railMv.toNat)
    (want : Nat) : floorMv p d ≤ (r.lowered d want).railMv.toNat := by
  rw [DieRate.railMv_lowered, DieRate.lowMv_of_floorRate hp]
  exact Nat.le_min.2 ⟨h, Nat.le_max_left _ _⟩

theorem DieRate.lowSince_lowered {r : DieRate} {d want : Nat} (h : (r.lowered d want).railMv.toNat ≠ ceilMv) :
    (r.lowered d want).lowSince = none := by
  rw [DieRate.railMv_lowered] at h
  exact if_neg h

theorem exec_powerBudgetWindow_within {w : BitVec 16} {s : State} (h : w.toNat ≤ s.cpc.budgetW.toNat) (rails : List (Die × BitVec 16)) :
    exec (.powerBudgetWindow w rails) s = .next { s with cpc := { s.cpc with powerW := w } } := by
  change execPowerBudgetWindow w rails s = _
  rw [execPowerBudgetWindow, if_pos h]

theorem exec_powerBudgetWindow_above {w : BitVec 16} {s : State} (h : s.cpc.budgetW.toNat < w.toNat) (d : Die) (mv : BitVec 16) :
    exec (.powerBudgetWindow w [(d, mv)]) s = .next
      (State.updDie { s with cpc := { s.cpc with powerW := w } } d.val (fun r => r.lowered d.val mv.toNat)) := by
  change execPowerBudgetWindow w [(d, mv)] s = _
  rw [execPowerBudgetWindow, if_neg (Nat.not_le.2 h)]
  rfl

end Sys2Proof.Machine
end

section
/-! PROOFS. The statements about ENEXT and EABORT, about rates and rails, and about breaches and profiles, from the lemmas above. -/

namespace Sys2Proof.Machine

/-- Settles O5, by the cases of the issue order and of the entry that EABORT names. -/
theorem enextDeliversAndEabortAnswers : Obligations.EnextDeliversAndEabortAnswers := by
  unfold Obligations.EnextDeliversAndEabortAnswers
  refine ⟨?enext, ?eabort⟩
  case enext =>
    intro c rd s hcu
    refine ⟨fun hempty => ?_, fun i l horder hend hcast => ?_, fun i l horder hend => ?_⟩
    · obtain ⟨honly, hentries, hx⟩ := s.retire_spec c rd 0xFFFFFFFF
      exact ⟨_, exec_enext_empty hcu rd hempty, honly, hx, hentries⟩
    · exact ⟨_, exec_enext_ended hcu rd horder hend hcast, State.deliver_spec horder rd⟩
    · exact ⟨_, exec_enext_waits hcu rd horder hend, onlyCore_updCore _ _ _, by simp⟩
  case eabort =>
    intro c rd rs1 rs2 s hcu i e
    refine ⟨fun hpast => ?_, fun hended htag => ?_, fun hrun htag hreq hout => ?_⟩
    · exact ⟨_, exec_eabort_past hcu rd rs1 rs2 rfl hpast, s.retire_spec c rd 1⟩
    · exact ⟨_, exec_eabort_ended hcu rd rs1 rs2 rfl hended htag, s.retire_spec c rd _⟩
    · exact ⟨_, exec_eabort_running hcu rd rs1 rs2 rfl hrun htag, State.abort_waiting_spec hrun hreq hout _⟩

/-- Settles O15, from what a window does to a core's monitor and what an update does to a die's record. -/
theorem ratesAreMeasured : Obligations.RatesAreMeasured := by
  unfold Obligations.RatesAreMeasured
  refine ⟨?monitors, ?update⟩
  case monitors =>
    intro c s
    refine ⟨fun rate hup => ?_, _, exec_minClear c s, onlyCore_updCore _ _ _, by simp⟩
    have hcore : (s.updCore c (·.monitored rate)).core c = (s.core c).monitored rate := by simp
    refine ⟨_, exec_rateMonitorWindow_up hup rate, onlyCore_updCore _ _ _, ?_, ?_, ?_⟩
    · rw [hcore]; rfl
    · rw [hcore, Core.rateMin_monitored]
    · rw [hcore, Core.bitAt_rateReg]; rfl
  case update =>
    intro d own mv s hup
    have hrail := s.updateDie_railMv_toNat d own mv
    have hrate := s.updateDie_rateMin_toNat d own mv
    obtain ⟨hcores, hchans⟩ := s.updateDie_frame d own mv
    refine ⟨_, exec_dieRateUpdate_up s d own mv hup, fun e he => ?_, hcores, hchans, fun hd => ?_, fun hd m hm _ => ?_, ?_, fun hfloor => ?_,
      fun hwork hbelow => ?_, s.updateDie_lowSince d own mv, fun hmv hlow hnot => ?_, fun htop => ?_⟩
    · rw [State.dieRate_updateDie, if_neg he]
    · rw [State.updateDie_rateMin, State.updateRate, if_neg (Nat.not_lt.2 hd)]
      simp
    · rw [hrate, State.updateRate, if_pos hd, hm]
      rfl
    · rw [hrail]
      exact DieRate.steerMv_le_ceilMv _ _ _ _ _
    · have hprofile : (s.dieRate d.val).floorRate.toNat = floorRateOf 0 := by rw [hfloor]; rfl
      rw [hrail, ← DieRate.lowMv_of_floorRate hprofile]
      exact DieRate.lowMv_le_steerMv _ _ _ _ _
    · rw [hrate] at hbelow
      have hguard : s.belowGuard d own = true := by simpa [State.belowGuard] using hbelow
      rw [hrail, State.updateMv, hguard]
      exact DieRate.steerMv_rises _ _ _ _ hwork
    · rw [hrate] at hlow
      have hloss := s.losesFloor_at_ceiling d own mv hmv hlow hnot
      obtain ⟨-, -, -, hsignal, hrecord⟩ := s.stoppedBy_updateDie d own mv hloss
      rw [State.dieRate_updateDie, if_pos rfl, if_pos hloss]
      exact ⟨rfl, rfl, rfl, hsignal, hrecord⟩
    · rw [hrail] at htop
      rw [s.updateDie_quiet d own mv (s.losesFloor_of_below_ceiling d own mv htop)]
      exact ⟨rfl, by simp [State.updateRec]⟩

/-- Compute die 0 was in a reset, still `busy`, when a breach stopped it; since the write of `resume`, 100 us at the guard rate have passed. -/
def busyDieState : State :=
  { dies := [(0, { okSince := some 0, resume := true })], cdies := [(0, { busy := true })], clock := { now := 100000 }, boot := { phase := 9 } }

/-- Refutes O16: a compute die that admits again also ends the `busy` of its reset (R569), which is none of its rate registers. -/
theorem not_breachAndResume : ¬ Obligations.BreachAndResume := by
  unfold Obligations.BreachAndResume
  rintro ⟨-, -, -, hresume⟩
  obtain ⟨t, hexec, ⟨hsame, -⟩, -⟩ := hresume 0 busyDieState 0 rfl rfl rfl (by decide) (by decide) rfl
  have hend : exec (.admissionResume 0) busyDieState = .next (busyDieState.reopenDie 0) := by rfl
  obtain rfl : busyDieState.reopenDie 0 = t := by simpa [hend] using hexec
  have hbusy : (busyDieState.reopenDie 0).cdies = busyDieState.cdies := by rw [hsame]
  exact absurd hbusy (by decide)

/-- Settles O17, from what a change begins on every die, what one die's switch leaves, and what a power window does to a rail. -/
theorem profilesChangeAndRailsComeDown : Obligations.ProfilesChangeAndRailsComeDown := by
  unfold Obligations.ProfilesChangeAndRailsComeDown
  refine ⟨⟨?begins, ?ignored, ?reserved, ?grade, ?switch⟩, ?power⟩
  case begins =>
    intro req s h3 h0 htarget
    have hexec := exec_change_asked (s := s) ⟨h3, h0⟩
    rw [if_neg (by simp [htarget])] at hexec
    have hdies := fun d hd => State.dieRate_startChange { s with cpc := { s.cpc with request := req } } req (d := d) hd
    obtain ⟨dies, heq⟩ := State.startChange_eq { s with cpc := { s.cpc with request := req } } req
    rw [heq] at hexec hdies
    exact ⟨_, hexec, rfl, rfl, hdies⟩
  case ignored =>
    intro req s h3 h0 htarget
    rw [exec_change_asked ⟨h3, h0⟩, if_pos (Option.isSome_iff_ne_none.2 htarget)]
  case reserved => exact fun s => exec_change_refused (.inl rfl)
  case grade => exact fun s hgrade => exec_change_refused (.inr ⟨rfl, hgrade⟩)
  case switch =>
    intro d s p htarget hsw hidle
    obtain ⟨hswitched, hfloor, hguard, hrail⟩ := s.switchDie_profile d p
    refine ⟨_, exec_dieProfileSwitch_idle s d p htarget hsw hidle, ?_⟩
    simp only [State.dieRate_profileSwitch]
    refine ⟨hswitched, hfloor, hguard, hrail, s.switchDie_mustResume d p, fun h1 h2 h3 h4 h5 h6 h7 h8 h9 h10 _ => ?_,
      fun e he => s.dieRate_switchDie_other d p he, s.profileSwitch_cores d p, fun hlast => ?_, s.profileSwitch_goes_on d p⟩
    · exact s.switchDie_admits d p (s.admitsSwitched_of_free d p h1 h2 h3 h4 h5 h6 h7 h8 h9 h10)
    · rw [s.profileSwitch_ends d p hlast]
      exact ⟨rfl, rfl, State.budgetW_profileReached _ p⟩
  case power =>
    intro w d mv s
    refine ⟨fun h rails => exec_powerBudgetWindow_within h rails, fun h => ⟨_, exec_powerBudgetWindow_above h d mv, ?_⟩⟩
    have hrec : (State.updDie { s with cpc := { s.cpc with powerW := w } } d.val (fun r => r.lowered d.val mv.toNat)).dieRate d.val =
        (s.dieRate d.val).lowered d.val mv.toNat := (State.dieRate_updDie _ _ _ _).trans (if_pos rfl)
    rw [hrec]
    refine ⟨⟨rfl, fun e he => (State.dieRate_updDie _ _ _ _).trans (if_neg he)⟩, ?_, fun p hp hle => DieRate.floorMv_le_lowered hp hle _,
      DieRate.lowSince_lowered, rfl⟩
    rw [DieRate.railMv_lowered]
    exact Nat.min_le_left _ _

end Sys2Proof.Machine
end

section
/-! PROOFS. The control unit's instructions that only retire, the words of custom-0, and the exceptions of a control unit (R66, R68, R69). -/

namespace Sys2Proof.Machine

/-! ### Registers and instruction boundaries (R66) -/

theorem Core.x_setX_other (k : Core) {r q : BitVec 5} (v : BitVec 32) (h : q ≠ r) : (k.setX r v).x q = k.x q := by
  have hkey : q.toNat ≠ r.toNat := fun e => h (BitVec.eq_of_toNat_eq e)
  unfold Core.x Core.setX
  split_ifs
  · rfl
  · rfl
  · exact Tab.get_set_other _ _ hkey

theorem Core.x_retireTo_same (k : Core) (pc : BitVec 32) (r : BitVec 5) (v : BitVec 32) : (k.retireTo pc r v).x r = if r = 0 then 0 else v :=
  Core.x_setX_same k r v

theorem Core.x_retireTo_other (k : Core) (pc : BitVec 32) {r q : BitVec 5} (v : BitVec 32) (h : q ≠ r) : (k.retireTo pc r v).x q = k.x q :=
  Core.x_setX_other k v h

theorem Core.setX_eq_xregs (k : Core) (r : BitVec 5) (v : BitVec 32) : k.setX r v = { k with xregs := (k.setX r v).xregs } := by
  unfold Core.setX
  split <;> rfl

/-- A control unit at an instruction boundary waits for nothing. -/
theorem Core.wait_of_cuReady {k : Core} (h : k.cuReady = true) : k.wait = .none := by
  simp only [Core.cuReady, Bool.and_eq_true, beq_iff_eq] at h
  exact h.2

/-- An instruction that retires at a boundary changes the registers, the pc and the counters, and nothing else of its core. -/
theorem Core.retireTo_of_cuReady {k : Core} (h : k.cuReady = true) (pc : BitVec 32) (r : BitVec 5) (v : BitVec 32) :
    k.retireTo pc r v = { k with
      xregs := (k.retireTo pc r v).xregs, pc := pc, instret := k.instret + 1, cycle := k.cycle + Config.cuHandshakes k.pc k.instret k.cycle } := by
  rw [Core.retireTo, Core.setX_eq_xregs, ← Core.wait_of_cuReady h]

/-- What an instruction that only retires leaves: its result in its register, every other register as it was. -/
theorem State.retire_frame {s : State} {c : CoreId} (hcu : (s.core c).cuReady = true) (rd : BitVec 5) (v : BitVec 32) :
    let t := s.updCore c (fun k => k.retire rd v)
    OnlyCore c s t ∧
      t.core c = { s.core c with
        xregs := (t.core c).xregs, pc := (s.core c).pc + 4, instret := (s.core c).instret + 1
        cycle := (s.core c).cycle + Config.cuHandshakes (s.core c).pc (s.core c).instret (s.core c).cycle } ∧
      (∀ q, q ≠ rd → (t.core c).x q = (s.core c).x q) ∧ (t.core c).x rd = if rd = 0 then 0 else v := by
  have hcore : (s.updCore c (fun k => k.retire rd v)).core c = (s.core c).retire rd v := by simp
  refine ⟨onlyCore_updCore _ _ _, ?_, fun q hq => ?_, ?_⟩
  · rw [hcore]
    exact Core.retireTo_of_cuReady hcu _ _ _
  · rw [hcore]
    exact Core.x_retireTo_other _ _ _ hq
  · rw [hcore, Core.x_retire_same]

/-- What ETEST answers of the issue order: the state and the index of its oldest entry. -/
def Core.oldestWord (k : Core) : BitVec 32 :=
  match k.order with
  | [] => 0xFFFFFFFF
  | i :: _ => BitVec.ofNat 32 ((k.entry i).code.num + i * 256)

section Ready
variable {c : CoreId} {s : State} (hcu : (s.core c).cuReady = true)
include hcu

theorem exec_etest_ready (rd : BitVec 5) : exec (.etest c rd) s = .next (s.updCore c (fun k => k.retire rd (s.core c).oldestWord)) := by
  change execEtest c rd s = _
  simp only [execEtest, hcu, Bool.not_true, Bool.false_eq_true, if_false]
  rfl

theorem exec_esum_ready (rd rs1 : BitVec 5) :
    exec (.esum c rd rs1) s = .next (s.updCore c (fun k => k.retire rd ((s.core c).sums.get (((s.core c).x rs1).toNat % 8)))) := by
  change execEsum c rd rs1 s = _
  simp only [execEsum, hcu, Bool.not_true, Bool.false_eq_true, if_false]
  rfl

theorem exec_wfi_ready : exec (.wfi c) s = .next (s.updCore c (fun k => { k with wait := .wfi })) := by
  change execWfi c s = _
  simp only [execWfi, hcu, Bool.not_true, Bool.false_eq_true, if_false]

end Ready

/-! ### Exceptions (R68) -/

/-- An exception of a control unit: cause and place are noted, it stops, and table, registers and stores stand. -/
theorem State.core_cuTrap (s : State) (c : CoreId) (cause tval : Nat) :
    (s.cuTrap c cause tval).core c = { s.core c with
      mepc := (s.core c).pc, mcause := BitVec.ofNat 32 cause, mtval := BitVec.ofNat 32 tval, trapPc := (s.core c).pc, gpie := (s.core c).gie
      gie := false, cuRunning := false, cuTrapped := true, wait := .none } := by
  simp [State.cuTrap]

theorem State.cuIllegal_spec (s : State) (c : CoreId) :
    let k := (s.cuIllegal c).core c
    k.mcause = 2 ∧ k.mepc = (s.core c).pc ∧ k.cuTrapped = true ∧ k.cuRunning = false ∧ k.entries = (s.core c).entries := by
  have hcore : (s.cuIllegal c).core c = (s.cuTrap c 2 (Config.freeWord s.freeCount).toNat).core c := rfl
  rw [hcore, State.core_cuTrap]
  exact ⟨rfl, rfl, rfl, rfl, rfl⟩

/-! ### Words of custom-0 (R69) -/

theorem wordField_toNat (x : BitVec 32) (lo w : Nat) : (wordField x lo w).toNat = x.toNat / 2 ^ lo % 2 ^ w := by
  simp [wordField, Nat.shiftRight_eq_div_pow]

/-- The R-form word of custom-0 with `funct7` 0. -/
def customWord (f : Nat) (rd rs1 rs2 : BitVec 5) : BitVec 32 :=
  BitVec.ofNat 32 (0x0B + rd.toNat * 2 ^ 7 + f * 2 ^ 12 + rs1.toNat * 2 ^ 15 + rs2.toNat * 2 ^ 20)

/-- The fields that such a word spells. -/
theorem customWord_fields {f : Nat} (hf : f < 8) (rd rs1 rs2 : BitVec 5) :
    let x := customWord f rd rs1 rs2
    wordField x 7 5 = rd ∧ (wordField x 12 3).toNat = f ∧ wordField x 15 5 = rs1 ∧ wordField x 20 5 = rs2 ∧ (wordField x 25 7).toNat = 0 := by
  have hrd := rd.isLt
  have hrs1 := rs1.isLt
  have hrs2 := rs2.isLt
  have hx : (customWord f rd rs1 rs2).toNat = 0x0B + rd.toNat * 2 ^ 7 + f * 2 ^ 12 + rs1.toNat * 2 ^ 15 + rs2.toNat * 2 ^ 20 := by
    rw [customWord, BitVec.toNat_ofNat, Nat.mod_eq_of_lt (by omega)]
  refine ⟨BitVec.eq_of_toNat_eq ?_, ?_, BitVec.eq_of_toNat_eq ?_, BitVec.eq_of_toNat_eq ?_, ?_⟩ <;>
    rw [wordField_toNat, hx] <;> omega

/-- A word with `funct7` 0 and `funct3` 0 to 4 is the instruction of that number, any other none. -/
theorem cuWord_eq_none_iff (c : CoreId) (pick : Fin 64) (x : BitVec 32) :
    cuWord c pick x = none ↔ (wordField x 25 7).toNat ≠ 0 ∨ 5 ≤ (wordField x 12 3).toNat := by
  unfold cuWord
  dsimp only
  by_cases h7 : (wordField x 25 7).toNat ≠ 0
  · rw [if_pos h7]
    exact iff_of_true rfl (.inl h7)
  · rw [if_neg h7, or_iff_right h7]
    generalize (wordField x 12 3).toNat = n
    match n with
    | 0 | 1 | 2 | 3 | 4 => exact iff_of_false (Option.some_ne_none _) (by omega)
    | n + 5 => exact iff_of_true rfl (by omega)

theorem State.cuRun_of_cuWord_none {s : State} {c : CoreId} {pick : Fin 64} {x : BitVec 32} (h : cuWord c pick x = none)
    (hcu : (s.core c).cuReady = true) : s.cuRun c pick x = .next (s.cuIllegal c) := by
  simp [State.cuRun, h, hcu]

/-- The engine-issue instruction with `funct3` `f` (R69). -/
def customInstr (c : CoreId) (pick : Fin 64) (rd rs1 rs2 : BitVec 5) : Nat → Option Instr
  | 0 => some (.eiss c rd rs1 pick [])
  | 1 => some (.enext c rd)
  | 2 => some (.etest c rd)
  | 3 => some (.eabort c rd rs1 rs2)
  | 4 => some (.esum c rd rs1)
  | _ => none

section Custom
variable (s : State) (c : CoreId) (pick : Fin 64) (rd rs1 rs2 : BitVec 5)

theorem cuWord_customWord {f : Nat} (hf : f < 8) : cuWord c pick (customWord f rd rs1 rs2) = customInstr c pick rd rs1 rs2 f := by
  obtain ⟨hrd, h3, hrs1, hrs2, h7⟩ := customWord_fields hf rd rs1 rs2
  simp only [cuWord, hrd, h3, hrs1, hrs2, h7, ne_eq, not_true_eq_false, if_false]
  rfl

/-- A control unit executes the engine-issue instruction that a word spells. -/
theorem State.cuRun_of_cuWord {x : BitVec 32} {y : Instr} (h : cuWord c pick x = some y) : s.cuRun c pick x = exec y s := by
  have hy : ∃ rd rs1 rs2 f, customInstr c pick rd rs1 rs2 f = some y := by
    unfold cuWord at h
    dsimp only at h
    split at h
    · exact absurd h (Option.some_ne_none _).symm
    · exact ⟨_, _, _, _, h⟩
  obtain ⟨rd, rs1, rs2, f, hf⟩ := hy
  rw [State.cuRun, h]
  match f with
  | 0 | 1 | 2 | 3 | 4 => cases hf; rfl
  | _ + 5 => exact absurd hf (Option.some_ne_none _).symm

theorem State.cuRun_customWord {f : Nat} {y : Instr} (hf : f < 8) (h : customInstr c pick rd rs1 rs2 f = some y) :
    s.cuRun c pick (customWord f rd rs1 rs2) = exec y s :=
  s.cuRun_of_cuWord c pick ((cuWord_customWord c pick rd rs1 rs2 hf).trans h)

end Custom

end Sys2Proof.Machine
end

section
/-! PROOFS. What accesses to a core's stores do that no error stands in, and the loads, stores and fetches of a control unit (R66, R67). -/

namespace Sys2Proof.Machine

theorem OnlyCore.trans {c : CoreId} {s t u : State} (h : OnlyCore c s t) (h' : OnlyCore c t u) : OnlyCore c s u := by
  obtain ⟨ht, hcores⟩ := h
  obtain ⟨hu, hcores'⟩ := h'
  exact ⟨hu.trans (by rw [ht]), fun d hd => (hcores' d hd).trans (hcores d hd)⟩

/-! ### Stores of a core without standing errors (R193, R199) -/

@[simp] theorem State.upset_nil (s : State) (c : CoreId) : s.upset c [] = s := rfl

/-- No word of the working store, or of the slice, stands with an error. -/
def Core.soundStore (k : Core) (res : Bool) : Prop := (if res then k.rsErr else k.wsErr) = []

theorem State.storeRead_of_sound {s : State} {c : CoreId} {res : Bool} (h : (s.core c).soundStore res) (a n : Nat) (w : Who) :
    s.storeRead c res a n w =
      (s, false, ((s.core c).physBytes c res a n).map (fun p => (if res then (s.core c).rs else (s.core c).ws).read p)) := by
  simp [State.storeRead, State.judge_of_no_errors h]

theorem State.storeWrite_of_sound {s : State} {c : CoreId} {res : Bool} (h : (s.core c).soundStore res) (a : Nat) (bs : List Byte) (w : Who) :
    s.storeWrite c res a bs w = (s.updCore c (fun k => k.putPhys res (((s.core c).physBytes c res a bs.length).zip bs)
      (wordsOf ((s.core c).physBytes c res a bs.length))), false) := by
  simp [State.storeWrite, State.judge_of_no_errors h]

theorem Mem.read_foldl_write_other (l : List (Nat × Byte)) (m : Mem) {p : Nat} (h : ∀ x ∈ l, x.1 ≠ p) :
    (l.foldl (fun m x => m.write x.1 x.2) m).read p = m.read p := by
  induction l generalizing m with
  | nil => rfl
  | cons x l ih =>
    rw [List.foldl_cons, ih _ (fun y hy => h y (by simp [hy])), Mem.read_write_other _ _ (h x (by simp)).symm]

theorem leBytes_length (n v : Nat) : (leBytes n v).length = n := by
  induction n generalizing v with
  | zero => rfl
  | succ n ih => simp [leBytes, ih]

theorem leBytes_getElem (n v i : Nat) (h : i < (leBytes n v).length) : (leBytes n v)[i] = BitVec.ofNat 8 (v / 256 ^ i) := by
  induction n generalizing v i with
  | zero => simp [leBytes] at h
  | succ n ih =>
    cases i with
    | zero => simp [leBytes]
    | succ i => simp only [leBytes, List.getElem_cons_succ, ih, Nat.div_div_eq_div_mul, ← Nat.pow_succ']

/-! ### Loads and stores of the control unit (R67) -/

/-- A loaded value of `n` bytes as the form extends it. -/
def loadExt (z : Bool) (n : Nat) (bs : List Byte) : BitVec 32 :=
  if z then BitVec.ofNat 32 (leVal bs) else BitVec.ofInt 32 (toSigned (8 * n) (leVal bs))

section Access
variable {c : CoreId} {s : State} (hcu : (s.core c).cuReady = true) {size : Fin 3} {a : BitVec 32}
include hcu

theorem State.cuLoadStore_misaligned {k : AccKind} (hk : k = .load ∨ k = .store) (h : a.toNat % 2 ^ size.val ≠ 0) (z : Bool) (r : BitVec 5)
    (ups : List Upset) : s.cuLoadStore c k size z a r ups = s.cuTrap c (if k = .store then 6 else 4) a.toNat := by
  rcases hk with rfl | rfl <;> simp [State.cuLoadStore, hcu, h]

variable {res : Bool} {o : Nat} (hplace : cuPlace c a.toNat (2 ^ size.val) = some (res, o))
include hplace

/-- A fetch from a slice that reads without an error changes nothing by itself. -/
theorem State.cuLoadStore_fetch (hres : res = true) (hsound : (s.core c).soundStore res) (z : Bool) (r : BitVec 5) :
    s.cuLoadStore c .fetch size z a r [] = s := by
  subst hres
  simp [State.cuLoadStore, hcu, hplace, State.storeRead_of_sound hsound]

variable (halign : a.toNat % 2 ^ size.val = 0) (hbanks : res = false → (s.core c).banksReady c o (2 ^ size.val) = true)
  (hsound : (s.core c).soundStore res)
include halign hbanks hsound

theorem State.cuLoadStore_load (z : Bool) (r : BitVec 5) :
    s.cuLoadStore c .load size z a r [] = s.updCore c (fun q => q.counted.setX r (loadExt z (2 ^ size.val)
      (((s.core c).physBytes c res o (2 ^ size.val)).map (fun p => (if res then (s.core c).rs else (s.core c).ws).read p)))) := by
  have hready : (!res && !(s.core c).banksReady c o (2 ^ size.val)) = false := by
    cases res <;> simp [hbanks]
  simp [State.cuLoadStore, hcu, halign, hplace, hready, State.storeRead_of_sound hsound, loadExt]

theorem State.cuLoadStore_store (z : Bool) (r : BitVec 5) :
    s.cuLoadStore c .store size z a r [] = (s.updCore c (fun k => k.putPhys res
      (((s.core c).physBytes c res o (2 ^ size.val)).zip (leBytes (2 ^ size.val) ((s.core c).x r).toNat))
      (wordsOf ((s.core c).physBytes c res o (2 ^ size.val))))).updCore c Core.counted := by
  have hready : (!res && !(s.core c).banksReady c o (2 ^ size.val)) = false := by
    cases res <;> simp [hbanks]
  simp [State.cuLoadStore, hcu, halign, hplace, hready, State.storeWrite_of_sound hsound, leBytes_length]

end Access

/-! ### What a store leaves (R193) -/

theorem Core.putPhys_slice (k : Core) (c : CoreId) (a : Nat) (bs : List Byte) (ws : List Nat) :
    let k' := k.putPhys true ((k.physBytes c true a bs.length).zip bs) ws
    k'.ws = k.ws ∧ k'.rs = k.rs.writeN a bs :=
  ⟨rfl, Mem.foldl_write_zip_range k.rs a bs⟩

theorem Core.putPhys_working (k : Core) (c : CoreId) (a : Nat) (bs : List Byte) (ws : List Nat) :
    let k' := k.putPhys false ((k.physBytes c false a bs.length).zip bs) ws
    k'.rs = k.rs ∧ (k.parts = [] → k'.ws = k.ws.writeN a bs) ∧
      ∀ p, p ∉ k.physBytes c false a bs.length → k'.ws.read p = k.ws.read p := by
  refine ⟨rfl, fun hparts => ?_, fun p hp => ?_⟩
  · rw [Core.physBytes_of_no_parts hparts]
    exact Mem.foldl_write_zip_range k.ws a bs
  · exact Mem.read_foldl_write_other _ _ (fun x hx hxp => hp (hxp ▸ (List.of_mem_zip hx).1))

/-- The bytes of a number, written from `a` upwards, read back, and no other byte changes. -/
theorem Mem.read_writeN_leBytes (m : Mem) (a n v : Nat) :
    (∀ i, i < n → (m.writeN a (leBytes n v)).read (a + i) = BitVec.ofNat 8 (v / 256 ^ i)) ∧
      ∀ p, p < a ∨ a + n ≤ p → (m.writeN a (leBytes n v)).read p = m.read p := by
  refine ⟨fun i hi => ?_, fun p hp => Mem.read_writeN_other _ _ _ _ (by rwa [leBytes_length])⟩
  rw [Mem.read_writeN_at _ _ _ _ (by rwa [leBytes_length]), leBytes_getElem]

/-! ### Fetching at the pc (R67) -/

theorem rsSize_le (c : CoreId) : rsSize c ≤ 0x400000 := by unfold rsSize; split <;> decide
theorem wsSize_le (c : CoreId) : wsSize c ≤ 0x40000 := by unfold wsSize; split <;> decide

theorem leVal_pair (x : Nat) : leVal [BitVec.ofNat 8 x, BitVec.ofNat 8 (x / 256)] = x % 65536 := by
  simp only [leVal, BitVec.toNat_ofNat]
  omega

/-- The instruction word `x` lies in the slice at the pc, which reads without errors. -/
structure State.HoldsWord (s : State) (c : CoreId) (x : BitVec 32) : Prop where
  ready : (s.core c).cuReady = true
  sound : (s.core c).rsErr = []
  even : (s.core c).pc.toNat % 2 = 0
  above : 0x10000000 ≤ (s.core c).pc.toNat
  room : (s.core c).pc.toNat - 0x10000000 + 4 ≤ rsSize c
  bytes : ∀ i, i < 4 → (s.core c).rs.read ((s.core c).pc.toNat - 0x10000000 + i) = BitVec.ofNat 8 (x.toNat / 256 ^ i)

section Fetch
variable {s : State} {c : CoreId} {x : BitVec 32}

/-- Two bytes of the word, from its first or its second half. -/
theorem State.cuFetch_half (h : s.HoldsWord c x) {j : Nat} (hj : j ≤ 2) :
    s.cuFetch c ((s.core c).pc.toNat + j) = (s, some (x.toNat / 256 ^ j % 65536)) := by
  have hsize := rsSize_le c
  have hws := wsSize_le c
  have habove := h.above
  have hroom := h.room
  have hfirm : cuFirmwareAt ((s.core c).pc.toNat + j) 2 = false := by
    simp only [cuFirmwareAt, Bool.and_eq_false_iff, decide_eq_false_iff_not]
    omega
  have hplace : cuPlace c ((s.core c).pc.toNat + j) 2 = some (true, (s.core c).pc.toNat - 0x10000000 + j) := by
    rw [cuPlace, if_neg (by omega), if_pos (by omega), show (s.core c).pc.toNat + j - 0x10000000 = (s.core c).pc.toNat - 0x10000000 + j by omega]
  have hbytes : ((s.core c).physBytes c true ((s.core c).pc.toNat - 0x10000000 + j) 2).map (fun p => (s.core c).rs.read p) =
      [BitVec.ofNat 8 (x.toNat / 256 ^ j), BitVec.ofNat 8 (x.toNat / 256 ^ j / 256)] := by
    have h0 := h.bytes j (by omega)
    have h1 := h.bytes (j + 1) (by omega)
    rw [Nat.pow_succ, ← Nat.div_div_eq_div_mul, ← Nat.add_assoc] at h1
    simp [Core.physBytes, List.range_succ, h0, h1]
  have hsound : (s.core c).soundStore true := h.sound
  have hread := State.storeRead_of_sound hsound ((s.core c).pc.toNat - 0x10000000 + j) 2
  simp only [if_true, hbytes] at hread
  simp [State.cuFetch, hfirm, hplace, hread, leVal_pair]

/-- A word of 4 bytes is executed as it stands. -/
theorem State.cuStep_word (h : s.HoldsWord c x) (h3 : x.toNat % 4 = 3) (pick : Fin 64) : s.cuStep c pick [] = s.rvExec c x 4 pick := by
  have hsize := rsSize_le c
  have habove := h.above
  have hroom := h.room
  have hlo := State.cuFetch_half h (j := 0) (by decide)
  have hhi := State.cuFetch_half h (j := 2) (by decide)
  have hnext : ((s.core c).pc.toNat + 2) % 2 ^ 32 = (s.core c).pc.toNat + 2 := Nat.mod_eq_of_lt (by omega)
  have hword : BitVec.ofNat 32 (x.toNat % 65536 + x.toNat / 256 ^ 2 % 65536 * 65536) = x := by
    apply BitVec.eq_of_toNat_eq
    have hx := x.isLt
    rw [BitVec.toNat_ofNat]
    omega
  simp only [Nat.add_zero, Nat.pow_zero, Nat.div_one] at hlo
  simp only [State.cuStep, h.ready, h.even, State.upset_nil, hlo, hhi, hnext, hword, Bool.not_true, Bool.false_eq_true, if_false, ne_eq, not_true_eq_false,
    Nat.mod_mod_of_dvd _ (by decide : 4 ∣ 65536), h3]

/-- A compressed instruction is executed as the one it stands for. -/
theorem State.cuStep_compressed (h : s.HoldsWord c x) (h3 : x.toNat % 4 ≠ 3) {y : BitVec 32}
    (hy : rvExpand false (BitVec.ofNat 16 (x.toNat % 65536)) = some y) (pick : Fin 64) : s.cuStep c pick [] = s.rvExec c y 2 pick := by
  have hlo := State.cuFetch_half h (j := 0) (by decide)
  simp only [Nat.add_zero, Nat.pow_zero, Nat.div_one] at hlo
  simp only [State.cuStep, h.ready, h.even, State.upset_nil, hlo, hy, Bool.not_true, Bool.false_eq_true, if_false, ne_eq, not_true_eq_false,
    Nat.mod_mod_of_dvd _ (by decide : 4 ∣ 65536), h3, not_false_eq_true, if_true]

end Fetch

end Sys2Proof.Machine
end

section
/-! PROOFS. The RISC-V words that a control unit executes at its pc (R66; log 43): their fields, what they stand for, and what they do. -/

namespace Sys2Proof.Machine

/-! ### One instruction -/

/-- An instruction has retired with a result, and `next` is the pc. -/
def State.retiredTo (s : State) (c : CoreId) (next : BitVec 32) (d : BitVec 5) (v : BitVec 32) : State := s.updCore c (fun k => k.retireTo next d v)

theorem State.retiredTo_spec (s : State) (c : CoreId) (next : BitVec 32) (d : BitVec 5) (v : BitVec 32) :
    let t := s.retiredTo c next d v
    OnlyCore c s t ∧ (t.core c).x d = (if d = 0 then 0 else v) ∧ (∀ q, q ≠ d → (t.core c).x q = (s.core c).x q) ∧ (t.core c).pc = next ∧
      (t.core c).instret = (s.core c).instret + 1 ∧ (t.core c).ws = (s.core c).ws ∧ (t.core c).rs = (s.core c).rs := by
  have hcore : (s.retiredTo c next d v).core c = (s.core c).retireTo next d v := by simp [State.retiredTo]
  have hstores : ((s.core c).setX d v).ws = (s.core c).ws ∧ ((s.core c).setX d v).rs = (s.core c).rs := by
    rw [Core.setX_eq_xregs]
    exact ⟨rfl, rfl⟩
  intro t
  rw [show t.core c = _ from hcore]
  exact ⟨onlyCore_updCore _ _ _, Core.x_retireTo_same _ _ _ _, fun q hq => Core.x_retireTo_other _ _ _ hq, rfl, rfl, hstores⟩

section Exec
variable (s : State) (c : CoreId) {x : BitVec 32} (n : BitVec 32) (pick : Fin 64)

theorem State.rvExec_addi (hop : (wordField x 0 7).toNat = 0x13) (h3 : (wordField x 12 3).toNat = 0) :
    s.rvExec c x n pick =
      .next (s.retiredTo c ((s.core c).pc + n) (wordField x 7 5) ((s.core c).x (wordField x 15 5) + immI 32 x)) := by
  simp [State.rvExec, hop, h3, rvOp, rvAlu]
  rfl

/-- An instruction of the R form whose `funct7` and `funct3` name an operation. -/
theorem State.rvExec_op (hop : (wordField x 0 7).toNat = 0x33) {v : BitVec 32}
    (hv : rvOp false (wordField x 12 3).toNat (wordField x 25 7).toNat ((s.core c).x (wordField x 15 5)) ((s.core c).x (wordField x 20 5)) = some v) :
    s.rvExec c x n pick = .next (s.retiredTo c ((s.core c).pc + n) (wordField x 7 5) v) := by
  simp only [State.rvExec, hop, hv]
  rfl

theorem State.rvExec_jal (hop : (wordField x 0 7).toNat = 0x6F) :
    s.rvExec c x n pick = .next (s.retiredTo c ((s.core c).pc + immJ 32 x) (wordField x 7 5) ((s.core c).pc + n)) := by
  simp only [State.rvExec, hop]
  rfl

theorem State.rvExec_beq (hop : (wordField x 0 7).toNat = 0x63) (h3 : (wordField x 12 3).toNat = 0) :
    s.rvExec c x n pick = .next (s.retiredTo c
      (if (s.core c).x (wordField x 15 5) = (s.core c).x (wordField x 20 5) then (s.core c).pc + immB 32 x else (s.core c).pc + n) 0 0) := by
  simp only [State.rvExec, hop, h3, rvBranch, beq_iff_eq]
  rfl

/-- CSRRS without a source reads the CSR and writes none (R66). -/
theorem State.rvExec_csrr (hop : (wordField x 0 7).toNat = 0x73) (h3 : (wordField x 12 3).toNat = 2) (h1 : wordField x 15 5 = 0)
    {v : BitVec 32} (hv : s.cuCsr c (wordField x 20 12).toNat = some v) :
    s.rvExec c x n pick = .next (s.retiredTo c ((s.core c).pc + 4) (wordField x 7 5) v) := by
  simp [State.rvExec, hop, h3, h1, State.cuZicsr, hv]
  rfl

theorem State.rvExec_ecall : s.rvExec c 0x73 n pick = .next (s.cuTrap c 11 0) := rfl

theorem State.rvExec_custom (hop : (wordField x 0 7).toNat = 0x0B) : s.rvExec c x n pick = s.cuRun c pick x := by
  simp only [State.rvExec, hop]

theorem State.cuCsr_mhartid : s.cuCsr c 0xF14 = some (BitVec.ofNat 32 (s.logNum c)) := rfl

end Exec

/-! ### Words as their fields are joined -/

theorem toNat_append_eq_add {m n : Nat} (x : BitVec m) (y : BitVec n) : (x ++ y).toNat = x.toNat * 2 ^ n + y.toNat := by
  rw [BitVec.toNat_append, ← Nat.shiftLeft_add_eq_or_of_lt y.isLt, Nat.shiftLeft_eq]

theorem toNat_extractLsb' {m : Nat} (x : BitVec m) (lo w : Nat) : (x.extractLsb' lo w).toNat = x.toNat / 2 ^ lo % 2 ^ w := by
  simp [Nat.shiftRight_eq_div_pow]

theorem wordField_eq {x : BitVec 32} {lo w : Nat} {f : BitVec w} (h : x.toNat / 2 ^ lo % 2 ^ w = f.toNat) : wordField x lo w = f :=
  BitVec.eq_of_toNat_eq ((wordField_toNat x lo w).trans h)

/-- The two lowest bits tell a word of 4 bytes, and they are those of its opcode. -/
theorem mod_four_of_opcode {x : BitVec 32} {op : Nat} (h : (wordField x 0 7).toNat = op) (h3 : op % 4 = 3) : x.toNat % 4 = 3 := by
  rw [wordField_toNat] at h
  omega

/-- The fields of a word of the R form. -/
theorem rWord_fields (f7 : BitVec 7) (b a : BitVec 5) (f3 : BitVec 3) (d : BitVec 5) (op : BitVec 7) :
    let x : BitVec 32 := f7 ++ b ++ a ++ f3 ++ d ++ op
    wordField x 0 7 = op ∧ wordField x 7 5 = d ∧ wordField x 12 3 = f3 ∧ wordField x 15 5 = a ∧ wordField x 20 5 = b ∧ wordField x 25 7 = f7 := by
  have hf7 := f7.isLt
  have hb := b.isLt
  have ha := a.isLt
  have hf3 := f3.isLt
  have hd := d.isLt
  have hop := op.isLt
  intro x
  have hx : x.toNat = ((((f7.toNat * 2 ^ 5 + b.toNat) * 2 ^ 5 + a.toNat) * 2 ^ 3 + f3.toNat) * 2 ^ 5 + d.toNat) * 2 ^ 7 + op.toNat := by
    simp only [x, toNat_append_eq_add]
  exact ⟨wordField_eq (by omega), wordField_eq (by omega), wordField_eq (by omega), wordField_eq (by omega), wordField_eq (by omega),
    wordField_eq (by omega)⟩

/-- The fields of a word of the I form. -/
theorem iWord_fields (imm : BitVec 12) (a : BitVec 5) (f3 : BitVec 3) (d : BitVec 5) (op : BitVec 7) :
    let x : BitVec 32 := imm ++ a ++ f3 ++ d ++ op
    wordField x 0 7 = op ∧ wordField x 7 5 = d ∧ wordField x 12 3 = f3 ∧ wordField x 15 5 = a ∧ wordField x 20 12 = imm := by
  have himm := imm.isLt
  have ha := a.isLt
  have hf3 := f3.isLt
  have hd := d.isLt
  have hop := op.isLt
  intro x
  have hx : x.toNat = (((imm.toNat * 2 ^ 5 + a.toNat) * 2 ^ 3 + f3.toNat) * 2 ^ 5 + d.toNat) * 2 ^ 7 + op.toNat := by
    simp only [x, toNat_append_eq_add]
  exact ⟨wordField_eq (by omega), wordField_eq (by omega), wordField_eq (by omega), wordField_eq (by omega), wordField_eq (by omega)⟩

/-- The fields of a word of the J form, whose offset lies in four pieces. -/
theorem jWord_fields (p20 : BitVec 1) (p1 : BitVec 10) (p11 : BitVec 1) (p12 : BitVec 8) (d : BitVec 5) (op : BitVec 7) :
    let x : BitVec 32 := p20 ++ p1 ++ p11 ++ p12 ++ d ++ op
    wordField x 0 7 = op ∧ wordField x 7 5 = d ∧ immJ 32 x = (p20 ++ p12 ++ p11 ++ p1 ++ (0 : BitVec 1)).signExtend 32 := by
  have h20 := p20.isLt
  have h1 := p1.isLt
  have h11 := p11.isLt
  have h12 := p12.isLt
  have hd := d.isLt
  have hop := op.isLt
  intro x
  have hx : x.toNat = ((((p20.toNat * 2 ^ 10 + p1.toNat) * 2 ^ 1 + p11.toNat) * 2 ^ 8 + p12.toNat) * 2 ^ 5 + d.toNat) * 2 ^ 7 + op.toNat := by
    simp only [x, toNat_append_eq_add]
  refine ⟨wordField_eq (lo := 0) (f := op) (by omega), wordField_eq (lo := 7) (f := d) (by omega), ?_⟩
  rw [immJ, wordField_eq (lo := 31) (f := p20) (by omega), wordField_eq (lo := 12) (f := p12) (by omega), wordField_eq (lo := 20) (f := p11) (by omega), wordField_eq (lo := 21) (f := p1) (by omega)]

/-- The fields of a word of the B form, whose offset lies in four pieces. -/
theorem bWord_fields (p12 : BitVec 1) (p5 : BitVec 6) (b a : BitVec 5) (f3 : BitVec 3) (p1 : BitVec 4) (p11 : BitVec 1) (op : BitVec 7) :
    let x : BitVec 32 := p12 ++ p5 ++ b ++ a ++ f3 ++ p1 ++ p11 ++ op
    wordField x 0 7 = op ∧ wordField x 12 3 = f3 ∧ wordField x 15 5 = a ∧ wordField x 20 5 = b ∧
      immB 32 x = (p12 ++ p11 ++ p5 ++ p1 ++ (0 : BitVec 1)).signExtend 32 := by
  have h12 := p12.isLt
  have h5 := p5.isLt
  have hb := b.isLt
  have ha := a.isLt
  have hf3 := f3.isLt
  have h1 := p1.isLt
  have h11 := p11.isLt
  have hop := op.isLt
  intro x
  have hx : x.toNat = ((((((p12.toNat * 2 ^ 6 + p5.toNat) * 2 ^ 5 + b.toNat) * 2 ^ 5 + a.toNat) * 2 ^ 3 + f3.toNat) * 2 ^ 4 + p1.toNat) * 2 ^ 1
      + p11.toNat) * 2 ^ 7 + op.toNat := by
    simp only [x, toNat_append_eq_add]
  refine ⟨wordField_eq (lo := 0) (f := op) (by omega), wordField_eq (lo := 12) (f := f3) (by omega), wordField_eq (lo := 15) (f := a) (by omega), wordField_eq (lo := 20) (f := b) (by omega), ?_⟩
  rw [immB, wordField_eq (lo := 31) (f := p12) (by omega), wordField_eq (lo := 7) (f := p11) (by omega), wordField_eq (lo := 25) (f := p5) (by omega), wordField_eq (lo := 8) (f := p1) (by omega)]

/-- The four pieces in which a JAL word holds an offset make it up again. -/
theorem jPieces_join (i : BitVec 20) : i.extractLsb' 19 1 ++ i.extractLsb' 11 8 ++ i.extractLsb' 10 1 ++ i.extractLsb' 0 10 = i := by
  rw [BitVec.extractLsb'_append_extractLsb'_eq_extractLsb' (show 19 = 11 + 8 from rfl),
    BitVec.extractLsb'_append_extractLsb'_eq_extractLsb' (show 11 = 10 + 1 from rfl),
    BitVec.extractLsb'_append_extractLsb'_eq_extractLsb' (show 10 = 0 + 10 from rfl)]
  exact BitVec.extractLsb'_eq_self

/-- The four pieces in which a BEQ word holds an offset make it up again. -/
theorem bPieces_join (i : BitVec 12) : i.extractLsb' 11 1 ++ i.extractLsb' 10 1 ++ i.extractLsb' 4 6 ++ i.extractLsb' 0 4 = i := by
  rw [BitVec.extractLsb'_append_extractLsb'_eq_extractLsb' (show 11 = 10 + 1 from rfl),
    BitVec.extractLsb'_append_extractLsb'_eq_extractLsb' (show 10 = 4 + 6 from rfl),
    BitVec.extractLsb'_append_extractLsb'_eq_extractLsb' (show 4 = 0 + 4 from rfl)]
  exact BitVec.extractLsb'_eq_self

/-- C.LI stands for ADDI of x0 (RISC-V's C extension). -/
theorem rvExpand_cli (hi : BitVec 16) (f3 : BitVec 3) (p5 : BitVec 1) (d p0 : BitVec 5) (op : BitVec 2) (hf3 : f3 = 2) (hop : op = 1) :
    let x : BitVec 32 := hi ++ f3 ++ p5 ++ d ++ p0 ++ op
    x.toNat % 4 = 1 ∧
      rvExpand false (BitVec.ofNat 16 (x.toNat % 65536)) = some (iForm (signed32 6 (p5 ++ p0).toNat) 0 0 d.toNat 0x13) := by
  have hhi := hi.isLt
  have hp5 := p5.isLt
  have hd := d.isLt
  have hp0 := p0.isLt
  have hf : f3.toNat = 2 := by rw [hf3]; rfl
  have ho : op.toNat = 1 := by rw [hop]; rfl
  intro x
  have hx : x.toNat = ((((hi.toNat * 2 ^ 3 + 2) * 2 ^ 1 + p5.toNat) * 2 ^ 5 + d.toNat) * 2 ^ 5 + p0.toNat) * 2 ^ 2 + 1 := by
    simp only [x, toNat_append_eq_add, hf, ho]
  have h16 : (BitVec.ofNat 16 (x.toNat % 65536)).toNat = x.toNat % 65536 := by
    rw [BitVec.toNat_ofNat]
    omega
  have hquad : x.toNat % 65536 / 2 ^ 0 % 2 ^ 2 = 1 := by omega
  have hfunct : x.toNat % 65536 / 2 ^ 13 % 2 ^ 3 = 2 := by omega
  have hrd : x.toNat % 65536 / 2 ^ 7 % 2 ^ 5 = d.toNat := by omega
  have himm : x.toNat % 65536 / 2 ^ 12 % 2 ^ 1 * 32 + x.toNat % 65536 / 2 ^ 2 % 2 ^ 5 = (p5 ++ p0).toNat := by
    rw [toNat_append_eq_add p5 p0]
    omega
  refine ⟨by omega, ?_⟩
  simp only [rvExpand, h16, hquad, hfunct, hrd, himm]

theorem signExtend_signed32 : ∀ imm : BitVec 6, (BitVec.ofNat 12 (signed32 6 imm.toNat)).signExtend 32 = imm.signExtend 32 := by decide

/-- The fields of a word of the I form. -/
theorem iForm_fields {imm rs1 f3 rd op : Nat} (hrs1 : rs1 < 32) (hf3 : f3 < 8) (hrd : rd < 32) (hop : op < 128) :
    let x := iForm imm rs1 f3 rd op
    (wordField x 0 7).toNat = op ∧ (wordField x 7 5).toNat = rd ∧ (wordField x 12 3).toNat = f3 ∧ (wordField x 15 5).toNat = rs1 ∧
      wordField x 20 12 = BitVec.ofNat 12 imm := by
  intro x
  have hx : x.toNat = imm / 32 % 128 * 2 ^ 25 + imm % 32 * 2 ^ 20 + rs1 * 2 ^ 15 + f3 * 2 ^ 12 + rd * 2 ^ 7 + op := by
    simp only [x, iForm, rForm, BitVec.toNat_ofNat]
    omega
  refine ⟨?_, ?_, ?_, ?_, BitVec.eq_of_toNat_eq ?_⟩
  · rw [wordField_toNat, hx]; omega
  · rw [wordField_toNat, hx]; omega
  · rw [wordField_toNat, hx]; omega
  · rw [wordField_toNat, hx]; omega
  · rw [wordField_toNat, hx, BitVec.toNat_ofNat]; omega


/-! ### The instruction at the pc -/

theorem exec_fetch_at_pc (c : CoreId) (size : Fin 3) (r : BitVec 5) (s : State) :
    exec (.controlUnitLoadStore c .fetch size true (s.core c).pc r []) s = s.cuStep c (Fin.ofNat 64 (r.toNat + 32 * size.val)) [] := by
  change execControlUnitLoadStore c .fetch size true (s.core c).pc r [] s = _
  simp [execControlUnitLoadStore]

/-- An access that is no fetch of the instruction at the pc is a load, a store, or a plain fetch. -/
theorem exec_access {c : CoreId} {k : AccKind} {z : Bool} {a : BitVec 32} {s : State} (h : k = .fetch → z = false ∨ a ≠ (s.core c).pc)
    (size : Fin 3) (r : BitVec 5) (ups : List Upset) :
    exec (.controlUnitLoadStore c k size z a r ups) s = .next (s.cuLoadStore c k size z a r ups) := by
  change execControlUnitLoadStore c k size z a r ups s = _
  rw [execControlUnitLoadStore, if_neg]
  rintro ⟨hk, hz, ha⟩
  rcases h hk with h | h
  · simp [hz] at h
  · exact h ha

section AtPc
variable {s : State} {c : CoreId} {x : BitVec 32} (h : s.HoldsWord c x) (pick : Fin 64)
include h

theorem State.cuStep_addi {imm : BitVec 12} {a d : BitVec 5} (hx : x = imm ++ a ++ (0 : BitVec 3) ++ d ++ (0x13 : BitVec 7)) :
    s.cuStep c pick [] = .next (s.retiredTo c ((s.core c).pc + 4) d ((s.core c).x a + imm.signExtend 32)) := by
  obtain ⟨hop, hd, h3, ha, himm⟩ := iWord_fields imm a 0 d 0x13
  rw [← hx] at hop hd h3 ha himm
  rw [State.cuStep_word h (mod_four_of_opcode (congrArg _ hop) rfl), State.rvExec_addi s c 4 pick (congrArg _ hop) (congrArg _ h3), hd, ha, immI, himm]

/-- ADD, SUB and MUL: the operation that `funct7` names with `funct3` 0. -/
theorem State.cuStep_op {f7 : BitVec 7} {a b d : BitVec 5} (hx : x = f7 ++ b ++ a ++ (0 : BitVec 3) ++ d ++ (0x33 : BitVec 7)) {v : BitVec 32}
    (hv : rvOp false 0 f7.toNat ((s.core c).x a) ((s.core c).x b) = some v) :
    s.cuStep c pick [] = .next (s.retiredTo c ((s.core c).pc + 4) d v) := by
  obtain ⟨hop, hd, h3, ha, hb, h7⟩ := rWord_fields f7 b a 0 d 0x33
  rw [← hx] at hop hd h3 ha hb h7
  rw [State.cuStep_word h (mod_four_of_opcode (congrArg _ hop) rfl), State.rvExec_op s c 4 pick (congrArg _ hop) (v := v) (by rw [h3, h7, ha, hb]; exact hv), hd]

theorem State.cuStep_jal {i : BitVec 20} {d : BitVec 5}
    (hx : x = i.extractLsb' 19 1 ++ i.extractLsb' 0 10 ++ i.extractLsb' 10 1 ++ i.extractLsb' 11 8 ++ d ++ (0x6F : BitVec 7)) :
    s.cuStep c pick [] = .next (s.retiredTo c ((s.core c).pc + (i ++ (0 : BitVec 1)).signExtend 32) d ((s.core c).pc + 4)) := by
  obtain ⟨hop, hd, hoff⟩ := jWord_fields (i.extractLsb' 19 1) (i.extractLsb' 0 10) (i.extractLsb' 10 1) (i.extractLsb' 11 8) d 0x6F
  rw [← hx] at hop hd hoff
  rw [jPieces_join] at hoff
  rw [State.cuStep_word h (mod_four_of_opcode (congrArg _ hop) rfl), State.rvExec_jal s c 4 pick (congrArg _ hop), hd, hoff]

theorem State.cuStep_beq {i : BitVec 12} {a b : BitVec 5}
    (hx : x = i.extractLsb' 11 1 ++ i.extractLsb' 4 6 ++ b ++ a ++ (0 : BitVec 3) ++ i.extractLsb' 0 4 ++ i.extractLsb' 10 1 ++ (0x63 : BitVec 7)) :
    s.cuStep c pick [] = .next (s.retiredTo c
      (if (s.core c).x a = (s.core c).x b then (s.core c).pc + (i ++ (0 : BitVec 1)).signExtend 32 else (s.core c).pc + 4) 0 0) := by
  obtain ⟨hop, h3, ha, hb, hoff⟩ := bWord_fields (i.extractLsb' 11 1) (i.extractLsb' 4 6) b a 0 (i.extractLsb' 0 4) (i.extractLsb' 10 1) 0x63
  rw [← hx] at hop h3 ha hb hoff
  rw [bPieces_join] at hoff
  rw [State.cuStep_word h (mod_four_of_opcode (congrArg _ hop) rfl), State.rvExec_beq s c 4 pick (congrArg _ hop) (congrArg _ h3), ha, hb, hoff]

theorem State.cuStep_cli {d : BitVec 5} {hi : BitVec 16} {imm : BitVec 6}
    (hx : x = hi ++ (2 : BitVec 3) ++ imm.extractLsb' 5 1 ++ d ++ imm.extractLsb' 0 5 ++ (1 : BitVec 2)) :
    s.cuStep c pick [] = .next (s.retiredTo c ((s.core c).pc + 2) d (imm.signExtend 32)) := by
  have himm : imm.extractLsb' 5 1 ++ imm.extractLsb' 0 5 = imm := by
    rw [BitVec.extractLsb'_append_extractLsb'_eq_extractLsb' (show 5 = 0 + 5 from rfl)]
    exact BitVec.extractLsb'_eq_self
  obtain ⟨hquad, hexp⟩ := rvExpand_cli hi 2 (imm.extractLsb' 5 1) d (imm.extractLsb' 0 5) 1 rfl rfl
  rw [← hx] at hquad hexp
  rw [himm] at hexp
  obtain ⟨hop, hd, h3, h1, hoff⟩ := iForm_fields (imm := signed32 6 imm.toNat) (rs1 := 0) (f3 := 0) (op := 0x13) (by decide) (by decide) d.isLt (by decide)
  rw [State.cuStep_compressed h (by omega) hexp, State.rvExec_addi s c 2 pick hop h3, immI, hoff, signExtend_signed32,
    BitVec.eq_of_toNat_eq hd, BitVec.eq_of_toNat_eq (y := 0) h1]
  simp [Core.x]

/-- A read of `mhartid`: the logical number of the core (R66). -/
theorem State.cuStep_mhartid {d : BitVec 5} (hx : x = (0xF14 : BitVec 12) ++ (0 : BitVec 5) ++ (2 : BitVec 3) ++ d ++ (0x73 : BitVec 7)) :
    s.cuStep c pick [] = .next (s.retiredTo c ((s.core c).pc + 4) d (BitVec.ofNat 32 (s.logNum c))) := by
  obtain ⟨hop, hd, h3, h1, hcsr⟩ := iWord_fields 0xF14 0 2 d 0x73
  rw [← hx] at hop hd h3 h1 hcsr
  have hread : s.cuCsr c (wordField x 20 12).toNat = some (BitVec.ofNat 32 (s.logNum c)) := by
    rw [hcsr]
    exact s.cuCsr_mhartid c
  rw [State.cuStep_word h (mod_four_of_opcode (congrArg _ hop) rfl), State.rvExec_csrr s c 4 pick (congrArg _ hop) (congrArg _ h3) h1 hread, hd]

theorem State.cuStep_ecall (hx : x = 0x73) : s.cuStep c pick [] = .next (s.cuTrap c 11 0) := by
  subst hx
  rw [State.cuStep_word h rfl, State.rvExec_ecall]

theorem State.cuStep_custom (hx : x.toNat % 128 = 0x0B) : s.cuStep c pick [] = s.cuRun c pick x := by
  have hop : (wordField x 0 7).toNat = 0x0B := by
    rw [wordField_toNat]
    omega
  rw [State.cuStep_word h (mod_four_of_opcode hop rfl), State.rvExec_custom s c 4 pick hop]

end AtPc

end Sys2Proof.Machine
end

section
/-! PROOFS. What an access by an NPA, a completion record, and an output left unspecified touch of the cores: their stores alone (R29, R81, R92, R193). -/

namespace Sys2Proof.Machine

/-! ### Accesses that touch no core, or its stores alone -/

theorem foldl_keeps {σ α γ : Type} (f : σ → γ) {g : σ → α → σ} (hg : ∀ a x, f (g a x) = f a) (l : List α) (a : σ) : f (l.foldl g a) = f a := by
  induction l generalizing a with
  | nil => rfl
  | cons x l ih => rw [List.foldl_cons, ih, hg]

theorem State.cores_ite_hand (s : State) (p : Prop) [Decidable p] (r : ErrRec) : (if p then s.hand r else s).cores = s.cores := by
  split <;> rfl

section Gddr
variable (s : State) (w : Who)

theorem State.cores_gddrCorrect (ch pu q sec : Nat) (es f : List SymErr) (npa : Nat) : (s.gddrCorrect ch pu q sec es f npa w).cores = s.cores := by
  unfold State.gddrCorrect
  exact (State.updChan_cores _ _ _).trans (s.cores_ite_hand _ _)

theorem State.cores_gddrJudge (ch pu q npa : Nat) (secs : List Nat) : (s.gddrJudge ch pu q npa secs w).1.cores = s.cores := by
  unfold State.gddrJudge
  refine foldl_keeps (fun acc : State × List Nat => acc.1.cores) (fun acc sec => ?_) secs (s, [])
  dsimp only
  split
  · split <;> rfl
  · exact State.cores_gddrCorrect _ _ _ _ _ _ _ _ _
  · rfl

theorem State.cores_squallCount (ch q sec npa : Nat) : (s.squallCount ch q sec npa w).cores = s.cores := by
  unfold State.squallCount
  dsimp only
  split
  · rfl
  · split
    · rfl
    · split
      · rfl
      · split <;> exact State.cores_gddrJudge _ _ _ _ _ _ _

theorem State.cores_countUnit (a n : Nat) : (s.countUnit a n w).cores = s.cores := by
  unfold State.countUnit
  dsimp only
  split
  · rfl
  · exact foldl_keeps State.cores (fun s k => s.cores_squallCount w _ _ _ _) _ s

theorem State.cores_unitWrite (a : Nat) (bs : List Byte) : (s.unitWrite a bs w).1.cores = s.cores := by
  unfold State.unitWrite
  dsimp only
  split
  · rfl
  · exact State.cores_gddrJudge _ _ _ _ _ _ _

/-- A write to GDDR touches no core. -/
theorem State.cores_gddrWrite (a : Nat) (bs : List Byte) : (s.gddrWrite a bs w).1.cores = s.cores := by
  unfold State.gddrWrite
  refine foldl_keeps (fun acc : State × Byte => acc.1.cores) (fun acc p => ?_) _ (s, stDone)
  unfold State.gddrWriteUnit
  exact (State.cores_unitWrite _ _ _ _).trans (acc.1.cores_countUnit _ _ _)

end Gddr

theorem State.cores_breakRes (s : State) (a n : Nat) : (s.breakRes a n).cores = s.cores := by
  unfold State.breakRes
  split <;> rfl

theorem State.cores_dropLines (s : State) (a n : Nat) : (s.dropLines a n).cores = s.cores := by
  unfold State.dropLines
  dsimp only
  split
  · exact foldl_keeps State.cores (fun s x => s.cores_gddrWrite _ _ _) _ _
  · rfl

theorem State.cores_foreignWrote (s : State) (a n : Nat) : (s.foreignWrote a n).cores = s.cores :=
  (State.cores_dropLines _ _ _).trans (s.cores_breakRes a n)

theorem State.cores_sramJudge (s : State) (words : List Nat) (w : Who) : (s.sramJudge words w).1.cores = s.cores := by
  unfold State.sramJudge
  refine foldl_keeps (fun acc : State × List Nat => acc.1.cores) (fun acc i => ?_) words (s, [])
  split <;> rfl

theorem State.cores_sramPut (s : State) (off : Nat) (bs : List Byte) (w : Who) : (s.sramPut off bs w).1.cores = s.cores :=
  (State.cores_breakRes _ _ _).trans (s.cores_sramJudge _ w)

/-- A core without its stores, the errors that stand there, and their counts. -/
def Core.bare (k : Core) : Core :=
  { k with ws := [], rs := [], wsErr := [], rsErr := [], wsCorrected := 0, wsUncorrectable := 0, rsCorrected := 0, rsUncorrectable := 0
           wsUnlogged := 0, rsUnlogged := 0, wsLogged := none, rsLogged := none }

/-- Of the cores nothing differs but their stores. -/
def State.OnlyStores (s t : State) : Prop := ∀ d, (t.core d).bare = (s.core d).bare

theorem State.OnlyStores.refl (s : State) : s.OnlyStores s := fun _ => rfl

theorem State.OnlyStores.trans {s t u : State} (h : s.OnlyStores t) (h' : t.OnlyStores u) : s.OnlyStores u := fun d => (h' d).trans (h d)

theorem State.OnlyStores.of_cores {s t : State} (h : t.cores = s.cores) : s.OnlyStores t := fun d => by rw [State.core, h]; rfl

theorem State.OnlyStores.foldl {α : Type} {g : State → α → State} (hg : ∀ (t : State) x, t.OnlyStores (g t x)) (l : List α) (s : State) :
    s.OnlyStores (l.foldl g s) :=
  List.foldlRecOn (motive := fun t => s.OnlyStores t) l g (.refl s) (fun _ h x _ => h.trans (hg _ x))

theorem State.onlyStores_updCore (s : State) (c : CoreId) {g : Core → Core} (hg : ∀ k, (g k).bare = k.bare) : s.OnlyStores (s.updCore c g) := by
  intro d
  rw [State.core_updCore]
  split
  · rename_i h
    rw [h, hg]
  · rfl

/-- What such an access leaves of a core: operation table, issue order, what its control unit waits for, its engines. -/
theorem State.OnlyStores.table {s t : State} (h : s.OnlyStores t) (c : CoreId) :
    (t.core c).entries = (s.core c).entries ∧ (t.core c).wait = (s.core c).wait ∧ (t.core c).dma = (s.core c).dma :=
  ⟨(congrArg Core.entries (h c) :), (congrArg Core.wait (h c) :), (congrArg Core.dma (h c) :)⟩

section Stores
variable (s : State) (c : CoreId) (res : Bool)

theorem State.onlyStores_storeCorrect (word bit : Nat) (w : Who) : s.OnlyStores (s.storeCorrect c res word bit w) := by
  refine State.OnlyStores.trans (t := _) (fun d => ?_) (State.onlyStores_updCore _ c (fun k => ?_))
  · rw [State.core_ite_hand]
  · cases res <;> rfl

theorem State.onlyStores_storeUnc (word : Nat) (w : Who) : s.OnlyStores (s.storeUnc c res word w) := by
  refine State.OnlyStores.trans (t := _) (fun _ => rfl) (State.onlyStores_updCore _ c (fun k => ?_))
  cases res <;> rfl

theorem State.onlyStores_judge (words : List Nat) (w : Who) : s.OnlyStores (s.judge c res words w).1 := by
  unfold State.judge
  refine List.foldlRecOn (motive := fun acc : State × List Nat => s.OnlyStores acc.1) _ _ (State.OnlyStores.refl s) (fun acc hacc e _ => ?_)
  split
  · exact hacc
  · exact hacc.trans (State.onlyStores_storeCorrect _ _ _ _ _ _)
  · exact hacc.trans (State.onlyStores_storeUnc _ _ _ _ _)

theorem Core.bare_putPhys (k : Core) (l : List (Nat × Byte)) (cleared : List Nat) : (k.putPhys res l cleared).bare = k.bare := by
  cases res <;> rfl

theorem State.onlyStores_storeWrite (a : Nat) (bs : List Byte) (w : Who) : s.OnlyStores (s.storeWrite c res a bs w).1 :=
  (s.onlyStores_judge c res _ w).trans (State.onlyStores_updCore _ c (fun k => k.bare_putPhys res _ _))

theorem State.onlyStores_npaWrite (npa : Nat) (bs : List Byte) (w : Who) : s.OnlyStores (s.npaWrite c npa bs w).1 := by
  unfold State.npaWrite
  dsimp only
  split
  · exact .of_cores ((State.cores_foreignWrote _ _ _).trans (s.cores_gddrWrite _ _ _))
  · split
    · exact s.onlyStores_storeWrite _ _ _ _ _
    · exact .refl s
  · exact s.onlyStores_storeWrite _ _ _ _ _
  · split
    · exact .of_cores (s.cores_sramPut _ _ _)
    · exact .refl s
  · exact .refl s

/-- The write of a completion record touches stores alone, or the mesh. -/
theorem State.onlyStores_recordWrite (npa : Nat) (bs : List Byte) (tag : BitVec 32) : s.OnlyStores (s.recordWrite c npa bs tag) := by
  have hown := s.onlyStores_npaWrite c npa bs ((s.core c).who 0 tag)
  unfold State.recordWrite
  dsimp only
  split
  · exact hown
  · split
    · exact hown
    · split
      · exact hown
      · exact .of_cores rfl

theorem State.onlyStores_scrambleAt (npa n : Nat) : s.OnlyStores (s.scrambleAt c npa n) := by
  unfold State.scrambleAt
  dsimp only
  split
  · exact .of_cores (foldl_keeps State.cores (fun _ _ => State.updChan_cores _ _ _) _ s)
  · split
    · exact s.onlyStores_updCore _ (fun _ => rfl)
    · exact .refl s
  · exact s.onlyStores_updCore c (fun k => k.bare_putPhys false _ _)
  · split
    · exact .of_cores (s.cores_sramPut _ _ _)
    · exact .refl s
  · exact .refl s

theorem State.onlyStores_scramble (segs : List (Nat × Nat)) : s.OnlyStores (s.scramble c segs) :=
  .trans (.foldl (fun s g => s.onlyStores_scrambleAt c g.1 g.2) segs s) (.of_cores rfl)

theorem State.onlyStores_dmaScramble (d : Desc) : s.OnlyStores (s.dmaScramble c d) := by
  unfold State.dmaScramble
  dsimp only
  split
  · split
    · exact .refl s
    · exact s.onlyStores_scramble c _
  · refine .trans (.foldl (fun s i => ?_) _ s) (.of_cores rfl)
    split
    · exact s.onlyStores_scrambleAt c _ _
    · split
      · split
        · exact s.onlyStores_scrambleAt _ _ _
        · exact .refl s
      · exact .refl s

/-- Making an operation's outputs unspecified touches no operation table. -/
theorem State.onlyStores_spoilOutputs (d : Desc) : s.OnlyStores (s.spoilOutputs c d) := by
  unfold State.spoilOutputs
  split
  · exact s.onlyStores_scramble c _
  · exact s.onlyStores_scramble c _
  · exact s.onlyStores_dmaScramble c d
  · exact s.onlyStores_scramble c _

end Stores

end Sys2Proof.Machine
end

section
/-! PROOFS. How operations start and end (R74 to R76, R81, R92): the operation table when an entry leaves ADMITTED or RUNNING. -/

namespace Sys2Proof.Machine

/-! ### The end of an operation (R75, R76, R81) -/

theorem Tab.mem_set_of_ne {α : Type} [Inhabited α] [DecidableEq α] {t : Tab α} {k : Nat} {v : α} {e : Nat × α} (h : e ∈ Tab.set t k v) :
    e = (k, v) ∨ e ∈ t ∧ e.1 ≠ k := by
  have herase : ∀ e ∈ Tab.erase t k, e ∈ t ∧ e.1 ≠ k := fun e he => ⟨List.mem_of_mem_filter he, Tab.key_erase e he⟩
  unfold Tab.set at h
  split at h
  · exact .inr (herase e h)
  · exact (Tab.mem_ins h).imp_right (herase e)

/-- The operation overran its bound at its end (R56), so that its status and its record say so. -/
def State.endsLate (s : State) (e : Entry) (x : Ending) (bounded : Bool) : Bool :=
  bounded && x.code == .done && e.overran s.t && !s.castWaits e

/-- The entry as its operation leaves ADMITTED or RUNNING. -/
def State.leftEntry (s : State) (e : Entry) (x : Ending) (bounded : Bool) : Entry :=
  { e with
    code := x.code, status := if s.endsLate e x bounded then worse x.status stBoundExceeded else x.status
    recFlags := (if e.d.sumEn ∧ x.code = .done then 1 else 0) ||| (if e.reexec then 2 else 0) ||| (if x.untouched then 4 else 0)
      ||| (if x.logged || s.endsLate e x bounded then 8 else 0) ||| e.recFlags
    gddrCred := [], remCred := [], resCred := 0, dep := .none }

theorem State.leftEntry_status {s : State} {e : Entry} {x : Ending} {bounded : Bool} (h : x.code ≠ .done ∨ e.overran s.t = false) :
    (s.leftEntry e x bounded).status = x.status := by
  have hlate : s.endsLate e x bounded = false := by
    rcases h with h | h
    · simp [State.endsLate, h]
    · simp [State.endsLate, h]
  simp [State.leftEntry, hlate]

theorem State.cores_returnCredits (s : State) (ten : Nat) (e : Entry) : (s.returnCredits ten e).cores = s.cores := by
  unfold State.returnCredits
  exact (foldl_keeps State.cores (fun _ _ => State.updFab_cores _ _ _) _ _).trans
    (foldl_keeps State.cores (fun _ _ => State.updChan_cores _ _ _) _ s)

theorem State.cores_twinSend (s : State) (pl : Nat) (kind : Byte) (payload : List Byte) : (s.twinSend pl kind payload).cores = s.cores := rfl

theorem State.cores_castEnd (s : State) (c : CoreId) (e : Entry) (st : Byte) (ok : Bool) : (s.castEnd c e st ok).cores = s.cores := by
  unfold State.castEnd State.castComplete
  dsimp only
  split
  · split
    · rfl
    · exact foldl_keeps State.cores (fun _ _ => State.cores_twinSend _ _ _ _) _ s
  · rfl

/-- An entry that waited for an operation goes on without it, or is broken (R76). -/
def Entry.afterEnd (e : Entry) (op : Nat) (code : EntryCode) : Entry :=
  if e.code = .admitted ∧ e.dep = .on op then { e with dep := if code = .done then .none else .broken } else e

/-- The record of an overrun bound (R56). -/
def State.overrunRec (s : State) (c : CoreId) (e : Entry) : ErrRec :=
  { unit := engUnit c e.d.engine, cls := 0x09, severity := 0, status := stBoundExceeded, jobId := ((s.core c).who 0 0).jobId
    jobGen := ((s.core c).who 0 0).jobGen, opTag := e.d.opTag, detail := padTo 24 (leBytes 8 e.bound ++ leBytes 8 (s.t - e.tStart)) }

/-- What an operation's end brings before its entry leaves: the record of an overrun, the credits returned, the completion record. -/
def State.endWritten (s : State) (c : CoreId) (i : Nat) (x : Ending) (bounded : Bool) : State :=
  let e := (s.core c).entry i
  let s1 := (if s.endsLate e x bounded then s.hand (s.overrunRec c e) else s).returnCredits (s.core c).tenancy.toNat e
  if x.noRecord then s1 else s1.recordWrite c e.d.recordAddr
    (recordBytes (s.leftEntry e x bounded) i s.t ++ (if e.d.engine = 3 then svReport (s.core c) i else [])) e.d.opTag

theorem State.onlyStores_endWritten (s : State) (c : CoreId) (i : Nat) (x : Ending) (bounded : Bool) : s.OnlyStores (s.endWritten c i x bounded) := by
  have hcredits := fun r => State.OnlyStores.of_cores ((State.cores_returnCredits _ (s.core c).tenancy.toNat ((s.core c).entry i)).trans
    (s.cores_ite_hand (s.endsLate ((s.core c).entry i) x bounded = true) r))
  unfold State.endWritten
  dsimp only
  split
  · exact hcredits _
  · exact (hcredits _).trans (State.onlyStores_recordWrite _ _ _ _ _)

/-- A core when its entry `i`, which was `e`, has left as `e1`. -/
def Core.leave (k : Core) (i : Nat) (e e1 : Entry) : Core := { k with
  entries := (k.entries.set i e1).map (fun y => (y.1, y.2.afterEnd e.op e1.code))
  abortAll := k.abortAll && (k.entries.set i e1).any (fun y => y.2.live && y.2.abortReq)
  sv := if e.d.engine = 3 ∧ (k.sv.map (·.entry)) = some i then none else k.sv
  svOpcode := if e.d.engine = 3 ∧ e.code = .running then 0 else k.svOpcode
  iteration := if e.d.engine = 3 ∧ e.code = .running then 0 else k.iteration }

section End
variable {s : State} {c : CoreId} {i : Nat} (x : Ending) (bounded : Bool)

/-- An operation that is no solve ends in three parts: what is written, its entry, what the twin is told. -/
theorem State.endOne_eq (hsv : ((s.core c).entry i).d.engine ≠ 3) :
    let e := (s.core c).entry i
    s.endOne c i x bounded = ((s.endWritten c i x bounded).updCore c (fun k => k.leave i e (s.leftEntry e x bounded))).castEnd c e
      (s.leftEntry e x bounded).status (x.code == .done) := by
  intro e
  rw [State.endOne]
  exact if_neg (fun h => hsv h.1)

theorem Entry.afterEnd_of_no_dep {e : Entry} {op : Nat} (h : e.code = .admitted → e.dep ≠ .on op) (code : EntryCode) : e.afterEnd op code = e :=
  if_neg (fun hdep => h hdep.1 hdep.2)

variable (hdeps : ∀ y ∈ (s.core c).entries, y.1 ≠ i → y.2.code = .admitted → y.2.dep ≠ .on ((s.core c).entry i).op ∧ y.2.dep ≠ .broken)
  (hcode : x.code ≠ .admitted)
include hdeps hcode

theorem State.mem_left_deps {e1 : Entry} (he1 : e1.code = x.code) :
    ∀ y ∈ (s.core c).entries.set i e1, y.2.code = .admitted → y.2.dep ≠ .on ((s.core c).entry i).op ∧ y.2.dep ≠ .broken := by
  intro y hy hadm
  rcases Tab.mem_set_of_ne hy with rfl | ⟨hmem, hne⟩
  · exact absurd (he1.symm.trans hadm) hcode
  · exact hdeps y hmem hne hadm

/-- When an operation ends on which none waits, its entry alone changes in its core's table. -/
theorem State.endOne_table (hsv : ((s.core c).entry i).d.engine ≠ 3) :
    let t := s.endOne c i x bounded
    (t.core c).entries = (s.core c).entries.set i (s.leftEntry ((s.core c).entry i) x bounded) ∧ (t.core c).wait = (s.core c).wait := by
  intro t
  obtain ⟨hentries, hwait, -⟩ := (s.onlyStores_endWritten c i x bounded).table c
  have hcore : t.core c = ((s.endWritten c i x bounded).core c).leave i ((s.core c).entry i) (s.leftEntry ((s.core c).entry i) x bounded) := by
    have hcast := State.cores_castEnd ((s.endWritten c i x bounded).updCore c (fun k =>
      k.leave i ((s.core c).entry i) (s.leftEntry ((s.core c).entry i) x bounded))) c ((s.core c).entry i)
      (s.leftEntry ((s.core c).entry i) x bounded).status (x.code == .done)
    rw [show t = _ from State.endOne_eq x bounded hsv, State.core, hcast]
    exact (State.core_updCore _ _ _ _).trans (if_pos rfl)
  rw [hcore]
  refine ⟨?_, hwait⟩
  simp only [Core.leave, hentries]
  refine (List.map_congr_left (g := id) (fun y hy => ?_)).trans (List.map_id _)
  have hdep := fun hadm => (State.mem_left_deps x hdeps hcode (e1 := s.leftEntry ((s.core c).entry i) x bounded) rfl y hy hadm).1
  rw [Entry.afterEnd_of_no_dep hdep]
  rfl

omit hdeps hcode in
theorem State.breakDeps_of_none_broken {s : State} (h : ∀ y ∈ (s.core c).entries, y.2.code = .admitted → y.2.dep ≠ .broken) (n : Nat) :
    s.breakDeps c n = s := by
  cases n with
  | zero => rfl
  | succ n =>
    have hfind : (s.core c).entries.find? (fun y => y.2.code == .admitted && y.2.dep == .broken) = none := by
      simpa using h
    rw [State.breakDeps, hfind]

/-- With no instruction waiting, an operation that ends, on which no other waits, changes its own entry alone in its core's table. -/
theorem State.endEntry_entries (hsv : ((s.core c).entry i).d.engine ≠ 3) (hwait : (s.core c).wait = .none) :
    ((s.endEntry c i x bounded).core c).entries = (s.core c).entries.set i (s.leftEntry ((s.core c).entry i) x bounded) := by
  obtain ⟨hentries, hwait'⟩ := State.endOne_table x bounded hdeps hcode hsv
  have hbroken : (s.endOne c i x bounded).breakDeps c 64 = s.endOne c i x bounded := by
    refine State.breakDeps_of_none_broken (fun y hy hadm => ?_) 64
    rw [hentries] at hy
    exact (State.mem_left_deps x hdeps hcode rfl y hy hadm).2
  have hwake : (s.endOne c i x bounded).wakeCu c = s.endOne c i x bounded := by
    rw [State.wakeCu, hwait', hwait]
  rw [State.endEntry, hbroken, hwake, hentries]

theorem State.endEntry_entry (hsv : ((s.core c).entry i).d.engine ≠ 3) (hwait : (s.core c).wait = .none) :
    ((s.endEntry c i x bounded).core c).entry i = s.leftEntry ((s.core c).entry i) x bounded := by
  rw [Core.entry, State.endEntry_entries x bounded hdeps hcode hsv hwait, Tab.get_set_same]

end End

/-! ### The start of an operation (R75) -/

/-- One of the first three engines takes an entry up: its core alone differs, and not by its table. -/
theorem State.engineStart_spec {s : State} {c : CoreId} {i : Nat} (h : ((s.core c).entry i).d.engine ≤ 2) :
    let t := s.engineStart c i
    OnlyCore c s t ∧ (t.core c).entries = (s.core c).entries ∧ (((s.core c).entry i).d.engine = 0 → (t.core c).mx = some { entry := i }) ∧
      (((s.core c).entry i).d.engine = 1 → (t.core c).vx = some { entry := i }) ∧
      (((s.core c).entry i).d.engine = 2 → (t.core c).dma.entry = some i) := by
  unfold State.engineStart
  generalize ((s.core c).entry i).d.engine = eng at h
  match eng with
  | 0 | 1 | 2 => exact ⟨onlyCore_updCore _ _ _, by simp⟩
  | n + 3 => omega

theorem exec_opStart_free {c : CoreId} {i : Fin 64} {s : State} (hadm : ((s.core c).entry i.val).code = .admitted)
    (hdep : ((s.core c).entry i.val).dep = .none) (hfree : (s.core c).engineFree ((s.core c).entry i.val) = true) :
    exec (.opStart c i) s = .next ((s.updCore c (fun k => k.updEntry i.val (fun e => { e with code := .running }))).engineStart c i.val) := by
  change execOpStart c i s = _
  simp [execOpStart, hadm, hdep, hfree]

/-! ### How OP_END ends an entry (R74, R92) -/

theorem exec_opEnd_unfinished {c : CoreId} {i : Fin 64} {s : State} (h : ((s.core c).entry i.val).outcome = none) :
    exec (.opEnd c i) s = .next s := by
  change execOpEnd c i s = _
  simp [execOpEnd, h]

section OpEnd
variable {c : CoreId} {i : Fin 64} {s : State} {st : Byte} (hrun : ((s.core c).entry i.val).code = .running)
  (hout : ((s.core c).entry i.val).outcome = some st) (hsv : ((s.core c).entry i.val).d.engine ≠ 3)
include hrun hout hsv

theorem exec_opEnd_as_finished
    (h : ((s.core c).entry i.val).abortReq = false ∨ st = ((s.core c).entry i.val).abortStatus ∨ isF st = true) :
    exec (.opEnd c i) s = .next (s.endEntry c i.val { code := ((s.core c).entry i.val).endCode st, status := st }) := by
  change execOpEnd c i s = _
  have hstays : ¬ (((s.core c).entry i.val).abortReq ∧ st ≠ ((s.core c).entry i.val).abortStatus ∧ ¬ isF st) := by
    rintro ⟨hreq, hne, hf⟩
    rcases h with h | h | h
    · simp [h] at hreq
    · exact hne h
    · exact hf h
  have hleaves : ¬ (((s.core c).entry i.val).code ≠ .running ∨ ((s.core c).entry i.val).d.engine = 3 ∧ s.lentLive c i.val = true) := by
    simp [hrun, hsv]
  simp only [execOpEnd, hout, if_neg hleaves, if_neg hstays]

theorem exec_opEnd_aborted_late (hreq : ((s.core c).entry i.val).abortReq = true) (hne : st ≠ ((s.core c).entry i.val).abortStatus)
    (hf : isF st = false) :
    exec (.opEnd c i) s = .next ((s.spoilOutputs c ((s.core c).entry i.val).d).endEntry c i.val
      { code := .aborted, status := ((s.core c).entry i.val).abortStatus }) := by
  change execOpEnd c i s = _
  have hleaves : ¬ (((s.core c).entry i.val).code ≠ .running ∨ ((s.core c).entry i.val).d.engine = 3 ∧ s.lentLive c i.val = true) := by
    simp [hrun, hsv]
  simp only [execOpEnd, hout, if_neg hleaves]
  rw [if_pos ⟨hreq, hne, by simp [hf]⟩]

end OpEnd

theorem Entry.endCode_ne_admitted (e : Entry) (st : Byte) : e.endCode st ≠ .admitted := by
  unfold Entry.endCode
  split_ifs <;> decide

/-- A failure is never DONE. -/
theorem Entry.endCode_ne_done_of_isF (e : Entry) {st : Byte} (h : isF st = true) : e.endCode st ≠ .done := by
  unfold Entry.endCode
  rw [if_pos h]
  split_ifs <;> decide

end Sys2Proof.Machine
end

section
/-! PROOFS. Core control and self-test (R94, R95, R120, R121). -/

namespace Sys2Proof.Machine

/-! ### A table of one entry -/

theorem Core.issueOrder_single {k : Core} {i : Nat} {e : Entry} (h : k.entries = [(i, e)]) : k.issueOrder = [i] := by
  simp [Core.issueOrder, h, Core.issueOrder.insOp]

theorem Core.entry_single {k : Core} {i : Nat} {e : Entry} (h : k.entries = [(i, e)]) : k.entry i = e := by
  simp [Core.entry, h, Tab.get_cons]

theorem Tab.set_single {α : Type} [Inhabited α] [DecidableEq α] (i : Nat) (e : α) {e' : α} (h : e' ≠ default) : Tab.set [(i, e)] i e' = [(i, e')] := by
  simp [Tab.set, h, Tab.erase, Tab.ins]

theorem Entry.ne_default_of_code {e : Entry} (h : e.code ≠ .free) : e ≠ default := fun he => h (by rw [he]; rfl)

/-! ### Core control (R94, R95) -/

theorem State.core_abortAllWrite (s : State) (c : CoreId) :
    (s.abortAllWrite c).core c = { (s.abortAll c stAborted).core c with
      abortAll := ((s.abortAll c stAborted).core c).entries.any (fun e => e.2.live && e.2.abortReq) } := by
  simp [State.abortAllWrite]

section AbortAll
variable {c : CoreId} {s : State}

theorem State.abortAll_single {i : Nat} {e : Entry} (h : (s.core c).entries = [(i, e)]) (st : Byte) :
    s.abortAll c st = s.abortEntry c i st := by
  rw [State.abortAll, Core.issueOrder_single h]
  rfl

/-- With an empty table, the write of `abort_all` leaves the field 0. -/
theorem State.abortAllWrite_empty (h : (s.core c).entries = []) : s.abortAllWrite c = s.updCore c (fun k => { k with abortAll := false }) := by
  have hnone : s.abortAll c stAborted = s := by simp [State.abortAll, Core.issueOrder, h]
  rw [State.abortAllWrite, hnone]
  simp [State.updCore, h]

/-- The one entry that runs is told to stop, and the field reads 1 until it has. -/
theorem State.abortAllWrite_running {i : Nat} {e : Entry} (h : (s.core c).entries = [(i, e)]) (hrun : e.code = .running)
    (hreq : e.abortReq = false) (hout : e.outcome = none) :
    OnlyCore c s (s.abortAllWrite c) ∧ (s.abortAllWrite c).core c =
      { s.core c with entries := [(i, { e with abortReq := true, abortStatus := stAborted })], abortAll := true } := by
  have hentry := Core.entry_single h
  have hset : Tab.set [(i, e)] i { e with abortReq := true, abortStatus := stAborted } = [(i, { e with abortReq := true, abortStatus := stAborted })] :=
    Tab.set_single i e (Entry.ne_default_of_code (by simp [hrun]))
  have habort : s.abortAll c stAborted = s.updCore c (fun _ =>
      { s.core c with entries := [(i, { e with abortReq := true, abortStatus := stAborted })] }) := by
    rw [State.abortAll_single h, State.abortEntry_running (by rw [hentry, hrun]) (by rw [hentry, hreq]) (by rw [hentry, hout]), hentry, Core.setEntry,
      h, hset]
  refine ⟨?_, ?_⟩
  · rw [State.abortAllWrite, habort]
    exact (onlyCore_updCore _ _ _).trans (onlyCore_updCore _ _ _)
  · rw [State.core_abortAllWrite, habort]
    simp [Entry.live, hrun]

/-- The one entry that is ADMITTED ends at once, and with it what the field reports. -/
theorem State.abortAllWrite_admitted {i : Nat} {e : Entry} (h : (s.core c).entries = [(i, e)]) (hadm : e.code = .admitted)
    (hsv : e.d.engine ≠ 3) (hwait : (s.core c).wait = .none) :
    (((s.abortAllWrite c).core c).entry i).code = .aborted ∧ (((s.abortAllWrite c).core c).entry i).status = stAborted ∧
      ((s.abortAllWrite c).core c).abortAll = false := by
  have hentry := Core.entry_single h
  let x : Ending := { code := .aborted, status := stAborted, untouched := true }
  let e1 := s.leftEntry e x true
  have hend : s.abortAll c stAborted = s.endEntry c i x := by
    rw [State.abortAll_single h, State.abortEntry, hentry, hadm]
  have hothers : ∀ y ∈ (s.core c).entries, y.1 ≠ i → y.2.code = .admitted → y.2.dep ≠ .on ((s.core c).entry i).op ∧ y.2.dep ≠ .broken := by
    intro y hy hne
    rw [h, List.mem_singleton] at hy
    exact absurd (congrArg Prod.fst hy) hne
  have hentries : ((s.abortAll c stAborted).core c).entries = [(i, e1)] := by
    rw [hend, State.endEntry_entries x true hothers (show EntryCode.aborted ≠ .admitted by decide) (by rw [hentry]; exact hsv) hwait, hentry, h]
    exact Tab.set_single i e (Entry.ne_default_of_code (show EntryCode.aborted ≠ .free by decide))
  have hcore := s.core_abortAllWrite c
  have hafter : ((s.abortAllWrite c).core c).entry i = e1 := Core.entry_single (by rw [hcore]; exact hentries)
  refine ⟨by rw [hafter]; rfl, ?_, ?_⟩
  · rw [hafter]
    exact State.leftEntry_status (.inl (show EntryCode.aborted ≠ .done by decide))
  · rw [hcore, hentries]
    rfl

end AbortAll

/-! ### Self-test (R120, R121) -/

/-- Entering a core for a remap, or retiring it, touches no core. -/
theorem State.cores_retire (s : State) (c : CoreId) : (s.retire c).cores = s.cores := by
  unfold State.retire
  split <;> rfl

theorem State.cores_addRemap (s : State) (c : CoreId) : (s.addRemap c).cores = s.cores := by
  unfold State.addRemap
  dsimp only
  split
  · rfl
  · split
    · exact s.cores_retire c
    · rfl

/-- What node firmware makes of a result touches of the cores `suspect` and `narrow_only` of its own alone. -/
theorem State.core_actSelfTest (s : State) (c : CoreId) (pass : BitVec 6) :
    (∀ d, d ≠ c → (s.actSelfTest c pass).core d = s.core d) ∧
      ∃ n u, (s.actSelfTest c pass).core c = { s.core c with narrowOnly := n, suspect := u } := by
  unfold State.actSelfTest
  dsimp only
  have hsame : ∀ t : State, t.cores = s.cores → (∀ d, d ≠ c → t.core d = s.core d) ∧ ∃ n u, t.core c = { s.core c with narrowOnly := n, suspect := u } :=
    fun t ht => ⟨fun d _ => by simp only [State.core, ht], (s.core c).narrowOnly, (s.core c).suspect, by simp only [State.core, ht]⟩
  split
  · exact ⟨fun d hd => by simp [hd], (s.core c).narrowOnly, false, by simp⟩
  · split
    · exact hsame _ (s.cores_addRemap c)
    · split
      · exact ⟨fun d hd => by simp [hd], true, false, by simp⟩
      · exact hsame _ (s.cores_retire c)

theorem State.actSelfTest_all (s : State) (c : CoreId) : s.actSelfTest c 0x3F = s.updCore c (fun k => { k with suspect := false }) := rfl

theorem State.actSelfTest_narrow {s : State} {c : CoreId} (h : s.freeSpare c = false) :
    s.actSelfTest c 0x27 = s.updCore c (fun k => { k with narrowOnly := true, suspect := false }) := by
  unfold State.actSelfTest
  rw [h]
  rfl

/-- The core as the end of a self-test leaves it, before node firmware acts on the result. -/
def State.selfTested (s : State) (c : CoreId) (pass : BitVec 6) (tiles : BitVec 16) : State :=
  s.updCore c (fun k => { k with selfBusy := false, selfDone := true, selfPass := pass, failTiles := tiles })

theorem State.core_selfTested (s : State) (c : CoreId) (pass : BitVec 6) (tiles : BitVec 16) :
    (s.selfTested c pass tiles).core c = { s.core c with selfBusy := false, selfDone := true, selfPass := pass, failTiles := tiles } := by
  simp [State.selfTested]

theorem exec_selftestDone_busy {c : CoreId} {s : State} (h : (s.core c).selfBusy = true) (pass : BitVec 6) (tiles : BitVec 16) :
    exec (.selftestDone c pass tiles) s = .next ((s.selfTested c pass tiles).actSelfTest c pass) := by
  change execSelftestDone c pass tiles s = _
  simp [execSelftestDone, h, State.selfTested]

/-- MX_SELFTEST holds the bits of a finished self-test, and the core's stores and every other core stand. -/
theorem State.selfTested_actSelfTest (s : State) (c : CoreId) (pass : BitVec 6) (tiles : BitVec 16) :
    let t := (s.selfTested c pass tiles).actSelfTest c pass
    (t.core c).selfBusy = false ∧ (t.core c).selfDone = true ∧ (t.core c).selfPass = pass ∧ (t.core c).failTiles = tiles ∧
      (∀ d, d ≠ c → t.core d = s.core d) ∧ (t.core c).ws = (s.core c).ws ∧ (t.core c).rs = (s.core c).rs := by
  obtain ⟨hother, n, u, hcore⟩ := (s.selfTested c pass tiles).core_actSelfTest c pass
  rw [State.core_selfTested] at hcore
  intro t
  rw [show t.core c = _ from hcore]
  exact ⟨rfl, rfl, rfl, rfl, fun d hd => (hother d hd).trans (by simp [State.selfTested, hd]), rfl, rfl⟩

theorem Core.eq_with_selfBusy {k : Core} (h : k.selfBusy = true) : k = { k with selfBusy := true } := by rw [← h]

end Sys2Proof.Machine
end

section
/-! PROOFS. A solve that EISS refuses although nothing that the statement on EISS names stands against it (R224; log 48). -/

namespace Sys2Proof.Machine

/-! ### A solve whose team cannot be read (R224; log 48) -/

/-- The first solver core of compute die 0. -/
def firstSolver : CoreId := ⟨0, ⟨21504, by decide⟩⟩

/-- A solver core with a legal solve at 0x200 of its working store: opcode 0x10, a team of one member whose team block lies at 0, record, x and
history in the core's own slice. The member, core 0 of the die, is of the same job and has told its solver that its block is there, but bank 1
of its working store, in which most of the block lies, has been powered up and not yet cleared (R204). -/
def unreadTeam : State where
  cores := [
    (0, { jobValid := true, jobId := 1, jobGen := 1, ws := [(0, 1)], bankReady := 0x3D }),
    (21504, {
      cuRunning := true, enable := true, jobValid := true, jobId := 1, jobGen := 1, xregs := [(1, 0x200)]
      ws := [(0x200, 3), (0x201, 0x10), (0x202, 5), (0x210, 1), (0x219, 0x10), (0x21C, 8), (0x21E, 1), (0x231, 0x20), (0x234, 8), (0x236, 1),
        (0x239, 0x30), (0x23C, 8), (0x23E, 1), (0x26C, 1), (0x26E, 1), (0x290, 1), (0x296, 1)] })]
  dies := [(0, { admitting := true, floorRate := 800 })]
  cdies := [(0, { used := [(0, 1)], svUsed := 1 })]

/-- The state of an entry of a core when a command has completed; FREE where it has not. -/
def codeAfter (o : Out) (c : CoreId) (i : Nat) : EntryCode :=
  match o with
  | .next t => ((t.core c).entry i).code
  | _ => .free

/-- EISS has refused the solve: the entry picked is as FREE as it was. -/
theorem codeAfter_eiss_unreadTeam : codeAfter (exec (.eiss firstSolver 3 1 0 []) unreadTeam) firstSolver 0 = .free := by decide +kernel

end Sys2Proof.Machine
end

section
/-! PROOFS. A request of a transfer, from its making to its end (R83, R86): where its bytes lie, what one piece does, and the transfer of one request. -/

namespace Sys2Proof.Machine

/-! ### Where the bytes of a request lie (R83, R84) -/

theorem State.pieces_own (s : State) (c : CoreId) {a : Nat} (h : a / 2 ^ 48 = 2) (n : Nat) :
    s.pieces c 0 a n = [(0, n, .own false (a % 2 ^ 48))] := by
  rw [State.pieces, if_neg (by decide), if_neg (by decide)]
  simp only [h]

theorem unitPieces_of_one_unit {a n : Nat} (h1 : 1 ≤ n) (h : a % 256 + n ≤ 256) : unitPieces a n = [(a, n)] := by
  have hunits : (a + n - 1) / 256 - a / 256 + 1 = 1 := by omega
  have hend : Nat.min (a + n) ((a / 256 + 0 + 1) * 256) = a + n := Nat.min_eq_left (by omega)
  rw [unitPieces, if_neg (by omega), hunits]
  simp only [List.range_one, List.map_cons, List.map_nil, hend, if_true, Nat.add_sub_cancel_left]

theorem State.pieces_gddr (s : State) (c : CoreId) {a n : Nat} (h : a / 2 ^ 48 = 0) (h1 : 1 ≤ n) (hunit : a % 256 + n ≤ 256) :
    s.pieces c 0 a n = [(0, n, .gddr a)] := by
  have ha : a % 2 ^ 48 = a := Nat.mod_eq_of_lt (by omega)
  rw [State.pieces, if_neg (by decide), if_neg (by decide)]
  simp only [h, ha, unitPieces_of_one_unit h1 hunit, List.map_cons, List.map_nil, Nat.sub_self]

/-- The engine runs entry `i` and has made no request of it. -/
def Core.dmaFresh (k : Core) (i : Nat) : Prop := k.dma = { entry := some i, nextReq := k.dma.nextReq }

/-- The first request of a `copy`, of which it is the only one. -/
def onlyReq (id : Nat) (x : DmaBody) : DmaReq :=
  { id := id, src := x.src, srcKind := x.srcKind, dst := x.dst, dstKind := x.dstKind, len := x.length, data := List.replicate x.length 0, last := true }

/-- The engine once it has made that request. -/
def dmaAsked (i : Nat) (r : DmaReq) : Dma := { entry := some i, row := 1, nextReq := r.id + 1, outst := [r] }

/-- A `copy` of one row of at most 64 bytes between NPAs is one request. -/
structure DmaBody.Single (x : DmaBody) : Prop where
  srcKind : x.srcKind = 0
  dstKind : x.dstKind = 0
  count : x.count = 1
  pos : 1 ≤ x.length
  small : x.length ≤ 64
  log : 6 ≤ x.reqLog2

section Single
variable {x : DmaBody} (hx : x.Single)
include hx

theorem DmaBody.Single.reqLen : x.reqLen 0 0 = x.length := by
  have hpow : 2 ^ 6 ≤ 2 ^ x.reqLog2 := Nat.pow_le_pow_right (by decide) hx.log
  have hsmall := hx.small
  simp only [DmaBody.reqLen, hx.srcKind, hx.dstKind, isFabKind, Nat.zero_mod, Nat.sub_zero]
  simp only [show ((0 : Nat) == 1 || (0 : Nat) == 3) = false by decide, Bool.false_eq_true, if_false, Nat.min_def]
  split_ifs <;> omega

theorem DmaBody.Single.nextCopy {d : Dma} {i : Nat} (hd : d = { entry := some i, nextReq := d.nextReq }) :
    d.nextCopy x = some (onlyReq d.nextReq x) := by
  rw [hd]
  simp [Dma.nextCopy, hx.count, hx.reqLen, onlyReq]

theorem DmaBody.Single.pastCopy {d : Dma} {i : Nat} (hd : d = { entry := some i, nextReq := d.nextReq }) :
    d.pastCopy x (onlyReq d.nextReq x) = dmaAsked i (onlyReq d.nextReq x) := by
  rw [hd]
  simp [Dma.pastCopy, onlyReq, dmaAsked, hx.srcKind, hx.dstKind, isFabKind, b2n]

/-- Nothing stands in the way of the request but the credits of the channels that it uses. -/
theorem DmaBody.Single.mayIssue {s : State} {c : CoreId} {i : Nat} (hd : (s.core c).dmaFresh i) (e : Entry)
    (hcred : ∀ ch ∈ s.reqChannels c (onlyReq (s.core c).dma.nextReq x), 0 < e.gddrCred.get ch) :
    s.mayIssue c e (onlyReq (s.core c).dma.nextReq x) = true := by
  have hout : (s.core c).dma.outst = [] := by rw [hd]
  have hpeers : s.reqPeers (onlyReq (s.core c).dma.nextReq x) = [] := by
    simp [State.reqPeers, onlyReq, hx.srcKind, hx.dstKind, isFabKind]
  simpa [State.mayIssue, hout, hpeers] using hcred

end Single

/-! ### One piece, and one request, goes on (R86) -/

theorem State.core_updReq (s : State) (c : CoreId) (id : Nat) (f : DmaReq → DmaReq) :
    (s.updReq c id f).core c = { s.core c with dma := { (s.core c).dma with outst := (s.core c).dma.outst.map (fun r => if r.id = id then f r else r) } } := by
  simp [State.updReq]

/-- The core whose request is over. -/
def Core.reqOver (id : Nat) (st : Byte) (k : Core) : Core := { k with dma := { k.dma with
  outst := k.dma.outst.filter (fun r => r.id != id), answers := k.dma.answers.filter (fun a => a.req != id), fail := if k.dma.fail = 0 then st else k.dma.fail } }

theorem State.core_reqOver (s : State) (c : CoreId) (id : Nat) (st : Byte) : (s.reqOver c id st).core c = (s.core c).reqOver id st := by
  simp [State.reqOver, Core.reqOver]

theorem Core.dmaReq_single {k : Core} {r : DmaReq} {id : Nat} (h : k.dma.outst = [r]) (hid : r.id = id) : k.dmaReq id = some r := by
  simp [Core.dmaReq, h, hid]

/-- A request to GDDR joins the queue of the channel that serves its first byte, and one more piece is awaited. -/
theorem State.pieceGo_gddr_read (s : State) (c : CoreId) (i : Nat) {r : DmaReq} (hphase : r.phase = 0) (o n at0 : Nat) :
    s.pieceGo c i r (at0, n, .gddr o) = (s.updChan (s.steer (o / 256)).1 (fun ch => { ch with queue := ch.queue ++ [
      { asker := .dma c r.id at0, op := .load, addr := o, len := n }] })).updReq c r.id DmaReq.awaits := by
  simp [State.pieceGo, hphase]

section Sound
variable {s : State} {c : CoreId} (herr : (s.core c).wsErr = []) (hparts : (s.core c).parts = [])
include herr hparts

theorem State.pieceGo_own_read (i : Nat) {r : DmaReq} (hphase : r.phase = 0) (o n at0 : Nat) :
    s.pieceGo c i r (at0, n, .own false o) =
      s.updReq c r.id (fun x => x.took at0 0 ((List.range n).map (fun j => (s.core c).ws.read (o + j)))) := by
  simp [State.pieceGo, hphase, State.storeRead_sound herr hparts]

theorem State.pieceGo_own_write (i : Nat) {r : DmaReq} (hphase : r.phase = 1) (o n at0 : Nat) :
    s.pieceGo c i r (at0, n, .own false o) = s.updCore c (·.wsPut o (slice r.data at0 n)) := by
  simp [State.pieceGo, hphase, State.storeWrite_sound herr hparts]

end Sound

section GoOn
variable {s : State} {c : CoreId} {id : Nat} {r : DmaReq} (hr : (s.core c).dmaReq id = some r) (i : Nat)
include hr

theorem State.reqGoOn_waits (h : r.waiting ≠ 0) : s.reqGoOn c i id = s := by
  simp [State.reqGoOn, hr, h]

/-- A request whose last piece has been written, or one of whose pieces has failed, is over. -/
theorem State.reqGoOn_ends (hw : r.waiting = 0) (h : r.status ≠ 0 ∨ r.phase = 1) : s.reqGoOn c i id = s.reqOver c id r.status := by
  simp only [State.reqGoOn, hr]
  rw [if_neg (not_not.2 hw)]
  by_cases hst : r.status = 0
  · rw [if_neg (not_not.2 hst), if_pos (h.resolve_left (not_not.2 hst)), hst]
  · rw [if_pos hst]

end GoOn

/-! ### The end of a transfer -/

theorem State.noteRecords_of_handed {s s0 : State} (h : s.handed = s0.handed) (c : CoreId) (i : Nat) : s.noteRecords s0 c i = s := by
  simp [State.noteRecords, h]

section Settle
variable {s : State} {c : CoreId}

theorem State.dmaSettle_outstanding (h : (s.core c).dma.outst ≠ []) (i : Nat) : s.dmaSettle c i = s := by
  simp [State.dmaSettle, h]

variable {i : Nat} (habort : ((s.core c).entry i).abortReq = false)
include habort

theorem Core.dmaHalting_of_no_abort : (s.core c).dmaHalting i = ((s.core c).dma.fail != 0) := by simp [Core.dmaHalting, habort]

theorem State.dmaSettle_unfinished (hfail : (s.core c).dma.fail = 0) (hrow : (s.core c).dma.row < ((s.core c).entry i).d.dmaRows) :
    s.dmaSettle c i = s := by
  simp [State.dmaSettle, Core.dmaHalting_of_no_abort habort, hfail, hrow]

variable (hout : (s.core c).dma.outst = [])
include hout

/-- The engine is free again. -/
def Core.dmaFree (k : Core) : Core := { k with dma := { nextReq := k.dma.nextReq } }

theorem State.dmaSettle_done (hfail : (s.core c).dma.fail = 0) (hrow : ((s.core c).entry i).d.dmaRows ≤ (s.core c).dma.row) :
    s.dmaSettle c i = (s.updCore c Core.dmaFree).finish c i stDone := by
  simp [State.dmaSettle, Core.dmaHalting_of_no_abort habort, hfail, hrow, hout, habort]
  rfl

/-- A failed transfer leaves its outputs unspecified, unless its requests stand (R210, R328). -/
theorem State.dmaSettle_failed (hfail : (s.core c).dma.fail ≠ 0) :
    ∃ t, (t = s ∨ t = s.dmaScramble c ((s.core c).entry i).d) ∧
      s.dmaSettle c i = (t.updCore c Core.dmaFree).finish c i (s.core c).dma.fail := by
  refine ⟨if (s.core c).dmaHalting i ∧ ¬ ((s.core c).dma.stands ∧ ¬ ((s.core c).entry i).abortReq) then
    s.dmaScramble c ((s.core c).entry i).d else s, ?_, ?_⟩
  · split
    · exact .inr rfl
    · exact .inl rfl
  · have hhalt : (s.core c).dmaHalting i = true := by simpa [Core.dmaHalting_of_no_abort habort] using hfail
    simp only [State.dmaSettle, hout, hhalt, habort, List.isEmpty_nil, Bool.not_true, Bool.true_or, Bool.false_or, Bool.false_eq_true, if_false]
    rfl

end Settle

theorem State.core_finish (s : State) (c : CoreId) (i : Nat) (st : Byte) :
    (s.finish c i st).core c = (s.core c).updEntry i (fun e => { e with outcome := some st }) := by
  simp [State.finish]

/-! ### A transfer of one request (R83) -/

/-- `t` is `s` but that core `c` is `k`. -/
def CoreBecomes (c : CoreId) (k : Core) (s t : State) : Prop := OnlyCore c s t ∧ t.core c = k

theorem CoreBecomes.updCore {c : CoreId} {k : Core} {s t : State} (h : CoreBecomes c k s t) (g : Core → Core) : CoreBecomes c (g k) s (t.updCore c g) := by
  obtain ⟨honly, hcore⟩ := h
  exact ⟨honly.trans (onlyCore_updCore c t g), by simp [hcore]⟩

theorem CoreBecomes.refl (c : CoreId) (s : State) : CoreBecomes c (s.core c) s s := ⟨⟨rfl, fun _ _ => rfl⟩, rfl⟩

/-- A core whose DMA engine has one request outstanding, the only one of its transfer. -/
def Core.asked (k : Core) (i : Nat) (r : DmaReq) : Core := { k with dma := dmaAsked i r }

theorem CoreBecomes.updReq {c : CoreId} {k : Core} {i : Nat} {r : DmaReq} {s t : State} (h : CoreBecomes c (k.asked i r) s t) {f : DmaReq → DmaReq}
    (hf : (f r).id = r.id) : CoreBecomes c (k.asked i (f r)) s (t.updReq c r.id f) := by
  have := h.updCore (fun k => { k with dma := { k.dma with outst := k.dma.outst.map (fun x => if x.id = r.id then f x else x) } })
  simpa [Core.asked, dmaAsked, hf, State.updReq] using this

theorem slice_all (l : List Byte) : slice l 0 l.length = l := by simp [slice]

theorem splice_all {l bs : List Byte} (h : bs.length = l.length) : splice l 0 bs = bs := by simp [splice, h]

theorem State.noteWrites_of_not_cast {s : State} (h : s.twin.mode = 0) (c : CoreId) (i : Nat) (ws : List (Nat × List Byte)) :
    s.noteWrites c i ws = s := by
  simp [State.noteWrites, State.castMode, h]

/-- The request that goes on to its destination. -/
def DmaReq.writing (r : DmaReq) : DmaReq := { r with phase := 1 }

/-- The writing of what a request has read. -/
def State.reqWrites (s : State) (c : CoreId) (i : Nat) (r : DmaReq) : State :=
  (s.pieces c r.dstKind r.dst r.data.length).foldl (fun s p => s.pieceGo c i r.writing p) (s.updReq c r.id DmaReq.writing)

theorem State.pieces_updReq (s : State) (c d : CoreId) (id : Nat) (f : DmaReq → DmaReq) (kind a n : Nat) :
    (s.updReq d id f).pieces c kind a n = s.pieces c kind a n := rfl

theorem State.reqGoOn_writes {s : State} {c : CoreId} {i : Nat} {r q : DmaReq} (hr : (s.core c).dmaReq r.id = some r) (hmode : s.twin.mode = 0)
    (hhalt : (s.core c).dmaHalting i = false) (hw : r.waiting = 0) (hst : r.status = 0) (hphase : r.phase = 0) (hitem : r.item = none)
    (hq : ((s.reqWrites c i r).core c).dmaReq r.id = some q) (hqw : q.waiting = 0) :
    s.reqGoOn c i r.id = (s.reqWrites c i r).reqOver c r.id q.status := by
  have hstay : (s.updReq c r.id (fun x => { x with phase := 1 })).twin.mode = 0 := hmode
  unfold State.reqWrites DmaReq.writing at hq ⊢
  simp only [State.reqGoOn, hr]
  rw [if_neg (not_not.2 hw), if_neg (not_not.2 hst), if_neg (by simp [hphase]), if_neg (by simp [hhalt]), if_neg (by simp [hitem]),
    State.noteWrites_of_not_cast hstay, State.pieces_updReq]
  simp only [hq]
  rw [if_pos hqw]

/-- A request that has read its bytes writes them in the core's own store and is over. -/
theorem CoreBecomes.reqGoOn_own {c : CoreId} {k : Core} {i : Nat} {r : DmaReq} {s t : State} (h : CoreBecomes c (k.asked i r) s t)
    (hmode : s.twin.mode = 0) (habort : (k.entry i).abortReq = false) (herr : k.wsErr = []) (hparts : k.parts = [])
    (hw : r.waiting = 0) (hst : r.status = 0) (hphase : r.phase = 0) (hitem : r.item = none) (hkind : r.dstKind = 0) (hdst : r.dst / 2 ^ 48 = 2) :
    CoreBecomes c { k with ws := k.ws.writeN (r.dst % 2 ^ 48) r.data, dma := { entry := some i, row := 1, nextReq := r.id + 1 } } s
      (t.reqGoOn c i r.id) := by
  have hread := h.updReq (f := DmaReq.writing) rfl
  have hwritten := hread.updCore (·.wsPut (r.dst % 2 ^ 48) r.data)
  have hwrites : t.reqWrites c i r = (t.updReq c r.id DmaReq.writing).updCore c (·.wsPut (r.dst % 2 ^ 48) r.data) := by
    rw [State.reqWrites, hkind, State.pieces_own t c hdst, List.foldl_cons, List.foldl_nil,
      State.pieceGo_own_write (by rw [hread.2]; exact herr) (by rw [hread.2]; exact hparts) i rfl]
    exact congrArg (fun bs => (t.updReq c r.id DmaReq.writing).updCore c (·.wsPut (r.dst % 2 ^ 48) bs)) (slice_all r.data)
  have hhalt : (t.core c).dmaHalting i = false := by
    rw [h.2]
    exact (Bool.or_false _).trans habort
  have htwin : t.twin.mode = 0 := by rw [h.1.1]; exact hmode
  rw [State.reqGoOn_writes (q := r.writing) (Core.dmaReq_single (by rw [h.2]; rfl) rfl) htwin hhalt hw hst hphase hitem
    (Core.dmaReq_single (by rw [hwrites, hwritten.2]; rfl) rfl) hw, hwrites]
  have hover : Core.reqOver r.id r.status ((k.asked i r.writing).wsPut (r.dst % 2 ^ 48) r.data) =
      { k with ws := k.ws.writeN (r.dst % 2 ^ 48) r.data, dma := { entry := some i, row := 1, nextReq := r.id + 1 } } := by
    simp [Core.reqOver, Core.wsPut, Core.asked, dmaAsked, DmaReq.writing, hst]
  exact hover ▸ hwritten.updCore (Core.reqOver r.id r.status)

section Copy
variable {s : State} {c : CoreId} {i : Nat} {e : Entry} (hx : e.d.dma.Single) (hd : (s.core c).dmaFresh i)
include hx hd

/-- A transfer of one request makes it where the credits of its channels allow. -/
theorem State.copyIssue_single (hcred : ∀ ch ∈ s.reqChannels c (onlyReq (s.core c).dma.nextReq e.d.dma), 0 < e.gddrCred.get ch) :
    s.copyIssue c i e = ((s.pieces c 0 e.d.dma.src e.d.dma.length).foldl
      (fun t p => t.pieceGo c i (onlyReq (s.core c).dma.nextReq e.d.dma) p) (s.updCore c (·.asked i (onlyReq (s.core c).dma.nextReq e.d.dma)))).reqGoOn
        c i (s.core c).dma.nextReq := by
  have hmay := hx.mayIssue hd e hcred
  simp only [State.copyIssue, hx.nextCopy hd, hmay, hx.pastCopy hd, Bool.not_true, Bool.false_eq_true, if_false]
  rw [← hx.srcKind]
  rfl

end Copy

/-! ### Within the own working store, and from GDDR -/

section To
variable {s : State} {c : CoreId} {x : DmaBody} (hx : x.Single) (hdst : x.dst / 2 ^ 48 = 2)
include hx hdst

theorem State.reqChannels_own_to_own (hsrc : x.src / 2 ^ 48 = 2) (id : Nat) : s.reqChannels c (onlyReq id x) = [] := by
  simp only [State.reqChannels, onlyReq, hx.srcKind, hx.dstKind, s.pieces_own c hsrc, s.pieces_own c hdst, List.flatMap_cons, List.flatMap_nil]
  rfl

theorem State.reqChannels_gddr_to_own (hsrc : x.src / 2 ^ 48 = 0) (hunit : x.src % 256 + x.length ≤ 256) (id : Nat) :
    s.reqChannels c (onlyReq id x) = [(s.steer (x.src / 256)).1] := by
  simp only [State.reqChannels, onlyReq, hx.srcKind, hx.dstKind, s.pieces_gddr c hsrc hx.pos hunit, s.pieces_own c hdst, List.flatMap_cons, List.flatMap_nil]
  rfl

end To

section Issue
variable {s : State} {c : CoreId} {i : Nat} {e : Entry} (hx : e.d.dma.Single) (hd : (s.core c).dmaFresh i) (hdst : e.d.dma.dst / 2 ^ 48 = 2)
include hx hd hdst

/-- A transfer of one request within the core's working store is done at once. -/
theorem State.copyIssue_own_to_own (hsrc : e.d.dma.src / 2 ^ 48 = 2) (hmode : s.twin.mode = 0) (habort : ((s.core c).entry i).abortReq = false)
    (herr : (s.core c).wsErr = []) (hparts : (s.core c).parts = []) :
    CoreBecomes c { s.core c with
      ws := (s.core c).ws.writeN (e.d.dma.dst % 2 ^ 48) ((List.range e.d.dma.length).map (fun j => (s.core c).ws.read (e.d.dma.src % 2 ^ 48 + j)))
      dma := { entry := some i, row := 1, nextReq := (s.core c).dma.nextReq + 1 } } s (s.copyIssue c i e) := by
  have hasked := (CoreBecomes.refl c s).updCore (·.asked i (onlyReq (s.core c).dma.nextReq e.d.dma))
  have hread := hasked.updReq (f := fun x => x.took 0 0 ((List.range e.d.dma.length).map (fun j => (s.core c).ws.read (e.d.dma.src % 2 ^ 48 + j)))) rfl
  have hpiece : ((s.updCore c (·.asked i (onlyReq (s.core c).dma.nextReq e.d.dma))).core c).ws = (s.core c).ws := by rw [hasked.2]; rfl
  have hbytes : ((onlyReq (s.core c).dma.nextReq e.d.dma).took 0 0
      ((List.range e.d.dma.length).map (fun j => (s.core c).ws.read (e.d.dma.src % 2 ^ 48 + j)))).data =
      (List.range e.d.dma.length).map (fun j => (s.core c).ws.read (e.d.dma.src % 2 ^ 48 + j)) := by
    simp only [DmaReq.took, onlyReq, and_self, if_true]
    exact splice_all (by simp)
  rw [State.copyIssue_single hx hd (by simp [State.reqChannels_own_to_own hx hdst hsrc]), s.pieces_own c hsrc, List.foldl_cons, List.foldl_nil,
    State.pieceGo_own_read (by rw [hasked.2]; exact herr) (by rw [hasked.2]; exact hparts) i rfl, hpiece]
  have := hread.reqGoOn_own hmode habort herr hparts rfl rfl rfl rfl hx.dstKind hdst
  rw [hbytes] at this
  exact this

/-- A request to GDDR joins its channel's queue, and its transfer waits for it. -/
theorem State.copyIssue_from_gddr (hsrc : e.d.dma.src / 2 ^ 48 = 0) (hunit : e.d.dma.src % 256 + e.d.dma.length ≤ 256)
    (hcred : 0 < e.gddrCred.get (s.steer (e.d.dma.src / 256)).1) :
    s.copyIssue c i e = ((s.updCore c (·.asked i (onlyReq (s.core c).dma.nextReq e.d.dma))).updChan (s.steer (e.d.dma.src / 256)).1
      (fun ch => { ch with queue := ch.queue ++ [
        { asker := .dma c (s.core c).dma.nextReq 0, op := .load, addr := e.d.dma.src, len := e.d.dma.length }] })).updReq
          c (s.core c).dma.nextReq DmaReq.awaits := by
  rw [State.copyIssue_single hx hd (by simpa [State.reqChannels_gddr_to_own hx hdst hsrc hunit] using hcred), s.pieces_gddr c hsrc hx.pos hunit,
    List.foldl_cons, List.foldl_nil, State.pieceGo_gddr_read _ _ _ rfl]
  exact State.reqGoOn_waits (r := (onlyReq (s.core c).dma.nextReq e.d.dma).awaits)
    (Core.dmaReq_single (by simp [State.core_updReq, Core.asked, dmaAsked, onlyReq]) rfl) i (by simp [DmaReq.awaits])

theorem State.core_copyIssue_from_gddr (hsrc : e.d.dma.src / 2 ^ 48 = 0) (hunit : e.d.dma.src % 256 + e.d.dma.length ≤ 256)
    (hcred : 0 < e.gddrCred.get (s.steer (e.d.dma.src / 256)).1) :
    (s.copyIssue c i e).core c = (s.core c).asked i (onlyReq (s.core c).dma.nextReq e.d.dma).awaits := by
  rw [State.copyIssue_from_gddr hx hd hdst hsrc hunit hcred, State.core_updReq]
  simp [Core.asked, dmaAsked, onlyReq, DmaReq.awaits]

end Issue

end Sys2Proof.Machine
end

section
/-! PROOFS. The answer to a request, and what DMA_REQUEST_ANSWER and DMA_REQUEST_ISSUE do (R81, R88, R210, R322, R332). -/

namespace Sys2Proof.Machine

/-! ### What the making of unspecified outputs, and the end of a transfer, leave of the fabrics -/

theorem State.fabrics_breakRes (s : State) (a n : Nat) : (s.breakRes a n).fabrics = s.fabrics := by
  unfold State.breakRes
  split <;> rfl

theorem State.fabrics_sramJudge (s : State) (words : List Nat) (w : Who) : (s.sramJudge words w).1.fabrics = s.fabrics := by
  unfold State.sramJudge
  refine foldl_keeps (fun acc : State × List Nat => acc.1.fabrics) (fun acc i => ?_) words (s, [])
  split <;> rfl

theorem State.fabrics_sramPut (s : State) (off : Nat) (bs : List Byte) (w : Who) : (s.sramPut off bs w).1.fabrics = s.fabrics :=
  (State.fabrics_breakRes _ _ _).trans (s.fabrics_sramJudge _ w)

theorem State.fabrics_scrambleAt (s : State) (c : CoreId) (npa n : Nat) : (s.scrambleAt c npa n).fabrics = s.fabrics := by
  unfold State.scrambleAt
  dsimp only
  split
  · exact foldl_keeps State.fabrics (fun _ _ => State.updChan_fabrics _ _ _) _ s
  · split <;> rfl
  · rfl
  · split
    · exact s.fabrics_sramPut _ _ _
    · rfl
  · rfl

theorem State.fabrics_dmaScramble (s : State) (c : CoreId) (d : Desc) : (s.dmaScramble c d).fabrics = s.fabrics := by
  unfold State.dmaScramble
  dsimp only
  split
  · split
    · rfl
    · exact foldl_keeps State.fabrics (fun s (g : Nat × Nat) => s.fabrics_scrambleAt c g.1 g.2) _ s
  · refine foldl_keeps State.fabrics (fun s i => ?_) _ s
    split
    · exact s.fabrics_scrambleAt c _ _
    · split
      · split
        · exact s.fabrics_scrambleAt _ _ _
        · rfl
      · rfl

theorem State.fabrics_dmaSettle (s : State) (c : CoreId) (i : Nat) : (s.dmaSettle c i).fabrics = s.fabrics := by
  unfold State.dmaSettle
  dsimp only
  split
  · rfl
  · simp only [State.finish, State.updCore_fabrics]
    split
    · exact s.fabrics_dmaScramble c _
    · rfl

/-- No request to the package itself waits for a tag. -/
def State.NoSelfWaits (s : State) : Prop := ∀ pl : Plane, ∀ x ∈ (s.fab pl.val).waiting, x.self = false

theorem takeFirst_none {α : Type} {p : α → Bool} {l : List α} (h : ∀ x ∈ l, p x = false) : takeFirst p l = none := by
  induction l with
  | nil => rfl
  | cons a l ih => simp [takeFirst, h a (by simp), ih (fun x hx => h x (by simp [hx]))]

theorem State.flushSelf_of_none {s : State} (h : s.NoSelfWaits) : s.flushSelf = s := by
  unfold State.flushSelf
  refine List.foldl_fixed' (fun pl => ?_) _
  rw [takeFirst_none (h pl)]
  exact ite_self s

/-! ### The answer to a request is taken (R322, R332) -/

/-- An entry but for the flags of its record. -/
def Entry.unflagged (e : Entry) : Entry := { e with recFlags := 0 }

/-- The DMA engine once the answer to a request has ended it. -/
def Dma.answered (d : Dma) (more : List DmaReq) (st : Byte) : Dma := { d with outst := more, answers := [], fail := st }

/-- Neither the DMA engine's state nor the entry that it runs differs, but for the flags of the entry's record; nor do the fabrics. -/
structure State.Noted (c : CoreId) (i : Nat) (s t : State) : Prop where
  dma : (t.core c).dma = (s.core c).dma
  entry : ((t.core c).entry i).unflagged = ((s.core c).entry i).unflagged
  fabrics : t.fabrics = s.fabrics

theorem State.noted_markLogged (s : State) (c : CoreId) (i : Nat) : s.Noted c i (s.markLogged c i) where
  dma := by simp [State.markLogged, Core.updEntry, Core.setEntry]
  entry := by simp [State.markLogged, Core.updEntry, Entry.unflagged]
  fabrics := rfl

theorem State.noted_accessRec (s : State) (c : CoreId) (i : Nat) (kind : Byte) (addr : Nat) : s.Noted c i (s.accessRec c i kind addr) := by
  unfold State.accessRec
  obtain ⟨hdma, hentry, hfabrics⟩ := State.noted_markLogged (s.hand _) c i
  exact ⟨hdma, hentry, hfabrics⟩

/-- An answer's failure is recorded, or noted in the record of its operation (R81, R88). -/
def State.answerNoted (s : State) (c : CoreId) (i : Nat) (r : DmaReq) (a : DmaAns) : State :=
  let at0 := failPlace (if r.phase = 1 then r.dstKind else r.srcKind) (if r.phase = 1 then r.dst else r.src)
  if a.status = stWindowFault then s.accessRec c i at0.2 at0.1
  else if a.logged || a.status == stMemUnc || a.status == stTargetLost then s.markLogged c i else s

theorem State.noted_answerNoted (s : State) (c : CoreId) (i : Nat) (r : DmaReq) (a : DmaAns) : s.Noted c i (s.answerNoted c i r a) := by
  unfold State.answerNoted
  dsimp only
  split
  · exact s.noted_accessRec c i _ _
  · split
    · exact s.noted_markLogged c i
    · exact ⟨rfl, rfl, rfl⟩

theorem State.onlyCore_answerNoted {s : State} {c : CoreId} {a : DmaAns} (h : a.status = stDone) (i : Nat) (r : DmaReq) :
    OnlyCore c s (s.answerNoted c i r a) := by
  unfold State.answerNoted
  rw [if_neg (by rw [h]; decide)]
  split
  · exact onlyCore_updCore c s _
  · exact ⟨rfl, fun _ _ => rfl⟩

/-- The states of a core before and after the answer that ends its DMA engine's request `r`. -/
structure State.Answered (c : CoreId) (i : Nat) (more : List DmaReq) (st : Byte) (s t : State) : Prop where
  dma : (t.core c).dma = (s.core c).dma.answered more st
  entry : ((t.core c).entry i).unflagged = ((s.core c).entry i).unflagged
  fabrics : t.fabrics = s.fabrics

/-- A request whose piece an answer brings. -/
def DmaReq.answeredBy (a : DmaAns) (r : DmaReq) : DmaReq := { r.took a.part a.status a.data with waiting := r.waiting - 1 }

@[simp] theorem DmaReq.answeredBy_id (a : DmaAns) (r : DmaReq) : (r.answeredBy a).id = r.id := rfl

/-- The engine has no answer more. -/
def Core.noAnswers (k : Core) : Core := { k with dma := { k.dma with answers := [] } }

/-- The engine's only answer is taken. -/
def State.answerTaken (s : State) (c : CoreId) (i : Nat) (r : DmaReq) (a : DmaAns) : State :=
  ((s.updCore c Core.noAnswers).answerNoted c i r a).updReq c r.id (DmaReq.answeredBy a)

section Answer
variable {s : State} {c : CoreId} {i : Nat} {r : DmaReq} {a : DmaAns} {more : List DmaReq}

theorem exec_dmaRequestAnswer (hentry : (s.core c).dma.entry = some i) (hbusy : ((s.core c).entry i).busy = true)
    (hout : (s.core c).dma.outst = r :: more) (hwait : r.waiting = 1) (hans : (s.core c).dma.answers = [a]) (hreq : a.req = r.id) :
    exec (.dmaRequestAnswer c r.id []) s = .next (((((s.answerTaken c i r a).reqGoOn c i r.id).noteRecords (s.answerTaken c i r a) c i).dmaSettle
      c i).flushSelf) := by
  have htake : takeFirst (fun a : DmaAns => a.req == r.id) [a] = some (a, []) := by simp [takeFirst, hreq]
  have hfind : (s.core c).dmaReq r.id = some r := by simp [Core.dmaReq, hout]
  show execDmaRequestAnswer c r.id [] s = _
  simp only [execDmaRequestAnswer, hentry, hans, htake, hfind]
  rw [if_neg (by simp [hbusy, hwait])]
  rfl

/-- The one answer of a request that was awaited ends it where it has failed or was of a write. -/
theorem State.reqGoOn_answerTaken (hout : (s.core c).dma.outst = r :: more) (hwait : r.waiting = 1) (hst : r.status = 0)
    (hends : a.status ≠ 0 ∨ r.phase = 1) (i : Nat) :
    (s.answerTaken c i r a).reqGoOn c i r.id = (s.answerTaken c i r a).reqOver c r.id a.status := by
  have hstatus : (r.answeredBy a).status = a.status := by simp [DmaReq.answeredBy, DmaReq.took, hst]
  have hfind : ((s.answerTaken c i r a).core c).dmaReq r.id = some (r.answeredBy a) := by
    have hnoted := (s.updCore c Core.noAnswers).noted_answerNoted c i r a
    simp [Core.dmaReq, State.answerTaken, State.core_updReq, hnoted.dma, Core.noAnswers, hout]
  rw [State.reqGoOn_ends hfind i (by simp [DmaReq.answeredBy, hwait]) (by rw [hstatus]; exact hends), hstatus]

theorem State.answered_answerTaken (hout : (s.core c).dma.outst = r :: more) (hmore : ∀ q ∈ more, q.id ≠ r.id) (hfail : (s.core c).dma.fail = 0)
    (i : Nat) (st : Byte) : s.Answered c i more st ((s.answerTaken c i r a).reqOver c r.id st) := by
  obtain ⟨hdma, hentry, hfabrics⟩ := (s.updCore c Core.noAnswers).noted_answerNoted c i r a
  have hkept : ∀ q ∈ more, (if q.id = r.id then q.answeredBy a else q) = q := fun q hq => if_neg (hmore q hq)
  have hfilter : more.filter (fun q => q.id != r.id) = more := List.filter_eq_self.2 (fun q hq => by simp [hmore q hq])
  constructor
  · simp [State.core_reqOver, State.answerTaken, State.core_updReq, hdma, Core.reqOver, Core.noAnswers, hout, Dma.answered,
      List.map_congr_left hkept, hfilter, hfail]
  · rw [State.core_reqOver, State.answerTaken, State.core_updReq]
    exact hentry.trans (by rw [State.core_updCore, if_pos rfl]; rfl)
  · exact hfabrics

theorem State.onlyCore_answerTaken (h : a.status = stDone) (i : Nat) (st : Byte) : OnlyCore c s ((s.answerTaken c i r a).reqOver c r.id st) :=
  (((onlyCore_updCore c s _).trans (State.onlyCore_answerNoted h i r)).trans (onlyCore_updCore c _ _)).trans (onlyCore_updCore c _ _)

end Answer

theorem State.NoSelfWaits.of_fabrics {s t : State} (h : s.NoSelfWaits) (hf : t.fabrics = s.fabrics) : t.NoSelfWaits := by
  intro pl x hx
  rw [State.fab, hf] at hx
  exact h pl x hx

theorem exec_dmaRequestAnswer_ends {s : State} {c : CoreId} {i : Nat} {r : DmaReq} {a : DmaAns} {more : List DmaReq}
    (hentry : (s.core c).dma.entry = some i) (hbusy : ((s.core c).entry i).busy = true) (hout : (s.core c).dma.outst = r :: more)
    (hmore : ∀ q ∈ more, q.id ≠ r.id) (hwait : r.waiting = 1) (hst : r.status = 0) (hans : (s.core c).dma.answers = [a]) (hreq : a.req = r.id)
    (hfail : (s.core c).dma.fail = 0) (hself : s.NoSelfWaits) (hends : a.status ≠ 0 ∨ r.phase = 1) :
    ∃ t, exec (.dmaRequestAnswer c r.id []) s = .next (t.dmaSettle c i) ∧ s.Answered c i more a.status t ∧ (a.status = stDone → OnlyCore c s t) := by
  have hanswered := State.answered_answerTaken (a := a) hout hmore hfail i a.status
  have hflush : (((s.answerTaken c i r a).reqOver c r.id a.status).dmaSettle c i).flushSelf =
      ((s.answerTaken c i r a).reqOver c r.id a.status).dmaSettle c i :=
    State.flushSelf_of_none (hself.of_fabrics ((State.fabrics_dmaSettle _ c i).trans hanswered.fabrics))
  have hnote : ((s.answerTaken c i r a).reqOver c r.id a.status).noteRecords (s.answerTaken c i r a) c i =
      (s.answerTaken c i r a).reqOver c r.id a.status := State.noteRecords_of_handed rfl c i
  refine ⟨(s.answerTaken c i r a).reqOver c r.id a.status, ?_, hanswered, fun h => State.onlyCore_answerTaken h i _⟩
  rw [exec_dmaRequestAnswer hentry hbusy hout hwait hans hreq, State.reqGoOn_answerTaken hout hwait hst hends i, hnote, hflush]

section Answered
variable {s t : State} {c : CoreId} {i : Nat} {more : List DmaReq} {st : Byte} (h : s.Answered c i more st t)
include h

theorem State.Answered.abortReq : ((t.core c).entry i).abortReq = ((s.core c).entry i).abortReq := (congrArg Entry.abortReq h.entry :)
theorem State.Answered.desc : ((t.core c).entry i).d = ((s.core c).entry i).d := (congrArg Entry.d h.entry :)
theorem State.Answered.outcome : ((t.core c).entry i).outcome = ((s.core c).entry i).outcome := (congrArg Entry.outcome h.entry :)
theorem State.Answered.outst : (t.core c).dma.outst = more := by rw [h.dma]; rfl
theorem State.Answered.fail : (t.core c).dma.fail = st := by rw [h.dma]; rfl
theorem State.Answered.row : (t.core c).dma.row = (s.core c).dma.row := by rw [h.dma]; rfl

end Answered

theorem Entry.outcome_of_busy {e : Entry} (h : e.busy = true) : e.outcome = none := by
  simp [Entry.busy] at h
  exact h.2

theorem State.outcome_finish (s : State) (c : CoreId) (i : Nat) (st : Byte) : (((s.finish c i st).core c).entry i).outcome = some st := by
  simp [State.core_finish, Core.updEntry]

theorem State.dma_finish_free (s : State) (c : CoreId) (i : Nat) (st : Byte) :
    (((s.updCore c Core.dmaFree).finish c i st).core c).dma = { nextReq := (s.core c).dma.nextReq } := by
  rw [State.core_finish, State.core_updCore, if_pos rfl]
  rfl

/-! ### DMA_REQUEST_ISSUE -/

theorem exec_dmaRequestIssue_copy {s : State} {c : CoreId} {i : Nat} (hentry : (s.core c).dma.entry = some i)
    (hbusy : ((s.core c).entry i).busy = true) (hmode : s.twin.mode = 0) (habort : ((s.core c).entry i).abortReq = false)
    (hfail : (s.core c).dma.fail = 0) (hop : ((s.core c).entry i).d.opcode = 1) :
    exec (.dmaRequestIssue c []) s = .next (((s.copyIssue c i ((s.core c).entry i)).noteRecords s c i).dmaSettle c i) := by
  have hcast : s.castWaits ((s.core c).entry i) = false := by simp [State.castWaits, State.castShadow, State.castMode, hmode]
  have hhalt : (s.core c).dmaHalting i = false := by simp [Core.dmaHalting, habort, hfail]
  show execDmaRequestIssue c [] s = _
  simp only [execDmaRequestIssue, hentry, State.upset_nil, hhalt, hop]
  simp [hbusy, hcast]

/-- With a failure met, and requests outstanding, nothing is done (R210). -/
theorem exec_dmaRequestIssue_failed {s : State} {c : CoreId} {i : Nat} (hentry : (s.core c).dma.entry = some i) (hfail : (s.core c).dma.fail ≠ 0)
    (hout : (s.core c).dma.outst ≠ []) : exec (.dmaRequestIssue c []) s = .next s := by
  have hhalt : (s.core c).dmaHalting i = true := by simpa [Core.dmaHalting] using Or.inr hfail
  show execDmaRequestIssue c [] s = _
  simp only [execDmaRequestIssue, hentry, State.upset_nil, hhalt, if_true, State.noteRecords_of_handed, State.dmaSettle_outstanding hout, ite_self]

section Transfer
variable {s : State} {c : CoreId} {i : Nat} (hd : (s.core c).dmaFresh i) (hbusy : ((s.core c).entry i).busy = true)
  (habort : ((s.core c).entry i).abortReq = false) (hmode : s.twin.mode = 0) (hop : ((s.core c).entry i).d.opcode = 1)
  (hx : ((s.core c).entry i).d.dma.Single) (hdst : ((s.core c).entry i).d.dma.dst / 2 ^ 48 = 2)
include hd hbusy habort hmode hop hx hdst

/-- A transfer of one request within the core's working store has moved its bytes and finished. -/
theorem exec_dmaRequestIssue_own_to_own (hsrc : ((s.core c).entry i).d.dma.src / 2 ^ 48 = 2) (herr : (s.core c).wsErr = [])
    (hparts : (s.core c).parts = []) :
    ∃ t, exec (.dmaRequestIssue c []) s = .next t ∧ OnlyCore c s t ∧
      (t.core c).ws = (s.core c).ws.writeN (((s.core c).entry i).d.dma.dst % 2 ^ 48)
        ((List.range ((s.core c).entry i).d.dma.length).map (fun j => (s.core c).ws.read (((s.core c).entry i).d.dma.src % 2 ^ 48 + j))) ∧
      (t.core c).rs = (s.core c).rs ∧ ((t.core c).entry i).outcome = some stDone := by
  obtain ⟨honly, hcore⟩ := State.copyIssue_own_to_own hx hd hdst hsrc hmode habort herr hparts
  have hhanded : (s.copyIssue c i ((s.core c).entry i)).handed = s.handed := by rw [honly.1]
  have hrows : ((s.core c).entry i).d.dmaRows = 1 := by
    rw [Desc.dmaRows, if_neg (by rw [hop]; decide), hx.count]
  have hsettle : (s.copyIssue c i ((s.core c).entry i)).dmaSettle c i = ((s.copyIssue c i ((s.core c).entry i)).updCore c Core.dmaFree).finish c i stDone :=
    State.dmaSettle_done (by rw [hcore]; exact habort) (by rw [hcore]) (by rw [hcore]) (by rw [hcore]; exact hrows.le)
  refine ⟨((s.copyIssue c i ((s.core c).entry i)).updCore c Core.dmaFree).finish c i stDone, ?_,
    (honly.trans (onlyCore_updCore c _ _)).trans (onlyCore_updCore c _ _), ?_, ?_, State.outcome_finish _ c i stDone⟩
  · rw [exec_dmaRequestIssue_copy (by rw [hd]) hbusy hmode habort (by rw [hd]) hop, State.noteRecords_of_handed hhanded, hsettle]
  all_goals
    rw [State.core_finish, State.core_updCore, if_pos rfl, hcore]
    rfl

/-- A transfer of one request that reads GDDR waits for the channel that serves it. -/
theorem exec_dmaRequestIssue_from_gddr (hsrc : ((s.core c).entry i).d.dma.src / 2 ^ 48 = 0)
    (hunit : ((s.core c).entry i).d.dma.src % 256 + ((s.core c).entry i).d.dma.length ≤ 256)
    (hcred : 0 < ((s.core c).entry i).gddrCred.get (s.steer (((s.core c).entry i).d.dma.src / 256)).1) :
    exec (.dmaRequestIssue c []) s = .next (s.copyIssue c i ((s.core c).entry i)) := by
  have hissue := State.copyIssue_from_gddr hx hd hdst hsrc hunit hcred
  rw [exec_dmaRequestIssue_copy (by rw [hd]) hbusy hmode habort (by rw [hd]) hop, State.noteRecords_of_handed (by rw [hissue]; rfl),
    State.dmaSettle_outstanding]
  rw [State.core_copyIssue_from_gddr hx hd hdst hsrc hunit hcred]
  exact List.cons_ne_nil _ _

end Transfer

end Sys2Proof.Machine
end

section
/-! PROOFS. The statements about the control unit, the operation table, the DMA engine and core control, from the lemmas above. -/

namespace Sys2Proof.Machine

/-- Refutes O4: EISS also refuses a solve of which a member's team block cannot be read, since a bank of the member is not ready: with an entry
FREE, the die admitting, every credit available, and no check of the descriptor or its extents failing. -/
theorem not_eissAdmitsOrRefuses : ¬ Obligations.EissAdmitsOrRefuses := by
  unfold Obligations.EissAdmitsOrRefuses
  rintro ⟨hadmits, -⟩
  obtain ⟨t, hexec, hcode, -⟩ := hadmits firstSolver 3 1 0 [] unreadTeam 0
    (by decide +kernel) (by decide +kernel) (by decide +kernel) (by decide +kernel) (by decide +kernel) (by decide +kernel)
    (by decide +kernel) (by decide +kernel) (by decide +kernel) (by decide +kernel) (by decide +kernel) (by decide +kernel)
    (by decide +kernel) (by decide +kernel) (by decide +kernel) (by decide +kernel)
  have hfree := codeAfter_eiss_unreadTeam
  rw [hexec] at hfree
  exact absurd (hfree.symm.trans hcode) (by decide)

/-- Settles O6, from what an instruction that only retires leaves, and from the fields of a word of custom-0. -/
theorem etestEsumAndWfi : Obligations.EtestEsumAndWfi := by
  unfold Obligations.EtestEsumAndWfi
  refine ⟨fun c rd rs1 s hcu => ⟨?etest, ?esum⟩, ?wfi, ?words⟩
  case etest =>
    obtain ⟨honly, hcore, hother, hrd⟩ := State.retire_frame hcu rd (s.core c).oldestWord
    refine ⟨_, exec_etest_ready hcu rd, honly, hcore, hother, fun hempty => ?_, fun i l horder => ?_⟩
    · rw [hrd, Core.oldestWord, hempty]
    · rw [hrd, Core.oldestWord, horder]
  case esum => exact ⟨_, exec_esum_ready hcu rd rs1, State.retire_frame hcu rd _⟩
  case wfi => exact fun c s hcu => ⟨_, exec_wfi_ready hcu, onlyCore_updCore _ _ _, by simp⟩
  case words =>
    intro c pick rd rs1 rs2 s
    have hrun := fun (f : Nat) (y : Instr) => s.cuRun_customWord c pick rd rs1 rs2 (f := f) (y := y)
    refine ⟨hrun 0 _ (by decide) rfl, hrun 1 _ (by decide) rfl, hrun 2 _ (by decide) rfl, hrun 3 _ (by decide) rfl,
      hrun 4 _ (by decide) rfl, fun y => ⟨?_, fun hnone hcu => ?_⟩⟩
    · have hy := y.isLt
      rw [cuWord_eq_none_iff, wordField_toNat, wordField_toNat, Nat.mod_eq_of_lt (by omega : y.toNat / 2 ^ 25 < 2 ^ 7)]
      rfl
    · obtain ⟨hcause, hpc, htrap, -, hentries⟩ := s.cuIllegal_spec c
      exact ⟨_, State.cuRun_of_cuWord_none hnone hcu, hcause, hpc, htrap, hentries⟩

/-- Settles O7, from what an engine's start leaves, and from the table when an operation ends on which none waits. -/
theorem operationsStartInOrderAndEnd : Obligations.OperationsStartInOrderAndEnd := by
  unfold Obligations.OperationsStartInOrderAndEnd
  refine ⟨?start, ?finish, fun c i s => exec_opEnd_unfinished⟩
  case start =>
    intro c i s hadm hdep hfree heng
    let s1 := s.updCore c (fun k => k.updEntry i.val (fun e => { e with code := .running }))
    have hentry : (s1.core c).entry i.val = { (s.core c).entry i.val with code := .running } := by simp [s1, Core.updEntry]
    have hspec := State.engineStart_spec (s := s1) (c := c) (i := i.val) (by rw [hentry]; exact heng)
    rw [hentry] at hspec
    obtain ⟨honly, hentries, hmx, hvx, hdma⟩ := hspec
    refine ⟨_, exec_opStart_free hadm hdep hfree, (onlyCore_updCore _ _ _).trans honly, ?_, hmx, hvx, hdma⟩
    rw [Core.entry, hentries]
    exact hentry
  case finish =>
    intro c i s st hrun hout hwait hdeps hsv
    have hothers : ∀ y ∈ (s.core c).entries, y.1 ≠ i.val → y.2.code = .admitted →
      y.2.dep ≠ .on ((s.core c).entry i.val).op ∧ y.2.dep ≠ .broken := fun y hy _ => hdeps y hy
    by_cases h : ((s.core c).entry i.val).abortReq = false ∨ st = ((s.core c).entry i.val).abortStatus ∨ isF st = true
    · have hentry := State.endEntry_entry { code := ((s.core c).entry i.val).endCode st, status := st } true hothers
        (Entry.endCode_ne_admitted _ _) hsv hwait
      refine ⟨_, exec_opEnd_as_finished hrun hout hsv h, fun _ => ?_, fun hreq hne hf => ?_, ?_⟩
      · rw [hentry]
        exact ⟨rfl, fun hst => State.leftEntry_status (hst.imp_left (Entry.endCode_ne_done_of_isF _))⟩
      · simp [hreq, hne, hf] at h
      · rw [hentry]
        exact ⟨rfl, rfl, rfl⟩
    · obtain ⟨hreq, hne, hf⟩ : ((s.core c).entry i.val).abortReq = true ∧ st ≠ ((s.core c).entry i.val).abortStatus ∧ isF st = false := by
        simpa using h
      obtain ⟨hentries, hwait', -⟩ := (s.onlyStores_spoilOutputs c ((s.core c).entry i.val).d).table c
      have hsame : ((s.spoilOutputs c ((s.core c).entry i.val).d).core c).entry i.val = (s.core c).entry i.val := by
        rw [Core.entry, hentries]
        rfl
      have hentry := State.endEntry_entry (s := s.spoilOutputs c ((s.core c).entry i.val).d) (c := c) (i := i.val)
        { code := .aborted, status := ((s.core c).entry i.val).abortStatus } true
        (by rw [hsame, hentries]; exact hothers) (show EntryCode.aborted ≠ .admitted by decide) (by rw [hsame]; exact hsv) (hwait'.trans hwait)
      refine ⟨_, exec_opEnd_aborted_late hrun hout hsv hreq hne hf, fun h' => absurd h' h, fun _ _ _ => ?_, ?_⟩
      · rw [hentry]
        exact ⟨rfl, State.leftEntry_status (.inl (show EntryCode.aborted ≠ .done by decide))⟩
      · rw [hentry]
        exact ⟨rfl, rfl, rfl⟩

/-- Settles O8, from what a load, a store and a fetch do, and from the words that a control unit executes at its pc. -/
theorem controlUnitLoadsAndStores : Obligations.ControlUnitLoadsAndStores := by
  unfold Obligations.ControlUnitLoadsAndStores
  refine ⟨?access, ?misaligned, ?atPc⟩
  case access =>
    intro c size z a r s res o hcu halign hplace hbanks hws hrs
    have hsound : (s.core c).soundStore res := by
      cases res
      · exact hws
      · exact hrs
    have hload := (exec_access (k := .load) (z := z) (a := a) nofun size r []).trans
      (congrArg _ (State.cuLoadStore_load hcu hplace halign hbanks hsound z r))
    have hstore := (exec_access (k := .store) (z := z) (a := a) nofun size r []).trans
      (congrArg _ (State.cuLoadStore_store hcu hplace halign hbanks hsound z r))
    refine ⟨⟨_, hload, onlyCore_updCore _ _ _, ?_⟩, ⟨_, hstore, (onlyCore_updCore _ _ _).trans (onlyCore_updCore _ _ _), ?_, ?_⟩,
      fun hres hz => (exec_access (fun _ => hz) size r []).trans (congrArg _ (State.cuLoadStore_fetch hcu hplace hres hsound z r))⟩
    · simp [loadExt]
    · intro hres
      subst hres
      obtain ⟨hw, hr⟩ := (s.core c).putPhys_slice c o (leBytes (2 ^ size.val) ((s.core c).x r).toNat)
        (wordsOf ((s.core c).physBytes c true o (2 ^ size.val)))
      obtain ⟨hin, hout⟩ := (s.core c).rs.read_writeN_leBytes o (2 ^ size.val) ((s.core c).x r).toNat
      rw [leBytes_length] at hw hr
      simp only [State.core_updCore, if_true, Core.counted, hw, hr]
      exact ⟨trivial, hin, hout⟩
    · intro hres
      subst hres
      obtain ⟨hr, hw, hother⟩ := (s.core c).putPhys_working c o (leBytes (2 ^ size.val) ((s.core c).x r).toNat)
        (wordsOf ((s.core c).physBytes c false o (2 ^ size.val)))
      rw [leBytes_length] at hr hw hother
      simp only [State.core_updCore, if_true, Core.counted]
      refine ⟨hr, fun hparts => ?_, hother⟩
      rw [hw hparts]
      exact ((s.core c).ws.read_writeN_leBytes o (2 ^ size.val) ((s.core c).x r).toNat).1
  case misaligned =>
    intro c k size z a r ups s hcu hk halign
    have hfetch : k = .fetch → z = false ∨ a ≠ (s.core c).pc := by
      rintro rfl
      simp at hk
    refine ⟨_, exec_access hfetch size r ups, ?_⟩
    rw [State.cuLoadStore_misaligned hcu hk halign, State.core_cuTrap]
    refine ⟨?_, rfl, rfl, rfl⟩
    split <;> rfl
  case atPc =>
    intro c size r s x k o hcu hrs heven habove hroom hbytes run wrote
    have hword : s.HoldsWord c x := ⟨hcu, hrs, heven, habove, hroom, hbytes⟩
    let pick : Fin 64 := Fin.ofNat 64 (r.toNat + 32 * size.val)
    have hrun : run = s.cuStep c pick [] := exec_fetch_at_pc c size r s
    have hwrote : ∀ {next d v}, s.cuStep c pick [] = .next (s.retiredTo c next d v) → wrote d v next :=
      fun {next d v} h => ⟨_, hrun.trans h, s.retiredTo_spec c next d v⟩
    refine ⟨fun imm a d hx => ?addi, fun a b d => ⟨fun hx => ?add, fun hx => ?sub, fun hx => ?mul⟩, fun i d hx => ?jal, fun i a b hx => ?beq,
      fun d hi imm hx => ?cli, fun d hx => ?mhartid, fun hx => ?ecall, fun hx => ?custom⟩
    case addi => exact hwrote (State.cuStep_addi hword pick hx)
    case add => exact hwrote (State.cuStep_op hword pick hx rfl)
    case sub => exact hwrote (State.cuStep_op hword pick hx rfl)
    case mul => exact hwrote (State.cuStep_op hword pick hx rfl)
    case jal => exact hwrote (State.cuStep_jal hword pick hx)
    case beq => exact hwrote (State.cuStep_beq hword pick hx)
    case cli => exact hwrote (State.cuStep_cli hword pick hx)
    case mhartid => exact hwrote (State.cuStep_mhartid hword pick hx)
    case ecall =>
      refine ⟨_, hrun.trans (State.cuStep_ecall hword pick hx), ?_⟩
      rw [State.core_cuTrap]
      exact ⟨rfl, rfl, rfl, fun q => rfl⟩
    case custom => exact hrun.trans (State.cuStep_custom hword pick hx)

/-- Settles O12: each request is followed from its making to its end, with what the engine does at each step said once above. -/
theorem dmaRequestsAreIssuedAndEnd : Obligations.DmaRequestsAreIssuedAndEnd := by
  unfold Obligations.DmaRequestsAreIssuedAndEnd
  refine ⟨⟨?own, ?gddr⟩, ?written, ?failed, ?halted⟩
  case own =>
    intro c s i e x hd hbusy habort hmode hop hsk hdk hsrc hdst hcount hpos hsmall hlog herr hparts
    obtain ⟨t, hexec, honly, hws, hrs, hout⟩ := exec_dmaRequestIssue_own_to_own hd hbusy habort hmode hop
      ⟨hsk, hdk, hcount, hpos, hsmall, hlog⟩ hdst hsrc herr hparts
    have hlen : ((List.range x.length).map (fun j => (s.core c).ws.read (x.src % 2 ^ 48 + j))).length = x.length := by simp
    refine ⟨t, hexec, honly, fun k hk => ?_, fun p hp => ?_, hrs, hout⟩
    · rw [hws, Mem.read_writeN_at _ _ _ k (by rw [hlen]; exact hk), List.getElem_map, List.getElem_range]
    · rw [hws, Mem.read_writeN_other _ _ _ p (by rw [hlen]; exact hp)]
  case gddr =>
    intro c s i e x ch hd hbusy habort hmode hop hsk hdk hsrc hdst hcount hpos hsmall hlog hunit hcred
    have hx : x.Single := ⟨hsk, hdk, hcount, hpos, hsmall, hlog⟩
    have hissue := State.copyIssue_from_gddr hx hd hdst hsrc hunit hcred
    have hcore := State.core_copyIssue_from_gddr hx hd hdst hsrc hunit hcred
    refine ⟨s.copyIssue c i e, (onlyReq (s.core c).dma.nextReq x).awaits,
      exec_dmaRequestIssue_from_gddr hd hbusy habort hmode hop hx hdst hsrc hunit hcred, by rw [hissue]; rfl, by rw [hcore]; rfl, rfl, ?_,
      by rw [hcore]; exact Entry.outcome_of_busy hbusy, by rw [hcore]; rfl⟩
    rw [hissue]
    simp [State.updReq, onlyReq, DmaReq.awaits, ch, x, e]
  case written =>
    intro c s i r a hentry hbusy habort hout hwait hphase hst _ hans hreq hfail _ hdone hself
    obtain ⟨t, hexec, h, honly⟩ := exec_dmaRequestAnswer_ends hentry hbusy hout (by simp) hwait hst hans hreq hfail hself (.inr hphase)
    have habort' := h.abortReq.trans habort
    have hfail' := h.fail.trans hdone
    rcases Nat.lt_or_ge (s.core c).dma.row ((s.core c).entry i).d.dmaRows with hrow | hrow
    · rw [State.dmaSettle_unfinished habort' hfail' (by rw [h.row, h.desc]; exact hrow)] at hexec
      exact ⟨t, hexec, honly hdone, h.outst, by rw [h.dma]; rfl, fun hle => absurd hle (Nat.not_le.2 hrow),
        fun _ => ⟨h.outcome.trans (Entry.outcome_of_busy hbusy), by rw [h.dma]; exact hentry⟩⟩
    · rw [State.dmaSettle_done habort' h.outst hfail' (by rw [h.row, h.desc]; exact hrow)] at hexec
      exact ⟨_, hexec, ((honly hdone).trans (onlyCore_updCore c _ _)).trans (onlyCore_updCore c _ _), by rw [State.dma_finish_free],
        by rw [State.dma_finish_free], fun _ => State.outcome_finish _ c i stDone, fun hlt => absurd hlt (Nat.not_lt.2 hrow)⟩
  case failed =>
    intro c s i r a more hentry hbusy habort hout hmore hwait hst hans hreq hfail hfailed hself
    obtain ⟨t, hexec, h, -⟩ := exec_dmaRequestAnswer_ends hentry hbusy hout hmore hwait hst hans hreq hfail hself (.inl hfailed)
    refine ⟨_, hexec, fun hnone => ?_, fun hsome => ?_⟩
    · obtain ⟨u, -, hsettle⟩ := State.dmaSettle_failed (h.abortReq.trans habort) (h.outst.trans hnone) (by rw [h.fail]; exact hfailed)
      rw [hsettle, h.fail]
      exact ⟨State.outcome_finish _ c i a.status, by rw [State.dma_finish_free]⟩
    · rw [State.dmaSettle_outstanding (by rw [h.outst]; exact hsome)]
      exact ⟨h.outcome.trans (Entry.outcome_of_busy hbusy), h.outst, h.fail⟩
  case halted =>
    intro c s i hentry _ _ hfail hout
    exact exec_dmaRequestIssue_failed hentry hfail hout

/-- Settles O18, from what a write of `abort_all` does by the table, and from what a self-test result makes of its core. -/
theorem coreControlAndSelfTest : Obligations.CoreControlAndSelfTest := by
  unfold Obligations.CoreControlAndSelfTest
  refine ⟨fun c s => ⟨fun h => ?empty, fun i e h hrun hreq hout => ?running, fun i e h hadm hsv hwait => ?admitted, ?halt, ?run, fun v h => ?tileq,
    fun h => ?owned⟩, fun c s => ⟨fun h => ?selftest, fun h => ?noSelftest, fun pass tiles h => ?done⟩⟩
  case empty =>
    refine ⟨_, (rfl : exec (.abortAll c) s = .next (s.abortAllWrite c)), ?_⟩
    rw [State.abortAllWrite_empty h]
    exact ⟨onlyCore_updCore _ _ _, by simp⟩
  case running => exact ⟨s.abortAllWrite c, rfl, State.abortAllWrite_running h hrun hreq hout⟩
  case admitted => exact ⟨s.abortAllWrite c, rfl, State.abortAllWrite_admitted h hadm hsv hwait⟩
  case halt => exact ⟨s.setHalt c true, rfl, onlyCore_updCore _ _ _, by simp [State.setHalt]⟩
  case run => exact ⟨s.setHalt c false, rfl, onlyCore_updCore _ _ _, by simp [State.setHalt]⟩
  case tileq => exact ⟨s.setTileq c v, rfl, onlyCore_updCore _ _ _, by simp [State.setTileq, h]⟩
  case owned => exact ⟨s.setTileq c true, rfl, onlyCore_updCore _ _ _, by simp [State.setTileq, h]⟩
  case selftest =>
    refine ⟨s.selfTestStart c, rfl, onlyCore_updCore _ _ _, ?_⟩
    rw [State.selfTestStart, State.core_updCore, if_pos rfl]
    split
    · rfl
    · rename_i hbusy
      exact Core.eq_with_selfBusy (by simpa [h] using hbusy)
  case noSelftest => exact ⟨s.selfTestStart c, rfl, onlyCore_updCore _ _ _, by simp [State.selfTestStart, h]⟩
  case done =>
    obtain ⟨hbusy, hdone, hpass, htiles, hother, hws, hrs⟩ := s.selfTested_actSelfTest c pass tiles
    refine ⟨_, exec_selftestDone_busy h pass tiles, hbusy, hdone, hpass, htiles, hother, hws, hrs, ?_, ?_⟩
    · rintro rfl
      rw [State.actSelfTest_all]
      exact ⟨by simp, rfl, rfl⟩
    · rintro rfl hspare
      have hspare' : (s.selfTested c 0x27 tiles).freeSpare c = false := hspare
      rw [State.actSelfTest_narrow hspare']
      exact ⟨by simp, by simp, rfl⟩

end Sys2Proof.Machine
end

section
/-! PROOFS. What a tile of the matrix or vector engine writes in its core's own stores (R193, R210), and what the end of a tile leaves of the
package (R156, R473). -/

namespace Sys2Proof.Machine

/-! ### Bytes written at places that may lie anywhere -/

/-- The bytes of one of a core's two stores: the slice, or the working store. -/
def Core.store (k : Core) (res : Bool) : Mem := if res then k.rs else k.ws

/-- Of bytes written at places that differ, each reads back. -/
theorem Mem.read_foldl_write_mem {l : List (Nat × Byte)} (hnodup : (l.map (·.1)).Nodup) {x : Nat × Byte} (h : x ∈ l) (m : Mem) :
    (l.foldl (fun m x => m.write x.1 x.2) m).read x.1 = x.2 := by
  induction l generalizing m with
  | nil => simp at h
  | cons y l ih =>
    rw [List.map_cons, List.nodup_cons] at hnodup
    obtain ⟨hy, hnodup⟩ := hnodup
    rw [List.foldl_cons]
    rcases List.mem_cons.1 h with rfl | h
    · rw [Mem.read_foldl_write_other _ _ (fun z hz hzx => hy (List.mem_map.2 ⟨z, hz, hzx⟩)), Mem.read_write_same]
    · exact ih hnodup h _

/-- The core with some writes made, each in one of its stores. -/
def Core.putAll (k : Core) (puts : List (Bool × List (Nat × Byte))) : Core :=
  puts.foldl (fun k x => k.putPhys x.1 x.2 (wordsOf (x.2.map (·.1)))) k

/-- The bytes that such writes bring to one store, in their order. -/
def bytesTo (res : Bool) (puts : List (Bool × List (Nat × Byte))) : List (Nat × Byte) := (puts.filter (fun x => x.1 == res)).flatMap (·.2)

theorem Core.store_putPhys (k : Core) (res res' : Bool) (l : List (Nat × Byte)) (cleared : List Nat) :
    (k.putPhys res' l cleared).store res = if res' = res then l.foldl (fun m x => m.write x.1 x.2) (k.store res) else k.store res := by
  cases res <;> cases res' <;> rfl

theorem Core.store_putAll (k : Core) (puts : List (Bool × List (Nat × Byte))) (res : Bool) :
    (k.putAll puts).store res = (bytesTo res puts).foldl (fun m x => m.write x.1 x.2) (k.store res) := by
  induction puts generalizing k with
  | nil => rfl
  | cons x puts ih =>
    rw [Core.putAll, List.foldl_cons, ← Core.putAll, ih, Core.store_putPhys]
    by_cases h : x.1 = res
    · simp [bytesTo, h, List.foldl_append]
    · simp [bytesTo, h]

/-- Writes touch a core's stores alone. -/
theorem Core.putAll_bare (k : Core) (puts : List (Bool × List (Nat × Byte))) : (k.putAll puts).bare = k.bare :=
  foldl_keeps Core.bare (fun _ _ => Core.bare_putPhys _ _ _ _) puts k

theorem Core.parts_putAll (k : Core) (puts : List (Bool × List (Nat × Byte))) : (k.putAll puts).parts = k.parts :=
  (congrArg Core.parts (k.putAll_bare puts) :)

/-- Such writes in core `c`. -/
def State.putAll (s : State) (c : CoreId) (puts : List (Bool × List (Nat × Byte))) : State :=
  puts.foldl (fun s x => s.updCore c (fun k => k.putPhys x.1 x.2 (wordsOf (x.2.map (·.1))))) s

/-! ### A core and one of its entries through the end of a tile -/

/-- A core but for its operation table and for what each engine has yet to see of the other's writes (R156). -/
def Core.body (k : Core) : Core := { k with entries := [], mxOld := [], vxOld := [] }

/-- An entry but for its scalar summary (R147) and the bytes noted for the Cast checksum (R473). -/
def Entry.unnoted (e : Entry) : Entry := { e with summary := 0, wrote := [] }

/-- `t` is `s` but that free values may have been drawn and that core `c` has the body of `k` and, as entry `i`, `e` but for its summary and
notes. -/
structure CoreTo (c : CoreId) (i : Nat) (k : Core) (e : Entry) (s t : State) : Prop where
  only : t = { s with cores := t.cores, freeCount := t.freeCount }
  others : ∀ d, d ≠ c → t.core d = s.core d
  body : (t.core c).body = k.body
  entry : ((t.core c).entry i).unnoted = e.unnoted

section CoreTo
variable {c : CoreId} {i : Nat} {k : Core} {e : Entry} {s t : State}

theorem CoreTo.refl (c : CoreId) (i : Nat) (s : State) : CoreTo c i (s.core c) ((s.core c).entry i) s s :=
  ⟨rfl, fun _ _ => rfl, rfl, rfl⟩

/-- An update of core `c` is, for the body, `b`, and for entry `i`, `f`. -/
theorem CoreTo.updCore (h : CoreTo c i k e s t) {g b : Core → Core} {f : Entry → Entry} (hbody : ∀ k, (g k).body = (b k).body)
    (hb : ∀ k, (b k).body = (b k.body).body) (hentry : ∀ k, ((g k).entry i).unnoted = (f (k.entry i)).unnoted)
    (hf : ∀ e, (f e).unnoted = (f e.unnoted).unnoted) : CoreTo c i (b k) (f e) s (t.updCore c g) where
  only := (congrArg (fun u : State => { u with cores := (t.updCore c g).cores }) h.only :)
  others d hd := by rw [State.core_updCore, if_neg hd, h.others d hd]
  body := by rw [State.core_updCore, if_pos rfl, hbody, hb, h.body, ← hb]
  entry := by rw [State.core_updCore, if_pos rfl, hentry, hf, h.entry, ← hf]

theorem CoreTo.drawn (h : CoreTo c i k e s t) : CoreTo c i k e s t.drawn where
  only := (congrArg (fun u : State => { u with cores := t.cores, freeCount := t.freeCount + 1 }) h.only :)
  others := h.others
  body := h.body
  entry := h.entry

theorem Core.entry_updEntry_same (k : Core) (i : Nat) (f : Entry → Entry) : (k.updEntry i f).entry i = f (k.entry i) := by
  rw [Core.updEntry, Core.entry_setEntry, if_pos rfl]

/-- The entry alone is updated, by what its summary and notes do not enter. -/
theorem CoreTo.updEntry (h : CoreTo c i k e s t) {f : Entry → Entry} (hf : ∀ e, (f e).unnoted = (f e.unnoted).unnoted) :
    CoreTo c i k (f e) s (t.updCore c (fun k => k.updEntry i f)) :=
  h.updCore (b := id) (fun _ => rfl) (fun _ => rfl) (fun k => congrArg Entry.unnoted (k.entry_updEntry_same i f)) hf

/-- The body is updated by `b`, and the entry by `f` but for its summary and notes. -/
theorem CoreTo.updBoth (h : CoreTo c i k e s t) {g b : Core → Core} {f f' : Entry → Entry}
    (hentries : ∀ k, (g k).entries = (k.updEntry i f').entries) (hf' : ∀ e, (f' e).unnoted = (f e).unnoted)
    (hbody : ∀ k, (g k).body = (b k).body) (hb : ∀ k, (b k).body = (b k.body).body)
    (hf : ∀ e, (f e).unnoted = (f e.unnoted).unnoted) : CoreTo c i (b k) (f e) s (t.updCore c g) := by
  refine h.updCore hbody hb (fun k => ?_) hf
  rw [Core.entry, hentries, ← Core.entry, Core.entry_updEntry_same, hf']

/-- The rest of the core is updated, by what neither its table nor the engines' view of each other enters. -/
theorem CoreTo.updBody (h : CoreTo c i k e s t) {g : Core → Core} (hentries : ∀ k, (g k).entries = k.entries)
    (hg : ∀ k, (g k).body = (g k.body).body) : CoreTo c i (g k) e s (t.updCore c g) :=
  h.updCore (b := g) (f := id) (fun _ => rfl) hg (fun k => by rw [Core.entry, hentries]; rfl) (fun _ => rfl)

/-- Nothing is updated that counts here. -/
theorem CoreTo.updUnseen (h : CoreTo c i k e s t) {g : Core → Core} (hbody : ∀ k, (g k).body = k.body)
    (hentry : ∀ k, ((g k).entry i).unnoted = (k.entry i).unnoted) : CoreTo c i k e s (t.updCore c g) :=
  h.updCore (b := id) (f := id) hbody (fun _ => rfl) hentry (fun _ => rfl)

theorem CoreTo.finish (h : CoreTo c i k e s t) (st : Byte) : CoreTo c i k { e with outcome := some st } s (t.finish c i st) :=
  h.updEntry (f := fun e => { e with outcome := some st }) (fun _ => rfl)

theorem CoreTo.noteWrites (h : CoreTo c i k e s t) (ws : List (Nat × List Byte)) : CoreTo c i k e s (t.noteWrites c i ws) := by
  unfold State.noteWrites
  split
  · exact h.updUnseen (fun _ => rfl) (fun k => by rw [Core.entry_updEntry_same]; rfl)
  · exact h

theorem CoreTo.ite_drawn (h : CoreTo c i k e s t) (p : Prop) [Decidable p] : CoreTo c i k e s (if p then t else t.drawn) := by
  split
  · exact h
  · exact h.drawn

theorem CoreTo.tileSeen (h : CoreTo c i k e s t) (s0 : State) (vec : Bool) (ws : List (Nat × List Byte)) :
    CoreTo c i k e s (t.tileSeen s0 c vec ws) := by
  refine CoreTo.ite_drawn (h.updUnseen (fun k => ?_) (fun k => ?_)) _
  · cases vec <;> rfl
  · cases vec <;> rfl

theorem CoreTo.putAll (h : CoreTo c i k e s t) (puts : List (Bool × List (Nat × Byte))) :
    CoreTo c i (k.putAll puts) e s (t.putAll c puts) := by
  induction puts generalizing k t with
  | nil => exact h
  | cons x puts ih =>
    obtain ⟨res, l⟩ := x
    refine ih (h.updBody (g := fun k => k.putPhys res l (wordsOf (l.map (·.1)))) (fun k => ?_) (fun k => ?_))
    · cases res <;> rfl
    · cases res <;> rfl

theorem CoreTo.noteRecords (h : CoreTo c i k e s t) : t.noteRecords s c i = t :=
  State.noteRecords_of_handed (congrArg State.handed h.only :) c i

/-! What stands of the stores and the entry afterwards. -/

theorem CoreTo.outcome (h : CoreTo c i k e s t) : ((t.core c).entry i).outcome = e.outcome := (congrArg Entry.outcome h.entry :)
theorem CoreTo.health (h : CoreTo c i k e s t) : ((t.core c).entry i).health = e.health := (congrArg Entry.health h.entry :)

theorem CoreTo.mx (h : CoreTo c i k e s t) : (t.core c).mx = k.mx := (congrArg Core.mx h.body :)
theorem CoreTo.vx (h : CoreTo c i k e s t) : (t.core c).vx = k.vx := (congrArg Core.vx h.body :)
theorem CoreTo.vxFlags (h : CoreTo c i k e s t) : (t.core c).vxFlags = k.vxFlags := (congrArg Core.vxFlags h.body :)
theorem CoreTo.suspect (h : CoreTo c i k e s t) : (t.core c).suspect = k.suspect := (congrArg Core.suspect h.body :)

theorem CoreTo.store (h : CoreTo c i k e s t) (res : Bool) : (t.core c).store res = k.store res := (congrArg (Core.store · res) h.body :)

theorem CoreTo.ownPlace (h : CoreTo c i k e s t) (npa : Nat) : t.ownPlace c npa = s.ownPlace c npa :=
  (congrArg (fun u : State => u.ownPlace c npa) h.only :)

theorem CoreTo.ownPeek (h : CoreTo c i k e s t) (npa n : Nat) :
    t.ownPeek c npa n = (k.physBytes c (s.ownPlace c npa).1 (s.ownPlace c npa).2 n).map (k.store (s.ownPlace c npa).1).read := by
  have hphys : ∀ res a, (t.core c).physBytes c res a n = k.physBytes c res a n := fun res a =>
    (congrArg (fun k : Core => k.physBytes c res a n) h.body :)
  rw [State.ownPeek, h.ownPlace, hphys, ← h.store]
  rfl

end CoreTo

/-! ### The writes of a tile (R210) -/

/-- A tile's writes by store, each as its physical bytes. -/
def State.ownPuts (s : State) (c : CoreId) (ws : List (Nat × List Byte)) : List (Bool × List (Nat × Byte)) :=
  ws.map (fun x => ((s.ownPlace c x.1).1, ((s.core c).physBytes c (s.ownPlace c x.1).1 (s.ownPlace c x.1).2 x.2.length).zip x.2))

/-- Where a tile's writes lie. -/
def writeSegs (ws : List (Nat × List Byte)) : List (Nat × Nat) := ws.map (fun w => (w.1, w.2.length))

theorem Core.physBytes_length (k : Core) (c : CoreId) (res : Bool) (a n : Nat) : (k.physBytes c res a n).length = n := by
  unfold Core.physBytes
  split <;> simp

theorem State.bytesTo_ownPuts_places (s : State) (c : CoreId) (res : Bool) (ws : List (Nat × List Byte)) :
    (bytesTo res (s.ownPuts c ws)).map (·.1) = s.ownPas c res (writeSegs ws) := by
  induction ws with
  | nil => rfl
  | cons x ws ih =>
    have hzip := List.map_fst_zip (l₁ := (s.core c).physBytes c (s.ownPlace c x.1).1 (s.ownPlace c x.1).2 x.2.length) (l₂ := x.2)
      (by rw [Core.physBytes_length])
    simp only [bytesTo, State.ownPuts, State.ownPas, writeSegs, List.map_cons, List.flatMap_cons] at ih ⊢
    by_cases h : (s.ownPlace c x.1).1 = res
    · subst h
      simp [ih, hzip]
    · simp [ih, h]

section Merge
variable {s : State} {c : CoreId} (hws : (s.core c).wsErr = []) (hrs : (s.core c).rsErr = [])
include hws hrs

theorem State.ownJudge_of_sound (segs : List (Nat × Nat)) (w : Who) : s.ownJudge c segs w = (s, false) := by
  simp [State.ownJudge, State.judge_of_no_errors (s := s) (c := c) (res := false) hws, State.judge_of_no_errors (s := s) (c := c) (res := true) hrs]

theorem State.ownMerge_of_sound (ws : List (Nat × List Byte)) (w : Who) :
    s.ownMerge c ws w = (s.putAll c (s.ownPuts c ws), false) := by
  simp [State.ownMerge, State.judge_of_no_errors (s := s) (c := c) (res := false) hws, State.judge_of_no_errors (s := s) (c := c) (res := true) hrs,
    State.ownPuts, State.putAll]

end Merge

/-- An entry's changes before the writes are nothing to them. -/
theorem CoreTo.ownMerge {c : CoreId} {i : Nat} {e : Entry} {s t : State} (h : CoreTo c i (s.core c) e s t) (hws : (s.core c).wsErr = [])
    (hrs : (s.core c).rsErr = []) (ws : List (Nat × List Byte)) (w : Who) :
    CoreTo c i ((s.core c).putAll (s.ownPuts c ws)) e s (t.ownMerge c ws w).1 ∧ (t.ownMerge c ws w).2 = false := by
  have hws' : (t.core c).wsErr = [] := (congrArg Core.wsErr h.body :).trans hws
  have hrs' : (t.core c).rsErr = [] := (congrArg Core.rsErr h.body :).trans hrs
  have hputs : t.ownPuts c ws = s.ownPuts c ws := by
    have hphys : ∀ res a n, (t.core c).physBytes c res a n = (s.core c).physBytes c res a n := fun res a n =>
      (congrArg (fun k : Core => k.physBytes c res a n) h.body :)
    simp only [State.ownPuts, h.ownPlace, hphys]
  rw [State.ownMerge_of_sound hws' hrs', hputs]
  exact ⟨h.putAll _, rfl⟩

section Written
variable {c : CoreId} {i : Nat} {k : Core} {e : Entry} {s t : State} {ws : List (Nat × List Byte)}
  (h : CoreTo c i k e s t) (hk : ∀ res, k.store res = ((s.core c).putAll (s.ownPuts c ws)).store res)
include h hk

/-- No byte changes but where a tile writes. -/
theorem CoreTo.store_unwritten {res : Bool} {p : Nat} (hp : p ∉ s.ownPas c res (writeSegs ws)) :
    ((t.core c).store res).read p = ((s.core c).store res).read p := by
  rw [h.store, hk, Core.store_putAll]
  refine Mem.read_foldl_write_other _ _ (fun x hx hxp => hp ?_)
  rw [← State.bytesTo_ownPuts_places, ← hxp]
  exact List.mem_map_of_mem hx

/-- What a tile writes reads back, where its writes do not overlap. -/
theorem CoreTo.ownPeek_written (hparts : k.parts = (s.core c).parts) (hnodup : ∀ res, (s.ownPas c res (writeSegs ws)).Nodup)
    {w : Nat × List Byte} (hw : w ∈ ws) : t.ownPeek c w.1 w.2.length = w.2 := by
  let p := s.ownPlace c w.1
  let pas := (s.core c).physBytes c p.1 p.2 w.2.length
  have hlen : pas.length = w.2.length := Core.physBytes_length _ _ _ _ _
  have hphys : k.physBytes c p.1 p.2 w.2.length = pas := by
    simp only [pas, Core.physBytes, Core.wsPhys, Core.gridPart, hparts]
  rw [h.ownPeek, hphys, hk, Core.store_putAll]
  refine List.ext_getElem (by rw [List.length_map, hlen]) (fun j hj hj' => ?_)
  have hnodup' : ((bytesTo p.1 (s.ownPuts c ws)).map (·.1)).Nodup := by
    rw [State.bytesTo_ownPuts_places]
    exact hnodup p.1
  have hmem : (pas[j]'(by rw [hlen]; exact hj'), w.2[j]) ∈ bytesTo p.1 (s.ownPuts c ws) := by
    refine List.mem_flatMap.2 ⟨(p.1, pas.zip w.2), ?_, ?_⟩
    · exact List.mem_filter.2 ⟨List.mem_map.2 ⟨w, hw, rfl⟩, by simp⟩
    · exact List.mem_iff_getElem.2 ⟨j, by simp [hlen, hj'], by simp⟩
  rw [List.getElem_map]
  exact Mem.read_foldl_write_mem hnodup' hmem _

end Written

end Sys2Proof.Machine
end

section
/-! PROOFS. The end of a matrix tile pass or a vector tile whose checks match and whose operands read clean (R100, R101, R116, R129, R131, R149). -/

namespace Sys2Proof.Machine

/-! ### Counting what is written (R183) -/

theorem Health.elements_foldl_count {α : Type} (f : α → OutElem) (l : List α) (h : Health) :
    (l.foldl (fun h y => h.count (f y)) h).elements = h.elements + l.length := by
  induction l generalizing h with
  | nil => rfl
  | cons y l ih =>
    have hone : (h.count (f y)).elements = h.elements + 1 := rfl
    rw [List.foldl_cons, ih, hone, List.length_cons, Nat.add_assoc, Nat.add_comm 1]

/-- An opcode whose places data give counts the elements as they stand (R183). -/
theorem Entry.vxCount_elements_by_index {e : Entry} (h : e.d.vx.op = 4 ∨ e.d.vx.op = 9) (r : VxRes) :
    (e.vxCount r).health.elements = (outAdd e.written (r.elems.map (fun y => y.w.elem y.idx y.ex))).length := by
  rw [Entry.vxCount, if_pos h]
  exact (Health.elements_foldl_count id _ _).trans (Nat.zero_add _)

theorem Entry.vxCount_elements {e : Entry} (h : ¬ (e.d.vx.op = 4 ∨ e.d.vx.op = 9)) (r : VxRes) :
    (e.vxCount r).health.elements = e.health.elements + r.elems.length := by
  rw [Entry.vxCount, if_neg h]
  exact (Health.elements_foldl_count id _ _).trans (by rw [List.length_map])

theorem Entry.vxCount_outcome (e : Entry) (r : VxRes) : (e.vxCount r).outcome = e.outcome := by
  unfold Entry.vxCount
  dsimp only
  split <;> rfl

theorem Entry.vxCount_unnoted (e : Entry) (r : VxRes) : (e.vxCount r).unnoted = (e.unnoted.vxCount r).unnoted := by
  by_cases h : e.d.vx.op = 4 ∨ e.d.vx.op = 9
  · have h' : e.unnoted.d.vx.op = 4 ∨ e.unnoted.d.vx.op = 9 := h
    rw [Entry.vxCount, Entry.vxCount, if_pos h, if_pos h']
    rfl
  · have h' : ¬ (e.unnoted.d.vx.op = 4 ∨ e.unnoted.d.vx.op = 9) := h
    rw [Entry.vxCount, Entry.vxCount, if_neg h, if_neg h']
    rfl

/-! ### The elements of a matrix tile, row by row (R101) -/

theorem length_flatMap_range_map {α : Type} (m n : Nat) (f : Nat → Nat → α) :
    ((List.range m).flatMap (fun i => (List.range n).map (f i))).length = m * n := by
  simp [List.length_flatMap]

theorem State.mxOut_length (s : State) (c : CoreId) (d : Desc) (x : MxBody) (a : MxAt) (acc : List FVal) :
    (s.mxOut c d x a acc).1.length = a.rn * a.cn := by
  rw [State.mxOut, List.length_map, length_flatMap_range_map]

theorem packCodes_length (bits : Nat) (cs : List Nat) : (packCodes bits cs).length = (cs.length * bits + 7) / 8 :=
  leBytes_length _ _

/-- The bytes of row `i` of a tile whose elements `o` are given row by row. -/
def MxBody.rowBytes (x : MxBody) (a : MxAt) (o : List (Nat × Written)) (i : Nat) : List Byte :=
  packCodes (elemBits x.cFmt) (((o.drop (i * a.cn)).take a.cn).map (·.2.code))

/-- The writes of a tile whose elements `o` are given row by row (R100). -/
def MxBody.tileWrites (x : MxBody) (a : MxAt) (o : List (Nat × Written)) : List (Nat × List Byte) :=
  (x.tileSegs a).zipIdx.map (fun g => (g.1.1, x.rowBytes a o g.2))

section TileRows
variable {x : MxBody} {a : MxAt} {o : List (Nat × Written)} (ho : o.length = a.rn * a.cn)
include ho

theorem MxBody.rowBytes_length {i : Nat} {g : Nat × Nat} (h : (x.tileSegs a)[i]? = some g) : (x.rowBytes a o i).length = g.2 := by
  obtain ⟨hi, hg⟩ := List.getElem?_eq_some_iff.1 h
  have hrow : i < a.rn := by simpa [MxBody.tileSegs] using hi
  have hroom : i * a.cn + a.cn ≤ a.rn * a.cn := by
    rw [← Nat.succ_mul]
    exact Nat.mul_le_mul_right _ hrow
  have hlen : (((o.drop (i * a.cn)).take a.cn).map (·.2.code)).length = a.cn := by
    rw [List.length_map, List.length_take, List.length_drop, ho]
    omega
  rw [MxBody.rowBytes, packCodes_length, hlen, ← hg]
  simp [MxBody.tileSegs]

theorem MxBody.writeSegs_tileWrites : writeSegs (x.tileWrites a o) = x.tileSegs a := by
  rw [writeSegs, MxBody.tileWrites, List.map_map]
  refine (List.map_congr_left (g := Prod.fst) (fun g hg => ?_)).trans (List.zipIdx_map_fst 0 _)
  have hlen := MxBody.rowBytes_length ho (List.mem_zipIdx_iff_getElem?.1 hg)
  exact Prod.ext rfl hlen

end TileRows

theorem MxBody.mem_tileWrites {x : MxBody} {a : MxAt} {i : Nat} {g : Nat × Nat} (h : (x.tileSegs a)[i]? = some g) (o : List (Nat × Written)) :
    (g.1, x.rowBytes a o i) ∈ x.tileWrites a o :=
  List.mem_map.2 ⟨(g, i), List.mem_zipIdx_iff_getElem?.2 h, rfl⟩

/-! ### The end of a matrix tile pass (R116) -/

theorem exec_matrixTilePassEnd {c : CoreId} {s : State} {run : MxRun} (hmx : (s.core c).mx = some run)
    (hbusy : ((s.core c).entry run.entry).busy = true) (htileq : (s.core c).tileq = false) (mis : Option Mismatch) :
    exec (.matrixTilePassEnd c mis []) s = .next ((s.mxEnd c run.entry run mis).noteRecords s c run.entry) := by
  change execMatrixTilePassEnd c mis [] s = _
  simp [execMatrixTilePassEnd, hmx, hbusy, htileq]

/-- The accumulators after a pass are kept for the next. -/
def MxRun.onward (run : MxRun) (x : MxBody) (acc : List FVal) : MxRun :=
  { run with pass := run.pass + 1, acc := acc.map (accCode x.accElem), made := acc.map FVal.cause }

/-- The entry with the flags of a pass. -/
def Entry.flagged (e : Entry) (f : Flags) : Entry := { e with health := { e.health with flags := e.health.flags ||| f } }

/-- The entry with the elements of a tile counted. -/
def Entry.counted (e : Entry) (f : Flags) (o : List (Nat × Written)) : Entry :=
  { e with health := (o.foldl (fun h y => h.count (y.2.elem y.1)) { e.health with flags := e.health.flags ||| f }) }

/-- What a pass computes of the operands that the tile reads. -/
def State.mxAcc (s : State) (c : CoreId) (d : Desc) (run : MxRun) : List FVal × Flags :=
  (s.tileView c false).mxPass c d d.mx (d.mx.at run.tile run.pass) run

/-- What the last pass of a tile converts. -/
def State.mxElems (s : State) (c : CoreId) (d : Desc) (run : MxRun) : List (Nat × Written) × Flags :=
  s.mxOut c d d.mx (d.mx.at run.tile run.pass) (s.mxAcc c d run).1

/-- The entry with a tile's last pass counted. -/
def State.mxCountedEntry (s : State) (c : CoreId) (e : Entry) (run : MxRun) : Entry :=
  (e.flagged (s.mxAcc c e.d run).2).counted (s.mxElems c e.d run).2 (s.mxElems c e.d run).1

/-- What the last pass of a tile writes. -/
def State.mxWrites (s : State) (c : CoreId) (d : Desc) (run : MxRun) : List (Nat × List Byte) :=
  d.mx.tileWrites (d.mx.at run.tile run.pass) (s.mxElems c d run).1

/-- A tile's last pass is counted. -/
def State.mxCounted (s : State) (c : CoreId) (i : Nat) (run : MxRun) : State :=
  let d := ((s.core c).entry i).d
  (s.updCore c (fun k => k.updEntry i (fun e => e.flagged (s.mxAcc c d run).2))).updCore c
    (fun k => k.updEntry i (fun e => e.counted (s.mxElems c d run).2 (s.mxElems c d run).1))

/-- A tile's last pass is counted and written. -/
def State.mxWritten (s : State) (c : CoreId) (i : Nat) (run : MxRun) : State :=
  let d := ((s.core c).entry i).d
  let ws := s.mxWrites c d run
  (((s.mxCounted c i run).ownMerge c ws { (s.core c).who 1 d.opTag with status := stMemUnc }).1.noteWrites c i ws).tileSeen
    (s.mxCounted c i run) c false ws

theorem CoreTo.mxCounted (s : State) (c : CoreId) (i : Nat) (run : MxRun) :
    CoreTo c i (s.core c) (s.mxCountedEntry c ((s.core c).entry i) run) s (s.mxCounted c i run) :=
  ((CoreTo.refl c i s).updEntry (f := fun e => e.flagged (s.mxAcc c ((s.core c).entry i).d run).2) (fun _ => rfl)).updEntry
    (f := fun e => e.counted (s.mxElems c ((s.core c).entry i).d run).2 (s.mxElems c ((s.core c).entry i).d run).1) (fun _ => rfl)

section Matrix
variable {c : CoreId} {s : State} {i : Nat} {run : MxRun} (habort : ((s.core c).entry i).abortReq = false)

include habort in
/-- A pass before the last keeps its accumulators. -/
theorem CoreTo.mxCommit_before_last (hpass : run.pass + 1 < ((s.core c).entry i).d.mx.passes) :
    let e := (s.core c).entry i
    CoreTo c i { s.core c with mx := some (run.onward e.d.mx (s.mxAcc c e.d run).1) } (e.flagged (s.mxAcc c e.d run).2) s
      (s.mxCommit c i run) := by
  intro e
  have hkept := ((CoreTo.refl c i s).updEntry (f := fun e' => e'.flagged (s.mxAcc c e.d run).2) (fun _ => rfl)).updBody
    (g := fun k => { k with mx := some (run.onward e.d.mx (s.mxAcc c e.d run).1) }) (fun _ => rfl) (fun _ => rfl)
  rw [State.mxCommit]
  dsimp only
  rw [if_pos hpass, habort]
  exact hkept.tileSeen _ _ _

variable (hws : (s.core c).wsErr = []) (hrs : (s.core c).rsErr = [])
include hws hrs

theorem CoreTo.mxWritten (run : MxRun) :
    CoreTo c i ((s.core c).putAll (s.ownPuts c (s.mxWrites c ((s.core c).entry i).d run))) (s.mxCountedEntry c ((s.core c).entry i) run) s
      (s.mxWritten c i run) :=
  (((CoreTo.mxCounted s c i run).ownMerge hws hrs _ _).1.noteWrites _).tileSeen _ _ _

variable (htileq : (s.core c).tileq = false) (hnan : ((s.core c).entry i).d.nanTrap = false)
include habort htileq hnan

/-- The last pass of a tile writes it; then the next tile runs, or the operation has finished. -/
theorem State.mxCommit_last (hpass : ((s.core c).entry i).d.mx.passes ≤ run.pass + 1) :
    s.mxCommit c i run =
      if run.tile + 1 < ((s.core c).entry i).d.mx.tilesM * ((s.core c).entry i).d.mx.tilesN then
        (s.mxWritten c i run).updCore c (fun k => { k with mx := some { entry := i, tile := run.tile + 1 } })
      else ((s.mxWritten c i run).finish c i stDone).updCore c (fun k => { k with mx := none }) := by
  let m := (s.mxCounted c i run).ownMerge c (s.mxWrites c ((s.core c).entry i).d run)
    { (s.core c).who 1 ((s.core c).entry i).d.opTag with status := stMemUnc }
  have hsound : ¬ m.2 = true := Bool.eq_false_iff.1 ((CoreTo.mxCounted s c i run).ownMerge hws hrs _ _).2
  have hwritten : (if m.2 = true then m.1 else s.mxWritten c i run) = s.mxWritten c i run := if_neg hsound
  rw [State.mxCommit]
  dsimp only
  rw [if_neg (Nat.not_lt.2 hpass), habort, htileq, hnan]
  simp only [Bool.false_eq_true, if_false]
  refine (if_neg hsound).trans ?_
  rw [← hwritten]
  rfl

theorem CoreTo.mxCommit_last (hpass : ((s.core c).entry i).d.mx.passes ≤ run.pass + 1) :
    let e := (s.core c).entry i
    let more := run.tile + 1 < e.d.mx.tilesM * e.d.mx.tilesN
    CoreTo c i { (s.core c).putAll (s.ownPuts c (s.mxWrites c e.d run)) with mx := if more then some { entry := i, tile := run.tile + 1 } else none }
      (if more then s.mxCountedEntry c e run else { s.mxCountedEntry c e run with outcome := some stDone }) s (s.mxCommit c i run) := by
  intro e more
  have hwritten := CoreTo.mxWritten (i := i) hws hrs run
  rw [State.mxCommit_last habort hws hrs htileq hnan hpass]
  by_cases h : more
  · rw [if_pos h, if_pos h, if_pos h]
    exact hwritten.updBody (g := fun k => { k with mx := some { entry := i, tile := run.tile + 1 } }) (fun _ => rfl) (fun _ => rfl)
  · rw [if_neg h, if_neg h, if_neg h]
    exact (hwritten.finish stDone).updBody (g := fun k => { k with mx := none }) (fun _ => rfl) (fun _ => rfl)

omit htileq hnan habort in
theorem State.mxEnd_clean (run : MxRun) : s.mxEnd c i run none = s.mxCommit c i run := by
  simp [State.mxEnd, verdict, Verdict.redone, State.ownJudge_of_sound hws hrs]

end Matrix

theorem State.mxCountedEntry_elements (s : State) (c : CoreId) (e : Entry) (run : MxRun) :
    (s.mxCountedEntry c e run).health.elements =
      e.health.elements + (e.d.mx.at run.tile run.pass).rn * (e.d.mx.at run.tile run.pass).cn := by
  rw [← State.mxOut_length]
  exact Health.elements_foldl_count (fun y : Nat × Written => y.2.elem y.1) _ _

/-! ### The end of a vector tile (R131, R149) -/

theorem exec_vectorTileEnd {c : CoreId} {s : State} {run : VxRun} (hvx : (s.core c).vx = some run)
    (hbusy : ((s.core c).entry run.entry).busy = true) (htileq : (s.core c).tileq = false) (mis : Option Mismatch) :
    exec (.vectorTileEnd c mis []) s = .next ((s.vxEnd c run.entry run mis).noteRecords s c run.entry) := by
  change execVectorTileEnd c mis [] s = _
  simp [execVectorTileEnd, hvx, hbusy, htileq, Core.vxHeld]

/-- A core when a tile's writes are made and its run goes on. -/
def Core.vxOnward (k : Core) (run : VxRun) (r : VxRes) : Core := { k with vx := some (r.next.getD run), tileQueue := k.tileQueue.drop r.took }

/-- A vector tile is written and counted. -/
def State.vxWritten (s : State) (c : CoreId) (i : Nat) (run : VxRun) (r : VxRes) : State :=
  (((s.ownMerge c r.writes { (s.core c).who 2 ((s.core c).entry i).d.opTag with status := stMemUnc }).1.noteWrites c i r.writes).updCore c
    (fun k => (k.updEntry i (fun e => e.vxCount r)).vxOnward run r)).tileSeen s c true r.writes

/-- A core whose vector operation is over, its flags among the core's (R149). -/
def Core.vxDone (k : Core) (f : Flags) : Core := { k with vx := none, vxFlags := k.vxFlags ||| f }

/-- The scalar summary of an operation's outputs (R147). -/
def State.summaryOf (s : State) (e : Entry) : BitVec 32 :=
  vxSummary e.d.vx.sumKind e.d.vx.fo e.d.mode e.written ((Config.freeWord s.freeCount).extractLsb' 0 32)

/-- The entry with its summary, where it has one. -/
def Entry.summed (e : Entry) (y : BitVec 32) : Entry := { e with summary := if e.d.sumEn then y else e.summary }

theorem CoreTo.vxOver {c : CoreId} {i : Nat} {k : Core} {e : Entry} {s t : State} (h : CoreTo c i k e s t) (st : Byte) :
    CoreTo c i (k.vxDone e.health.flags) { e with outcome := some st } s (t.vxOver c i st) := by
  have hflags : ((t.core c).entry i).health.flags = e.health.flags := congrArg Health.flags h.health
  rw [← hflags]
  exact ((h.finish st).updBoth
    (g := fun k => (k.updEntry i (fun e => e.summed (t.summaryOf ((t.core c).entry i)))).vxDone ((t.core c).entry i).health.flags)
    (b := fun k => k.vxDone ((t.core c).entry i).health.flags) (f' := fun e => e.summed (t.summaryOf ((t.core c).entry i))) (f := id)
    (fun _ => rfl) (fun _ => rfl) (fun _ => rfl) (fun _ => rfl) (fun _ => rfl)).drawn

/-- A core, and its entry, when a tile's writes are made: the next tile runs, or the operation has finished. -/
def Core.vxAfter (k : Core) (run : VxRun) (r : VxRes) (f : Flags) : Core :=
  if r.next.isSome then k.vxOnward run r else (k.vxOnward run r).vxDone f
def Entry.vxAfter (e : Entry) (r : VxRes) : Entry := if r.next.isSome then e.vxCount r else { e.vxCount r with outcome := some stDone }

theorem Core.vxAfter_store (k : Core) (run : VxRun) (r : VxRes) (f : Flags) (res : Bool) : (k.vxAfter run r f).store res = k.store res := by
  unfold Core.vxAfter
  split <;> rfl

theorem Core.vxAfter_parts (k : Core) (run : VxRun) (r : VxRes) (f : Flags) : (k.vxAfter run r f).parts = k.parts := by
  unfold Core.vxAfter
  split <;> rfl

theorem Entry.vxAfter_health (e : Entry) (r : VxRes) : (e.vxAfter r).health = (e.vxCount r).health := by
  unfold Entry.vxAfter
  split <;> rfl

section Vector
variable {c : CoreId} {s : State} {i : Nat} (hws : (s.core c).wsErr = []) (hrs : (s.core c).rsErr = [])
include hws hrs

theorem CoreTo.vxWritten (run : VxRun) (r : VxRes) :
    CoreTo c i (((s.core c).putAll (s.ownPuts c r.writes)).vxOnward run r) (((s.core c).entry i).vxCount r) s (s.vxWritten c i run r) := by
  have hmerged := ((CoreTo.refl c i s).ownMerge hws hrs r.writes
    { (s.core c).who 2 ((s.core c).entry i).d.opTag with status := stMemUnc }).1.noteWrites r.writes
  exact (hmerged.updBoth (g := fun k => (k.updEntry i (fun e => e.vxCount r)).vxOnward run r) (b := fun k => k.vxOnward run r)
    (f' := fun e => e.vxCount r) (f := fun e => e.vxCount r) (fun _ => rfl) (fun _ => rfl) (fun _ => rfl) (fun _ => rfl)
    (fun e => e.vxCount_unnoted r)).tileSeen _ _ _

variable (habort : ((s.core c).entry i).abortReq = false) (hnan : ((s.core c).entry i).d.nanTrap = false)
include habort hnan

theorem State.vxCommit_eq (run : VxRun) (r : VxRes) :
    s.vxCommit c i run r = if r.next.isSome then s.vxWritten c i run r else (s.vxWritten c i run r).vxOver c i stDone := by
  let m := s.ownMerge c r.writes { (s.core c).who 2 ((s.core c).entry i).d.opTag with status := stMemUnc }
  have hsound : ¬ m.2 = true := Bool.eq_false_iff.1 ((CoreTo.refl c i s).ownMerge hws hrs _ _).2
  rw [State.vxCommit]
  dsimp only
  rw [habort, hnan]
  simp only [Bool.false_eq_true, if_false]
  refine (if_neg hsound).trans ?_
  obtain ⟨_, _, _, _, _, next, _⟩ := r
  cases next
  · rfl
  · rfl

/-- A vector tile is written and counted; after the last one the operation is over. -/
theorem CoreTo.vxCommit (run : VxRun) (r : VxRes) :
    CoreTo c i (((s.core c).putAll (s.ownPuts c r.writes)).vxAfter run r (((s.core c).entry i).vxCount r).health.flags)
      (((s.core c).entry i).vxAfter r) s (s.vxCommit c i run r) := by
  have hwritten := CoreTo.vxWritten (i := i) hws hrs run r
  rw [State.vxCommit_eq hws hrs habort hnan, Core.vxAfter, Entry.vxAfter]
  split
  · exact hwritten
  · exact hwritten.vxOver stDone

omit habort hnan in
theorem State.vxEnd_clean {run : VxRun} (hbad : ((s.tileView c true).vxTile c ((s.core c).entry i).d run).bad = none) :
    s.vxEnd c i run none = s.vxCommit c i run ((s.tileView c true).vxTile c ((s.core c).entry i).d run) := by
  simp [State.vxEnd, verdict, Verdict.redone, State.ownJudge_of_sound hws hrs, hbad]

end Vector

end Sys2Proof.Machine
end

section
/-! PROOFS. A mismatch that ends an operation (R116 to R118, R153, R154): what is logged and signalled, and what making its outputs unspecified
leaves of that. -/

namespace Sys2Proof.Machine

/-! ### Outputs left unspecified bring no record where the SRAM stands without errors (R92, R493) -/

theorem State.sramJudge_of_no_errors {s : State} (h : s.px.sramErr = []) (words : List Nat) (w : Who) : s.sramJudge words w = (s, []) :=
  List.foldl_fixed' (fun _ => by rw [h]; rfl) words

/-- From `s` to `t` nothing is handed to the log and nothing signalled, and no word of the SRAM stands with an error. -/
structure State.Quiet (s t : State) : Prop where
  handed : t.handed = s.handed
  signals : t.signals = s.signals
  sramErr : t.px.sramErr = []

theorem State.Quiet.refl {s : State} (h : s.px.sramErr = []) : s.Quiet s := ⟨rfl, rfl, h⟩

theorem State.Quiet.trans {s t u : State} (h : s.Quiet t) (h' : t.Quiet u) : s.Quiet u :=
  ⟨h'.handed.trans h.handed, h'.signals.trans h.signals, h'.sramErr⟩

theorem State.Quiet.foldl {α : Type} {g : State → α → State} (hg : ∀ (t : State) x, t.px.sramErr = [] → t.Quiet (g t x)) (l : List α)
    {s : State} (h : s.px.sramErr = []) : s.Quiet (l.foldl g s) :=
  List.foldlRecOn (motive := fun t => s.Quiet t) l g (.refl h) (fun t ht x _ => ht.trans (hg t x ht.sramErr))

theorem State.quiet_breakRes (s : State) (h : s.px.sramErr = []) (a n : Nat) : s.Quiet (s.breakRes a n) := by
  unfold State.breakRes
  split
  · exact ⟨rfl, rfl, h⟩
  · exact .refl h

theorem State.quiet_sramPut (s : State) (h : s.px.sramErr = []) (off : Nat) (bs : List Byte) (w : Who) : s.Quiet (s.sramPut off bs w).1 := by
  have hpx : ∀ px : Px, px.sramErr = [] → s.Quiet (State.breakRes { s with px := px } (3 * 2 ^ 48 + off) bs.length) := fun px hpx =>
    State.Quiet.trans (t := { s with px := px }) ⟨rfl, rfl, hpx⟩ (State.quiet_breakRes _ hpx _ _)
  unfold State.sramPut
  rw [State.sramJudge_of_no_errors h]
  refine hpx _ (List.foldlRecOn (motive := fun p : Px => p.sramErr = []) _ _ ?written ?cleared)
  case written =>
    refine List.foldlRecOn (motive := fun p : Px => p.sramErr = []) _ _ h (fun p hp x _ => ?_)
    exact hp
  case cleared =>
    intro p hp x _
    rw [List.contains_nil, if_neg (by decide)]
    exact (congrArg (Tab.erase · x) hp :)

theorem State.quiet_scrambleAt (s : State) (h : s.px.sramErr = []) (c : CoreId) (npa n : Nat) : s.Quiet (s.scrambleAt c npa n) := by
  unfold State.scrambleAt
  dsimp only
  split
  · refine .foldl (fun _ _ ht => ?_) _ h
    exact ⟨rfl, rfl, ht⟩
  · split
    · exact ⟨rfl, rfl, h⟩
    · exact .refl h
  · exact ⟨rfl, rfl, h⟩
  · split
    · exact s.quiet_sramPut h _ _ _
    · exact .refl h
  · exact .refl h

theorem State.quiet_scramble (s : State) (h : s.px.sramErr = []) (c : CoreId) (segs : List (Nat × Nat)) : s.Quiet (s.scramble c segs) := by
  obtain ⟨hhanded, hsignals, herr⟩ := State.Quiet.foldl (fun s (g : Nat × Nat) hs => s.quiet_scrambleAt hs c g.1 g.2) segs h
  exact ⟨hhanded, hsignals, herr⟩

/-! ### The mismatch that ends the operation -/

/-- A second mismatch: the second execution's, or that of an operation that has re-executed before (R116, R117). -/
theorem verdict_failed {e : Entry} {f : Mismatch} (habort : e.abortReq = false) (h : e.reexec = true ∨ f.second ≠ []) :
    verdict (some f) e = .failed (!e.reexec) := by
  rcases h with h | h
  · simp [verdict, habort, h]
  · simp [verdict, habort, h]

/-- `t` follows `s` with the failure of core `c`'s operation recorded, the core suspect and node firmware signalled. -/
structure State.FaultLogged (c : CoreId) (tag : BitVec 32) (s t : State) : Prop where
  suspect : (t.core c).suspect = true
  signals : t.signals = s.signals ++ [8 + c.die.val]
  handed : ∃ r, t.handed.getLast? = some r ∧ r.cls = 0x03 ∧ r.severity = 2 ∧ r.status = stResidueFault ∧ r.opTag = tag

theorem State.faultLogged_mismatched (s : State) (c : CoreId) (i unit : Nat) (vec : Bool) (m : Mismatch) (again : Bool)
    (detail : Nat → Finding → List Byte) :
    s.FaultLogged c ((s.core c).entry i).d.opTag (s.mismatched c i unit vec m (.failed again) detail) where
  suspect := by simp [State.mismatched, State.suspectSet]
  signals := by cases again <;> rfl
  handed := by
    cases again
    · exact ⟨_, List.getLast?_concat, rfl, rfl, rfl, rfl⟩
    · exact ⟨_, List.getLast?_concat, rfl, rfl, rfl, rfl⟩

theorem State.px_mismatched_failed (s : State) (c : CoreId) (i unit : Nat) (vec : Bool) (m : Mismatch) (again : Bool)
    (detail : Nat → Finding → List Byte) : (s.mismatched c i unit vec m (.failed again) detail).px = s.px := by
  cases again <;> rfl

/-- What touches stores alone, and logs nothing, leaves the fault logged. -/
theorem State.FaultLogged.scramble {c : CoreId} {tag : BitVec 32} {s t : State} (h : s.FaultLogged c tag t) (hsram : t.px.sramErr = [])
    (segs : List (Nat × Nat)) : s.FaultLogged c tag (t.scramble c segs) := by
  obtain ⟨hhanded, hsignals, -⟩ := t.quiet_scramble hsram c segs
  obtain ⟨hsus, hsig, hlast⟩ := h
  exact ⟨(congrArg Core.suspect (t.onlyStores_scramble c segs c) :).trans hsus, hsignals.trans hsig, by rwa [hhanded]⟩

theorem State.FaultLogged.updCore {c : CoreId} {tag : BitVec 32} {s t : State} (h : s.FaultLogged c tag t) {g : Core → Core}
    (hg : ∀ k, (g k).suspect = k.suspect) : s.FaultLogged c tag (t.updCore c g) :=
  ⟨by rw [State.core_updCore, if_pos rfl, hg, h.suspect], h.signals, h.handed⟩

theorem State.FaultLogged.noteRecords {c : CoreId} {tag : BitVec 32} {s t : State} (h : s.FaultLogged c tag t) (s0 : State) (i : Nat) :
    s.FaultLogged c tag (t.noteRecords s0 c i) := by
  unfold State.noteRecords
  split
  · exact h
  · exact h.updCore (fun _ => rfl)

/-- A note in an operation's record that an error record was logged leaves its outcome and the engines (R81). -/
theorem State.noteRecords_keeps (s s0 : State) (c : CoreId) (i : Nat) :
    let t := s.noteRecords s0 c i
    ((t.core c).entry i).outcome = ((s.core c).entry i).outcome ∧ (t.core c).mx = (s.core c).mx ∧ (t.core c).vx = (s.core c).vx := by
  unfold State.noteRecords
  dsimp only
  split
  · exact ⟨rfl, rfl, rfl⟩
  · simp [State.markLogged, Core.updEntry, Core.setEntry, Core.entry]

/-! ### An operation that ends with its output unspecified -/

section Spoil
variable (s : State) (c : CoreId) (i : Nat) (st : Byte)

/-- It leaves its engine free. -/
theorem State.mxSpoil_ends (x : MxBody) :
    (((s.mxSpoil c i x st).core c).entry i).outcome = some st ∧ ((s.mxSpoil c i x st).core c).mx = none := by
  have h := ((CoreTo.refl c i (s.scramble c x.cSegs)).finish st).updBody (g := fun k => { k with mx := none }) (fun _ => rfl) (fun _ => rfl)
  exact ⟨h.outcome, h.mx⟩

theorem State.vxSpoil_ends (d : Desc) :
    (((s.vxSpoil c i d st).core c).entry i).outcome = some st ∧ ((s.vxSpoil c i d st).core c).vx = none := by
  have h := (CoreTo.refl c i (s.scramble c (s.vxOutSegs c d))).vxOver st
  exact ⟨h.outcome, h.vx⟩

variable {c s} {t : State} {tag : BitVec 32} (h : s.FaultLogged c tag t) (hsram : t.px.sramErr = [])
include h hsram

theorem State.FaultLogged.mxSpoil (x : MxBody) : s.FaultLogged c tag (t.mxSpoil c i x st) :=
  ((h.scramble hsram x.cSegs).updCore (g := fun k => k.updEntry i (fun e => { e with outcome := some st })) (fun _ => rfl)).updCore
    (g := fun k => { k with mx := none }) (fun _ => rfl)

theorem State.FaultLogged.vxSpoil (d : Desc) : s.FaultLogged c tag (t.vxSpoil c i d st) := by
  obtain ⟨hsuspect, hsignals, hhanded⟩ := h.scramble hsram (t.vxOutSegs c d)
  have hover := (CoreTo.refl c i (t.scramble c (t.vxOutSegs c d))).vxOver st
  exact ⟨hover.suspect.trans hsuspect, hsignals, hhanded⟩

end Spoil

section Fault
variable {c : CoreId} {s : State} {i : Nat} {m f : Mismatch} (hws : (s.core c).wsErr = []) (hrs : (s.core c).rsErr = [])
  (habort : ((s.core c).entry i).abortReq = false) (hsecond : ((s.core c).entry i).reexec = true ∨ f.second ≠ [])
  (hsram : s.px.sramErr = [])
include hws hrs habort hsecond hsram

/-- A pass whose second execution mismatches, or that may not be executed again, ends the operation (R116, R117). -/
theorem State.mxEnd_second_mismatch {run : MxRun}
    (hfits : misFits false (((s.core c).entry i).d.mx.hasCheck (run.pass + 1 == ((s.core c).entry i).d.mx.passes)) m = some f) :
    let t := s.mxEnd c i run (some m)
    s.FaultLogged c ((s.core c).entry i).d.opTag t ∧ ((t.core c).entry i).outcome = some stResidueFault ∧ (t.core c).mx = none := by
  let x := ((s.core c).entry i).d.mx
  let again := !((s.core c).entry i).reexec
  let detail := fun pass (g : Finding) => mxDetail x (x.at run.tile run.pass) pass g.unit
  have hend : s.mxEnd c i run (some m) = (s.mismatched c i 0x01 false f (.failed again) detail).mxSpoil c i x stResidueFault := by
    simp [State.mxEnd, hfits, verdict_failed habort hsecond, State.ownJudge_of_sound hws hrs, x, again, detail]
  have hsram' : (s.mismatched c i 0x01 false f (.failed again) detail).px.sramErr = [] := by rwa [State.px_mismatched_failed]
  intro t
  rw [show t = _ from hend]
  exact ⟨(s.faultLogged_mismatched c i 0x01 false f again detail).mxSpoil i stResidueFault hsram' x, State.mxSpoil_ends _ c i stResidueFault x⟩

/-- So does such a tile of the vector engine (R153). -/
theorem State.vxEnd_second_mismatch {run : VxRun} (hbad : ((s.tileView c true).vxTile c ((s.core c).entry i).d run).bad = none)
    (hfits : misFits true ((s.core c).entry i).d.vxChecks m = some f) :
    let t := s.vxEnd c i run (some m)
    s.FaultLogged c ((s.core c).entry i).d.opTag t ∧ ((t.core c).entry i).outcome = some stResidueFault ∧ (t.core c).vx = none := by
  let d := ((s.core c).entry i).d
  let again := !((s.core c).entry i).reexec
  have hend : s.vxEnd c i run (some m) = (s.mismatched c i 0x02 true f (.failed again) (vxDetail d run)).vxSpoil c i d stResidueFault := by
    simp [State.vxEnd, hfits, verdict_failed habort hsecond, State.ownJudge_of_sound hws hrs, hbad, d, again]
  have hsram' : (s.mismatched c i 0x02 true f (.failed again) (vxDetail d run)).px.sramErr = [] := by rwa [State.px_mismatched_failed]
  intro t
  rw [show t = _ from hend]
  exact ⟨(s.faultLogged_mismatched c i 0x02 true f again (vxDetail d run)).vxSpoil i stResidueFault hsram' d, State.vxSpoil_ends _ c i stResidueFault d⟩

end Fault

end Sys2Proof.Machine
end

section
/-! PROOFS. The statements about the matrix and the vector engine, from the lemmas above. -/

namespace Sys2Proof.Machine

/-- Settles O9: by whether a matrix tile's pass is its last, and by whether a vector tile is its operation's last; what is written, and what
stands, follows from the bytes that the writes bring to each store. -/
theorem matrixAndVectorTilesEndClean : Obligations.MatrixAndVectorTilesEndClean := by
  unfold Obligations.MatrixAndVectorTilesEndClean
  refine ⟨?matrix, ?vector⟩
  case matrix =>
    intro c s run e x a v o hmx hbusy habort htileq hws hrs hnan
    have houtcome : e.outcome = none := Entry.outcome_of_busy hbusy
    have hexec : ∀ {k e'}, CoreTo c run.entry k e' s (s.mxCommit c run.entry run) →
        exec (.matrixTilePassEnd c none []) s = .next (s.mxCommit c run.entry run) := fun h => by
      rw [exec_matrixTilePassEnd hmx hbusy htileq, State.mxEnd_clean hws hrs, h.noteRecords]
    rcases Nat.lt_or_ge (run.pass + 1) x.passes with hpass | hpass
    · have h := CoreTo.mxCommit_before_last habort hpass
      exact ⟨_, hexec h, h.only, h.others,
        fun _ => ⟨h.mx, h.store false, h.store true, h.outcome.trans houtcome⟩,
        fun hlast => absurd hpass (Nat.not_lt.2 hlast)⟩
    · have h := CoreTo.mxCommit_last habort hws hrs htileq hnan hpass
      have hsegs : writeSegs (s.mxWrites c e.d run) = x.tileSegs a := MxBody.writeSegs_tileWrites (s.mxOut_length c e.d x a _)
      have hstands := fun res p (hp : p ∉ s.ownPas c res (x.tileSegs a)) => h.store_unwritten (ws := s.mxWrites c e.d run) (fun _ => rfl)
        (res := res) (p := p) (by rw [hsegs]; exact hp)
      refine ⟨_, hexec h, h.only, h.others, fun hlt => absurd hlt (Nat.not_lt.2 hpass), fun _ => ⟨fun hmore => ?next, fun hdone => ?done, ?count,
        fun hn hn' i g hg => ?written, hstands false, hstands true⟩⟩
      case next => exact ⟨h.mx.trans (if_pos hmore), h.outcome.trans (by rw [if_pos hmore]; exact houtcome)⟩
      case done =>
        have hno := Nat.not_lt.2 hdone
        exact ⟨h.mx.trans (if_neg hno), h.outcome.trans (by rw [if_neg hno])⟩
      case count =>
        rw [h.health, ← State.mxCountedEntry_elements s c e run]
        split <;> rfl
      case written =>
        have hnodup : ∀ res, (s.ownPas c res (writeSegs (s.mxWrites c e.d run))).Nodup := by
          rw [hsegs]
          exact Bool.forall_bool.2 ⟨hn, hn'⟩
        have hread := h.ownPeek_written (ws := s.mxWrites c e.d run) (fun _ => rfl) (Core.parts_putAll _ _) hnodup (MxBody.mem_tileWrites hg o.1)
        rwa [MxBody.rowBytes_length (s.mxOut_length c e.d x a _) hg] at hread
  case vector =>
    intro c s run e r hvx hbusy habort htileq hnan hws hrs hbad
    have h := CoreTo.vxCommit hws hrs habort hnan run r
    have hexec : exec (.vectorTileEnd c none []) s = .next (s.vxCommit c run.entry run r) := by
      rw [exec_vectorTileEnd hvx hbusy htileq, State.vxEnd_clean hws hrs hbad, h.noteRecords]
    have hhealth := h.health.trans (Entry.vxAfter_health _ _)
    have hstore := fun res => Core.vxAfter_store ((s.core c).putAll (s.ownPuts c r.writes)) run r (e.vxCount r).health.flags res
    refine ⟨_, hexec, h.only, h.others, fun v hnext => ?next, fun hnone => ?done, fun h4 h9 => ?count, fun hop => ?byIndex, fun hn hn' w hw => ?written,
      fun p hp => h.store_unwritten hstore (res := false) hp, fun p hp => h.store_unwritten hstore (res := true) hp⟩
    case next =>
      have hsome : r.next.isSome = true := by rw [hnext]; rfl
      rw [Core.vxAfter, Entry.vxAfter, if_pos hsome, if_pos hsome] at h
      refine ⟨h.vx.trans (congrArg some ?_), h.outcome.trans ((e.vxCount_outcome r).trans (Entry.outcome_of_busy hbusy))⟩
      rw [hnext]
      rfl
    case done =>
      have hlast : ¬ r.next.isSome = true := by rw [hnone]; decide
      rw [Core.vxAfter, Entry.vxAfter, if_neg hlast, if_neg hlast] at h
      refine ⟨h.vx, h.outcome, ?_⟩
      rw [hhealth]
      exact h.vxFlags.trans (congrArg (· ||| _) (congrArg Core.vxFlags (Core.putAll_bare _ _) :))
    case count =>
      rw [hhealth]
      exact Entry.vxCount_elements (not_or.2 ⟨h4, h9⟩) r
    case byIndex =>
      rw [hhealth]
      exact Entry.vxCount_elements_by_index hop r
    case written =>
      exact h.ownPeek_written hstore ((Core.vxAfter_parts _ _ _ _).trans (Core.parts_putAll _ _)) (Bool.forall_bool.2 ⟨hn, hn'⟩) hw

/-- Settles O10, for either engine: what a mismatch leaves in the log stands when the outputs are made unspecified and the operation ends. -/
theorem secondMismatchEndsTheOperation : Obligations.SecondMismatchEndsTheOperation := by
  unfold Obligations.SecondMismatchEndsTheOperation
  refine ⟨?matrix, ?vector⟩
  case matrix =>
    intro c s run m f e hmx hbusy habort htileq hws hrs hfits hsram hsecond
    obtain ⟨hlogged, hout, hfree⟩ := State.mxEnd_second_mismatch hws hrs habort hsecond hsram hfits
    obtain ⟨hsuspect, hsignals, r, hlast, hrec⟩ := hlogged.noteRecords s run.entry
    obtain ⟨hout', hmx', -⟩ := (s.mxEnd c run.entry run (some m)).noteRecords_keeps s c run.entry
    exact ⟨_, r, exec_matrixTilePassEnd hmx hbusy htileq _, hout'.trans hout, hsuspect, hmx'.trans hfree, hsignals, hlast, hrec⟩
  case vector =>
    intro c s run m f e hvx hbusy habort htileq hws hrs hbad hfits hsram hsecond
    obtain ⟨hlogged, hout, hfree⟩ := State.vxEnd_second_mismatch hws hrs habort hsecond hsram hbad hfits
    obtain ⟨hsuspect, hsignals, r, hlast, hrec⟩ := hlogged.noteRecords s run.entry
    obtain ⟨hout', -, hvx'⟩ := (s.vxEnd c run.entry run (some m)).noteRecords_keeps s c run.entry
    exact ⟨_, r, exec_vectorTileEnd hvx hbusy htileq _, hout'.trans hout, hsuspect, hvx'.trans hfree, hsignals, hlast, hrec⟩

end Sys2Proof.Machine
end

section
/-! PROOFS. Resident-store slices (R196, R208, R209, R213): a foreign store served, a row read by patrol scrub, and the words that a burst
upset hits. -/

namespace Sys2Proof.Machine

/-! ### The oldest request of a foreign queue (R196) -/

theorem exec_foreignRequestServe {c : CoreId} {s : State} {m : MemReq} {rest : List MemReq} (h : (s.core c).foreign = m :: rest) :
    exec (.foreignRequestServe c []) s = .next (s.foreignServe c) := by
  change execForeignRequestServe c [] s = _
  simp [execForeignRequestServe, h]

/-- The core with the rest of its foreign queue. -/
def Core.dequeued (k : Core) (rest : List MemReq) : Core := { k with foreign := rest }

/-- With none held in the router, the queue moves up and the flit has its access. -/
theorem State.foreignServe_flit {c : CoreId} {s : State} {m : MemReq} {rest : List MemReq} {f : Flit} (hqueue : (s.core c).foreign = m :: rest)
    (hheld : (s.core c).foreignHeld = []) (hasker : m.asker = .flit f) :
    s.foreignServe c = (s.updCore c (·.dequeued rest)).flitServe c f := by
  simp only [State.foreignServe, hqueue, hasker, State.updCore, hheld, Core.dequeued]

theorem State.core_with_mesh (s : State) (ms : List Flit) (d : CoreId) : ({ s with mesh := ms } : State).core d = s.core d := rfl

theorem OnlyCore.with_mesh {c : CoreId} {s t : State} (h : OnlyCore c s t) (ms : List Flit) :
    OnlyCore c { s with mesh := ms } { t with mesh := ms } := by
  obtain ⟨ht, hothers⟩ := h
  exact ⟨by rw [ht], hothers⟩

/-- A store to a slice without standing errors writes its bytes; its notice goes out on the mesh, and nothing else changes. -/
theorem State.flitServe_slice_store {s : State} {d : CoreId} {f : Flit} (hres : f.resident = true) (hk : f.kind ≠ 1)
    (hroom : f.off.toNat + f.len ≤ rsSize d) (hlen : f.payload.length = f.len) (hsound : (s.core d).soundStore true) :
    let t := s.flitServe d f
    OnlyCore d { s with mesh := t.mesh } t ∧ (t.core d).foreign = (s.core d).foreign ∧
      (t.core d).rs = (s.core d).rs.writeN f.off.toNat f.payload := by
  have hpad : padTo f.len f.payload = f.payload := hlen ▸ padTo_length _
  have hserve : ∃ l ms, s.flitServe d f = { s.updCore d (fun k =>
      k.putPhys true (((s.core d).physBytes d true f.off.toNat f.payload.length).zip f.payload) l) with mesh := ms } := by
    simp only [State.flitServe, State.flitAccess, hres, if_true, Nat.not_lt.2 hroom, if_false, Bool.not_true, Bool.false_and,
      Bool.false_eq_true, if_neg hk, hpad, State.storeWrite_of_sound hsound]
    exact ⟨_, State.flitAnswer_eq_mesh _ d f _ _ _⟩
  obtain ⟨l, ms, hserve⟩ := hserve
  rw [hserve]
  refine ⟨(onlyCore_updCore d s _).with_mesh ms, ?_⟩
  rw [State.core_with_mesh, State.core_updCore, if_pos rfl]
  exact ⟨rfl, (Core.putPhys_slice (s.core d) d f.off.toNat f.payload l).2⟩

/-- A store served leaves its bytes in the slice and the rest of the queue; nothing else changes but the mesh. -/
theorem State.foreignServe_slice_store {c : CoreId} {s : State} {m : MemReq} {rest : List MemReq} {f : Flit}
    (hqueue : (s.core c).foreign = m :: rest) (hheld : (s.core c).foreignHeld = []) (hasker : m.asker = .flit f)
    (hres : f.resident = true) (hk : f.kind ≠ 1) (hroom : f.off.toNat + f.len ≤ rsSize c) (hlen : f.payload.length = f.len)
    (herr : (s.core c).rsErr = []) :
    let t := s.foreignServe c
    OnlyCore c { s with mesh := t.mesh } t ∧ (t.core c).foreign = rest ∧ (t.core c).rs = (s.core c).rs.writeN f.off.toNat f.payload := by
  have hcore : (s.updCore c (·.dequeued rest)).core c = (s.core c).dequeued rest := by rw [State.core_updCore, if_pos rfl]
  have hsound : ((s.updCore c (·.dequeued rest)).core c).soundStore true := by rw [hcore]; exact herr
  obtain ⟨honly, hforeign, hrs⟩ := State.flitServe_slice_store hres hk hroom hlen hsound
  rw [hcore] at hforeign hrs
  rw [State.foreignServe_flit hqueue hheld hasker]
  exact ⟨((onlyCore_updCore c s _).with_mesh _).trans honly, hforeign, hrs⟩

/-! ### A row read by patrol scrub (R209, R213) -/

theorem Tab.set_single_default {α : Type} [Inhabited α] [DecidableEq α] (k : Nat) (v : α) : Tab.set [(k, v)] k default = [] := by
  simp [Tab.set, Tab.erase]

/-- A correction in a slice is counted and written back; the bytes stand as they read. -/
theorem State.core_storeCorrect_slice (s : State) (c : CoreId) (word bit : Nat) (w : Who) :
    let k := (s.storeCorrect c true word bit w).core c
    k.rsErr = (s.core c).rsErr.set word [] ∧ k.rsCorrected = satInc (s.core c).rsCorrected ∧ k.rs = (s.core c).rs := by
  simp only [State.storeCorrect, State.core_updCore, State.core_ite_hand, if_true, and_self]

/-- Judging words of a slice in which one bit of one of them stands wrong is correcting it. -/
theorem State.judge_one_flipped {s : State} {c : CoreId} {word b : Nat} (h : (s.core c).rsErr = [(word, [b])]) {words : List Nat}
    (hword : word ∈ words) (w : Who) : s.judge c true words w = (s.storeCorrect c true word b w, []) := by
  simp [State.judge, h, hword]

/-- The words of a row of a store. -/
def rowWords (row : Nat) : List Nat := (List.range 64).map (row * 64 + ·)

theorem mem_rowWords {word row : Nat} : word ∈ rowWords row ↔ word / 64 = row := by
  simp only [rowWords, List.mem_map, List.mem_range]
  constructor
  · rintro ⟨i, hi, rfl⟩
    omega
  · intro h
    exact ⟨word % 64, by omega, by omega⟩

/-- What a scrub that is due leaves of the core: its next row is judged, and the sweep goes on. -/
theorem exec_scrubRow_due {c : CoreId} {s : State} (hon : (s.cdie c.die.val).scrubOn = true) (hus : (s.cdie c.die.val).scrubUs ≠ 0)
    (hrails : s.railsUp c.die.val = true) (hdue : s.scrubDue c ≤ s.t) :
    let row := (s.core c).scrubAt % (rsSize c / 512)
    ∃ t, exec (.scrubRow c [] []) s = .next t ∧ t.core c = { (s.judge c true (rowWords row) { source := 5, sev := 0 }).1.core c with
      scrubAt := (row + 1) % (rsSize c / 512), scrubLast := s.scrubDue c, scrubTimes := (t.core c).scrubTimes } := by
  have hgo : ¬ (!(s.cdie c.die.val).scrubOn || (s.cdie c.die.val).scrubUs = 0 || !s.railsUp c.die.val || s.t < s.scrubDue c) = true := by
    simp only [hon, hrails, decide_eq_false hus, decide_eq_false (Nat.not_lt.2 hdue)]
    decide
  refine ⟨_, if_neg hgo, ?_⟩
  split
  · rw [State.core_of_updCdie, State.core_updCore, if_pos rfl]
    rfl
  · rw [State.core_updCore, if_pos rfl]
    rfl

/-! ### Burst upsets (R208) -/

/-- A flip brings a word at most one more wrong bit, so its wrong bits are at most those before and the flips that hit it. -/
theorem length_get_mergeUps_le (ups : List Upset) (errs : Tab (List Nat)) (word : Nat) :
    ((mergeUps errs ups).get word).length ≤ (errs.get word).length + ((ups.flatMap upsetHits).map (·.1)).count word := by
  unfold mergeUps
  generalize ups.flatMap upsetHits = hits
  induction hits generalizing errs with
  | nil => simp
  | cons h hits ih =>
    refine (ih _).trans ?_
    rw [Tab.get_upd, List.map_cons, List.count_cons]
    by_cases hw : word = h.1
    · have hflip : (if !(errs.get h.1).contains h.2 then h.2 :: errs.get h.1
          else if h.2 < 72 then (errs.get h.1).filter (· != h.2) else errs.get h.1).length ≤ (errs.get h.1).length + 1 := by
        have hfilter := List.length_filter_le (· != h.2) (errs.get h.1)
        split
        · simp
        · split <;> omega
      simp only [hw, if_true, beq_self_eq_true]
      omega
    · simp only [hw, if_false, beq_false_of_ne (Ne.symm hw), Bool.false_eq_true]
      omega

/-- Up to four adjacent cells of a cell row lie in different words: the four codewords alternate. -/
theorem nodup_words_of_burst (res : Bool) (pair : Nat) (bank : Fin 32) (first : Fin 288) {n : Nat} (hn : n ≤ 4) :
    ((upsetHits (.cells res pair bank first n)).map (·.1)).Nodup := by
  simp only [upsetHits, List.map_map]
  refine List.Nodup.map_on (fun i hi j hj hij => ?_) List.nodup_range
  simp only [List.mem_range] at hi hj
  simp only [Function.comp_apply] at hij
  omega

theorem State.rsErr_upset_slice (s : State) (c : CoreId) (pair : Nat) (bank : Fin 32) (first : Fin 288) (n : Nat) :
    ((s.upset c [.cells true pair bank first n]).core c).rsErr = mergeUps (s.core c).rsErr [.cells true pair bank first n] := by
  simp [State.upset, List.filter_cons, inSlice]

/-- Settles O14: a store served is one put into the slice; a scrub that is due judges its row, where one flipped bit is corrected; and the
cells of a burst lie in different words. -/
theorem slicesServeAndAreScrubbed : Obligations.SlicesServeAndAreScrubbed := by
  unfold Obligations.SlicesServeAndAreScrubbed
  refine ⟨?serve, ?scrub, ?burst⟩
  case serve =>
    intro c s m rest f hqueue hheld hasker hkind hres hroom hlen herr
    obtain ⟨honly, hrest, hrs⟩ := State.foreignServe_slice_store hqueue hheld hasker hres (by simp [hkind]) hroom hlen herr
    refine ⟨_, exec_foreignRequestServe hqueue, hrest, honly, ?_⟩
    rw [hrs, ← hlen]
    exact ⟨Mem.read_writeN_at _ _ _, Mem.read_writeN_other _ _ _⟩
  case scrub =>
    intro c s word b hon hus hrails hdue hrow herr hword
    obtain ⟨t, ht, hcore⟩ := exec_scrubRow_due hon hus hrails hdue
    rw [Nat.mod_eq_of_lt hrow, State.judge_one_flipped herr (mem_rowWords.2 hword)] at hcore
    obtain ⟨hfixed, hcount, hbytes⟩ := s.core_storeCorrect_slice c word b { source := 5, sev := 0 }
    have hclean : (s.core c).rsErr.set word [] = [] := by rw [herr]; exact Tab.set_single_default word [b]
    exact ⟨t, ht, by rw [hcore]; exact hfixed.trans hclean,
      by rw [hcore]; exact hbytes, by rw [hcore]; exact hcount, by rw [hcore], by rw [hcore]⟩
  case burst =>
    intro c s pair bank first n word herr hn
    rw [State.rsErr_upset_slice, herr]
    have hhits := List.nodup_iff_count_le_one.1 (nodup_words_of_burst true pair bank first hn) word
    exact (length_get_mergeUps_le [.cells true pair bank first n] [] word).trans (by
      rw [List.flatMap_singleton]
      exact (Nat.zero_add _).trans_le hhits)

end Sys2Proof.Machine
end

section
/-! PROOFS. Partitions and banks of a working store (R197, R198, R202 to R204): what a write to a partition entry or to the bank register does, and
what a bank holds once it is powered down or cleared. -/

namespace Sys2Proof.Machine

/-! ### Writes to a partition entry (R197, R198) -/

section Partitions
variable {c : CoreId} {s : State} {n : Nat} {v : Reg}

theorem State.partWrite_ignored (h : isSolver c = true ∨ (s.core c).drained = false) : s.partWrite c n v = s := by
  have hno : (isSolver c || !(s.core c).drained) = true := by simpa using h
  simp only [State.partWrite, hno, if_true]

variable (hgen : isSolver c = false) (hdrained : (s.core c).drained = true)
include hgen hdrained

theorem State.partWrite_drained : s.partWrite c n v =
    if (s.core c).parts.any (fun e => e.1 != n && (partOf v).overlaps e.2) then s.hand { unit := coreUnit c 0x04, cls := 0x0B, severity := 0 }
    else s.updCore c (fun k => { k with parts := k.parts.set n (partOf v) }) := by
  simp [State.partWrite, hgen, hdrained]

theorem State.partWrite_takes (h : ∀ e ∈ (s.core c).parts, e.1 ≠ n → (partOf v).overlaps e.2 = false) :
    s.partWrite c n v = s.updCore c (fun k => { k with parts := k.parts.set n (partOf v) }) := by
  have hnone : (s.core c).parts.any (fun e => e.1 != n && (partOf v).overlaps e.2) = false := by
    simpa [List.any_eq_false] using h
  rw [State.partWrite_drained hgen hdrained, hnone, if_neg Bool.false_ne_true]

theorem State.partWrite_overlapping (h : ∃ e ∈ (s.core c).parts, e.1 ≠ n ∧ (partOf v).overlaps e.2 = true) :
    s.partWrite c n v = s.hand { unit := coreUnit c 0x04, cls := 0x0B, severity := 0 } := by
  have hsome : (s.core c).parts.any (fun e => e.1 != n && (partOf v).overlaps e.2) = true := by
    simpa [List.any_eq_true] using h
  rw [State.partWrite_drained hgen hdrained, if_pos hsome]

end Partitions

/-! ### Masks of six bits -/

theorem sumN_range_succ (f : Nat → Nat) (n : Nat) : sumN ((List.range (n + 1)).map f) = sumN ((List.range n).map f) + f n := by
  simp [sumN, List.range_succ]

theorem b2n_eq_toNat (b : Bool) : b2n b = b.toNat := by cases b <;> rfl

/-- Bit `i` of a number summed up from its first `n` bits. -/
theorem testBit_sumN_bits (f : Nat → Bool) (n i : Nat) :
    (sumN ((List.range n).map (fun b => b2n (f b) * 2 ^ b))).testBit i = (decide (i < n) && f i) := by
  induction n generalizing i with
  | zero => simp [sumN]
  | succ n ih =>
    have hlow : sumN ((List.range n).map (fun b => b2n (f b) * 2 ^ b)) < 2 ^ n :=
      Nat.lt_pow_two_of_testBit _ (fun j hj => by rw [ih, decide_eq_false (Nat.not_lt.2 hj), Bool.false_and])
    rw [sumN_range_succ, Nat.add_comm, Nat.mul_comm, Nat.two_pow_add_eq_or_of_lt hlow, Nat.testBit_or, ih, Nat.testBit_two_pow_mul, b2n_eq_toNat,
      Nat.testBit_bool_toNat]
    rcases Nat.lt_trichotomy i n with hi | rfl | hi
    · simp [hi, Nat.not_le.2 hi, Nat.lt_succ_of_lt hi]
    · simp
    · simp [Nat.not_lt.2 hi.le, Nat.sub_ne_zero_of_lt hi, show ¬ i < n + 1 by omega]

theorem getLsbD_sumN_bits (f : Nat → Bool) (b : Nat) :
    (BitVec.ofNat 6 (sumN ((List.range 6).map (fun b => b2n (f b) * 2 ^ b)))).getLsbD b = (decide (b < 6) && f b) := by
  rw [BitVec.getLsbD_ofNat, testBit_sumN_bits, ← Bool.and_assoc, Bool.and_self]

/-! ### Cleared memory -/

/-- What stands of a table when keys are dropped. -/
theorem Tab.get_filter_key {α : Type} [Inhabited α] (t : Tab α) (p : Nat → Bool) (k : Nat) :
    Tab.get (t.filter (fun e => p e.1)) k = if p k = true then Tab.get t k else default := by
  induction t with
  | nil => simp
  | cons e t ih =>
    by_cases hk : e.1 = k
    · subst hk
      cases hp : p e.1 <;> simp [Tab.get_cons, hp, ih]
    · cases hp : p e.1 <;> simp [Tab.get_cons, hp, hk, ih]

theorem Mem.read_clear (m : Mem) (lo hi a : Nat) : (m.clear lo hi).read a = if lo ≤ a ∧ a < hi then 0 else m.read a := by
  have hread := Tab.get_filter_key m (fun x => x < lo || hi ≤ x) a
  by_cases ha : lo ≤ a ∧ a < hi
  · have hdrop : ¬ (a < lo || hi ≤ a) = true := by simpa using ha
    rw [if_pos ha]
    exact hread.trans (if_neg hdrop)
  · have hkeep : (a < lo || hi ≤ a) = true := by simpa [imp_iff_not_or, not_and_or] using ha
    rw [if_neg ha]
    exact hread.trans (if_pos hkeep)

/-- The bytes of bank `b` (R189). -/
theorem bank_of_byte (b a : Nat) : b * 8192 ≤ a ∧ a < (b + 1) * 8192 ↔ a / 8192 = b := by omega

theorem Mem.read_clear_banks (m : Mem) (banks : List Nat) (a : Nat) :
    (banks.foldl (fun m b => m.clear (b * 8192) ((b + 1) * 8192)) m).read a = if a / 8192 ∈ banks then 0 else m.read a := by
  induction banks generalizing m with
  | nil => rfl
  | cons b banks ih =>
    simp only [List.foldl_cons, ih, Mem.read_clear, bank_of_byte, List.mem_cons, ← ite_or, or_comm]

/-! ### Writes to the bank register (R203, R204) -/

/-- The banks that are to be powered after a write: those asked for, and those powered that a valid partition covers. -/
def Core.bankWanted (k : Core) (v : Reg) (b : Nat) : Bool := v.getLsbD b || (k.bankOn.getLsbD b && k.bankKept b)

/-- The banks that a write powers down. -/
def Core.bankLost (k : Core) (v : Reg) (b : Nat) : Bool := k.bankOn.getLsbD b && !k.bankWanted v b

/-- What a write to the bank register does on a drained general core. -/
theorem State.bankWrite_spec {c : CoreId} {s : State} (hgen : isSolver c = false) (hdrained : (s.core c).drained = true) (v : Reg) :
    let k := s.core c
    let t := s.bankWrite c v
    OnlyCore c s t ∧ (t.core c).rs = k.rs ∧
      (∀ b, (t.core c).bankOn.getLsbD b = (decide (b < 6) && k.bankWanted v b)) ∧
      (∀ b, (t.core c).bankReady.getLsbD b = (decide (b < 6) && (k.bankReady.getLsbD b && k.bankWanted v b && k.bankOn.getLsbD b))) ∧
      ∀ a, (t.core c).ws.read a = if a / 8192 < 6 ∧ k.bankLost v (a / 8192) = true then 0 else k.ws.read a := by
  have hgo : ¬ (isSolver c || !(s.core c).drained) = true := by simp [hgen, hdrained]
  intro k t
  have ht : t = _ := if_neg hgo
  rw [ht]
  refine ⟨onlyCore_updCore c s _, ?_⟩
  rw [State.core_updCore, if_pos rfl]
  refine ⟨rfl, getLsbD_sumN_bits _, getLsbD_sumN_bits _, fun a => (Mem.read_clear_banks _ _ a).trans ?_⟩
  simp only [List.mem_filter, List.mem_range]
  rfl

/-- A powered bank that has been cleared is ready, and reads zero. -/
theorem exec_bankReady_powered {c : CoreId} {s : State} {b : Fin 6} (hon : (s.core c).bankOn.getLsbD b.val = true)
    (hready : (s.core c).bankReady.getLsbD b.val = false) :
    ∃ t, exec (.bankReady c b) s = .next t ∧ OnlyCore c s t ∧ (t.core c).bankOn = (s.core c).bankOn ∧
      (t.core c).bankReady = (s.core c).bankReady ||| BitVec.ofNat 6 (2 ^ b.val) ∧
      (t.core c).ws = (s.core c).ws.clear (b.val * 8192) ((b.val + 1) * 8192) := by
  have hgo : ¬ (!(s.core c).bankOn.getLsbD b.val || (s.core c).bankReady.getLsbD b.val) = true := by rw [hon, hready]; decide
  refine ⟨_, if_neg hgo, onlyCore_updCore c s _, ?_⟩
  rw [State.core_updCore, if_pos rfl]
  exact ⟨rfl, rfl, rfl⟩

/-- Settles O19: a write to a partition entry by its three cases, one to the bank register bit by bit and byte by byte from what it does on a
drained core, and a bank made ready by what clearing leaves. -/
theorem partitionsAndBanks : Obligations.PartitionsAndBanks := by
  unfold Obligations.PartitionsAndBanks
  intro c s
  refine ⟨?takes, ?ignored, ?overlaps, ?power, ?ready⟩
  case takes =>
    intro n v hgen hdrained h
    refine ⟨_, congrArg Host.Outcome.next (State.partWrite_takes hgen hdrained h), onlyCore_updCore c s _, ?_⟩
    rw [State.core_updCore, if_pos rfl]
    exact ⟨rfl, Tab.get_set_same _ _ _, fun m hm => Tab.get_set_other _ _ hm⟩
  case ignored =>
    intro n v h
    exact congrArg Host.Outcome.next (State.partWrite_ignored h)
  case overlaps =>
    intro n v hgen hdrained h
    exact ⟨_, { unit := coreUnit c 0x04, cls := 0x0B, severity := 0, time := s.t },
      congrArg Host.Outcome.next (State.partWrite_overlapping hgen hdrained h), rfl, rfl, rfl⟩
  case power =>
    intro v hgen hdrained
    obtain ⟨honly, hrs, hon, hready, hbytes⟩ := State.bankWrite_spec hgen hdrained v
    refine ⟨_, rfl, honly, hrs, ?kept, ?asked, ?off, ?readyBefore, ?lost, ?stays⟩
    case kept =>
      intro b hpow hkept
      simp [hon, Core.bankWanted, hpow, hkept]
    case asked =>
      intro b hask
      simp [hon, Core.bankWanted, hask]
    case off =>
      intro b hask hkept
      have hunwanted : (s.core c).bankWanted v b.val = false := by
        simp only [Core.bankWanted, hask, hkept, Bool.and_false, Bool.or_self]
      simp only [hon, hready, hunwanted, Bool.and_false, Bool.false_and, and_self]
    case readyBefore =>
      intro b hafter
      simp only [hready, Bool.and_eq_true] at hafter
      obtain ⟨-, ⟨hbefore, -⟩, -⟩ := hafter
      exact hbefore
    case lost =>
      intro b hpow hoff a hlo hhi
      have hbank : a / 8192 = b.val := (bank_of_byte b.val a).1 ⟨hlo, hhi⟩
      rw [hon, decide_eq_true b.isLt, Bool.true_and] at hoff
      have hlost : (s.core c).bankLost v b.val = true := by rw [Core.bankLost, hpow, hoff]; rfl
      rw [hbytes, hbank, if_pos ⟨b.isLt, hlost⟩]
    case stays =>
      intro a hstays
      rw [hon, Bool.and_eq_true] at hstays
      rw [hbytes, if_neg (by simp [Core.bankLost, hstays.2])]
  case ready =>
    intro b hon hready
    obtain ⟨t, ht, honly, hsame, hbits, hws⟩ := exec_bankReady_powered hon hready
    refine ⟨t, ht, honly, ?_, hsame, fun a hlo hhi => ?_, fun a ha => ?_⟩
    · rw [hbits, BitVec.getLsbD_or, BitVec.getLsbD_ofNat]
      simp
    · rw [hws, Mem.read_clear, if_pos ⟨hlo, hhi⟩]
    · rw [hws, Mem.read_clear, if_neg (by omega)]

end Sys2Proof.Machine
end

section
/-! PROOFS. A direct solve whose NV does not last (R225, R234, R243): the solver core has lent the solve's own entry to a member of its team, and
the end of the solve returns it. -/

namespace Sys2Proof.Machine

/-! ### Two solves, each of which has recruited the other's core -/

/-- The second solver core of compute die 0. -/
def secondSolver : CoreId := ⟨0, ⟨21505, by decide⟩⟩

/-- `chol` of one unknown (R222) with a team of one member, its history in the core's own working store. -/
def cholOne : Desc := Mem.readN [(0x00, 3), (0x01, 2), (0x02, 5), (0x3E, 2), (0x64, 1), (0x96, 1)] 0 160

/-- A solve with a team of one member, its completion record in the core's own working store. -/
def teamSolve : Desc := Mem.readN [(0x00, 3), (0x01, 0x10), (0x02, 5), (0x1E, 2), (0x96, 1)] 0 160

/-- The solve of `cholOne` as it begins: it has read no operands, and its H is the matrix of one 0, with which no factor is found (R234). -/
def cholRun : SvRun := { entry := 4 }

/-- The first solver core runs `cholOne` in entry 4 and the second has `teamSolve` waiting in entry 7. Each core is a member that the other's solve
has recruited, and has lent it that very entry. No admission makes a solver core a member (R222, R224); but the statement asks neither for a state
that steps reach, nor for a solver core that is not itself a member. -/
def mutualTeams : State where
  cores := [
    (21504, { entries := [(4, { code := .running, desc := cholOne, op := 1, lent := true })], sv := some cholRun
              member := true, solver := 20481, solveEntry := 7, lent := [4] }),
    (21505, { entries := [(7, { code := .admitted, desc := teamSolve, op := 1, lent := true })]
              member := true, solver := 20480, solveEntry := 4, lent := [7] })]
  cdies := [(0, { svUsed := 3 })]

/-- An entry of a core when a command has completed; a FREE one where it has not. -/
def entryAfter (o : Out) (c : CoreId) (i : Nat) : Entry :=
  match o with
  | .next t => (t.core c).entry i
  | _ => {}

theorem cholRun_factor_eq_none : (cholRun.factor cholOne).1 = none := Option.isNone_iff_eq_none.1 (by decide +kernel)

/-- The fallback ends the solve, which aborts the second core's solve, which releases its team (R225, R243): the entry is FREE again, and
what the engine then says of it is all that it holds. -/
theorem entryAfter_solveDeadlineCheck_mutualTeams :
    entryAfter (exec (.solveDeadlineCheck firstSolver false) mutualTeams) firstSolver cholRun.entry = { outcome := some stDeadlineEmpty } := by decide +kernel

/-- Refutes O11: a direct solve that finds no factor sets NV in its entry, but the end of the solve can take the entry with it: with the entry
lent to a solve of a member, whose abort returns it (R225), the flag is gone. -/
theorem not_solvesGoThroughTheirSteps : ¬ Obligations.SolvesGoThroughTheirSteps := by
  unfold Obligations.SolvesGoThroughTheirSteps
  rintro ⟨hsteps, -⟩
  obtain ⟨-, -, -, -, -, -, hdirect⟩ := hsteps firstSolver mutualTeams cholRun (by decide +kernel) (by decide +kernel)
  obtain ⟨hnoFactor, -⟩ := hdirect (by decide +kernel) (by decide +kernel) (by decide +kernel)
  obtain ⟨t, w, hexec, -, hnv, -⟩ := hnoFactor cholRun_factor_eq_none
  have hentry := entryAfter_solveDeadlineCheck_mutualTeams
  rw [hexec, entryAfter] at hentry
  rw [hentry] at hnv
  exact absurd hnv (by decide)

end Sys2Proof.Machine
end

section
/-! PROOFS. The in-line code (R258, R259): GF(2^8) as the powers of α, and a codeword with one wrong symbol. -/

namespace Sys2Proof.Machine

/-! ### GF(2^8) (R258) -/

/-- Multiplication by α. -/
def gfShift (a : Byte) : Byte := if a.getLsbD 7 then (a <<< 1) ^^^ 0x1D else a <<< 1

theorem gfShift_xor (a b : Byte) : gfShift (a ^^^ b) = gfShift a ^^^ gfShift b := by
  simp only [gfShift, BitVec.getLsbD_xor, BitVec.shiftLeft_xor_distrib]
  have htwice : ∀ x y c : Byte, x ^^^ c ^^^ (y ^^^ c) = x ^^^ y := fun x y c => by
    rw [show x ^^^ c ^^^ (y ^^^ c) = x ^^^ y ^^^ (c ^^^ c) by ac_rfl, BitVec.xor_self, BitVec.xor_zero]
  cases a.getLsbD 7 <;> cases b.getLsbD 7
  · rfl
  · exact BitVec.xor_assoc _ _ _
  · simp only [Bool.bne_false, if_true, Bool.false_eq_true, if_false]; ac_rfl
  · exact (htwice _ _ _).symm

/-- The two running values of a product: the sum so far, and the first factor times a power of α. -/
def gfMulStep (b : Byte) (acc : Byte × Byte) (i : Nat) : Byte × Byte :=
  (if b.getLsbD i then acc.1 ^^^ acc.2 else acc.1, gfShift acc.2)

theorem gfMul_eq_foldl (a b : Byte) : gfMul a b = ((List.range 8).foldl (gfMulStep b) (0, a)).1 := rfl

theorem foldl_gfMulStep_gfShift (b : Byte) (l : List Nat) (acc : Byte × Byte) :
    l.foldl (gfMulStep b) (gfShift acc.1, gfShift acc.2) =
      (gfShift (l.foldl (gfMulStep b) acc).1, gfShift (l.foldl (gfMulStep b) acc).2) := by
  induction l generalizing acc with
  | nil => rfl
  | cons i l ih =>
    have hstep : gfMulStep b (gfShift acc.1, gfShift acc.2) i = (gfShift (gfMulStep b acc i).1, gfShift (gfMulStep b acc i).2) := by
      simp only [gfMulStep]
      split <;> simp [gfShift_xor]
    rw [List.foldl_cons, List.foldl_cons, hstep, ih]

theorem gfMul_gfShift_left (a b : Byte) : gfMul (gfShift a) b = gfShift (gfMul a b) := by
  have hzero : gfShift 0 = 0 := by decide
  have h := congrArg Prod.fst (foldl_gfMulStep_gfShift b (List.range 8) (0, a))
  rwa [hzero] at h

theorem gfMul_iterate_left (n : Nat) (a b : Byte) : gfMul (gfShift^[n] a) b = gfShift^[n] (gfMul a b) := by
  induction n with
  | zero => rfl
  | succ n ih => rw [Function.iterate_succ_apply', Function.iterate_succ_apply', gfMul_gfShift_left, ih]

theorem one_gfMul : ∀ b : Byte, gfMul 1 b = b := by decide +kernel

theorem zero_gfMul : ∀ b : Byte, gfMul 0 b = 0 := by decide +kernel

theorem gfMul_zero : ∀ a : Byte, gfMul a 0 = 0 := by decide +kernel

/-- The product with a power of α is a repeated multiplication by α. -/
theorem gfMul_power (n : Nat) (b : Byte) : gfMul (gfShift^[n] 1) b = gfShift^[n] b := by
  rw [gfMul_iterate_left, one_gfMul]

/-- α generates the field: its powers are all the values but 0. -/
theorem exists_power : ∀ a : Byte, a ≠ 0 → ∃ n < 255, gfShift^[n] 1 = a := by decide +kernel

theorem isPeriodicPt_one : Function.IsPeriodicPt gfShift 255 1 := by decide +kernel

theorem gfMul_comm (a b : Byte) : gfMul a b = gfMul b a := by
  by_cases ha : a = 0
  · rw [ha, zero_gfMul, gfMul_zero]
  by_cases hb : b = 0
  · rw [hb, zero_gfMul, gfMul_zero]
  obtain ⟨m, -, rfl⟩ := exists_power a ha
  obtain ⟨n, -, rfl⟩ := exists_power b hb
  rw [gfMul_power, gfMul_power, ← Function.iterate_add_apply, ← Function.iterate_add_apply, Nat.add_comm]

theorem gfMul_assoc (a b c : Byte) : gfMul (gfMul a b) c = gfMul a (gfMul b c) := by
  by_cases ha : a = 0
  · rw [ha, zero_gfMul, zero_gfMul, zero_gfMul]
  obtain ⟨m, -, rfl⟩ := exists_power a ha
  rw [gfMul_power, gfMul_iterate_left, gfMul_power]

/-! ### Powers of α -/

theorem gfPow_power (n m : Nat) : gfPow (gfShift^[n] 1) m = gfShift^[n * m] 1 := by
  induction m with
  | zero => rfl
  | succ m ih => rw [gfPow, gfMul_power, ih, ← Function.iterate_add_apply, Nat.mul_succ, Nat.add_comm]

theorem gfMul_gfInv {a : Byte} (ha : a ≠ 0) : gfMul a (gfInv a) = 1 := by
  obtain ⟨n, -, rfl⟩ := exists_power a ha
  rw [gfMul_power, gfInv, gfPow_power, ← Function.iterate_add_apply, show n + n * 254 = 255 * n by omega]
  exact isPeriodicPt_one.mul_const n

theorem gfAlpha_eq_power (n : Nat) : gfAlpha n = gfShift^[n] 1 := by
  rw [gfAlpha, show (2 : Byte) = gfShift^[1] 1 from rfl, gfPow_power, Nat.one_mul]
  exact isPeriodicPt_one.iterate_mod_apply n

theorem gfAlpha_add (m n : Nat) : gfAlpha (m + n) = gfMul (gfAlpha m) (gfAlpha n) := by
  rw [gfAlpha_eq_power, gfAlpha_eq_power, gfAlpha_eq_power, gfMul_power, Function.iterate_add_apply]

/-- The locators of the 70 positions differ, so each names its own. -/
theorem gfPos_gfAlpha : ∀ p : Fin 70, gfPos (gfAlpha (69 - p.val)) = some p := by decide +kernel

/-! ### A codeword with one wrong symbol (R259) -/

/-- With locator x, syndrome `j` of one wrong symbol is its difference times x^j. -/
theorem rsSyn_single (e : SymErr) (j : Nat) : rsSyn [e] j = gfMul e.diff (gfAlpha (j * (69 - e.pos.val))) := BitVec.zero_xor

/-- The decoder finds a symbol of difference `d` and locator `x` from its four syndromes. -/
theorem rsLocate_single {d x : Byte} {p : Fin 70} (hd : d ≠ 0) (hp : gfPos x = some p) :
    rsLocate d (gfMul d x) (gfMul (gfMul d x) x) (gfMul (gfMul (gfMul d x) x) x) = some [⟨p, d⟩] := by
  have hdet : gfMul (gfMul d x) (gfMul d x) ^^^ gfMul d (gfMul (gfMul d x) x) = 0 := by
    rw [gfMul_comm (gfMul d x) x, ← gfMul_assoc d, gfMul_assoc d x, ← gfMul_assoc d x]
    exact BitVec.xor_self
  have hloc : gfMul (gfMul d x) (gfInv d) = x := by
    rw [gfMul_comm d x, gfMul_assoc, gfMul_gfInv hd, gfMul_comm, one_gfMul]
  have hnz : ¬ d = 0#8 := hd
  simp [rsLocate, hdet, hnz, hloc, hp]

/-- A sector whose errors can be located is corrected, where they lie on stored symbols. -/
theorem rsDecode_of_located {es f : List SymErr} (hsyn : rsSyn es 0 ≠ 0) (hf : ∀ e ∈ f, 2 ≤ e.pos.val ∧ e.diff ≠ 0)
    (hloc : rsLocate (rsSyn es 0) (rsSyn es 1) (rsSyn es 2) (rsSyn es 3) = some f) : rsDecode false es = .corrected f := by
  have hnat : (rsSyn es 0).toNat ≠ 0 := fun h => hsyn (BitVec.eq_of_toNat_eq h)
  have hstored : ∀ e ∈ f, 1 < e.pos.val ∧ ¬ e.diff = 0#8 := hf
  simpa [rsDecode, hnat, hloc] using hstored

/-- In detection mode nothing is corrected. -/
theorem rsDecode_detection {es : List SymErr} (hsyn : rsSyn es 0 ≠ 0) : ∃ n, rsDecode true es = .bad n := by
  have hnat : (rsSyn es 0).toNat ≠ 0 := fun h => hsyn (BitVec.eq_of_toNat_eq h)
  exact ⟨_, (if_neg (by omega)).trans (if_pos rfl)⟩

/-- Settles O20: the locator of one wrong symbol is a quotient of syndromes, and names its position. -/
theorem singleSymbolErrorsAreCorrected : Obligations.SingleSymbolErrorsAreCorrected := by
  unfold Obligations.SingleSymbolErrorsAreCorrected
  intro e hpos hdiff
  have hzero : rsSyn [e] 0 = e.diff := by rw [rsSyn_single, Nat.zero_mul, gfMul_comm]; exact one_gfMul _
  have hnext : ∀ n, rsSyn [e] (n + 1) = gfMul (rsSyn [e] n) (gfAlpha (69 - e.pos.val)) := fun n => by
    rw [rsSyn_single, rsSyn_single, Nat.succ_mul, gfAlpha_add, gfMul_assoc]
  have hsyn : rsSyn [e] 0 ≠ 0 := hzero ▸ hdiff
  refine ⟨rsDecode_of_located hsyn (by simpa using ⟨hpos, hdiff⟩) ?_, rsDecode_detection hsyn⟩
  rw [hnext 2, hnext 1, hnext 0, hzero]
  exact rsLocate_single hdiff (gfPos_gfAlpha e.pos)

end Sys2Proof.Machine
end

section
/-! PROOFS. GDDR channels without standing errors (R253, R258, R262, R265, R272): one unit read, written and copied, and the requests of a channel's
queue that its controller serves (R336). -/

namespace Sys2Proof.Machine

/-! ### One channel changes -/

/-- Nothing but channel `ch` differs, and it is now `v`. -/
def ChanBecomes (ch : Nat) (v : Channel) (s t : State) : Prop := OnlyChan ch s t ∧ t.chan ch = v

section Becomes
variable {ch : Nat} {v v' : Channel} {s t u : State}

theorem ChanBecomes.refl (ch : Nat) (s : State) : ChanBecomes ch (s.chan ch) s s := ⟨⟨rfl, fun _ _ => rfl⟩, rfl⟩

theorem OnlyChan.trans (h : OnlyChan ch s t) (h' : OnlyChan ch t u) : OnlyChan ch s u := by
  obtain ⟨hst, hothers⟩ := h
  obtain ⟨htu, hothers'⟩ := h'
  exact ⟨by rw [htu, hst], fun e he => (hothers' e he).trans (hothers e he)⟩

theorem ChanBecomes.trans (h : ChanBecomes ch v s t) (h' : ChanBecomes ch v' t u) : ChanBecomes ch v' s u := ⟨h.1.trans h'.1, h'.2⟩

theorem chanBecomes_setChan (ch : Nat) (v : Channel) (s : State) : ChanBecomes ch v s (s.setChan ch v) :=
  ⟨⟨rfl, fun e he => by rw [State.chan_setChan, if_neg he]⟩, by rw [State.chan_setChan, if_pos rfl]⟩

theorem ChanBecomes.updChan (h : ChanBecomes ch v s t) (g : Channel → Channel) : ChanBecomes ch (g v) s (t.updChan ch g) :=
  h.trans (h.2 ▸ chanBecomes_setChan ch (g (t.chan ch)) t)

theorem OnlyChan.px (h : OnlyChan ch s t) : t.px = s.px := by rw [h.1]
theorem OnlyChan.pkg (h : OnlyChan ch s t) : t.pkg = s.pkg := by rw [h.1]
theorem OnlyChan.handed (h : OnlyChan ch s t) : t.handed = s.handed := by rw [h.1]
theorem OnlyChan.core (h : OnlyChan ch s t) (c : CoreId) : t.core c = s.core c := by rw [h.1]; rfl

/-- Where a unit lies hangs on the channels' states and pointers alone (R271). -/
theorem OnlyChan.steer (h : OnlyChan ch s t) (hstate : (t.chan ch).state = (s.chan ch).state) (hptr : (t.chan ch).pointer = (s.chan ch).pointer)
    (u : Nat) : t.steer u = s.steer u := by
  have hst : (t.chan (gddrPlace u).1).state = (s.chan (gddrPlace u).1).state ∧ (t.chan (gddrPlace u).1).pointer = (s.chan (gddrPlace u).1).pointer := by
    by_cases he : (gddrPlace u).1 = ch
    · rw [he]; exact ⟨hstate, hptr⟩
    · rw [h.2 _ he]; exact ⟨rfl, rfl⟩
  simp only [State.steer, hst, h.pkg]

end Becomes

/-! ### Sectors without standing errors (R258, R262) -/

theorem rsDecode_nil (mode : Bool) : rsDecode mode [] = .clean := by cases mode <;> rfl

theorem State.gddrJudge_clean {s : State} {ch pu q : Nat} (h : ∀ k, (s.chan ch).errsAt q pu k = []) (npa : Nat) (secs : List Nat) (w : Who) :
    s.gddrJudge ch pu q npa secs w = (s, []) := by
  unfold State.gddrJudge
  induction secs with
  | nil => rfl
  | cons k secs ih => simp only [List.foldl_cons, h k, rsDecode_nil, List.isEmpty_nil, if_true, ih]

theorem Channel.image_of_no_combining {c : Channel} (h : c.combining = []) (q k : Nat) : c.image q k = [] := by
  rw [Channel.image, h]; rfl

/-! ### The squall guard counts a few requests (R265, R268) -/

/-- At most `n` sectors are tracked, each with at most `n` requests. -/
def TracksFew (n : Nat) (tr : Tab (List Nat)) : Prop := tr.length ≤ n ∧ ∀ e ∈ tr, e.2.length ≤ n

theorem Tab.length_ins {α : Type} (k : Nat) (v : α) (t : Tab α) : (Tab.ins k v t).length = t.length + 1 := by
  induction t with
  | nil => rfl
  | cons e t ih =>
    rw [Tab.ins]
    split
    · rw [List.length_cons, ih, List.length_cons]
    · rfl

theorem Tab.length_set_le {α : Type} [Inhabited α] [DecidableEq α] (t : Tab α) (k : Nat) (v : α) : (Tab.set t k v).length ≤ t.length + 1 := by
  have herase : (Tab.erase t k).length ≤ t.length := List.length_filter_le _ _
  unfold Tab.set
  split
  · omega
  · rw [Tab.length_ins]; omega

/-- A request to a channel that tracks few sectors is counted, and no more: its sector does not begin to combine. -/
theorem State.squallCount_few {s : State} {ch n : Nat} (h : TracksFew n (s.chan ch).tracker) (hn : n < 64) (q k npa : Nat) (w : Who) :
    ∃ tr, ChanBecomes ch { s.chan ch with tracker := tr } s (s.squallCount ch q k npa w) ∧ TracksFew (n + 1) tr := by
  obtain ⟨hlen, hall⟩ := h
  let live := (s.chan ch).tracker.filter (fun e => e.2.any (fun t => s.t < t + 1000))
  let times := s.t :: (s.chan ch).recent (q * 4 + k) s.t
  have hlive : live.length ≤ n := (List.length_filter_le _ _).trans hlen
  have htimes : times.length ≤ n + 1 :=
    Nat.succ_le_succ ((List.length_filter_le _ _).trans (Tab.get_of_all (P := fun l : List Nat => l.length ≤ n) _ (Nat.zero_le _) hall _))
  have hcount : s.squallCount ch q k npa w = s.updChan ch (fun c => { c with tracker := Tab.set live (q * 4 + k) times }) := by
    have hroom : (!live.any (fun e => e.1 == q * 4 + k) && decide (1024 ≤ live.length)) = false := by
      rw [decide_eq_false (by omega), Bool.and_false]
    unfold State.squallCount
    rw [if_neg (by rw [hroom]; decide), if_pos (.inl (Nat.lt_of_le_of_lt htimes (by omega)))]
  refine ⟨Tab.set live (q * 4 + k) times, hcount ▸ (ChanBecomes.refl ch s).updChan _, (Tab.length_set_le _ _ _).trans (Nat.succ_le_succ hlive), ?_⟩
  exact Tab.all_set (P := fun l : List Nat => l.length ≤ n + 1) (fun e he => (hall e (List.mem_of_mem_filter he)).trans (Nat.le_succ n)) _ htimes

theorem State.foldl_squallCount_few {s : State} {ch n : Nat} (h : TracksFew n (s.chan ch).tracker) (q npa : Nat) (w : Who) (secs : List Nat)
    (hn : n + secs.length ≤ 64) :
    ∃ tr, ChanBecomes ch { s.chan ch with tracker := tr } s (secs.foldl (fun s k => s.squallCount ch q k npa w) s) := by
  induction secs generalizing s n with
  | nil => exact ⟨_, ChanBecomes.refl ch s⟩
  | cons k secs ih =>
    rw [List.length_cons] at hn
    obtain ⟨tr, hbecomes, hfew⟩ := State.squallCount_few h (by omega) q k npa w
    obtain ⟨tr', hbecomes'⟩ := ih (s := s.squallCount ch q k npa w) (n := n + 1) (hbecomes.2 ▸ hfew) (by omega)
    refine ⟨tr', hbecomes.trans ?_⟩
    rwa [hbecomes.2] at hbecomes'

theorem length_secsOf_le (off n : Nat) : (secsOf off n).length ≤ 4 := by
  unfold secsOf
  split
  · exact Nat.zero_le _
  · exact List.length_filter_le _ _

/-! ### A unit of a channel that reads clean -/

theorem Channel.lostNow_of_in_service {c : Channel} (hstate : c.state = 1) (hdead : c.dead = false) : c.lostNow = false := by
  simp [Channel.lostNow, hstate, hdead]

/-- NPA `a` lies in unit `q` of channel `ch`, which is not lost and combines nothing, and no errors stand in the unit. -/
structure State.Serves (s : State) (a ch q : Nat) : Prop where
  steer : s.steer (a / 256) = (ch, q)
  present : (s.chan ch).lostNow = false
  clean : ∀ k, (s.chan ch).errsAt q ((s.chan ch).spared q) k = []
  combining : (s.chan ch).combining = []

/-- `n` bytes from byte `off` of unit `q` of the channel. -/
def Channel.unitBytes (c : Channel) (q off n : Nat) : List Byte := c.mem.readN (c.spared q * 256 + off) n

section Serves
variable {s t : State} {a ch q : Nat}

/-- Queues and counts do not say how the unit stands. -/
theorem State.Serves.of_requests (h : s.Serves a ch q) {v : Channel} (hv : v = { s.chan ch with tracker := v.tracker, queue := v.queue })
    (hb : ChanBecomes ch v s t) : t.Serves a ch q where
  steer := (hb.1.steer (by rw [hb.2, hv]) (by rw [hb.2, hv]) _).trans h.steer
  present := by rw [hb.2, hv]; exact h.present
  clean := by rw [hb.2, hv]; exact h.clean
  combining := by rw [hb.2, hv]; exact h.combining

theorem State.Serves.countUnit (h : s.Serves a ch q) (htrack : (s.chan ch).tracker = []) (n : Nat) (w : Who) :
    ∃ tr, ChanBecomes ch { s.chan ch with tracker := tr } s (s.countUnit a n w) := by
  have hfew : TracksFew 0 (s.chan ch).tracker := by simp [TracksFew, htrack]
  have hlen := length_secsOf_le (a % 256) n
  simp only [State.countUnit, h.steer, h.present, Bool.false_eq_true, if_false]
  exact State.foldl_squallCount_few hfew q _ w _ (by omega)

theorem State.Serves.unitRead (h : s.Serves a ch q) (n : Nat) (w : Who) :
    s.unitRead a n w = (s, stDone, (s.chan ch).unitBytes q (a % 256) n) := by
  simp [State.unitRead, Channel.unitBytes, h.steer, h.present, State.gddrJudge_clean h.clean, h.combining]

/-- Writing bytes one by one by their number is writing them all. -/
theorem Mem.foldl_write_numbered (m : Mem) (a : Nat) (bs : List Byte) :
    ((List.range bs.length).zip bs).foldl (fun m x => m.write (a + x.1) x.2) m = m.writeN a bs := by
  rw [← Mem.foldl_write_zip_range, List.zip_map_left, List.foldl_map]
  rfl

theorem State.Serves.unitWrite (h : s.Serves a ch q) (bs : List Byte) (w : Who) :
    ∃ t v, s.unitWrite a bs w = (t, stDone) ∧ ChanBecomes ch v s t ∧ v.queue = (s.chan ch).queue ∧
      v.mem = (s.chan ch).mem.writeN ((s.chan ch).spared q * 256 + a % 256) bs := by
  simp only [State.unitWrite, h.steer, h.present, Bool.false_eq_true, if_false, State.gddrJudge_clean h.clean]
  refine ⟨_, _, rfl, (ChanBecomes.refl ch s).updChan _, rfl, ?_⟩
  simp [Channel.image_of_no_combining h.combining, Mem.foldl_write_numbered]

/-! ### Loads and stores within one unit -/

theorem Mem.readN_eq_map (m : Mem) (a n : Nat) : m.readN a n = (List.range n).map (fun i => m.read (a + i)) := by
  induction n generalizing a with
  | zero => rfl
  | succ n ih =>
    rw [Mem.readN, ih, List.range_succ_eq_map, List.map_cons, List.map_map]
    simp [Function.comp_def, Nat.add_assoc, Nat.add_comm 1]

theorem Mem.length_readN (m : Mem) (a n : Nat) : (m.readN a n).length = n := by simp [Mem.readN_eq_map]

theorem padTo_of_length {bs : List Byte} {n : Nat} (h : bs.length = n) : padTo n bs = bs := by
  subst h
  exact padTo_length bs

theorem State.Serves.gddrRead (h : s.Serves a ch q) (htrack : (s.chan ch).tracker = []) {n : Nat} (hpos : 1 ≤ n) (hunit : a % 256 + n ≤ 256) (w : Who) :
    ∃ t tr, s.gddrRead a n w = (t, stDone, (s.chan ch).unitBytes q (a % 256) n) ∧
      ChanBecomes ch { s.chan ch with tracker := tr } s t := by
  obtain ⟨tr, hcount⟩ := h.countUnit htrack n w
  have hread := (h.of_requests rfl hcount).unitRead n w
  have hpad : padTo n ((s.chan ch).unitBytes q (a % 256) n) = (s.chan ch).unitBytes q (a % 256) n :=
    padTo_of_length (Mem.length_readN _ _ _)
  rw [hcount.2] at hread
  change _ = (_, stDone, (s.chan ch).unitBytes q (a % 256) n) at hread
  refine ⟨_, tr, ?_, hcount⟩
  simp only [State.gddrRead, unitPieces_of_one_unit hpos hunit, List.foldl_cons, List.foldl_nil, State.gddrReadUnit, hread, List.nil_append, hpad]
  rfl

theorem State.Serves.gddrWrite (h : s.Serves a ch q) (htrack : (s.chan ch).tracker = []) {bs : List Byte} (hpos : 1 ≤ bs.length)
    (hunit : a % 256 + bs.length ≤ 256) (w : Who) :
    ∃ t v, s.gddrWrite a bs w = (t, stDone) ∧ ChanBecomes ch v s t ∧ v.queue = (s.chan ch).queue ∧
      v.mem = (s.chan ch).mem.writeN ((s.chan ch).spared q * 256 + a % 256) bs := by
  obtain ⟨tr, hcount⟩ := h.countUnit htrack bs.length w
  obtain ⟨t, v, hwrite, hchan, hqueue, hmem⟩ := (h.of_requests rfl hcount).unitWrite bs w
  rw [hcount.2] at hqueue hmem
  refine ⟨t, v, ?_, hcount.trans hchan, hqueue, hmem⟩
  simp only [State.gddrWrite, unitPieces_of_one_unit hpos hunit, List.foldl_cons, List.foldl_nil, State.gddrWriteUnit, Nat.sub_self, slice_all, hwrite]
  rfl

end Serves

/-! ### A request at the front of the queue (R253, R336) -/

theorem Channel.takeWindow_of_empty {c : Channel} (h : c.window = []) : c.takeWindow = c := by simp [Channel.takeWindow, h]

theorem exec_gddrRequest_front {ch : Chan} {s : State} {m : MemReq} {rest : List MemReq} (hqueue : (s.chan ch.val).queue = m :: rest)
    (hwindow : (s.chan ch.val).window = []) :
    exec (.gddrRequest ch []) s = .next ((s.setChan ch.val { s.chan ch.val with queue := rest }).serveMem m) := by
  show execGddrRequest ch [] s = _
  simp only [execGddrRequest, Channel.takeWindow_of_empty hwindow, hqueue]
  rw [Channel.takeWindow_of_empty (c := { s.chan ch.val with queue := rest }) hwindow]
  rfl

/-- With no line of the data caches changed, what another unit writes touches the processor die alone (R492). -/
theorem State.foreignWrote_of_no_dirty {s : State} (h : s.px.dirty = []) (a n : Nat) : ∃ px, s.foreignWrote a n = { s with px := px } := by
  have hbreak : ∃ px : Px, s.breakRes a n = { s with px := px } ∧ px.dirty = [] := by
    unfold State.breakRes
    split
    · exact ⟨_, rfl, h⟩
    · exact ⟨s.px, rfl, h⟩
  obtain ⟨px, hpx, hdirty⟩ := hbreak
  rw [State.foreignWrote, hpx, State.dropLines]
  split
  · simp only [hdirty, List.flatMap_nil, List.foldl_nil]
    exact ⟨_, rfl⟩
  · exact ⟨px, rfl⟩

section Dma
variable {s : State} {m : MemReq} {c : CoreId} {req part ch q : Nat}

/-- Core `c` waits for request `req`, whose piece `m` stands at a channel. -/
structure State.Asks (s : State) (m : MemReq) (c : CoreId) (req part : Nat) : Prop where
  asker : m.asker = .dma c req part
  outst : ∃ r ∈ (s.core c).dma.outst, r.id = req

/-- Who is named in the records of a request of core `c`. -/
def State.dmaWho (s : State) (c : CoreId) : Who := (s.core c).who 0 ((s.core c).entry ((s.core c).dma.entry.getD 64)).d.opTag

/-- A load or store that has been served without a record is answered to the DMA engine that asked for it. -/
theorem State.serveMem_of_op {u : State} {st : Byte} {data written : List Byte} (hask : s.Asks m c req part) (hop : m.op = .load ∨ m.op = .store)
    (hserve : s.gddrOp (m.addr % 2 ^ 48) m.op m.len m.data (s.dmaWho c) = (u, st, data, written)) (hcores : u.cores = s.cores)
    (hhanded : u.handed = s.handed) :
    (s.serveMem m).chans = u.chans ∧ ((s.serveMem m).core c).dma.answers = (s.core c).dma.answers ++ [⟨req, part, st, data, false⟩] := by
  have hserved : s.serveMem m = u.dmaAnswer c req part st data false := by
    rw [State.dmaWho] at hserve
    rcases hop with hop | hop <;> rw [hop] at hserve <;> simp only [State.serveMem, hask.asker, hop, hserve, hhanded, bne_self_eq_false]
  have hcore : u.core c = s.core c := by rw [State.core, hcores]; rfl
  rw [hserved, State.dmaAnswer_outstanding (by rw [hcore]; exact hask.outst), hcore]
  exact ⟨rfl, rfl⟩

theorem State.serveMem_load (hask : s.Asks m c req part) (hop : m.op = .load) (hserves : s.Serves (m.addr % 2 ^ 48) ch q)
    (htrack : (s.chan ch).tracker = []) (hpos : 1 ≤ m.len) (hunit : m.addr % 2 ^ 48 % 256 + m.len ≤ 256) :
    (∃ tr, (s.serveMem m).chan ch = { s.chan ch with tracker := tr }) ∧
      ((s.serveMem m).core c).dma.answers = (s.core c).dma.answers ++
        [⟨req, part, stDone, (s.chan ch).unitBytes q (m.addr % 2 ^ 48 % 256) m.len, false⟩] := by
  obtain ⟨u, tr, hread, honly, hchan⟩ := hserves.gddrRead htrack hpos hunit (s.dmaWho c)
  have hserve : s.gddrOp (m.addr % 2 ^ 48) m.op m.len m.data (s.dmaWho c) =
      (u, stDone, (s.chan ch).unitBytes q (m.addr % 2 ^ 48 % 256) m.len, []) := by rw [hop, State.gddrOp, hread]
  obtain ⟨hchans, hans⟩ := State.serveMem_of_op hask (.inl hop) hserve (by rw [honly.1]) honly.handed
  exact ⟨⟨tr, by rw [State.chan, hchans]; exact hchan⟩, hans⟩

theorem State.serveMem_store (hask : s.Asks m c req part) (hop : m.op = .store) (hserves : s.Serves (m.addr % 2 ^ 48) ch q)
    (htrack : (s.chan ch).tracker = []) (hpos : 1 ≤ m.data.length) (hunit : m.addr % 2 ^ 48 % 256 + m.data.length ≤ 256) (hdirty : s.px.dirty = []) :
    (∀ k, k ≠ ch → (s.serveMem m).chan k = s.chan k) ∧ ((s.serveMem m).chan ch).queue = (s.chan ch).queue ∧
      ((s.serveMem m).chan ch).mem = (s.chan ch).mem.writeN ((s.chan ch).spared q * 256 + m.addr % 2 ^ 48 % 256) m.data ∧
      ((s.serveMem m).core c).dma.answers = (s.core c).dma.answers ++ [⟨req, part, stDone, [], false⟩] := by
  obtain ⟨u, v, hwrite, ⟨honly, hchan⟩, hqueue, hmem⟩ := hserves.gddrWrite htrack hpos hunit (s.dmaWho c)
  obtain ⟨px, hforeign⟩ := State.foreignWrote_of_no_dirty (honly.px ▸ hdirty) (m.addr % 2 ^ 48) m.data.length
  have hserve : s.gddrOp (m.addr % 2 ^ 48) m.op m.len m.data (s.dmaWho c) = ({ u with px := px }, stDone, [], m.data) := by
    rw [hop, State.gddrOp, hwrite, ← hforeign]
  obtain ⟨hchans, hans⟩ := State.serveMem_of_op hask (.inr hop) hserve (by rw [honly.1]) honly.handed
  have hread : ∀ k, (s.serveMem m).chan k = u.chan k := fun k => by rw [State.chan, hchans]; rfl
  exact ⟨fun k hk => (hread k).trans (honly.2 k hk), by rw [hread, hchan, hqueue], by rw [hread, hchan, hmem], hans⟩

end Dma

/-- Settles O21, from what a load and a store of a clean unit do. -/
theorem channelsServeRequests : Obligations.ChannelsServeRequests := by
  unfold Obligations.ChannelsServeRequests
  intro ch s m rest c req part u hqueue hasker houtst hu haddr hsteer hstate hdead herrs hwindow hcombining htracker hdirty
  subst hu
  have hmod : m.addr % 2 ^ 48 = m.addr := Nat.mod_eq_of_lt haddr
  have htaken := chanBecomes_setChan ch.val { s.chan ch.val with queue := rest } s
  let s1 := s.setChan ch.val { s.chan ch.val with queue := rest }
  have hserves : s1.Serves (m.addr % 2 ^ 48) ch.val (s.steer (m.addr / 256)).2 := by
    have hs : s.Serves m.addr ch.val (s.steer (m.addr / 256)).2 :=
      ⟨Prod.ext hsteer rfl, Channel.lostNow_of_in_service hstate hdead, herrs, hcombining⟩
    rw [hmod]
    exact hs.of_requests rfl htaken
  have hask : s1.Asks m c req part := ⟨hasker, houtst⟩
  have htrack : (s1.chan ch.val).tracker = [] := by rw [htaken.2]; exact htracker
  rw [exec_gddrRequest_front hqueue hwindow]
  refine ⟨fun hop hunit hdata _ => ?store, fun hop hunit hlen => ?load⟩
  case store =>
    obtain ⟨hothers, hq, hmem, hans⟩ := State.serveMem_store hask hop hserves htrack (List.length_pos_iff.2 hdata) (hmod.symm ▸ hunit) hdirty
    rw [htaken.2] at hq hmem
    rw [hmod] at hmem
    refine ⟨_, rfl, hq, fun k hk => (hothers k hk).trans (htaken.1.2 k hk), ?_, ?_, hans⟩
    · rw [hmem]; exact Mem.read_writeN_at _ _ _
    · rw [hmem]; exact Mem.read_writeN_other _ _ _
  case load =>
    obtain ⟨⟨tr, hchan⟩, hans⟩ := State.serveMem_load hask hop hserves htrack (Nat.pos_of_ne_zero hlen) (hmod.symm ▸ hunit)
    rw [htaken.2] at hchan hans
    rw [hmod] at hans
    exact ⟨_, rfl, by rw [hchan], by rw [hchan], hans⟩

end Sys2Proof.Machine
end

section
/-! PROOFS. Migration, spared row groups and lost channels (R270 to R275, R615): a unit copied to its place, and what a lost channel ends. -/

namespace Sys2Proof.Machine

/-! ### A unit held and drained (R271 step 4) -/

theorem Channel.with_empty_queues {c : Channel} (hqueue : c.queue = []) (hwindow : c.window = []) : { c with queue := [], window := [] } = c := by
  cases c
  cases hqueue
  cases hwindow
  rfl

section Held
variable {s : State} {ch : Nat}

/-- Where no request is queued, holding a unit drains nothing. -/
theorem chanBecomes_drainUnit (hqueue : (s.chan ch).queue = []) (hwindow : (s.chan ch).window = []) (q : Nat) :
    ChanBecomes ch (s.chan ch) s (s.drainUnit ch q) := by
  simp only [State.drainUnit, hqueue, hwindow, List.filter_nil, List.append_nil, List.foldl_nil, Channel.with_empty_queues hqueue hwindow]
  exact chanBecomes_setChan ch _ s

/-- Nothing is written back of a sector that does not combine. -/
theorem chanBecomes_squallWriteBack {key : Nat} (h : (s.chan ch).combining.get key = []) : ChanBecomes ch (s.chan ch) s (s.squallWriteBack ch key) := by
  have hsame : s.squallWriteBack ch key = s.setChan ch (s.chan ch) := by simp [State.squallWriteBack, State.updChan, h]
  exact hsame ▸ chanBecomes_setChan ch _ s

theorem chanBecomes_foldl_squallWriteBack (hcombining : (s.chan ch).combining = []) (q : Nat) (secs : List Nat) :
    ChanBecomes ch (s.chan ch) s (secs.foldl (fun s k => s.squallWriteBack ch (q * 4 + k)) s) := by
  induction secs generalizing s with
  | nil => exact .refl ch s
  | cons k secs ih =>
    have hstep : ChanBecomes ch (s.chan ch) s (s.squallWriteBack ch (q * 4 + k)) := chanBecomes_squallWriteBack (by rw [hcombining]; rfl)
    have hrest := ih (s := s.squallWriteBack ch (q * 4 + k)) (hstep.2 ▸ hcombining)
    rw [hstep.2] at hrest
    exact hstep.trans hrest

/-- The unit `q` is held: no request and no combining sector of the channel stands against its copy. -/
def State.held (s : State) (ch q : Nat) : State := [0, 1, 2, 3].foldl (fun s k => s.squallWriteBack ch (q * 4 + k)) (s.drainUnit ch q)

theorem chanBecomes_held (hqueue : (s.chan ch).queue = []) (hwindow : (s.chan ch).window = []) (hcombining : (s.chan ch).combining = []) (q : Nat) :
    ChanBecomes ch (s.chan ch) s (s.held ch q) := by
  have hdrain := chanBecomes_drainUnit hqueue hwindow q
  have hback := chanBecomes_foldl_squallWriteBack (s := s.drainUnit ch q) (hdrain.2 ▸ hcombining) q [0, 1, 2, 3]
  rw [hdrain.2] at hback
  exact hdrain.trans hback

/-! ### A unit copied (R262, R271, R274) -/

/-- A channel with the codewords of its unit `tq` formed anew at the place `tpu`, over the given bytes. -/
def Channel.putUnit (c : Channel) (tq tpu : Nat) (bytes : List Byte) : Channel :=
  { c with mem := c.mem.writeN (tpu * 256) bytes, secErr := [0, 1, 2, 3].foldl (fun t k => Channel.putErrs t tq tpu k []) c.secErr }

theorem Channel.errsAt_of_no_errors {c : Channel} {q : Nat} (herr : c.secErr = []) (hspared : c.spared q = q) (k : Nat) :
    c.errsAt q (c.spared q) k = [] := by
  rw [hspared, Channel.errsAt, if_pos rfl, herr]
  rfl

/-- The bytes of a unit that stands at its own place. -/
@[irreducible] def Channel.wholeUnit (c : Channel) (q : Nat) : List Byte := c.mem.readN (q * 256) 256

theorem Channel.length_wholeUnit (c : Channel) (q : Nat) : (c.wholeUnit q).length = 256 := by rw [Channel.wholeUnit, Mem.length_readN]

theorem Channel.getElem_wholeUnit (c : Channel) (q : Nat) {i : Nat} (h : i < (c.wholeUnit q).length) : (c.wholeUnit q)[i] = c.mem.read (q * 256 + i) := by
  simp only [Channel.wholeUnit, Mem.readN_eq_map, List.getElem_map, List.getElem_range]

/-- A unit without standing errors is copied byte by byte. -/
theorem State.copyUnit_clean {q : Nat} (herr : (s.chan ch).secErr = []) (hspared : (s.chan ch).spared q = q) (tch tq tpu : Nat) :
    s.copyUnit ch q false tch tq tpu = s.updChan tch (·.putUnit tq tpu ((s.chan ch).wholeUnit q)) := by
  have hclean := Channel.errsAt_of_no_errors herr hspared
  rw [hspared] at hclean
  simp only [State.copyUnit, hspared, Bool.false_eq_true, if_false, State.gddrJudge_clean hclean, List.contains_nil,
    Channel.wholeUnit]
  rfl

theorem Channel.mem_putUnit (c : Channel) (tq tpu : Nat) (bytes : List Byte) : (c.putUnit tq tpu bytes).mem = c.mem.writeN (tpu * 256) bytes := rfl

/-- The place reads what the unit read; every other byte of the channel stands. -/
theorem Channel.read_putUnit (c : Channel) (tq tpu : Nat) (d : Channel) (q : Nat) :
    (∀ i, i < 256 → (c.putUnit tq tpu (d.wholeUnit q)).mem.read (tpu * 256 + i) = d.mem.read (q * 256 + i)) ∧
      ∀ a, a < tpu * 256 ∨ (tpu + 1) * 256 ≤ a → (c.putUnit tq tpu (d.wholeUnit q)).mem.read a = c.mem.read a := by
  have hlen := d.length_wholeUnit q
  rw [Channel.mem_putUnit]
  refine ⟨fun i hi => ?_, fun a ha => Mem.read_writeN_other _ _ _ _ (by omega)⟩
  rw [Mem.read_writeN_at _ _ _ i (by omega), Channel.getElem_wholeUnit]

end Held

/-! ### PKG_STATUS.migrating (R271, R274) -/

theorem Tab.mem_set_same {α : Type} [Inhabited α] [DecidableEq α] (t : Tab α) (k : Nat) {v : α} (h : v ≠ default) : (k, v) ∈ Tab.set t k v := by
  have hmem := (Tab.get_mem (Tab.set t k v) k).resolve_left (by rwa [Tab.get_set_same])
  rwa [Tab.get_set_same] at hmem

/-- A channel that migrates, or copies a row group, sets the package's bit. -/
theorem State.noteMigrating_setChan {s : State} {ch : Nat} {c : Channel} (h : c.state = 3 ∨ ∃ e ∈ c.spares, e.2.copying = true) :
    (s.setChan ch c).noteMigrating.pkg.migrating = true := by
  have hc : c ≠ default := by rintro rfl; exact absurd h (by decide)
  have hbit : (c.state == 3 || c.spares.any (fun e => e.2.copying)) = true := by simpa using h
  exact List.any_eq_true.2 ⟨(ch, c), Tab.mem_set_same _ _ hc, hbit⟩

theorem State.chan_noteMigrating (s : State) (n : Nat) : s.noteMigrating.chan n = s.chan n := rfl

/-! ### Migration (R270, R271) -/

section Migration
variable {s : State} {ch : Chan}

/-- A channel that begins to migrate. -/
def Channel.migrating (c : Channel) (ops : List (Nat × Nat)) : Channel :=
  { c with migStart := true, migDone := false, state := 3, pointer := 0, draining := true, shadow := [], oldOps := ops }

theorem exec_start_in_service (hother : s.otherMigration ch.val = false) (hstate : (s.chan ch.val).state = 1) :
    exec (.start ch) s = .next (s.setChan ch.val ((s.chan ch.val).migrating s.gddrOps)).noteMigrating := by
  show execStart ch s = _
  simp [execStart, State.migrateStart, hother, hstate, Channel.migrating]

theorem exec_migrationDrained_ended (hstate : (s.chan ch.val).state = 3) (hdraining : (s.chan ch.val).draining = true)
    (hops : (s.chan ch.val).oldOps = []) :
    exec (.migrationDrained ch) s = .next (s.setChan ch.val { s.chan ch.val with draining := false }) := by
  show execMigrationDrained ch s = _
  simp [execMigrationDrained, hstate, hdraining, hops]

theorem Channel.spared_of_no_spares {c : Channel} (h : c.spares = []) (q : Nat) : c.spared q = q := by simp [Channel.spared, h]

/-- The channel once the unit at its pointer has been copied. -/
def Channel.unitMoved (c : Channel) : Channel := { c with pointer := c.pointer + 1, shadow := [] }

theorem exec_migrationUnitCopy_next (hstate : (s.chan ch.val).state = 3) (hdraining : (s.chan ch.val).draining = false)
    (hnext : (s.chan ch.val).pointer.toNat + 1 < uUse s.pkg.density) :
    let q := (s.chan ch.val).pointer.toNat
    let tgt := migTarget s.pkg.density ch.val q
    let w := s.held ch.val q
    exec (.migrationUnitCopy ch []) s = .next ((w.copyUnit ch.val q ((s.chan ch.val).migLost || (s.chan ch.val).dead) tgt.1 tgt.2
      ((w.chan tgt.1).spared tgt.2)).updChan ch.val Channel.unitMoved) := by
  show execMigrationUnitCopy ch [] s = _
  simp only [execMigrationUnitCopy, hstate, hdraining, hnext, ne_eq, not_true_eq_false, Bool.false_eq_true, or_self, if_false, if_true]
  rfl

end Migration

/-! ### Spared row groups (R274) -/

section Spare
variable {s : State} {ch : Chan} {n : Fin 64} {e : RowSpare}

/-- A spare entry of the channel changes. -/
def Channel.updSpare (c : Channel) (n : Nat) (f : RowSpare → RowSpare) : Channel := { c with spares := c.spares.upd n f }

/-- The entry with its copy begun, to the row group at the top of the reserve. -/
def RowSpare.begun (e : RowSpare) (dens : Bool) : RowSpare :=
  { e with toGroup := BitVec.ofNat 21 (uData dens / 15 - 1), copying := true, copied := 0 }

/-- The entry with one more unit copied, of 15. -/
def RowSpare.oneMore (e : RowSpare) : RowSpare :=
  if e.copied < 14 then { e with copied := e.copied + 1 } else { e with copying := false, copied := 0, assigned := true, valid := true }

/-- A channel in service has one spare entry, not assigned yet, for one of its row groups. -/
structure State.SpareDue (s : State) (ch n : Nat) (e : RowSpare) : Prop where
  spares : (s.chan ch).spares = [(n, e)]
  assigned : e.assigned = false
  present : (s.chan ch).lostNow = false
  group : e.fromGroup.toNat < uData s.pkg.density / 15

theorem State.SpareDue.entry {n : Nat} (h : s.SpareDue ch n e) : (s.chan ch).spares.get n = e := by simp [h.spares, Tab.get_cons]

theorem exec_rowSpareCopy_begins (h : s.SpareDue ch.val n.val e) (hcopying : e.copying = false) :
    exec (.rowSpareCopy ch n) s = .next (s.updChan ch.val (·.updSpare n.val (·.begun s.pkg.density))).noteMigrating := by
  have hgroup := Nat.not_le.2 h.group
  have hused : ((s.chan ch.val).spares.filter (fun x => x.2.assigned || x.2.copying)).length = 0 := by simp [h.spares, h.assigned, hcopying]
  show execRowSpareCopy ch n s = _
  simp only [execRowSpareCopy, h.entry, h.assigned, h.present, hgroup, hcopying, hused]
  rfl

/-- The unit of the row group that is copied next stands at its own place. -/
theorem Channel.spared_next_slot {c : Channel} {n : Nat} (hspares : c.spares = [(n, e)]) (hassigned : e.assigned = false) (hcopied : e.copied < 15) :
    c.spared (e.fromGroup.toNat * 15 + e.copied) = e.fromGroup.toNat * 15 + e.copied := by
  have hslot : (e.fromGroup.toNat * 15 + e.copied) % 15 = e.copied := by omega
  simp [Channel.spared, hspares, hassigned, hslot]

theorem exec_rowSpareCopy_next (h : s.SpareDue ch.val n.val e) (hcopying : e.copying = true) :
    let q := e.fromGroup.toNat * 15 + e.copied
    exec (.rowSpareCopy ch n) s = .next (((s.held ch.val q).copyUnit ch.val q false ch.val q (e.toGroup.toNat * 15 + e.copied)).updChan ch.val
      (·.updSpare n.val RowSpare.oneMore)).noteMigrating := by
  have hgroup := Nat.not_le.2 h.group
  show execRowSpareCopy ch n s = _
  simp only [execRowSpareCopy, h.entry, h.assigned, h.present, hgroup, hcopying]
  rfl

end Spare

/-! ### A channel is lost (R275, R615) -/

/-- The channel once it is lost, unplanned. -/
def Channel.gone (c : Channel) : Channel :=
  { c with
    state := 5, dead := true, heat := 0, retraining := false, queue := [], window := [], combining := [], lineAsk := [], lineHeld := [], draining := false
    oldOps := [], spares := c.spares.map (fun e => (e.1, { e.2 with copying := false })) }

/-- The package with the channel lost, recorded and signalled, before its requests are ended. -/
def State.lost (s : State) (ch : Nat) : State :=
  ((({ s with pkg := { s.pkg with memoryBroken := s.pkg.memoryBroken || s.otherMigration ch } }.setChan ch (s.chan ch).gone).noteMigrating).hand
    { unit := chanUnit ch 0, cls := 0x05, severity := 3 }).raise (12 + ch)

theorem exec_channelLost_in_service {s : State} {ch : Chan} (hstate : (s.chan ch.val).state = 1) :
    exec (.channelLost ch) s = .next (((s.chan ch.val).queue ++ (s.chan ch.val).window).foldl State.failMem (s.lost ch.val)) := by
  show execChannelLost ch s = _
  rw [execChannelLost, if_neg (by simp [hstate])]
  rfl

theorem State.core_noteMigrating (s : State) (c : CoreId) : s.noteMigrating.core c = s.core c := rfl

theorem State.core_lost (s : State) (ch : Nat) (c : CoreId) : (s.lost ch).core c = s.core c := by
  rw [State.lost, State.core_of_raise, State.core_of_hand, State.core_noteMigrating, State.core_of_setChan]
  rfl

theorem State.chan_lost (s : State) (ch e : Nat) : (s.lost ch).chan e = if e = ch then (s.chan ch).gone else s.chan e := by
  rw [State.lost, State.chan_of_raise, State.chan_of_hand, State.chan_noteMigrating, State.chan_setChan]
  rfl

/-! ### The statement about migration, spares and loss -/

/-- A step of the copy puts the unit at the pointer into its place on the other channel and raises the pointer. -/
theorem migrationUnitCopy_moves {s : State} {ch : Chan} {tgt : Nat × Nat} (hstate : (s.chan ch.val).state = 3) (hdraining : (s.chan ch.val).draining = false)
    (hlive : ((s.chan ch.val).migLost || (s.chan ch.val).dead) = false) (hqueue : (s.chan ch.val).queue = []) (hwindow : (s.chan ch.val).window = [])
    (hcombining : (s.chan ch.val).combining = []) (herr : (s.chan ch.val).secErr = []) (hspares : (s.chan ch.val).spares = [])
    (htgt : migTarget s.pkg.density ch.val (s.chan ch.val).pointer.toNat = tgt) (hfree : (s.chan tgt.1).spares = []) (hne : tgt.1 ≠ ch.val)
    (hnext : (s.chan ch.val).pointer.toNat + 1 < uUse s.pkg.density) :
    ∃ t, exec (.migrationUnitCopy ch []) s = .next t ∧ t.chan ch.val = (s.chan ch.val).unitMoved ∧
      t.chan tgt.1 = (s.chan tgt.1).putUnit tgt.2 tgt.2 ((s.chan ch.val).wholeUnit (s.chan ch.val).pointer.toNat) ∧
      ∀ e, e ≠ ch.val → e ≠ tgt.1 → t.chan e = s.chan e := by
  have hheld := chanBecomes_held hqueue hwindow hcombining (s.chan ch.val).pointer.toNat
  have hexec := exec_migrationUnitCopy_next hstate hdraining hnext
  simp only [htgt, hlive] at hexec
  rw [State.copyUnit_clean (by rw [hheld.2, herr]) (by rw [hheld.2, Channel.spared_of_no_spares hspares]), hheld.1.2 _ hne,
    Channel.spared_of_no_spares hfree, hheld.2] at hexec
  refine ⟨_, hexec, ?_, ?_, fun e he het => ?_⟩
  · rw [State.chan_updChan, if_pos rfl, State.chan_updChan, if_neg hne.symm, hheld.2]
  · rw [State.chan_updChan, if_neg hne, State.chan_updChan, if_pos rfl, hheld.1.2 _ hne]
  · rw [State.chan_updChan, if_neg he, State.chan_updChan, if_neg het, hheld.1.2 _ he]

/-- A further command on an entry copies one unit of its row group. -/
theorem rowSpareCopy_moves {s : State} {ch : Chan} {n : Fin 64} {e : RowSpare} (h : s.SpareDue ch.val n.val e) (hcopying : e.copying = true)
    (hcopied : e.copied < 15) (hqueue : (s.chan ch.val).queue = []) (hwindow : (s.chan ch.val).window = [])
    (hcombining : (s.chan ch.val).combining = []) (herr : (s.chan ch.val).secErr = []) :
    ∃ t, exec (.rowSpareCopy ch n) s = .next t ∧ (∀ x, x ≠ ch.val → t.chan x = s.chan x) ∧
      t.chan ch.val = ((s.chan ch.val).putUnit (e.fromGroup.toNat * 15 + e.copied) (e.toGroup.toNat * 15 + e.copied)
        ((s.chan ch.val).wholeUnit (e.fromGroup.toNat * 15 + e.copied))).updSpare n.val RowSpare.oneMore := by
  have hheld := chanBecomes_held hqueue hwindow hcombining (e.fromGroup.toNat * 15 + e.copied)
  have hexec := exec_rowSpareCopy_next h hcopying
  simp only at hexec
  rw [State.copyUnit_clean (by rw [hheld.2, herr]) (by rw [hheld.2, Channel.spared_next_slot h.spares h.assigned hcopied]), hheld.2] at hexec
  have hbecomes := (hheld.updChan (·.putUnit (e.fromGroup.toNat * 15 + e.copied) (e.toGroup.toNat * 15 + e.copied)
    ((s.chan ch.val).wholeUnit (e.fromGroup.toNat * 15 + e.copied)))).updChan (·.updSpare n.val RowSpare.oneMore)
  refine ⟨_, hexec, ?_⟩
  simp only [State.chan_noteMigrating]
  exact ⟨hbecomes.1.2, hbecomes.2⟩

theorem RowSpare.oneMore_of_lt {e : RowSpare} (h : e.copied < 14) : e.oneMore = { e with copied := e.copied + 1 } := if_pos h

theorem RowSpare.oneMore_of_last {e : RowSpare} (h : e.copied = 14) :
    e.oneMore = { e with copying := false, copied := 0, assigned := true, valid := true } := if_neg (by omega)

theorem Channel.get_updSpare (c : Channel) (n : Nat) (f : RowSpare → RowSpare) : (c.updSpare n f).spares.get n = f (c.spares.get n) :=
  (Tab.get_upd _ _ _ _).trans (if_pos rfl)

/-- Settles O23, from what a start, a copied unit, a copied row group and a loss do. -/
theorem migrationSparesAndLostChannels : Obligations.MigrationSparesAndLostChannels := by
  unfold Obligations.MigrationSparesAndLostChannels
  refine ⟨⟨?start, ?drained, ?unit⟩, ?spare, ?lost, ?queued⟩
  case start =>
    intro ch s hother hstate
    have hbecomes := chanBecomes_setChan ch.val ((s.chan ch.val).migrating s.gddrOps) s
    refine ⟨_, exec_start_in_service hother hstate, State.noteMigrating_setChan (.inl rfl), ?_⟩
    simp only [State.chan_noteMigrating, hbecomes.2]
    exact ⟨rfl, rfl, rfl, rfl, rfl, hbecomes.1.2, rfl⟩
  case drained =>
    intro ch s hstate hdraining hops
    exact ⟨_, exec_migrationDrained_ended hstate hdraining hops, chanBecomes_setChan ch.val _ s⟩
  case unit =>
    intro ch s c tgt hstate hdraining hlost hdead hqueue hwindow hcombining herr hspares hfree hne hnext
    obtain ⟨t, hexec, hchan, htgt, hothers⟩ := migrationUnitCopy_moves (tgt := tgt) hstate hdraining (by simpa [c] using ⟨hlost, hdead⟩)
      hqueue hwindow hcombining herr hspares rfl hfree hne hnext
    have hpointer : (c.pointer + 1).toNat = c.pointer.toNat + 1 := by
      have huse : uUse s.pkg.density ≤ 22020096 := by unfold uUse; split <;> omega
      have hone : (1 : BitVec 25).toNat = 1 := rfl
      rw [BitVec.toNat_add, hone]
      omega
    refine ⟨t, hexec, by rw [hchan]; exact hpointer, ?_, by rw [hchan]; rfl, by rw [hchan]; exact hstate, hothers⟩
    rw [htgt]
    exact (Channel.read_putUnit _ _ _ _ _).1
  case spare =>
    intro ch n s e c hspares hassigned hstate hdead hgroup
    have hdue : s.SpareDue ch.val n.val e := ⟨hspares, hassigned, Channel.lostNow_of_in_service hstate hdead, hgroup⟩
    refine ⟨fun hcopying => ?begins, fun hcopying hcopied hqueue hwindow hcombining herr => ?next⟩
    case begins =>
      have hbecomes := (ChanBecomes.refl ch.val s).updChan (·.updSpare n.val (·.begun s.pkg.density))
      have hentry : ((s.chan ch.val).updSpare n.val (·.begun s.pkg.density)).spares.get n.val = e.begun s.pkg.density := by
        rw [Channel.get_updSpare, hdue.entry]
      have hcopies : ∃ x ∈ ((s.chan ch.val).updSpare n.val (·.begun s.pkg.density)).spares, x.2.copying = true := by
        refine ⟨_, Tab.mem_set_same _ _ ?_, rfl⟩
        exact fun h => absurd (congrArg RowSpare.copying h) Bool.noConfusion
      refine ⟨_, exec_rowSpareCopy_begins hdue hcopying, State.noteMigrating_setChan (.inr hcopies), ?_⟩
      simp only [State.chan_noteMigrating, hbecomes.2, hentry]
      exact ⟨rfl, rfl, hbecomes.1.2⟩
    case next =>
      obtain ⟨t, hexec, hothers, hchan⟩ := rowSpareCopy_moves hdue hcopying hcopied hqueue hwindow hcombining herr
      have hentry : (t.chan ch.val).spares.get n.val = e.oneMore := by
        rw [hchan, Channel.get_updSpare]
        exact congrArg _ hdue.entry
      obtain ⟨hplace, hstands⟩ := Channel.read_putUnit c (e.fromGroup.toNat * 15 + e.copied) (e.toGroup.toNat * 15 + e.copied) c
        (e.fromGroup.toNat * 15 + e.copied)
      refine ⟨t, hexec, hothers, by rw [hchan]; exact hplace, by rw [hchan]; exact hstands, fun hlt => ?_, fun hlast => ?_⟩
      · rw [hentry, RowSpare.oneMore_of_lt hlt]
      · rw [hentry, RowSpare.oneMore_of_last hlast]
  case lost =>
    intro ch s hstate hqueue hwindow
    have hexec := exec_channelLost_in_service hstate
    rw [hqueue, hwindow, List.append_nil, List.foldl_nil] at hexec
    refine ⟨_, { unit := chanUnit ch.val 0, cls := 0x05, severity := 3, time := s.t }, hexec, ?_⟩
    simp only [State.chan_lost, if_true]
    refine ⟨rfl, rfl, rfl, rfl, trivial, trivial, rfl, fun e he => if_neg he, fun hother => ?_⟩
    show (s.pkg.memoryBroken || s.otherMigration ch.val) = true
    rw [hother, Bool.or_true]
  case queued =>
    intro ch s m c req part hstate hqueue hwindow hasker houtst
    have hexec := exec_channelLost_in_service hstate
    have hfail : State.failMem (s.lost ch.val) m = (s.lost ch.val).dmaAnswer c req part stMemUnc [] := by simp [State.failMem, hasker]
    rw [hqueue, hwindow, List.append_nil, List.foldl_cons, List.foldl_nil, hfail] at hexec
    have hchan : ((s.lost ch.val).dmaAnswer c req part stMemUnc []).chan ch.val = (s.chan ch.val).gone := by
      rw [State.dmaAnswer, State.chan_of_updCore, State.chan_lost, if_pos rfl]
    have hans := State.dmaAnswer_outstanding (s := s.lost ch.val) (c := c) (req := req) (by rwa [State.core_lost]) part stMemUnc [] false
    rw [State.core_lost] at hans
    exact ⟨_, hexec, by rw [hchan]; rfl, by rw [hchan]; rfl, hans⟩

end Sys2Proof.Machine
end

section
/-! PROOFS. A channel that was lost while in service and is then migrated (R271, R275, R276): its device enters no heat state any more. -/

namespace Sys2Proof.Machine

/-- The temperature of a lost device is kept, and nothing more, while its channel is migrated too. -/
theorem exec_gddrTempRead_of_dead {s : State} {ch : Chan} (h : (s.chan ch.val).dead = true) (temp : Byte) :
    exec (.gddrTempRead ch temp) s = .next (s.setChan ch.val { s.chan ch.val with temp := temp }) := by
  show execGddrTempRead ch temp s = _
  rw [execGddrTempRead, if_pos (.inr (.inr h))]

/-- The package after commands, each executed on what the one before leaves. -/
def State.afterAll (s : State) (l : List Instr) : State :=
  l.foldl (fun s i => match exec i s with
    | .next t => t
    | _ => s) s

/-- Channel 0 in service, lost (CHANNEL_LOST), and migrated (a write of `start`). -/
def lostThenMigrated : State := State.afterAll { chans := [(0, { state := 1 })] } [.channelLost 0, .start 0]

theorem chan_lostThenMigrated : let c := lostThenMigrated.chan (0 : Chan).val
    c.state = 3 ∧ c.dead = true ∧ c.heat = 0 := by decide +kernel

/-- Refutes O22: a cool device that reads 106 °C stays cool where its channel was lost and now migrates; the statement excludes only the lost
channel that does not (state 5). -/
theorem not_squallCreditAndUpkeep : ¬ Obligations.SquallCreditAndUpkeep := by
  unfold Obligations.SquallCreditAndUpkeep
  rintro ⟨-, hupkeep⟩
  obtain ⟨hstate, hdead, hheat⟩ := chan_lostThenMigrated
  obtain ⟨-, -, -, htemp, -⟩ := hupkeep 0 lostThenMigrated
  obtain ⟨t, hexec, -, -, hhot, -⟩ := htemp 106 (by rw [hstate]; decide) (by rw [hstate]; decide) hheat
  rw [exec_gddrTempRead_of_dead hdead] at hexec
  obtain rfl := Host.Outcome.next.inj hexec
  rw [State.chan_setChan, if_pos rfl] at hhot
  exact absurd (hheat.symm.trans hhot) (by decide)

end Sys2Proof.Machine
end

section
/-! PROOFS. Whole-package resets and the reset of a compute die (R273, R563 to R569): what each leaves, and that what a die's reset loads again and
tests touches its own cores alone. -/

namespace Sys2Proof.Machine

/-! ### The reset pin (R563 to R566) -/

/-- A channel that is migrated stays so, and no other is left (R273). -/
theorem State.keepsMigrated_restartAs (s : State) (cause : BitVec 3) : s.KeepsMigrated (s.restartAs cause false) := by
  intro e
  show e ∈ (s.chans.map (fun c => (c.1, c.2.kept))).filter (fun c => c.2 != {}) ↔ _
  rw [List.mem_filter, List.mem_map]
  constructor
  · rintro ⟨⟨c, hc, rfl⟩, hne⟩
    have hstate : c.2.state = 4 := by simpa [Channel.kept] using hne
    exact ⟨c, hc, hstate, by rw [Channel.kept, if_pos hstate]⟩
  · rintro ⟨c, hc, hstate, rfl⟩
    refine ⟨⟨c, hc, by rw [Channel.kept, if_pos hstate]⟩, bne_iff_ne.2 fun h => ?_⟩
    have hzero : (4 : BitVec 3) = 0 := congrArg Channel.state h
    exact absurd hzero (by decide)

/-- The package while the reset pin is held: restarted, with its supplies as they stood. -/
def State.pinHeld (s : State) : State :=
  let s1 := s.restartAs (s.causeOf 1) false
  { s1 with supply := { s1.supply with resetN := false } }

theorem exec_pkgResetAssert_powered {s : State} (h : s.supply.boardPg = true) :
    exec .pkgResetAssert s = .next (if s.supply.group = 0 then s.pinHeld.sequence else s.pinHeld) := by
  show execPkgResetAssert s = _
  simp only [execPkgResetAssert, h, Bool.not_true, Bool.false_eq_true, if_false, State.pinHeld]
  split <;> rfl

/-- Sequencing the supplies touches nothing else. -/
theorem State.sequence_eq (s : State) :
    s.sequence = { s with supply := { s.supply with enabled := 1, good := 0, timedOut := false, group := 1, groupAt := s.t } } := by
  have hplinth : (0 : BitVec 17) ||| maskOf (supplyGroup 1) = 1 := by decide
  simp only [State.sequence, State.enableGroup, hplinth]
  rfl

theorem exec_pkgResetRelease (s : State) :
    exec .pkgResetRelease s = .next (if s.supply.resetN then s else { s with supply := { s.supply with resetN := true }, tap := {} }) := by
  show execPkgResetRelease s = _
  rw [execPkgResetRelease]
  split <;> rfl

/-! ### Image restart (R565) -/

theorem State.flashLeft_of_ready {s : State} (h : s.restartReady = true) : s.flashLeft = s.boot.flash := by
  have hwriting : s.boot.imageWriting = false := by simpa using (Bool.and_eq_true_iff.1 h).2
  simp [State.flashLeft, hwriting]

/-- What an image restart waits for hangs on the tenancies, the checkpoints and the flash alone. -/
theorem State.restartReady_congr {s t : State} (htens : t.tens = s.tens) (hckpts : t.ckpts = s.ckpts) (hboot : t.boot = s.boot) :
    t.restartReady = s.restartReady := by
  simp only [State.restartReady, State.ten, State.ckpt, htens, hckpts, hboot]

theorem exec_imageRestart_waiting {s : State} (hstopped : s.cpc.stopped = false) (hrestarting : s.cpc.restarting = true) :
    exec .imageRestart s = .next (if s.restartReady then s.restartAs 2 false else s) := by
  show Host.Outcome.next s.imageRestartWrite = _
  simp [State.imageRestartWrite, hstopped, hrestarting]

theorem exec_imageRestart_first {s : State} (hstopped : s.cpc.stopped = false) (hrestarting : s.cpc.restarting = false) :
    exec .imageRestart s = .next (if s.restartBegin.restartReady then s.restartBegin.restartAs 2 false else s.restartBegin) := by
  show Host.Outcome.next s.imageRestartWrite = _
  simp [State.imageRestartWrite, hstopped, hrestarting]

theorem foldl_eq_self {σ α : Type} {f : σ → α → σ} {s : σ} {l : List α} (h : ∀ x ∈ l, f s x = s) : l.foldl f s = s := by
  induction l with
  | nil => rfl
  | cons x l ih => rw [List.foldl_cons, h x (by simp), ih fun y hy => h y (by simp [hy])]

/-- The stopping frame touches the twin's registers and what is sent, and goes out of a paired package alone (R464). -/
theorem State.sendStopping_eq (s : State) (st : Byte) :
    ∃ twin outbox, s.sendStopping st = { s with twin := twin, outbox := outbox } ∧ (s.twin.mode = 0 → outbox = s.outbox) := by
  unfold State.sendStopping
  split
  · exact ⟨_, _, rfl, fun _ => rfl⟩
  · next h => exact ⟨_, _, rfl, fun hmode => absurd (.inl hmode) h⟩

theorem admitting_foldl_upd (t : Tab DieRate) (d : Nat) (hd : d < 7) :
    (Tab.get ((List.range 7).foldl (fun t d => t.upd d (fun r => { r with admitting := false })) t) d).admitting = false :=
  Tab.get_foldl_upd_of_mem (P := fun r : DieRate => r.admitting = false) (f := fun r => { r with admitting := false }) (fun _ => rfl) t (List.mem_range.2 hd)

/-- Where every job is free or draining there is none to revoke: no die admits any more, and a twin is told (R565). -/
theorem State.restartBegin_of_no_job {s : State} (h : ∀ n, n < 8 → (s.ten n).job.state = 0 ∨ (s.ten n).job.state = 3) :
    ∃ dies twin outbox, s.restartBegin = { s with cpc := { s.cpc with restarting := true }, dies := dies, twin := twin, outbox := outbox } ∧
      (∀ d, d < 7 → (dies.get d).admitting = false) ∧ (s.twin.mode = 0 → outbox = s.outbox) := by
  have hclosed := admitting_foldl_upd s.dies
  unfold State.restartBegin
  generalize (List.range 7).foldl _ s.dies = dies at hclosed ⊢
  dsimp only
  rw [foldl_eq_self]
  · obtain ⟨twin, outbox, hstop, hunpaired⟩ := State.sendStopping_eq { s with cpc := { s.cpc with restarting := true }, dies := dies } stJobRevoked
    exact ⟨dies, twin, outbox, hstop, hclosed, hunpaired⟩
  · intro n hn
    have hten : State.ten { s with cpc := { s.cpc with restarting := true }, dies := dies } n = s.ten n := rfl
    rcases h n (List.mem_range.1 hn) with hjob | hjob
    · rw [hten, hjob]; rfl
    · rw [hten, hjob]; rfl

/-! ### What the reset of a compute die loads again and tests (R566, R569, R121) -/

/-- Of a core: its slice, its working store, its operation table, and whether it has a job. -/
def Core.workState (k : Core) : Mem × Mem × Tab Entry × Bool := (k.rs, k.ws, k.entries, k.jobValid)

/-- From `s` to `t` nothing is told of die `d` but registers that a reset loads again: its cores' work and that it is busy stand, and so do all other
cores, the dies' rates, the channels and the tenancies. -/
structure KeepsWork (d : CDie) (s t : State) : Prop where
  chans : t.chans = s.chans
  tens : t.tens = s.tens
  dies : t.dies = s.dies
  busy : (t.cdie d.val).busy = (s.cdie d.val).busy
  work : ∀ c, (t.core c).workState = (s.core c).workState
  others : ∀ c : CoreId, c.die ≠ d → t.core c = s.core c

section KeepsWork
variable {d : CDie} {s t u : State}

theorem KeepsWork.refl (d : CDie) (s : State) : KeepsWork d s s := ⟨rfl, rfl, rfl, rfl, fun _ => rfl, fun _ _ => rfl⟩

theorem KeepsWork.trans (h : KeepsWork d s t) (h' : KeepsWork d t u) : KeepsWork d s u where
  chans := h'.chans.trans h.chans
  tens := h'.tens.trans h.tens
  dies := h'.dies.trans h.dies
  busy := h'.busy.trans h.busy
  work c := (h'.work c).trans (h.work c)
  others c hc := (h'.others c hc).trans (h.others c hc)

theorem KeepsWork.foldl {α : Type} {g : State → α → State} {l : List α} (hg : ∀ s, ∀ x ∈ l, KeepsWork d s (g s x)) (s : State) :
    KeepsWork d s (l.foldl g s) :=
  List.foldlRecOn (motive := KeepsWork d s) l g (.refl d s) fun _ h x hx => h.trans (hg _ x hx)

theorem keepsWork_updCore (s : State) {c : CoreId} (hc : c.die = d) {g : Core → Core} (hg : ∀ k, (g k).workState = k.workState) :
    KeepsWork d s (s.updCore c g) where
  chans := rfl
  tens := rfl
  dies := rfl
  busy := rfl
  work e := by
    rw [State.core_updCore]
    split
    · next he => rw [hg, he]
    · rfl
  others e he := by rw [State.core_updCore, if_neg fun h : e = c => he (h ▸ hc)]

theorem keepsWork_updCdie (s : State) (e : Nat) {g : CompDie → CompDie} (hg : ∀ m, (g m).busy = m.busy) : KeepsWork d s (s.updCdie e g) where
  chans := rfl
  tens := rfl
  dies := rfl
  busy := by
    rw [State.cdie_updCdie]
    split
    · next h => rw [hg, h]
    · rfl
  work _ := rfl
  others _ _ := rfl

theorem keepsWork_retire (s : State) (c : CoreId) : KeepsWork d s (s.retire c) := by
  unfold State.retire
  split
  · exact .refl d s
  · exact ⟨rfl, rfl, rfl, rfl, fun _ => rfl, fun _ _ => rfl⟩

theorem keepsWork_addRemap (s : State) (c : CoreId) : KeepsWork d s (s.addRemap c) := by
  unfold State.addRemap
  dsimp only
  split
  · exact .refl d s
  · split
    · exact keepsWork_retire s c
    · exact keepsWork_updCdie s _ fun _ => rfl

/-- What node firmware makes of a self-test result moves no work. -/
theorem keepsWork_actSelfTest (s : State) {c : CoreId} (hc : c.die = d) (pass : BitVec 6) : KeepsWork d s (s.actSelfTest c pass) := by
  unfold State.actSelfTest
  dsimp only
  split
  · exact keepsWork_updCore s hc fun _ => rfl
  · split
    · exact keepsWork_addRemap s c
    · split
      · exact keepsWork_updCore s hc fun _ => rfl
      · exact keepsWork_retire s c

theorem workState_imageCore (o v : Nat) (k : Core) : (imageCore o v k).workState = k.workState := by
  unfold imageCore
  split
  · rfl
  · split <;> rfl

theorem pcsBlock_of_high {a : Nat} (h : 2 ^ 63 ≤ a) : pcsBlock a = .outside := by
  simp only [pcsBlock]
  repeat rw [if_neg (by omega)]

/-- A record on a die is applied to that die alone. -/
theorem keepsWork_applyRecord (s : State) {r : BitVec 64 × BitVec 64} (h : recordOnDie d r = true) : KeepsWork d s (s.applyRecord (r.1.toNat, r.2.toNat)) := by
  have hlow : ¬ 2 ^ 63 ≤ r.1.toNat := fun hhigh => by simp [recordOnDie, pcsBlock_of_high hhigh] at h
  rw [State.applyRecord, if_neg hlow]
  unfold recordOnDie at h
  cases hblock : pcsBlock r.1.toNat with
  | core c o =>
    rw [hblock] at h
    exact keepsWork_updCore s (by simpa using h) (workState_imageCore o _)
  | cdie e o => exact keepsWork_updCdie s _ fun _ => rfl
  | _ => simp [hblock] at h

/-- Changes to the cores of one die, by their places on it. -/
theorem keepsWork_foldl_upd (s : State) (d : CDie) {l : List Nat} (hl : ∀ p ∈ l, p < 21572) {g : Core → Core} (hg : ∀ k, (g k).workState = k.workState) :
    KeepsWork d s { s with cores := l.foldl (fun t p => t.upd (d.val * 21572 + p) g) s.cores } where
  chans := rfl
  tens := rfl
  dies := rfl
  busy := rfl
  work c := by
    refine foldl_keeps (fun t : Tab Core => (t.get (coreKey c)).workState) (fun t p => ?_) l s.cores
    rw [Tab.get_upd]
    split
    · next h => rw [hg, h]
    · rfl
  others c hc := by
    refine List.foldlRecOn (motive := fun t : Tab Core => t.get (coreKey c) = s.cores.get (coreKey c)) l _ rfl fun t ht p hp => ?_
    have hkey : coreKey c ≠ d.val * 21572 + p := fun h => hc (Fin.ext (by
      have hp := hl p hp
      have hc := c.p.isLt
      unfold coreKey at h
      omega))
    rw [Tab.get_upd, if_neg hkey, ht]

/-- The image's records for a die's cores, loaded again, move no work: those for every core, and those for one. -/
theorem keepsWork_reloadDie (s : State) (d : CDie) : KeepsWork d s (s.reloadDie d) := by
  have hown : ∀ s1, KeepsWork d s s1 → KeepsWork d s ((s1.boot.records.filter (recordOnDie d)).foldl
      (fun s (r : BitVec 64 × BitVec 64) => s.applyRecord (r.1.toNat, r.2.toNat)) s1) := fun s1 h =>
    h.trans (.foldl (fun s r hr => by
      have hon : recordOnDie d r = true := (List.mem_filter.1 hr).2
      exact keepsWork_applyRecord s hon) s1)
  refine hown _ ?_
  split
  · exact .refl d s
  · exact keepsWork_foldl_upd s d (fun _ => List.mem_range.1) fun k => foldl_keeps Core.workState (fun _ _ => workState_imageCore _ _ _) _ k

/-- The registers of a core once its self-test has run. -/
def Core.tested (k : Core) (pass : BitVec 6) (tiles : BitVec 16) : Core := { k with selfDone := true, selfPass := pass, failTiles := tiles }

theorem Core.workState_tested (k : Core) (pass : BitVec 6) (tiles : BitVec 16) : (k.tested pass tiles).workState = k.workState := rfl

/-- The self-test results of a die's cores, acted upon. -/
def State.actSelfTests (s : State) (d : CDie) (fails : List (CoreId × BitVec 6 × BitVec 16)) : State :=
  (fails.filter (fun x => x.1.die == d)).foldl (fun s x => (s.updCore x.1 (·.tested x.2.1 x.2.2)).actSelfTest x.1 x.2.1) s

theorem keepsWork_actSelfTests (s : State) (d : CDie) (fails : List (CoreId × BitVec 6 × BitVec 16)) : KeepsWork d s (s.actSelfTests d fails) := by
  refine .foldl (fun s x hx => ?_) s
  have hdie : x.1.die = d := by simpa using (List.mem_filter.1 hx).2
  exact (keepsWork_updCore s hdie fun k => k.workState_tested x.2.1 x.2.2).trans (keepsWork_actSelfTest _ hdie _)

end KeepsWork

/-! ### The reset of a compute die (R569) -/

/-- The package with the registers of a compute die reset. -/
def State.dieCleared (s : State) (d : CDie) : State :=
  ({ s with cores := s.cores.map (fun (c : Nat × Core) => if c.1 / 21572 = d.val then (c.1, c.2.dieReset) else c) }.updCdie d.val
    (fun m => { m with busy := true, scrubOn := false, scrubUs := 0, scrubPasses := 0 })).updDie d.val (fun r =>
      { r with admitting := false, breach := false, floorLoss := false, mustResume := false, resume := false, lowSince := none, okSince := none, waitNs := 100000
               lowest := 0xFFFF, railMv := BitVec.ofNat 16 (floorMv s.cpc.active.toNat d.val) })

section Where
variable {α : Type} [Inhabited α] (t : Tab α) {p : Nat → Prop} [DecidablePred p] (f : α → α) {k : Nat}

theorem Tab.get_map_where_not (h : ¬ p k) : Tab.get (t.map fun e => if p e.1 then (e.1, f e.2) else e) k = Tab.get t k := by
  induction t with
  | nil => rfl
  | cons e t ih =>
    have hkey : (if p e.1 then (e.1, f e.2) else e).1 = e.1 := by split <;> rfl
    rw [List.map_cons, Tab.get_cons, Tab.get_cons, hkey, ih]
    split
    · next he => rw [if_neg (he ▸ h)]
    · rfl

/-- An entry that is changed, or one that the table does not hold. -/
theorem Tab.get_map_where (h : p k) :
    Tab.get (t.map fun e => if p e.1 then (e.1, f e.2) else e) k = f (Tab.get t k) ∨
      Tab.get (t.map fun e => if p e.1 then (e.1, f e.2) else e) k = default ∧ Tab.get t k = default := by
  induction t with
  | nil => exact .inr ⟨rfl, rfl⟩
  | cons e t ih =>
    have hkey : (if p e.1 then (e.1, f e.2) else e).1 = e.1 := by split <;> rfl
    rw [List.map_cons, Tab.get_cons, Tab.get_cons, hkey]
    split
    · next he => rw [if_pos (he ▸ h)]; exact .inl rfl
    · exact ih

end Where

theorem coreKey_div (c : CoreId) : coreKey c / 21572 = c.die.val := by
  have hp := c.p.isLt
  unfold coreKey
  omega

/-- The cores of the die keep their slices alone. -/
theorem State.workState_dieCleared (s : State) {d : CDie} {c : CoreId} (hc : c.die = d) :
    ((s.dieCleared d).core c).workState = ((s.core c).rs, [], [], false) := by
  have hkey : coreKey c / 21572 = d.val := hc ▸ coreKey_div c
  rcases Tab.get_map_where s.cores Core.dieReset (p := fun n => n / 21572 = d.val) hkey with h | ⟨h, hdefault⟩
  · exact congrArg Core.workState h
  · have hcore : s.core c = default := hdefault
    rw [hcore]
    exact congrArg Core.workState h

theorem State.core_dieCleared_of_ne (s : State) {d : CDie} {c : CoreId} (hc : c.die ≠ d) : (s.dieCleared d).core c = s.core c := by
  have hkey : ¬ coreKey c / 21572 = d.val := fun h => hc (Fin.ext ((coreKey_div c).symm.trans h))
  exact Tab.get_map_where_not s.cores Core.dieReset (p := fun n => n / 21572 = d.val) hkey

theorem State.busy_dieCleared (s : State) (d : CDie) : ((s.dieCleared d).cdie d.val).busy = true := by
  rw [State.dieCleared, State.cdie_of_updDie, State.cdie_updCdie, if_pos rfl]

/-- The die admits nothing, and its breach is forgotten. -/
theorem State.dieRate_dieCleared (s : State) (d : CDie) :
    ((s.dieCleared d).dieRate d.val).admitting = false ∧ ((s.dieCleared d).dieRate d.val).breach = false := by
  rw [State.dieCleared, State.dieRate_updDie, if_pos rfl]
  exact ⟨rfl, rfl⟩

theorem State.dieRate_dieCleared_of_ne (s : State) (d : CDie) {e : Nat} (he : e ≠ d.val) : (s.dieCleared d).dieRate e = s.dieRate e := by
  rw [State.dieCleared, State.dieRate_updDie, if_neg he]
  rfl

section DieReset
variable {d : CDie} {s : State} (fails : List (CoreId × BitVec 6 × BitVec 16)) (hstopped : s.cpc.stopped = false) (hbusy : (s.cdie d.val).busy = false)
include hstopped hbusy

theorem exec_dieReset_ignored (h : s.dieNamed d.val = true ∨ ∃ c ∈ s.chans, c.2.state = 3) :
    exec (.dieReset d fails) s = .next (s.hand { unit := commonUnit 0x02 0, cls := 0x0B, severity := 0 }) := by
  have hwaits : (s.dieNamed d.val || s.chans.any (fun c => c.2.state == 3)) = true := by simpa using h
  show Host.Outcome.next (s.dieResetWrite d fails) = _
  simp only [State.dieResetWrite, hstopped, hbusy, hwaits, Bool.or_self, Bool.true_or, Bool.false_eq_true, if_false, if_true]

theorem exec_dieReset_taken (hnamed : s.dieNamed d.val = false) (hmig : ∀ c ∈ s.chans, c.2.state ≠ 3) (hdold : s.cpc.dold = 0) :
    exec (.dieReset d fails) s = .next (((s.dieCleared d).reloadDie d).actSelfTests d fails) := by
  have hnone : s.chans.any (fun c => c.2.state == 3) = false := by simpa using hmig
  show Host.Outcome.next (s.dieResetWrite d fails) = _
  simp only [State.dieResetWrite, hstopped, hbusy, hnamed, hnone, hdold, Bool.or_self, bne_self_eq_false, Bool.false_eq_true, if_false]
  rfl

end DieReset

/-- What is reloaded and tested leaves the die's cores as the reset left them, and everything else but their registers too. -/
theorem keepsWork_dieReset (s : State) (d : CDie) (fails : List (CoreId × BitVec 6 × BitVec 16)) :
    KeepsWork d (s.dieCleared d) (((s.dieCleared d).reloadDie d).actSelfTests d fails) :=
  (keepsWork_reloadDie _ d).trans (keepsWork_actSelfTests _ d fails)

/-! ### The statement about resets -/

/-- Settles O50, from what each kind of reset leaves. -/
theorem resetsRestartThePackage : Obligations.ResetsRestartThePackage := by
  unfold Obligations.ResetsRestartThePackage
  refine ⟨?asserted, ?released, ?image, ?die⟩
  case asserted =>
    intro s hpg
    have hkept := s.keepsMigrated_restartAs (s.causeOf 1)
    rw [exec_pkgResetAssert_powered hpg]
    by_cases hgroup : s.supply.group = 0
    · rw [if_pos hgroup, State.sequence_eq]
      exact ⟨_, rfl, rfl, hpg, rfl, rfl, rfl, hkept, rfl, rfl, rfl, rfl, rfl, rfl, rfl, rfl, rfl, rfl, fun _ => ⟨rfl, rfl, rfl⟩, fun h => absurd hgroup h⟩
    · rw [if_neg hgroup]
      exact ⟨_, rfl, rfl, hpg, rfl, rfl, rfl, hkept, rfl, rfl, rfl, rfl, rfl, rfl, rfl, rfl, rfl, rfl, fun h => absurd h hgroup, fun _ => rfl⟩
  case released =>
    intro s
    rw [exec_pkgResetRelease]
    exact ⟨fun h => ⟨_, by rw [h]; rfl, rfl⟩, fun h => by rw [h]; rfl⟩
  case image =>
    intro s hstopped
    refine ⟨fun hwaits hready => ?_, fun hwaits hready => ?_, fun hfirst hjobs hready => ?_⟩
    · have hboot : (s.restartAs 2 false).boot = { flash := s.boot.flash } := by rw [← State.flashLeft_of_ready hready]; rfl
      rw [exec_imageRestart_waiting hstopped hwaits, if_pos hready]
      exact ⟨_, rfl, rfl, rfl, rfl, s.keepsMigrated_restartAs 2, rfl, rfl, hboot, rfl, rfl, rfl⟩
    · rw [exec_imageRestart_waiting hstopped hwaits, hready]
      rfl
    · obtain ⟨dies, twin, outbox, hbegin, hclosed, hunpaired⟩ := State.restartBegin_of_no_job hjobs
      have hwaits : s.restartBegin.restartReady = s.restartReady := State.restartReady_congr (by rw [hbegin]) (by rw [hbegin]) (by rw [hbegin])
      have hexec := exec_imageRestart_first hstopped hfirst
      rw [hwaits, hready, hbegin] at hexec
      exact ⟨_, hexec, rfl, hclosed, rfl, rfl, hunpaired⟩
  case die =>
    intro d fails s hstopped hbusy
    refine ⟨fun h => ⟨_, _, exec_dieReset_ignored fails hstopped hbusy h, rfl, rfl, rfl⟩, fun hnamed hmig hdold => ?_⟩
    have hkeeps := keepsWork_dieReset s d fails
    have hrate : ∀ e, (((s.dieCleared d).reloadDie d).actSelfTests d fails).dieRate e = (s.dieCleared d).dieRate e := fun e =>
      congrArg (Tab.get · e) hkeeps.dies
    obtain ⟨hadmits, hbreach⟩ := s.dieRate_dieCleared d
    refine ⟨_, exec_dieReset_taken fails hstopped hbusy hnamed hmig hdold, hkeeps.busy.trans (s.busy_dieCleared d), by rw [hrate, hadmits],
      by rw [hrate, hbreach], hkeeps.chans, hkeeps.tens, fun e he => by rw [hrate, s.dieRate_dieCleared_of_ne d he], fun c hc => ?_,
      fun c hc => (hkeeps.others c hc).trans (s.core_dieCleared_of_ne hc)⟩
    have hwork := (hkeeps.work c).trans (s.workState_dieCleared hc)
    simpa only [Core.workState, Prod.mk.injEq] using hwork

end Sys2Proof.Machine
end

section
/-! PROOFS. Frames that leave and reach the Weamin transport (R285 to R301): what they touch of the package, how one is sent, and on what the
accessors of peers, paths and windows depend. -/

namespace Sys2Proof.Machine

/-! ### What the traffic of frames touches -/

/-- A fabric die without what the traffic of frames moves: credits, receive spaces, the replay table, the duplicates held, the outstanding
requests and the count of re-sends. -/
def Fabric.still (f : Fabric) : Fabric := { f with credits := [], spaces := [], replay := [], dups := [], outst := [], resent := 0 }

/-- Nothing differs but what the traffic of frames moves, and the frames sent. -/
structure State.TrafficOnly (s t : State) : Prop where
  rest : t = { s with fabrics := t.fabrics, outbox := t.outbox }
  still : ∀ n, (t.fab n).still = (s.fab n).still

theorem State.TrafficOnly.refl (s : State) : s.TrafficOnly s := ⟨rfl, fun _ => rfl⟩

theorem State.TrafficOnly.trans {s t u : State} (h : s.TrafficOnly t) (k : t.TrafficOnly u) : s.TrafficOnly u where
  rest := by rw [k.rest, h.rest]
  still n := (k.still n).trans (h.still n)

/-- What a change of one fabric die keeps of it stands of every one. -/
theorem State.updFab_fab_of {γ : Type} (q : Fabric → γ) {g : Fabric → Fabric} (s : State) (pl n : Nat)
    (hq : ∀ f, q (g f) = q f := by intro; rfl) : q ((s.updFab pl g).fab n) = q (s.fab n) := by
  rw [State.fab_updFab]
  split
  · rw [hq, ‹n = pl›]
  · rfl

theorem State.trafficOnly_updFab (s : State) (pl : Nat) {g : Fabric → Fabric} (hg : ∀ f, (g f).still = f.still := by intro; rfl) :
    s.TrafficOnly (s.updFab pl g) where
  rest := rfl
  still n := s.updFab_fab_of Fabric.still pl n hg

theorem State.trafficOnly_send (s : State) (f : OutFrame) : s.TrafficOnly (s.send f) := ⟨rfl, fun _ => rfl⟩

section Traffic
variable {s t : State} (h : s.TrafficOnly t)
include h

theorem State.TrafficOnly.alive (n : Nat) : (t.fab n).alive = (s.fab n).alive := (congrArg Fabric.alive (h.still n) :)
theorem State.TrafficOnly.path (n : Nat) : (t.fab n).path = (s.fab n).path := (congrArg Fabric.path (h.still n) :)
theorem State.TrafficOnly.ports (n : Nat) : (t.fab n).ports = (s.fab n).ports := (congrArg Fabric.ports (h.still n) :)
theorem State.TrafficOnly.ranks (n : Nat) : (t.fab n).ranks = (s.fab n).ranks := (congrArg Fabric.ranks (h.still n) :)
theorem State.TrafficOnly.udpMode (n : Nat) : (t.fab n).udpMode = (s.fab n).udpMode := (congrArg Fabric.udpMode (h.still n) :)
theorem State.TrafficOnly.hopBound (n : Nat) : (t.fab n).hopBound = (s.fab n).hopBound := (congrArg Fabric.hopBound (h.still n) :)
theorem State.TrafficOnly.windows (n : Nat) : (t.fab n).windows = (s.fab n).windows := (congrArg Fabric.windows (h.still n) :)
theorem State.TrafficOnly.winFault (n : Nat) : (t.fab n).winFault = (s.fab n).winFault := (congrArg Fabric.winFault (h.still n) :)
theorem State.TrafficOnly.dupDrop (n : Nat) : (t.fab n).dupDrop = (s.fab n).dupDrop := (congrArg Fabric.dupDrop (h.still n) :)
theorem State.TrafficOnly.waiting (n : Nat) : (t.fab n).waiting = (s.fab n).waiting := (congrArg Fabric.waiting (h.still n) :)
theorem State.TrafficOnly.shared (n : Nat) : (t.fab n).shared = (s.fab n).shared := (congrArg Fabric.shared (h.still n) :)
theorem State.TrafficOnly.ckpts : t.ckpts = s.ckpts := (congrArg State.ckpts h.rest :)
theorem State.TrafficOnly.cores : t.cores = s.cores := (congrArg State.cores h.rest :)
theorem State.TrafficOnly.chans : t.chans = s.chans := (congrArg State.chans h.rest :)
theorem State.TrafficOnly.handed : t.handed = s.handed := (congrArg State.handed h.rest :)
theorem State.TrafficOnly.twin : t.twin = s.twin := (congrArg State.twin h.rest :)
theorem State.TrafficOnly.cpc : t.cpc = s.cpc := (congrArg State.cpc h.rest :)
theorem State.TrafficOnly.boot : t.boot = s.boot := (congrArg State.boot h.rest :)
theorem State.TrafficOnly.time : t.t = s.t := (congrArg State.t h.rest :)
theorem State.TrafficOnly.core (c : CoreId) : t.core c = s.core c := (congrArg (State.core · c) h.rest :)
theorem State.TrafficOnly.chan (n : Nat) : t.chan n = s.chan n := (congrArg (State.chan · n) h.rest :)
theorem State.TrafficOnly.steer (u : Nat) : t.steer u = s.steer u := (congrArg (State.steer · u) h.rest :)
theorem State.TrafficOnly.needLine (peer a n : Nat) : t.needLine peer a n = s.needLine peer a n := (congrArg (State.needLine · peer a n) h.rest :)
theorem State.TrafficOnly.rsTarget (off : Nat) : t.rsTarget off = s.rsTarget off := (congrArg (State.rsTarget · off) h.rest :)
theorem State.TrafficOnly.dieAdmits (d : Nat) : t.dieAdmits d = s.dieAdmits d := (congrArg (State.dieAdmits · d) h.rest :)
theorem State.TrafficOnly.castHalted : t.castHalted = s.castHalted := (congrArg State.castHalted h.rest :)
theorem State.TrafficOnly.jobTen (id gen : BitVec 16) : t.jobTen id gen = s.jobTen id gen := (congrArg (State.jobTen · id gen) h.rest :)
theorem State.TrafficOnly.ten (n : Nat) : t.ten n = s.ten n := (congrArg (State.ten · n) h.rest :)

theorem State.TrafficOnly.planeUp (n : Nat) : t.planeUp n = s.planeUp n := by simp only [State.planeUp, h.alive, h.path]

theorem State.TrafficOnly.allowance (n : Nat) : (t.fab n).allowance = (s.fab n).allowance := by simp only [Fabric.allowance, h.hopBound]

theorem State.TrafficOnly.spaceHome (o : Bool) : t.spaceHome o = s.spaceHome o := by simp only [State.spaceHome, h.alive]

theorem State.TrafficOnly.hostEntry (n : Nat) : t.hostEntry n = s.hostEntry n := (congrArg (State.hostEntry · n) h.rest :)

theorem State.TrafficOnly.destEntry (n k : Nat) : t.destEntry n k = s.destEntry n k := by simp only [State.destEntry, h.hostEntry, h.ranks]

theorem State.TrafficOnly.entAddr (n : Nat) (e : RankEntry) : (t.fab n).entAddr e = (s.fab n).entAddr e := by
  simp only [Fabric.entAddr, h.udpMode]

theorem State.TrafficOnly.peerOfRank (k : Nat) : t.peerOfRank k = s.peerOfRank k := by
  simp only [State.peerOfRank, h.destEntry, h.entAddr]

theorem State.TrafficOnly.srcRankKey (n : Nat) (f : WtFrame) : t.srcRankKey n f = s.srcRankKey n f := by
  simp only [State.srcRankKey, h.jobTen, h.ranks, h.udpMode, h.entAddr]

/-- A frame's peer is known by the job, rank and host tables (R292). -/
theorem State.TrafficOnly.peerOf (n : Nat) (f : WtFrame) : t.peerOf n f = s.peerOf n f := by
  simp only [State.peerOf, h.srcRankKey, h.peerOfRank, h.udpMode]

theorem State.TrafficOnly.twinPort (n : Nat) : t.twinPort n = s.twinPort n := by simp only [State.twinPort, h.ports]

theorem State.TrafficOnly.twinUp (n : Nat) : t.twinUp n = s.twinUp n := by
  simp only [State.twinUp, h.twinPort, h.ports, h.alive, h.twin, h.cpc]

/-- The sub-port of a frame is given by its plane's ports and path table (R301, R452). -/
theorem State.TrafficOnly.egress (n : Nat) (twin : Bool) (path : BitVec 7) : t.egress n twin path = s.egress n twin path := by
  simp only [State.egress, State.pathSub, h.twinUp, h.twinPort, h.path]

theorem State.TrafficOnly.rankDest (n tn rank : Nat) : t.rankDest n tn rank = s.rankDest n tn rank := by
  unfold State.rankDest
  rw [h.ranks, h.ten]

/-- Where a request goes is given by the rank and host tables and the twin's addresses (R447, R541). -/
theorem State.TrafficOnly.reqDest (n : Nat) (o : OutReq) : t.reqDest n o = s.reqDest n o := by
  simp only [State.reqDest, State.typeDest, State.fwDest, State.twinAddr, h.rankDest, h.hostEntry, h.twinPort, h.boot]

end Traffic

/-! ### The check of job and rank (R343, R448, R467) -/

/-- A frame of no job, or of an ACTIVE one and to its rank here, while the package is not superseded. -/
def State.PassesJob (s : State) (f : WtFrame) : Prop :=
  f.jobId = 0 ∨ s.twin.state ≠ 6 ∧ ∃ tn, s.activeTen f.jobId f.jobGen = some tn ∧ f.dstRank = (s.ten tn).job.ownRank

theorem State.TrafficOnly.passesJob {s t : State} (h : s.TrafficOnly t) {f : WtFrame} (hs : s.PassesJob f) : t.PassesJob f := by
  unfold State.PassesJob State.activeTen at *
  simpa only [h.twin, h.jobTen, h.ten] using hs

theorem State.jobTen_of_activeTen {s : State} {id gen : BitVec 16} {tn : Nat} (h : s.activeTen id gen = some tn) :
    s.jobTen id gen = some tn ∧ (s.ten tn).job.state = 2 := by
  obtain ⟨hjob, hactive⟩ := Option.filter_eq_some_iff.1 h
  exact ⟨hjob, by simpa using hactive⟩

theorem State.jobGate_passes {s : State} {f : WtFrame} (h : s.PassesJob f) (pl : Nat) : s.jobGate pl f = (s, true) := by
  unfold State.jobGate
  by_cases hno : f.jobId = 0
  · rw [if_pos hno]
  · obtain ⟨hstate, tn, hten, hrank⟩ := h.resolve_left hno
    obtain ⟨hjob, hactive⟩ := State.jobTen_of_activeTen hten
    rw [if_neg hno, if_neg hstate, hjob]
    simp [hactive, hrank]

/-! ### A frame is sent (R288, R301) -/

/-- A frame as sub-port `sub` of a plane sends it to a peer (R288, R299). -/
def State.outgoing (s : State) (pl sub peer : Nat) (f : WtFrame) : WtFrame :=
  wtSeal { f with
    creditGrant := s.grantFor pl peer, tSend := BitVec.ofNat 32 s.t, ackFloor := s.ackFloor f.origin peer
    srcMac := (s.ownAddr pl sub).mac, srcIp6 := (s.ownAddr pl sub).ip6, self := false, twin := false }

/-- The peer has been told of every buffer freed for it. -/
def Credits.told (c : Credits) : Credits := { c with untold := 0 }

theorem State.sendWt_goes {s : State} {pl sub : Nat} {f : WtFrame} (hsub : s.egress pl f.twin f.pathId = some sub)
    (halive : (s.fab pl).alive = true) (hcast : s.castHalted = false ∨ f.jobId = 0) (peer : Nat) (mac : BitVec 48) (ip : BitVec 128) :
    s.sendWt pl peer mac ip f = (s.updFab pl (fun x => { x with credits := x.credits.upd peer Credits.told })).send
      (.wt pl sub (s.carriage pl sub mac ip f.pathId.toNat) (s.outgoing pl sub peer f)) := by
  have hgoes : (!(s.fab pl).alive || (s.castHalted && f.jobId != 0)) = false := by
    rcases hcast with h | h <;> simp [halive, h]
  simp only [State.sendWt, hsub, hgoes]
  rfl

/-- Whether a frame goes out or not, only its peer's credits are touched, and the frames sent. -/
theorem State.sendWt_cases (s : State) (pl peer : Nat) (mac : BitVec 48) (ip : BitVec 128) (f : WtFrame) :
    s.sendWt pl peer mac ip f = s ∨ ∃ o, s.sendWt pl peer mac ip f =
      (s.updFab pl (fun x => { x with credits := x.credits.upd peer Credits.told })).send o := by
  unfold State.sendWt
  split
  · exact .inl rfl
  · split
    · exact .inl rfl
    · exact .inr ⟨_, rfl⟩

theorem State.trafficOnly_sendWt (s : State) (pl peer : Nat) (mac : BitVec 48) (ip : BitVec 128) (f : WtFrame) :
    s.TrafficOnly (s.sendWt pl peer mac ip f) := by
  rcases s.sendWt_cases pl peer mac ip f with h | ⟨o, h⟩
  · rw [h]; exact .refl s
  · rw [h]; exact (s.trafficOnly_updFab pl).trans (State.trafficOnly_send _ _)

/-- What does not speak of credits stands when a frame is sent. -/
theorem State.sendWt_fab_of {γ : Type} (q : Fabric → γ) (s : State) (pl peer : Nat) (mac : BitVec 48) (ip : BitVec 128) (f : WtFrame) (n : Nat)
    (hq : ∀ f cr, q { f with credits := cr } = q f := by intros; rfl) : q ((s.sendWt pl peer mac ip f).fab n) = q (s.fab n) := by
  rcases s.sendWt_cases pl peer mac ip f with h | ⟨o, h⟩
  · rw [h]
  · rw [h]
    exact s.updFab_fab_of q pl n (fun x => hq x _)

theorem State.outbox_sendWt {s : State} {pl sub : Nat} {f : WtFrame} (hsub : s.egress pl f.twin f.pathId = some sub)
    (halive : (s.fab pl).alive = true) (hcast : s.castHalted = false ∨ f.jobId = 0) (peer : Nat) (mac : BitVec 48) (ip : BitVec 128) :
    (s.sendWt pl peer mac ip f).outbox = s.outbox ++ [.wt pl sub (s.carriage pl sub mac ip f.pathId.toNat) (s.outgoing pl sub peer f)] := by
  rw [State.sendWt_goes hsub halive hcast]
  rfl

/-- On a plane whose path table is not empty every path has a sub-port of the table (R301). -/
theorem State.egress_of_path {s : State} {pl : Nat} (h : (s.fab pl).path ≠ []) (path : BitVec 7) :
    ∃ sub ∈ (s.fab pl).path, s.egress pl false path = some sub := by
  have hlt : path.toNat % (s.fab pl).path.length < (s.fab pl).path.length := Nat.mod_lt _ (List.length_pos_iff.2 h)
  exact ⟨_, List.getElem_mem hlt, by simp [State.egress, State.pathSub, h, hlt]⟩

end Sys2Proof.Machine
end

section
/-! PROOFS. Good frames that arrive (R290 to R294, R298, R302, R304): what their arrival notes, and which request goes on to its execution. -/

namespace Sys2Proof.Machine

/-! ### Nothing waits at the fabric dies -/

theorem State.flushPlane_of_nothingWaits {s : State} (h : s.NothingWaits) (pl : Plane) : s.flushPlane pl = s := by
  obtain ⟨hfabs, hout⟩ := h
  have hagain : s.flushAgain pl = s := foldl_eq_self (fun o ho => by rw [hout o ho])
  rw [State.flushPlane, hagain, (hfabs pl.val).1]
  rfl

/-- Of what waits nothing is added where a step keeps the requests and the held duplicates of both dies. -/
theorem State.NothingWaits.of_fabs {s t : State} (h : s.NothingWaits) (hwaiting : ∀ n, (t.fab n).waiting = (s.fab n).waiting)
    (hdups : ∀ n, (t.fab n).dups = (s.fab n).dups) (hout : ∀ n, ∀ o ∈ (t.fab n).outst, o ∈ (s.fab n).outst) : t.NothingWaits := by
  obtain ⟨hfabs, hagain⟩ := h
  refine ⟨fun n => by rw [hwaiting, hdups]; exact hfabs n, fun o ho => hagain o ?_⟩
  rw [List.mem_append] at ho ⊢
  exact ho.imp (hout 0 o) (hout 1 o)

/-! ### Receive spaces (R292, R307) -/

/-- A space that was taken over stays so when it is written again; it is then read as written. -/
theorem State.space_setSpace {s : State} {peer : Nat} {o : Bool} {sp : SeqSpace}
    (h : (s.space peer o).takenOver = true → sp.takenOver = true) : (s.setSpace peer o sp).space peer o = sp := by
  have hhome : (s.setSpace peer o sp).spaceHome o = s.spaceHome o := (s.trafficOnly_updFab (s.spaceHome o)).spaceHome o
  unfold State.space at h ⊢
  rw [hhome]
  simp only [State.setSpace, State.fab_updFab, if_true, Tab.get_set_same, State.updFab_twin]
  refine if_neg (fun hc => hc.2 (h ?_))
  by_cases hold : ((s.fab (s.spaceHome o)).spaces.get (spaceKey peer o)).takenOver = true
  · rw [if_neg (fun hn => hn.2 hold)]
    exact hold
  · rw [if_pos ⟨hc.1, hold⟩]

/-- A space stands where neither the spaces of the dies nor whether they work has changed. -/
theorem State.space_congr {s t : State} (hspaces : ∀ n, (t.fab n).spaces = (s.fab n).spaces) (halive : ∀ n, (t.fab n).alive = (s.fab n).alive)
    (htwin : t.twin = s.twin) (peer : Nat) (o : Bool) : t.space peer o = s.space peer o := by
  have hhome : t.spaceHome o = s.spaceHome o := by simp only [State.spaceHome, halive]
  unfold State.space
  dsimp only
  rw [hhome, hspaces, htwin]

@[simp] theorem SeqSpace.floor_takenOver (sp : SeqSpace) (fl : BitVec 24) : (sp.floor fl).takenOver = sp.takenOver := by
  unfold SeqSpace.floor
  dsimp only
  split <;> split <;> rfl

/-! ### What the arrival of a good frame notes (R294, R298, R299) -/

/-- A die changes what it notes of a peer's credits. -/
def Fabric.updCredits (peer : Nat) (g : Credits → Credits) (f : Fabric) : Fabric := { f with credits := f.credits.upd peer g }

/-- A die drops the replay entries that `p` does not keep. -/
def Fabric.keepReplay (p : Replay → Bool) (f : Fabric) : Fabric := { f with replay := f.replay.filter p }

/-- A peer's buffers freed so far, as a frame of it tells them. -/
def Credits.grant (n : BitVec 16) (c : Credits) : Credits := { c with granted := n }

/-- The credits that a good frame brings. -/
def State.noteCredits (s : State) (pl : Plane) (f : WtFrame) : State :=
  s.updFab pl.val (Fabric.updCredits (s.peerOf pl.val f) (Credits.grant f.creditGrant))

/-- The floor of its space that a good frame brings. -/
def State.noteFloor (s : State) (peer : Nat) (f : WtFrame) : State :=
  s.setSpace peer f.origin ((s.space peer f.origin).floor f.ackFloor)

/-- The replay entries that the floor of a good frame keeps. -/
def State.noteReplay (s : State) (peer : Nat) (f : WtFrame) : State :=
  s.updFab (s.spaceHome f.origin) (Fabric.keepReplay (fun r => !(r.peer == peer && r.origin == f.origin) || seqGe r.seq f.ackFloor))

/-- The notes of a good frame. -/
def State.noteFrame (s : State) (pl : Plane) (f : WtFrame) : State :=
  ((s.noteCredits pl f).noteFloor (s.peerOf pl.val f) f).noteReplay (s.peerOf pl.val f) f

section NoteFrame
variable (s : State) (pl : Plane) (f : WtFrame)

theorem State.setSpace_fab_of {γ : Type} (q : Fabric → γ) (peer : Nat) (o : Bool) (sp : SeqSpace) (n : Nat)
    (hq : ∀ f sp, q { f with spaces := sp } = q f := by intros; rfl) : q ((s.setSpace peer o sp).fab n) = q (s.fab n) :=
  s.updFab_fab_of q _ n (fun x => hq x _)

theorem State.noteCredits_fab_of {γ : Type} (q : Fabric → γ) (n : Nat) (hq : ∀ f cr, q { f with credits := cr } = q f := by intros; rfl) :
    q ((s.noteCredits pl f).fab n) = q (s.fab n) := s.updFab_fab_of q _ n (fun x => hq x _)

theorem State.noteReplay_fab_of {γ : Type} (q : Fabric → γ) (peer n : Nat) (hq : ∀ f re, q { f with replay := re } = q f := by intros; rfl) :
    q ((s.noteReplay peer f).fab n) = q (s.fab n) := s.updFab_fab_of q _ n (fun x => hq x _)

/-- What speaks of neither credits, spaces nor the replay table stands. -/
theorem State.noteFrame_fab_of {γ : Type} (q : Fabric → γ) (n : Nat)
    (hq : ∀ f cr sp re, q { f with credits := cr, spaces := sp, replay := re } = q f := by intros; rfl) :
    q ((s.noteFrame pl f).fab n) = q (s.fab n) :=
  ((State.noteReplay_fab_of _ f q _ n (fun x => hq x x.credits x.spaces)).trans
    (State.setSpace_fab_of _ q _ _ _ n (fun x sp => hq x x.credits sp x.replay))).trans
      (s.noteCredits_fab_of pl f q n (fun x cr => hq x cr x.spaces x.replay))

theorem State.trafficOnly_setSpace (peer : Nat) (o : Bool) (sp : SeqSpace) : s.TrafficOnly (s.setSpace peer o sp) := s.trafficOnly_updFab _

theorem State.trafficOnly_noteCredits : s.TrafficOnly (s.noteCredits pl f) := s.trafficOnly_updFab _

theorem State.trafficOnly_noteReplay (peer : Nat) : s.TrafficOnly (s.noteReplay peer f) := s.trafficOnly_updFab _

theorem State.trafficOnly_noteFrame : s.TrafficOnly (s.noteFrame pl f) :=
  ((s.trafficOnly_noteCredits pl f).trans (State.trafficOnly_setSpace _ _ _ _)).trans (State.trafficOnly_noteReplay _ _ _)

theorem State.NothingWaits.noteFrame (h : s.NothingWaits) : (s.noteFrame pl f).NothingWaits :=
  h.of_fabs (fun n => s.noteFrame_fab_of pl f Fabric.waiting n) (fun n => s.noteFrame_fab_of pl f Fabric.dups n)
    (fun n => by rw [s.noteFrame_fab_of pl f Fabric.outst n]; exact fun _ ho => ho)

theorem State.replay_noteFrame (n : Nat) : ((s.noteFrame pl f).fab n).replay.Sublist (s.fab n).replay := by
  have hfloor : (((s.noteCredits pl f).noteFloor (s.peerOf pl.val f) f).fab n).replay = (s.fab n).replay :=
    (State.setSpace_fab_of _ Fabric.replay _ _ _ n).trans (s.noteCredits_fab_of pl f Fabric.replay n)
  rw [← hfloor, State.noteFrame, State.noteReplay, State.fab_updFab]
  split
  · rw [‹n = _›]
    exact List.filter_sublist
  · exact .refl _

theorem State.space_noteFrame :
    (s.noteFrame pl f).space (s.peerOf pl.val f) f.origin = (s.space (s.peerOf pl.val f) f.origin).floor f.ackFloor := by
  have hcredits : (s.noteCredits pl f).space (s.peerOf pl.val f) f.origin = s.space (s.peerOf pl.val f) f.origin :=
    State.space_congr (s.noteCredits_fab_of pl f Fabric.spaces) (s.noteCredits_fab_of pl f Fabric.alive) (s.trafficOnly_noteCredits pl f).twin _ _
  have hreplay : (s.noteFrame pl f).space (s.peerOf pl.val f) f.origin =
      ((s.noteCredits pl f).noteFloor (s.peerOf pl.val f) f).space (s.peerOf pl.val f) f.origin :=
    State.space_congr (State.noteReplay_fab_of _ f Fabric.spaces _) (State.noteReplay_fab_of _ f Fabric.alive _)
      (State.trafficOnly_noteReplay _ f _).twin _ _
  rw [hreplay, State.noteFloor, State.space_setSpace (fun h => by rw [SeqSpace.floor_takenOver, h]), hcredits]

theorem State.credits_noteFrame (peer : Nat) : ((s.noteFrame pl f).fab pl.val).credits.get peer =
    if peer = s.peerOf pl.val f then ((s.fab pl.val).credits.get peer).grant f.creditGrant else (s.fab pl.val).credits.get peer := by
  have hrest : ((s.noteFrame pl f).fab pl.val).credits = ((s.noteCredits pl f).fab pl.val).credits :=
    (State.noteReplay_fab_of _ f Fabric.credits _ _).trans (State.setSpace_fab_of _ Fabric.credits _ _ _ _)
  rw [hrest, State.noteCredits, State.fab_updFab, if_pos rfl, Fabric.updCredits, Tab.get_upd]
  split
  · rw [‹peer = _›]
  · rfl

theorem State.outbox_noteFrame : (s.noteFrame pl f).outbox = s.outbox := by
  simp only [State.noteFrame, State.noteReplay, State.noteFloor, State.setSpace, State.noteCredits, State.updFab_outbox]

/-- Where nothing waits, the credits of a good frame let nothing go. -/
theorem State.heard_of_nothingWaits {s : State} (h : s.NothingWaits) (pl : Plane) (f : WtFrame) : s.heard pl f = s.noteFrame pl f :=
  State.flushPlane_of_nothingWaits (h.noteFrame s pl f) pl

end NoteFrame

/-! ### A receive buffer is free again (R298) -/

/-- A buffer that held a peer's frame is free. -/
def Credits.freeOne (now : Nat) (c : Credits) : Credits :=
  { c with freed := c.freed + 1, untold := c.untold + 1, lastUse := now, fourAt := if c.untold = 3 then now else c.fourAt }

theorem State.freeBuffer_eq (s : State) (pl peer : Nat) : s.freeBuffer pl peer = s.updFab pl (Fabric.updCredits peer (Credits.freeOne s.t)) := rfl

theorem State.trafficOnly_freeBuffer (s : State) (pl peer : Nat) : s.TrafficOnly (s.freeBuffer pl peer) :=
  s.freeBuffer_eq pl peer ▸ s.trafficOnly_updFab pl

theorem State.freeBuffer_fab_of {γ : Type} (q : Fabric → γ) (s : State) (pl peer n : Nat)
    (hq : ∀ f cr, q { f with credits := cr } = q f := by intros; rfl) : q ((s.freeBuffer pl peer).fab n) = q (s.fab n) := by
  rw [State.freeBuffer_eq]
  exact s.updFab_fab_of q pl n (fun x => hq x _)

/-! ### A good frame (R284, R290) -/

/-- A frame arrives good at a sub-port that is no twin link, and nothing waits at the fabric dies. -/
structure State.GoodFrame (s : State) (pl : Plane) (sub : SubPort) (f : WtFrame) : Prop where
  link : s.linkIn pl.val sub.val = true
  port : (s.port pl.val sub.val).twin = false
  good : wtBad f (s.fab pl.val).udpMode = false
  twin : f.twin = false
  calm : s.NothingWaits

/-- A frame as the die holds it that came from outside. -/
def receivedFrame (f : WtFrame) : WtFrame := { f with self := false }

section Good
variable {s : State} {pl : Plane} {sub : SubPort} {f : WtFrame} (h : s.GoodFrame pl sub f)
include h

theorem State.GoodFrame.received : s.GoodFrame pl sub (receivedFrame f) := ⟨h.link, h.port, h.good, h.twin, h.calm⟩

theorem State.GoodFrame.stamp : s.stamp pl sub f = receivedFrame f := by
  rw [State.stamp, receivedFrame, h.port, h.twin]

theorem State.GoodFrame.alive : (s.fab pl.val).alive = true := by
  have hlink := h.link
  simp only [State.linkIn, Bool.and_eq_true] at hlink
  exact hlink.1.1.2

theorem State.GoodFrame.wtIn : s.wtIn pl sub f f.type = (s.noteFrame pl (receivedFrame f), true) := by
  have hdrops : s.wtDrops pl sub f = false := by simp [State.wtDrops, h.good, h.port]
  simp [State.wtIn, h.link, hdrops, h.stamp, State.heard_of_nothingWaits h.calm]

end Good

/-! ### A request up to its execution (R293, R294, R448) -/

/-- What a good request leaves before it is executed: its frame's notes, and its buffer free. -/
def State.arrived (s : State) (pl : Plane) (f : WtFrame) : State := (s.noteFrame pl f).freeBuffer pl.val (s.peerOf pl.val f)

/-- A received request with its hop latency, and no mark of a copy. -/
def measuredFrame (f : WtFrame) (hop : Nat) : WtFrame :=
  { receivedFrame f with hopStamp := BitVec.ofNat 16 (Nat.min hop 0xFFFF), flags := f.flags &&& 0xFD }

@[simp] theorem measuredFrame_type (f : WtFrame) (hop : Nat) : (measuredFrame f hop).type = f.type := rfl
@[simp] theorem measuredFrame_origin (f : WtFrame) (hop : Nat) : (measuredFrame f hop).origin = f.origin := rfl
@[simp] theorem measuredFrame_self (f : WtFrame) (hop : Nat) : (measuredFrame f hop).self = false := rfl

@[simp] theorem wtReplay_measured (f : WtFrame) (hop : Nat) : wtReplay (measuredFrame f hop) = false := by
  simp [wtReplay, measuredFrame]

theorem State.trafficOnly_arrived (s : State) (pl : Plane) (f : WtFrame) : s.TrafficOnly (s.arrived pl f) :=
  (s.trafficOnly_noteFrame pl f).trans (State.trafficOnly_freeBuffer _ _ _)

theorem State.outbox_arrived (s : State) (pl : Plane) (f : WtFrame) : (s.arrived pl f).outbox = s.outbox := by
  rw [State.arrived, State.freeBuffer_eq, State.updFab_outbox, State.outbox_noteFrame]

theorem State.arrived_fab_of {γ : Type} (q : Fabric → γ) (s : State) (pl : Plane) (f : WtFrame) (n : Nat)
    (hq : ∀ f cr sp re, q { f with credits := cr, spaces := sp, replay := re } = q f := by intros; rfl) :
    q ((s.arrived pl f).fab n) = q (s.fab n) :=
  (State.freeBuffer_fab_of q (s.noteFrame pl f) pl.val (s.peerOf pl.val f) n (fun x cr => hq x cr x.spaces x.replay)).trans (s.noteFrame_fab_of pl f q n hq)

theorem State.replay_arrived (s : State) (pl : Plane) (f : WtFrame) (n : Nat) : ((s.arrived pl f).fab n).replay.Sublist (s.fab n).replay := by
  rw [State.arrived, State.freeBuffer_fab_of Fabric.replay]
  exact s.replay_noteFrame pl f n

theorem State.space_arrived (s : State) (pl : Plane) (f : WtFrame) :
    (s.arrived pl f).space (s.peerOf pl.val f) f.origin = (s.space (s.peerOf pl.val f) f.origin).floor f.ackFloor :=
  (State.space_congr (State.freeBuffer_fab_of Fabric.spaces (s.noteFrame pl f) pl.val (s.peerOf pl.val f))
    (State.freeBuffer_fab_of Fabric.alive (s.noteFrame pl f) pl.val (s.peerOf pl.val f)) (State.trafficOnly_freeBuffer _ _ _).twin _ _).trans (s.space_noteFrame pl f)

theorem State.hopEvent_within {s : State} {pl hop : Nat} (h : hop ≤ (s.fab pl).allowance + 100) (sub peer : Nat) (f : WtFrame) :
    s.hopEvent pl sub peer hop f = s := if_pos (.inl h)

/-- A good frame of a request that needs a credit, within its path's allowance, passes the check of its job while the package is not in
Doldrums. -/
structure State.GoodRequest (s : State) (pl : Plane) (sub : SubPort) (f : WtFrame) : Prop extends s.GoodFrame pl sub f where
  credit : needsCredit f.type = true
  hop : s.hopOf f ≤ (s.fab pl.val).allowance + 100
  job : s.PassesJob f
  awake : s.cpc.dold.toNat < 2

section Request
variable {s : State} {pl : Plane} {sub : SubPort} {f : WtFrame} (h : s.GoodRequest pl sub f)
include h

theorem State.GoodRequest.hopEvent (peer : Nat) :
    (s.noteFrame pl (receivedFrame f)).hopEvent pl.val sub.val peer (s.hopOf f) (receivedFrame f) = s.noteFrame pl (receivedFrame f) :=
  State.hopEvent_within (by rw [(s.trafficOnly_noteFrame pl _).allowance]; exact h.hop) _ _ _

theorem State.GoodRequest.jobGate (hop : Nat) :
    (s.arrived pl (receivedFrame f)).jobGate pl.val (measuredFrame f hop) = (s.arrived pl (receivedFrame f), true) :=
  State.jobGate_passes ((s.trafficOnly_arrived pl _).passesJob (f := measuredFrame f hop) h.job) _

theorem State.GoodRequest.not_doldrums : ¬ 2 ≤ (s.arrived pl (receivedFrame f)).cpc.dold.toNat := by
  rw [(s.trafficOnly_arrived pl _).cpc]
  exact Nat.not_le.2 h.awake

theorem State.GoodRequest.wtIn : s.wtIn pl sub (receivedFrame f) f.type = (s.noteFrame pl (receivedFrame f), true) :=
  h.toGoodFrame.received.wtIn

/-- A new request goes on to its execution (R293); of a space taken over, not a re-sent atomic (R307). A copy of an executed request that is
no load is answered again with its status (R294). -/
theorem State.GoodRequest.wtRequest :
    (((s.space (s.peerOf pl.val f) f.origin).floor f.ackFloor).classify f.seq f.ackFloor = .new →
      ¬ (((s.space (s.peerOf pl.val f) f.origin).floor f.ackFloor).takenOver = true ∧ f.type = 4 ∧ f.flags.getLsbD 0 = true) →
      s.wtRequest pl sub f f.type = (s.arrived pl (receivedFrame f), some (measuredFrame f (s.hopOf f)))) ∧
    (∀ st, ((s.space (s.peerOf pl.val f) f.origin).floor f.ackFloor).classify f.seq f.ackFloor = .dup (some st) → st ≠ seqPending → f.type ≠ 2 →
      (s.fab (s.spaceHome f.origin)).replay = [] →
      s.wtRequest pl sub f f.type =
        ((s.arrived pl (receivedFrame f)).answer pl.val (measuredFrame f (s.hopOf f)) st [] true, none)) := by
  have htraffic := s.trafficOnly_arrived pl (receivedFrame f)
  have hspace := s.space_arrived pl (receivedFrame f)
  unfold State.wtRequest
  extract_lets pln f0 a peer hop s0 s1 f1 sp cl g
  have hf0 : f0 = receivedFrame f := h.toGoodFrame.stamp
  have ha : a = (s.noteFrame pl (receivedFrame f), true) := by rw [← h.wtIn, ← hf0]
  have hs0 : s0 = s.noteFrame pl (receivedFrame f) := by
    simp only [s0, ha, hf0]
    exact h.hopEvent peer
  have hs1 : s1 = s.arrived pl (receivedFrame f) := by
    rw [State.arrived, ← hs0, ← hf0]
    exact if_pos (by rw [h.credit]; rfl)
  have hf1 : f1 = measuredFrame f (s.hopOf f) := by
    simp only [f1, hop, hf0]
    rfl
  have hg : g = (s1, true) := by rw [hs1, ← h.jobGate (s.hopOf f), ← hf1, ← hs1]
  have hsp : sp = (s.space (s.peerOf pl.val f) f.origin).floor f.ackFloor := by
    simp only [sp, peer, hs1, hf1, hf0]
    exact hspace
  have hcl : cl = ((s.space (s.peerOf pl.val f) f.origin).floor f.ackFloor).classify f.seq f.ackFloor := by
    rw [← hsp]
    simp only [cl, hf1]
    rfl
  clear_value cl g s1 f1 sp
  subst hs1 hf1 hg hsp
  rw [← hcl, if_neg (by simp [ha]), if_neg (by simp), if_neg (fun hd => h.not_doldrums hd.1)]
  refine ⟨fun hnew hatomic => ?_, fun st hdup hst hload hreplay => ?_⟩
  · rw [hnew]
    exact if_neg (fun hre => hatomic ⟨hre.1, hre.2.1, by simpa [measuredFrame, receivedFrame] using hre.2.2⟩)
  · have hnone : ((s.arrived pl (receivedFrame f)).fab ((s.arrived pl (receivedFrame f)).spaceHome f.origin)).replay = [] := by
      rw [htraffic.spaceHome]
      exact List.eq_nil_of_sublist_nil (hreplay ▸ s.replay_arrived pl (receivedFrame f) (s.spaceHome f.origin))
    rw [hdup]
    dsimp only
    rw [if_neg (fun hd => hload hd.1), if_neg (fun hd => hst (Option.some.inj hd))]
    simp [hnone, pln]

end Request


end Sys2Proof.Machine
end

section
/-! PROOFS. Requests executed and answered (R289, R293, R294), and the commands that bring requests of windows and path probes (R293, R302,
R321, R335). -/

namespace Sys2Proof.Machine

/-! ### Answers sent (R289) -/

section Answer
variable {s : State} {f : WtFrame} (hself : f.self = false)
include hself

theorem State.trafficOnly_answer (pl : Nat) (st : Byte) (data : List Byte) (replay : Bool) : s.TrafficOnly (s.answer pl f st data replay) := by
  unfold State.answer
  rw [if_neg (by simp [hself])]
  exact s.trafficOnly_sendWt _ _ _ _ _

theorem State.answer_goes {pl : Nat} (htwin : f.twin = false) (hpath : (s.fab pl).path ≠ []) (halive : (s.fab pl).alive = true)
    (hcast : s.castHalted = false ∨ f.jobId = 0) (st : Byte) (data : List Byte) (replay : Bool) :
    ∃ sub ca g, (s.answer pl f st data replay).outbox = s.outbox ++ [.wt pl sub ca g] ∧ g.type = answerType f.type ∧ g.status = st ∧
      g.tag = f.tag ∧ g.seq = f.seq ∧ g.origin = f.origin := by
  obtain ⟨sub, -, hsub⟩ := State.egress_of_path hpath f.pathId
  rw [← htwin] at hsub
  unfold State.answer
  rw [if_neg (by simp [hself])]
  refine ⟨_, _, _, State.outbox_sendWt (sub := sub) ?_ halive ?_ _ _ _, rfl, rfl, rfl, rfl, rfl⟩
  · exact hsub
  · exact hcast

end Answer

/-! ### Requests executed at once (R293, R294) -/

section Exec
variable {s : State} {f : WtFrame} (hself : f.self = false) (hfresh : wtReplay f = false)
include hself hfresh

theorem State.acceptReq_fresh (pl : Nat) : s.acceptReq pl f = s.seqRecord (s.peerOf pl f) f seqPending := by
  simp [State.acceptReq, hself, hfresh]

/-- A request of which no copy is held is done with one answer, once its end is noted. -/
theorem State.wtDone_answers (hdups : ∀ n, (s.fab n).dups = []) (pl : Nat) (st : Byte) (data : List Byte) :
    ∃ s', s.wtDone pl f st data = s'.answer pl f st data false ∧ s.TrafficOnly s' ∧ s'.outbox = s.outbox := by
  unfold State.wtDone
  rw [if_neg (by simp [hself, hfresh])]
  extract_lets peer s1 home s2 mine held
  have hs1 : s.TrafficOnly s1 := s.trafficOnly_setSpace _ _ _
  have hnone1 : ∀ n, (s1.fab n).dups = [] := fun n => (s.setSpace_fab_of Fabric.dups _ _ _ n).trans (hdups n)
  have hs2 : s.TrafficOnly s2 ∧ s2.outbox = s.outbox ∧ ∀ n, (s2.fab n).dups = [] := by
    by_cases hatomic : f.type = 4
    · simp only [s2, if_pos hatomic]
      exact ⟨hs1.trans (s1.trafficOnly_updFab home), rfl, fun n => (s1.updFab_fab_of Fabric.dups home n).trans (hnone1 n)⟩
    · simp only [s2, if_neg hatomic]
      exact ⟨hs1, rfl, hnone1⟩
  obtain ⟨htraffic, houtbox, hnone⟩ := hs2
  have hheld : held = [] := by simp [held, hnone]
  rw [hheld]
  exact ⟨_, rfl, htraffic.trans (s2.trafficOnly_updFab home), houtbox⟩

theorem State.execReq_answers (hdups : ∀ n, (s.fab n).dups = []) (pl : Nat) (st : Byte) (data : List Byte) :
    ∃ s', s.execReq pl f st data = s'.answer pl f st data false ∧ s.TrafficOnly s' ∧ s'.outbox = s.outbox := by
  have haccept := State.acceptReq_fresh (s := s) hself hfresh pl
  obtain ⟨s', hdone, htraffic, houtbox⟩ := State.wtDone_answers (s := s.acceptReq pl f) hself hfresh
    (fun n => by rw [haccept]; exact (s.setSpace_fab_of Fabric.dups _ _ _ n).trans (hdups n)) pl st data
  rw [haccept] at htraffic houtbox
  exact ⟨s', hdone, (s.trafficOnly_setSpace _ _ _ : s.TrafficOnly (s.seqRecord (s.peerOf pl f) f seqPending)).trans htraffic, houtbox⟩

end Exec

/-! ### Window queues (R256, R335) -/

theorem plane_eq (pl : Plane) : pl = 0 ∨ pl = 1 := by decide +revert

/-- Taking the first element that has a property takes it out of the list, and nothing else. -/
theorem takeFirst_perm {α : Type} {p : α → Bool} {l rest : List α} {a : α} (h : takeFirst p l = some (a, rest)) : l.Perm (a :: rest) := by
  induction l generalizing rest with
  | nil => cases h
  | cons b l ih =>
    rw [takeFirst] at h
    split at h
    · cases h
      exact .refl _
    · split at h
      next x r hr =>
        cases h
        exact ((ih hr).cons b).trans (.swap _ _ _)
      next => cases h

/-- A window queue loses no request to the controller's queue. -/
theorem Channel.takeWindowOf_perm (pl n : Nat) (c : Channel) :
    ((Channel.takeWindowOf pl n c).queue ++ (Channel.takeWindowOf pl n c).window).Perm (c.queue ++ c.window) := by
  induction n generalizing c with
  | zero => exact .refl _
  | succ n ih =>
    rw [Channel.takeWindowOf]
    split
    · exact .refl _
    · split
      · exact .refl _
      next m rest hm =>
        refine (ih _).trans ?_
        rw [List.append_assoc]
        exact (takeFirst_perm hm).symm.append_left _

theorem Channel.takeWindow_perm (c : Channel) : (c.takeWindow.queue ++ c.takeWindow.window).Perm (c.queue ++ c.window) := by
  unfold Channel.takeWindow
  split
  · exact .refl _
  · exact (Channel.takeWindowOf_perm 1 4 _).trans (Channel.takeWindowOf_perm 0 4 c)

theorem Channel.takeWindowOf_of_none {pl : Nat} {c : Channel} (h : ∀ x ∈ c.window, x.ofPlane pl = false) (n : Nat) :
    Channel.takeWindowOf pl n c = c := by
  cases n with
  | zero => rfl
  | succ n => rw [Channel.takeWindowOf, takeFirst_none h, ite_self]

theorem Channel.takeWindowOf_of_full {pl : Nat} {c : Channel} (h : 4 ≤ (c.queue.filter (fun m => m.ofPlane pl)).length) (n : Nat) :
    Channel.takeWindowOf pl n c = c := by
  cases n with
  | zero => rfl
  | succ n => rw [Channel.takeWindowOf, if_pos h]

theorem Channel.takeWindowOf_single {pl : Nat} {c : Channel} {m : MemReq} (hm : m.ofPlane pl = true) (hwindow : c.window = [m])
    (h : (c.queue.filter (fun m => m.ofPlane pl)).length < 4) (n : Nat) :
    Channel.takeWindowOf pl (n + 1) c = { c with queue := c.queue ++ [m], window := [] } := by
  have htake : takeFirst (fun m : MemReq => m.ofPlane pl) c.window = some (m, []) := by simp [hwindow, takeFirst, hm]
  rw [Channel.takeWindowOf, if_neg (Nat.not_le.2 h), htake]
  exact Channel.takeWindowOf_of_none (fun x hx => by simp at hx) n

/-- The only request of a window queue goes on to the controller while its die has fewer than 4 requests there. -/
theorem Channel.takeWindow_single {pl : Plane} {c : Channel} {m : MemReq} (hm : ∀ n, m.ofPlane n = (pl.val == n)) (hwindow : c.window = [m]) :
    ((c.queue.filter (fun m => m.ofPlane pl.val)).length < 4 → c.takeWindow = { c with queue := c.queue ++ [m], window := [] }) ∧
    (4 ≤ (c.queue.filter (fun m => m.ofPlane pl.val)).length → c.takeWindow = c) := by
  have hother : ∀ n, pl.val ≠ n → ∀ x ∈ c.window, x.ofPlane n = false := fun n hn x hx => by
    rw [hwindow, List.mem_singleton] at hx
    rw [hx, hm, beq_eq_false_iff_ne]
    exact hn
  rw [Channel.takeWindow, if_neg (by simp [hwindow])]
  obtain rfl | rfl := plane_eq pl
  · refine ⟨fun hfew => ?_, fun hfull => ?_⟩
    · rw [Channel.takeWindowOf_single (pl := 0) (hm 0) hwindow hfew, Channel.takeWindowOf_of_none (fun x hx => by simp at hx)]
    · rw [Channel.takeWindowOf_of_full (pl := 0) hfull, Channel.takeWindowOf_of_none (hother 1 (by decide))]
  · rw [Channel.takeWindowOf_of_none (hother 0 (by decide))]
    exact ⟨fun hfew => Channel.takeWindowOf_single (hm 1) hwindow hfew 3, fun hfull => Channel.takeWindowOf_of_full hfull 4⟩

/-! ### Lines that an access uses up (R267) -/

/-- A channel without its line credits. -/
def Channel.sansLines (c : Channel) : Channel := { c with lineHeld := [] }

theorem State.useLines_rest (s : State) (peer a n : Nat) : s.useLines peer a n = { s with chans := (s.useLines peer a n).chans } := by
  unfold State.useLines
  refine List.foldlRecOn (motive := fun u : State => u = { s with chans := u.chans }) _ _ rfl (fun u hu x _ => ?_)
  split
  · exact hu
  · rw [hu]; rfl

theorem State.useLines_chan (s : State) (peer a n k : Nat) : ((s.useLines peer a n).chan k).sansLines = (s.chan k).sansLines := by
  refine foldl_keeps (fun u => (u.chan k).sansLines) (fun u x => ?_) _ s
  split
  · rfl
  · rw [State.chan_updChan]
    split
    · rw [‹k = x.1›]; rfl
    · rfl

/-! ### The window check and what passes it (R321, R322, R335) -/

/-- The access of a window request, as it waits at its channel or slice. -/
def windowAccess (pl : Plane) (w : Window) (f : WtFrame) : MemReq :=
  { asker := .window pl f, op := reqOp f (reqSub f.payload), addr := windowNpa w (reqSub f.payload), len := (reqSub f.payload).length
    data := (reqSub f.payload).data.take (reqSub f.payload).length }

theorem windowAccess_ofPlane (pl : Plane) (w : Window) (f : WtFrame) (n : Nat) : (windowAccess pl w f).ofPlane n = (pl.val == n) := rfl

/-- An access joins a channel's window queue, and its peer is no longer one refused there. -/
def Channel.joinWindow (pl peer : Nat) (m : MemReq) (c : Channel) : Channel :=
  { c with window := c.window ++ [m], refusedPeers := c.refusedPeers.filter (· != (pl, peer)) }

/-- A channel takes an access up from a peer. -/
def Channel.takeUp (pl peer : Nat) (m : MemReq) (c : Channel) : Channel := (c.joinWindow pl peer m).takeWindow

/-- A fabric die counts a request that failed the window check. -/
def Fabric.countFault (f : Fabric) : Fabric := { f with winFault := satInc f.winFault }

/-- A request is accepted, and its window counts it as busy. -/
def State.acceptBusy (s : State) (pl : Plane) (key : Nat) (f : WtFrame) : State := (s.acceptReq pl.val f).busyAdd pl.val key 1

section WindowRequest
variable {s : State} {pl : Plane} {f : WtFrame} {tn : Nat} (hjob : s.jobTen f.jobId f.jobGen = some tn)
include hjob

theorem State.windowOf_jobTen : s.windowOf pl.val f (reqSub f.payload) =
    some (tn * 256 + (reqSub f.payload).window, (s.fab pl.val).windows.get (tn * 256 + (reqSub f.payload).window)) := by
  rw [State.windowOf, hjob]
  rfl

/-- A request that fails the window check is counted, recorded and done. -/
theorem State.windowRequest_fault {n : Nat}
    (hfault : windowReason ((s.fab pl.val).windows.get (tn * 256 + (reqSub f.payload).window)) f (reqSub f.payload) = some n) :
    ∃ r, s.windowRequest pl f =
        ((s.updFab pl.val Fabric.countFault).hand r).execReq pl.val f stWindowFault [] ∧
      r.cls = 0x06 ∧ r.severity = 0 ∧ r.detail.head? = some (BitVec.ofNat 8 n) := by
  unfold State.windowRequest
  dsimp only
  rw [State.windowOf_jobTen hjob]
  dsimp only
  rw [hfault]
  exact ⟨_, rfl, rfl, rfl, rfl⟩

/-- A request of GDDR that passes the check goes to the channel of its first unit, where its lines, a place in the window queue and of the
replay table are free. -/
theorem State.windowRequest_gddr {w : Window} (hw : (s.fab pl.val).windows.get (tn * 256 + (reqSub f.payload).window) = w)
    (hpass : windowReason w f (reqSub f.payload) = none) (hspace : w.space = 0)
    (hline : f.type ≠ 2 → s.needLine (s.peerOf pl.val f) (windowNpa w (reqSub f.payload)) (reqSub f.payload).length = none)
    (hopen : (s.chan (s.steer (windowNpa w (reqSub f.payload) / 256)).1).windowOpen pl.val (s.peerOf pl.val f) = true)
    (hreplay : f.type = 4 → (s.fab (s.spaceHome f.origin)).replay.length < 32768) :
    s.windowRequest pl f =
      (((s.acceptBusy pl (tn * 256 + (reqSub f.payload).window) f).useLines (s.peerOf pl.val f) (windowNpa w (reqSub f.payload))
        (reqSub f.payload).length).updChan (s.steer (windowNpa w (reqSub f.payload) / 256)).1
        (Channel.takeUp pl.val (s.peerOf pl.val f) (windowAccess pl w f))) := by
  have hfree : (if f.type = 2 then none else s.needLine (s.peerOf pl.val f) (windowNpa w (reqSub f.payload)) (reqSub f.payload).length) = none := by
    split
    · rfl
    · exact hline ‹_›
  unfold State.windowRequest
  dsimp only
  rw [State.windowOf_jobTen hjob, hw]
  dsimp only
  rw [hpass]
  dsimp only
  rw [if_pos hspace, hfree]
  dsimp only
  rw [if_neg (by simp [hopen]), if_neg (fun hfull => absurd (hreplay hfull.1) (Nat.not_lt.2 hfull.2.2))]
  rfl

/-- A request of a resident window that passes the check goes to its slice. -/
theorem State.windowRequest_slice {w : Window} (hw : (s.fab pl.val).windows.get (tn * 256 + (reqSub f.payload).window) = w)
    (hpass : windowReason w f (reqSub f.payload) = none) (hspace : w.space ≠ 0) {d : CoreId} {o : Nat}
    (htarget : s.rsTarget (windowNpa w (reqSub f.payload) % 2 ^ 48) = some (d, o)) :
    s.windowRequest pl f = (s.acceptBusy pl (tn * 256 + (reqSub f.payload).window) f).foreignPush d (windowAccess pl w f) := by
  unfold State.windowRequest
  dsimp only
  rw [State.windowOf_jobTen hjob, hw]
  dsimp only
  rw [hpass]
  dsimp only
  rw [if_neg hspace, htarget]
  rfl

end WindowRequest

end Sys2Proof.Machine
end

section
/-! PROOFS. The statement about window requests (R293, R294, R321, R322, R335), from the lemmas above. -/

namespace Sys2Proof.Machine

/-! ### A request is accepted (R293, R322) -/

theorem SeqSpace.advance_takenOver (n : Nat) (sp : SeqSpace) : (SeqSpace.advance n sp).takenOver = sp.takenOver := by
  induction n generalizing sp with
  | zero => rfl
  | succ n ih =>
    rw [SeqSpace.advance]
    split
    · exact ih _
    · rfl

theorem SeqSpace.record_takenOver (sp : SeqSpace) (seq : BitVec 24) (st : Byte) : (sp.record seq st).takenOver = sp.takenOver :=
  SeqSpace.advance_takenOver _ _

/-- The number that a space waits for moves it by one. -/
theorem SeqSpace.record_low {sp : SeqSpace} {seq : BitVec 24} (hlow : sp.low = seq) (hseen : sp.seen = []) (st : Byte) :
    (sp.record seq st).low = seq + 1 := by
  simp [SeqSpace.record, SeqSpace.advance, hlow, hseen]

section Accept
variable {s : State} {pl : Plane} {f : WtFrame} (hself : f.self = false) (hfresh : wtReplay f = false)
include hself hfresh

theorem State.acceptBusy_eq (key : Nat) : s.acceptBusy pl key f = (s.seqRecord (s.peerOf pl.val f) f seqPending).busyAdd pl.val key 1 := by
  rw [State.acceptBusy, State.acceptReq_fresh hself hfresh]

theorem State.busy_acceptBusy (key : Nat) :
    (((s.acceptBusy pl key f).fab pl.val).windows.get key).busy = ((s.fab pl.val).windows.get key).busy + 1 := by
  have hwindows : ((s.seqRecord (s.peerOf pl.val f) f seqPending).fab pl.val).windows = (s.fab pl.val).windows :=
    s.setSpace_fab_of Fabric.windows _ _ _ _
  rw [State.acceptBusy_eq hself hfresh, State.busyAdd, State.fab_updFab, if_pos rfl]
  dsimp only
  rw [Tab.get_upd, if_pos rfl, hwindows]
  apply BitVec.eq_of_toNat_eq
  simp [BitVec.toNat_add]
  omega

theorem State.space_acceptBusy (key : Nat) : (s.acceptBusy pl key f).space (s.peerOf pl.val f) f.origin =
    (s.space (s.peerOf pl.val f) f.origin).record f.seq seqPending := by
  rw [State.acceptBusy_eq hself hfresh]
  refine (State.space_congr (fun n => ?_) (fun n => ?_) ?_ _ _).trans
    (State.space_setSpace (fun h => by rw [SeqSpace.record_takenOver, h]))
  · exact State.updFab_fab_of Fabric.spaces _ _ n
  · exact State.updFab_fab_of Fabric.alive _ _ n
  · rfl

end Accept

section Frame
variable {s : State} {pl : Plane} {f : WtFrame} (hself : f.self = false) (hfresh : wtReplay f = false)
include hself hfresh

theorem State.core_acceptBusy (key : Nat) (c : CoreId) : (s.acceptBusy pl key f).core c = s.core c := by
  rw [State.acceptBusy_eq hself hfresh, State.busyAdd, State.core_of_updFab, State.seqRecord, State.setSpace, State.core_of_updFab]

theorem State.cores_acceptBusy (key : Nat) : (s.acceptBusy pl key f).cores = s.cores := by
  rw [State.acceptBusy_eq hself hfresh, State.busyAdd, State.updFab_cores, State.seqRecord, State.setSpace, State.updFab_cores]

theorem State.chan_acceptBusy (key n : Nat) : (s.acceptBusy pl key f).chan n = s.chan n := by
  rw [State.acceptBusy_eq hself hfresh, State.busyAdd, State.chan_of_updFab, State.seqRecord, State.setSpace, State.chan_of_updFab]

theorem State.outbox_acceptBusy (key : Nat) : (s.acceptBusy pl key f).outbox = s.outbox := by
  rw [State.acceptBusy_eq hself hfresh, State.busyAdd, State.updFab_outbox, State.seqRecord, State.setSpace, State.updFab_outbox]

end Frame

/-! ### A channel or slice takes the access up (R196, R256, R322, R335) -/

theorem Channel.mem_takeUp (pl peer : Nat) (m : MemReq) (c : Channel) : m ∈ (c.takeUp pl peer m).queue ++ (c.takeUp pl peer m).window :=
  (Channel.takeWindow_perm _).mem_iff.2 (by simp [Channel.joinWindow])

/-- An access that finds the window queue empty goes on to the controller while its die has fewer than 4 requests there. -/
theorem Channel.takeUp_alone {pl : Plane} {c : Channel} {m : MemReq} (hm : ∀ n, m.ofPlane n = (pl.val == n)) (hwindow : c.window = []) (peer : Nat) :
    ((c.queue.filter (fun m => m.ofPlane pl.val)).length < 4 →
      (c.takeUp pl.val peer m).queue = c.queue ++ [m] ∧ (c.takeUp pl.val peer m).window = []) ∧
    (4 ≤ (c.queue.filter (fun m => m.ofPlane pl.val)).length →
      (c.takeUp pl.val peer m).queue = c.queue ∧ (c.takeUp pl.val peer m).window = [m]) := by
  have hjoined : (c.joinWindow pl.val peer m).window = [m] := by rw [Channel.joinWindow, hwindow]; rfl
  obtain ⟨hfew, hfull⟩ := Channel.takeWindow_single hm hjoined
  refine ⟨fun h => ?_, fun h => ?_⟩
  · rw [Channel.takeUp, hfew h]
    exact ⟨rfl, rfl⟩
  · rw [Channel.takeUp, hfull h]
    exact ⟨rfl, hjoined⟩

theorem State.core_foreignPush {s : State} {d : CoreId} (hroom : (s.core d).foreign.length < 64) (hheld : (s.core d).foreignHeld = [])
    (m : MemReq) : ((s.foreignPush d m).core d).foreign = (s.core d).foreign ++ [m] := by
  simp [State.foreignPush, hroom, hheld]

theorem State.core_foreignPush_of_ne {s : State} {d e : CoreId} (h : e ≠ d) (m : MemReq) : (s.foreignPush d m).core e = s.core e := by
  simp [State.foreignPush, h]

/-! ### The commands that bring window requests -/

theorem exec_windowFrame {pl : Plane} {sub : SubPort} {f : WtFrame} {i : Instr}
    (hi : (i = .wtStore pl sub f ∧ f.type = 1) ∨ (i = .loadRequest pl sub f ∧ f.type = 2) ∨ (i = .atomicRequest pl sub f ∧ f.type = 4)) (s : State) :
    exec i s = .next (s.windowFrame pl sub f f.type) := by
  rcases hi with ⟨rfl, htype⟩ | ⟨rfl, htype⟩ | ⟨rfl, htype⟩
  all_goals rw [htype]; rfl

section Request
variable {s : State} {pl : Plane} {sub : SubPort} {f : WtFrame} (h : s.GoodRequest pl sub f)
include h

theorem State.GoodRequest.windowFrame_new (hadmit : s.dieAdmits (5 + pl.val) = true)
    (hnew : ((s.space (s.peerOf pl.val f) f.origin).floor f.ackFloor).classify f.seq f.ackFloor = .new)
    (hatomic : ¬ (((s.space (s.peerOf pl.val f) f.origin).floor f.ackFloor).takenOver = true ∧ f.type = 4 ∧ f.flags.getLsbD 0 = true)) :
    s.windowFrame pl sub f f.type = (s.arrived pl (receivedFrame f)).windowRequest pl (measuredFrame f (s.hopOf f)) := by
  rw [State.windowFrame, h.wtRequest.1 hnew hatomic]
  exact if_pos (by rw [(s.trafficOnly_arrived pl _).dieAdmits]; exact hadmit)

/-- A copy of an executed store is answered, and nothing else. -/
theorem State.GoodRequest.windowFrame_copy {st : Byte}
    (hdup : ((s.space (s.peerOf pl.val f) f.origin).floor f.ackFloor).classify f.seq f.ackFloor = .dup (some st)) (hst : st ≠ seqPending)
    (hstore : f.type = 1) (hreplay : (s.fab (s.spaceHome f.origin)).replay = []) (hpath : (s.fab pl.val).path ≠ []) (hcast : s.castHalted = false) :
    s.TrafficOnly (s.windowFrame pl sub f f.type) ∧ ∃ sb ca g, (s.windowFrame pl sub f f.type).outbox = s.outbox ++ [.wt pl.val sb ca g] ∧
      g.type = 6 ∧ g.status = st ∧ g.tag = f.tag ∧ g.seq = f.seq ∧ g.origin = f.origin := by
  have hu := s.trafficOnly_arrived pl (receivedFrame f)
  have hself := measuredFrame_self f (s.hopOf f)
  have hcopy : s.windowFrame pl sub f f.type = (s.arrived pl (receivedFrame f)).answer pl.val (measuredFrame f (s.hopOf f)) st [] true := by
    rw [State.windowFrame, h.wtRequest.2 st hdup hst (by rw [hstore]; decide) hreplay]
  obtain ⟨sb, ca, g, hout, htype, hanswer⟩ := State.answer_goes (s := s.arrived pl (receivedFrame f)) hself h.toGoodFrame.twin
    (by rw [hu.path]; exact hpath) (by rw [hu.alive]; exact h.toGoodFrame.alive) (.inl (by rw [hu.castHalted]; exact hcast)) st [] true
  rw [State.outbox_arrived] at hout
  rw [measuredFrame_type, hstore] at htype
  rw [hcopy]
  exact ⟨hu.trans (State.trafficOnly_answer hself _ _ _ _), sb, ca, g, hout, htype, hanswer⟩

end Request

/-! ### The three ways of a new request (R321, R322) -/

section New
variable {s : State} {pl : Plane} {f : WtFrame} {tn : Nat} (hself : f.self = false) (hfresh : wtReplay f = false)
  (hjob : s.jobTen f.jobId f.jobGen = some tn)
include hself hfresh hjob

theorem State.windowRequest_fault_recorded (hdups : ∀ n, (s.fab n).dups = []) {n : Nat}
    (hfault : windowReason ((s.fab pl.val).windows.get (tn * 256 + (reqSub f.payload).window)) f (reqSub f.payload) = some n) :
    (s.windowRequest pl f).cores = s.cores ∧ (s.windowRequest pl f).chans = s.chans ∧
      ((s.windowRequest pl f).fab pl.val).winFault = satInc (s.fab pl.val).winFault ∧
      ∃ r, (s.windowRequest pl f).handed = s.handed ++ [r] ∧ r.cls = 0x06 ∧ r.severity = 0 ∧ r.detail.head? = some (BitVec.ofNat 8 n) := by
  obtain ⟨r, hrequest, hcls, hsev, hdetail⟩ := State.windowRequest_fault hjob hfault
  obtain ⟨s', hexec, htraffic, -⟩ := State.execReq_answers (s := (s.updFab pl.val Fabric.countFault).hand r) hself hfresh
    (fun k => by rw [State.fab_of_hand, s.updFab_fab_of Fabric.dups]; exact hdups k) pl.val stWindowFault []
  have ht := htraffic.trans (State.trafficOnly_answer (s := s') hself pl.val stWindowFault [] false)
  rw [hrequest, hexec]
  refine ⟨ht.cores, ht.chans, (ht.winFault pl.val).trans ?_, _, ht.handed, hcls, hsev, hdetail⟩
  rw [State.fab_of_hand, State.fab_updFab, if_pos rfl, Fabric.countFault]

theorem State.windowRequest_slice_queued {w : Window} (hw : (s.fab pl.val).windows.get (tn * 256 + (reqSub f.payload).window) = w)
    (hpass : windowReason w f (reqSub f.payload) = none) (hspace : w.space ≠ 0) {d : CoreId} {o : Nat}
    (htarget : s.rsTarget (windowNpa w (reqSub f.payload) % 2 ^ 48) = some (d, o)) (hroom : (s.core d).foreign.length < 64)
    (hheld : (s.core d).foreignHeld = []) :
    ((s.windowRequest pl f).core d).foreign = (s.core d).foreign ++ [windowAccess pl w f] ∧
      (((s.windowRequest pl f).fab pl.val).windows.get (tn * 256 + (reqSub f.payload).window)).busy = w.busy + 1 ∧
      (s.windowRequest pl f).outbox = s.outbox ∧ ∀ e, e ≠ d → (s.windowRequest pl f).core e = s.core e := by
  have hcore := State.core_acceptBusy (s := s) (pl := pl) hself hfresh (tn * 256 + (reqSub f.payload).window)
  rw [State.windowRequest_slice hjob hw hpass hspace htarget]
  refine ⟨?_, ?_, State.outbox_acceptBusy hself hfresh (tn * 256 + (reqSub f.payload).window), fun e he => ?_⟩
  · rw [State.core_foreignPush (by rw [hcore]; exact hroom) (by rw [hcore]; exact hheld), hcore]
  · rw [← hw]
    exact State.busy_acceptBusy hself hfresh (tn * 256 + (reqSub f.payload).window)
  · rw [State.core_foreignPush_of_ne he, hcore]

theorem State.windowRequest_gddr_queued {w : Window} (hw : (s.fab pl.val).windows.get (tn * 256 + (reqSub f.payload).window) = w)
    (hpass : windowReason w f (reqSub f.payload) = none) (hspace : w.space = 0)
    (hline : f.type ≠ 2 → s.needLine (s.peerOf pl.val f) (windowNpa w (reqSub f.payload)) (reqSub f.payload).length = none)
    {ch : Nat} (hch : (s.steer (windowNpa w (reqSub f.payload) / 256)).1 = ch) (hopen : (s.chan ch).windowOpen pl.val (s.peerOf pl.val f) = true)
    (hreplay : f.type = 4 → (s.fab (s.spaceHome f.origin)).replay.length < 32768) :
    windowAccess pl w f ∈ ((s.windowRequest pl f).chan ch).queue ++ ((s.windowRequest pl f).chan ch).window ∧
      ((s.chan ch).window = [] →
        (((s.chan ch).queue.filter (fun m => m.ofPlane pl.val)).length < 4 →
          ((s.windowRequest pl f).chan ch).queue = (s.chan ch).queue ++ [windowAccess pl w f] ∧ ((s.windowRequest pl f).chan ch).window = []) ∧
        (4 ≤ ((s.chan ch).queue.filter (fun m => m.ofPlane pl.val)).length →
          ((s.windowRequest pl f).chan ch).queue = (s.chan ch).queue ∧ ((s.windowRequest pl f).chan ch).window = [windowAccess pl w f])) ∧
      (((s.windowRequest pl f).fab pl.val).windows.get (tn * 256 + (reqSub f.payload).window)).busy = w.busy + 1 ∧
      (s.windowRequest pl f).outbox = s.outbox ∧ (s.windowRequest pl f).cores = s.cores ∧
      (s.windowRequest pl f).space (s.peerOf pl.val f) f.origin = (s.space (s.peerOf pl.val f) f.origin).record f.seq seqPending := by
  subst hch hw
  rw [State.windowRequest_gddr hjob rfl hpass hspace hline hopen hreplay]
  generalize hkey : tn * 256 + (reqSub f.payload).window = key at *
  generalize windowNpa ((s.fab pl.val).windows.get key) (reqSub f.payload) = a at *
  have hlines := (s.acceptBusy pl key f).useLines_chan (s.peerOf pl.val f) a (reqSub f.payload).length (s.steer (a / 256)).1
  rw [State.chan_acceptBusy hself hfresh] at hlines
  have hqueue := (congrArg Channel.queue hlines :)
  have hwindow := (congrArg Channel.window hlines :)
  have hrest := (s.acceptBusy pl key f).useLines_rest (s.peerOf pl.val f) a (reqSub f.payload).length
  generalize (s.acceptBusy pl key f).useLines (s.peerOf pl.val f) a (reqSub f.payload).length = v at *
  change (v.chan _).queue = (s.chan _).queue at hqueue
  change (v.chan _).window = (s.chan _).window at hwindow
  rw [State.chan_updChan, if_pos rfl, State.fab_of_updChan, State.updChan_outbox, State.updChan_cores]
  refine ⟨Channel.mem_takeUp _ _ _ _, fun hempty => ?_, ?_, ?_, ?_, ?_⟩
  · rw [← hqueue]
    exact Channel.takeUp_alone (fun n => windowAccess_ofPlane _ _ _ n) (hwindow.trans hempty) _
  · rw [hrest]
    exact State.busy_acceptBusy hself hfresh key
  · rw [hrest]
    exact State.outbox_acceptBusy hself hfresh key
  · rw [hrest]
    exact State.cores_acceptBusy hself hfresh key
  · have hspaces : ∀ n, (v.fab n).spaces = ((s.acceptBusy pl key f).fab n).spaces := fun n => by rw [hrest]; rfl
    have halive : ∀ n, (v.fab n).alive = ((s.acceptBusy pl key f).fab n).alive := fun n => by rw [hrest]; rfl
    have htwin : v.twin = (s.acceptBusy pl key f).twin := by rw [hrest]
    exact (State.space_congr hspaces halive htwin _ _).trans (State.space_acceptBusy hself hfresh key)

end New

/-! ### The statement -/

/-- Settles O24: a good request's arrival leaves only notes; a new one is then queued or refused by the window check, and a copy answered. -/
theorem windowRequestsAreTakenUpOnce : Obligations.WindowRequestsAreTakenUpOnce := by
  unfold Obligations.WindowRequestsAreTakenUpOnce
  intro pl sub f i s tn hi hlink hport hgood htwin hcalm hhop hjobId hpaired hten hrank hawake hadmit peer sp q key w a
  have hcredit : needsCredit f.type = true := by rcases hi with ⟨-, h⟩ | ⟨-, h⟩ | ⟨-, h⟩ <;> rw [h] <;> rfl
  have h : s.GoodRequest pl sub f := ⟨⟨hlink, hport, hgood, htwin, hcalm⟩, hcredit, hhop, .inr ⟨hpaired, tn, hten, hrank⟩, hawake⟩
  have hu := s.trafficOnly_arrived pl (receivedFrame f)
  have hout := s.outbox_arrived pl (receivedFrame f)
  have hspace : (s.arrived pl (receivedFrame f)).space peer f.origin = sp := s.space_arrived pl (receivedFrame f)
  have hdups : ∀ n, ((s.arrived pl (receivedFrame f)).fab n).dups = [] := fun n =>
    (State.arrived_fab_of Fabric.dups s pl (receivedFrame f) n).trans (hcalm.1 n).2
  have hreplays := s.replay_arrived pl (receivedFrame f)
  have hjob : (s.arrived pl (receivedFrame f)).jobTen (measuredFrame f (s.hopOf f)).jobId (measuredFrame f (s.hopOf f)).jobGen = some tn := by
    rw [hu.jobTen]
    exact (State.jobTen_of_activeTen hten).1
  have hself := measuredFrame_self f (s.hopOf f)
  have hfresh := wtReplay_measured f (s.hopOf f)
  have hpeer : (s.arrived pl (receivedFrame f)).peerOf pl.val (measuredFrame f (s.hopOf f)) = peer := hu.peerOf _ _
  rw [exec_windowFrame hi]
  refine ⟨?copy, fun hnew hatomic => ?_⟩
  case copy =>
    intro st hstore hdup hst hreplay hpath hcast
    obtain ⟨ht, sb, ca, g, hsent, htype, hstatus, htag, hseq, horigin⟩ := h.windowFrame_copy hdup hst hstore hreplay hpath hcast
    exact ⟨_, sb, ca, g, rfl, hsent, htype, hstatus, htag, hseq, horigin, ht.cores, ht.chans, ht.handed⟩
  rw [h.windowFrame_new hadmit hnew hatomic]
  generalize s.arrived pl (receivedFrame f) = u at *
  have hw : (u.fab pl.val).windows.get (tn * 256 + (reqSub (measuredFrame f (s.hopOf f)).payload).window) = w := by
    rw [hu.windows]
    rfl
  refine ⟨?gddr, ?slice, ?fault⟩
  case gddr =>
    intro hpass hgddr hline hopen hreplay was
    obtain ⟨hmem, halone, hbusy, houtbox, hcores, hnext⟩ := State.windowRequest_gddr_queued hself hfresh hjob hw hpass hgddr
      (by rw [hpeer, hu.needLine]; exact hline) (by rw [hu.steer]) (by rw [hpeer, hu.chan]; exact hopen)
      (fun hatomic => by rw [hu.spaceHome]; exact (hreplays _).length_le.trans_lt (hreplay hatomic))
    rw [hu.chan] at halone
    rw [measuredFrame_origin, hpeer, hspace] at hnext
    refine ⟨_, _, rfl, hmem, fun he hfew => (halone he).1 hfew, fun he hfull => (halone he).2 hfull, rfl, rfl, rfl, rfl, hbusy, houtbox.trans hout,
      hcores.trans hu.cores, fun hlow hseen => ?_⟩
    rw [hnext]
    exact SeqSpace.record_low hlow hseen _
  case slice =>
    intro hpass hslice d o htarget hroom hheld
    obtain ⟨hforeign, hbusy, houtbox, hothers⟩ := State.windowRequest_slice_queued hself hfresh hjob hw hpass hslice
      (by rw [hu.rsTarget]; exact htarget) (by rw [hu.core]; exact hroom) (by rw [hu.core]; exact hheld)
    rw [hu.core] at hforeign
    exact ⟨_, _, rfl, hforeign, rfl, rfl, rfl, rfl, hbusy, houtbox.trans hout, fun e he => (hothers e he).trans (hu.core e)⟩
  case fault =>
    intro n hfault
    obtain ⟨hcores, hchans, hcount, r, hhanded, hrecord⟩ := State.windowRequest_fault_recorded hself hfresh hjob hdups (hw ▸ hfault)
    rw [hu.winFault] at hcount
    rw [hu.handed] at hhanded
    obtain ⟨hcls, hsev, hdetail⟩ := hrecord
    exact ⟨_, r, rfl, hcores.trans hu.cores, hchans.trans hu.chans, hhanded, hcls, hsev, hdetail, hcount⟩

end Sys2Proof.Machine
end

section
/-! PROOFS. Credits that frames, grants and expiries move (R299, R300), and paths measured (R301 to R303): the statements about both. -/

namespace Sys2Proof.Machine

/-! ### Credit updates (R299, R300) -/

/-- On a plane that carries frames a credit update goes out: it tells the peer of every buffer freed for it. -/
theorem State.sendCreditUpdate_goes {s : State} {pl : Nat} (hup : s.planeUp pl = true) (peer : Nat) (mac : BitVec 48) (ip : BitVec 128) (ask : Bool) :
    ∃ sb ca g, s.sendCreditUpdate pl peer mac ip ask = (s.updFab pl (Fabric.updCredits peer Credits.told)).send (.wt pl sb ca g) ∧ g.type = 7 ∧
      g.jobId = 0 ∧ g.flags = (if ask then 4 else 0) ∧ g.creditGrant = ((s.fab pl).credits.get peer).freed := by
  obtain ⟨halive, hpath⟩ : (s.fab pl).alive = true ∧ (s.fab pl).path ≠ [] := by simpa [State.planeUp] using hup
  obtain ⟨sub, -, hsub⟩ := State.egress_of_path hpath 0
  exact ⟨_, _, _, State.sendWt_goes (f := { type := 7, flags := if ask then 4 else 0, origin := pl == 1 }) hsub halive (.inr rfl) peer mac ip,
    rfl, rfl, rfl, rfl⟩

/-- Of a peer's credits a sent frame leaves all but what it is still to be told. -/
theorem State.credits_sendWt (s : State) (pl peer p : Nat) (mac : BitVec 48) (ip : BitVec 128) (f : WtFrame) :
    (((s.sendWt pl peer mac ip f).fab pl).credits.get p).told = ((s.fab pl).credits.get p).told := by
  rcases s.sendWt_cases pl peer mac ip f with h | ⟨o, h⟩
  · rw [h]
  · rw [h, State.fab_of_send, State.fab_updFab, if_pos rfl]
    dsimp only
    rw [Tab.get_upd]
    split
    · rw [‹p = peer›]; rfl
    · rfl

theorem State.credits_sendCreditUpdate (s : State) (pl peer p : Nat) (mac : BitVec 48) (ip : BitVec 128) (ask : Bool) :
    (((s.sendCreditUpdate pl peer mac ip ask).fab pl).credits.get p).told = ((s.fab pl).credits.get p).told := s.credits_sendWt _ _ _ _ _ _

theorem State.trafficOnly_sendCreditUpdate (s : State) (pl peer : Nat) (mac : BitVec 48) (ip : BitVec 128) (ask : Bool) :
    s.TrafficOnly (s.sendCreditUpdate pl peer mac ip ask) := s.trafficOnly_sendWt _ _ _ _ _

/-- The answer to this package's request for shared buffers. -/
def Credits.answered (now : Nat) (c : Credits) : Credits := { c with base := c.base + 8, asked := false, lastSent := now }

/-- A peer is lent 8 buffers more. -/
def Credits.lend (now : Nat) (c : Credits) : Credits := { c with lent := c.lent + 8, lastUse := now }

/-- A die lends a peer 8 of its shared buffers. -/
def Fabric.lend (peer now : Nat) (f : Fabric) : Fabric := { f with shared := f.shared - 8, credits := f.credits.upd peer (Credits.lend now) }

section Update
variable {s : State} {pl : Plane} {sub : SubPort} {f : WtFrame} (h : s.GoodFrame pl sub f) (htype : f.type = 7)
include h htype

theorem State.GoodFrame.wtIn_update : s.wtIn pl sub (receivedFrame f) 7 = (s.noteFrame pl (receivedFrame f), true) := by
  rw [← htype]
  exact h.received.wtIn

/-- A credit update that asks for nothing is the answer to this package's request, where one is open. -/
theorem exec_creditUpdate_tells (hask : f.flags.getLsbD 2 = false) :
    exec (.creditUpdate pl sub f) s = .next (if (((s.noteFrame pl (receivedFrame f)).fab pl.val).credits.get (s.peerOf pl.val f)).asked = true then
      (s.noteFrame pl (receivedFrame f)).updFab pl.val (Fabric.updCredits (s.peerOf pl.val f) (Credits.answered s.t))
      else s.noteFrame pl (receivedFrame f)) := by
  have hcalm := (h.calm.noteFrame s pl (receivedFrame f)).of_fabs
    (t := (s.noteFrame pl (receivedFrame f)).updFab pl.val (Fabric.updCredits (s.peerOf pl.val f) (Credits.answered s.t)))
    (State.updFab_fab_of Fabric.waiting _ _) (State.updFab_fab_of Fabric.dups _ _)
    (fun n => by rw [State.updFab_fab_of Fabric.outst]; exact fun _ ho => ho)
  show execCreditUpdate pl sub f s = _
  unfold execCreditUpdate
  dsimp only
  rw [h.stamp, h.wtIn_update htype, if_neg (by simp), if_pos (by show (!f.flags.getLsbD 2) = true; rw [hask]; rfl)]
  rw [← State.flushPlane_of_nothingWaits hcalm pl]
  rfl

/-- One that asks is answered where 8 shared buffers are free, which are then lent. -/
theorem exec_creditUpdate_asks (hask : f.flags.getLsbD 2 = true) :
    ∃ mac ip, exec (.creditUpdate pl sub f) s = .next (if (s.fab pl.val).shared < 8 then s.noteFrame pl (receivedFrame f) else
      ((s.noteFrame pl (receivedFrame f)).updFab pl.val (Fabric.lend (s.peerOf pl.val f) s.t)).sendCreditUpdate pl.val (s.peerOf pl.val f) mac ip false) := by
  show ∃ mac ip, execCreditUpdate pl sub f s = _
  unfold execCreditUpdate
  dsimp only
  rw [h.stamp, h.wtIn_update htype, if_neg (by simp), if_neg (by show ¬ (!f.flags.getLsbD 2) = true; rw [hask]; decide), (s.trafficOnly_noteFrame pl (receivedFrame f)).shared]
  exact ⟨_, _, (apply_ite Host.Outcome.next _ _ _).symm⟩

end Update

/-- Settles O26: what each of the three commands writes in the credits of its peer, and what a credit update sends. -/
theorem creditsMoveAsTheirFramesSay : Obligations.CreditsMoveAsTheirFramesSay := by
  unfold Obligations.CreditsMoveAsTheirFramesSay
  refine ⟨?update, ?send, ?expiry⟩
  case update =>
    intro pl sub f s hlink hport hgood htwin htype hcalm peer c
    have h : s.GoodFrame pl sub f := ⟨hlink, hport, hgood, htwin, hcalm⟩
    have hu := s.trafficOnly_noteFrame pl (receivedFrame f)
    have hout := s.outbox_noteFrame pl (receivedFrame f)
    have hcr : ((s.noteFrame pl (receivedFrame f)).fab pl.val).credits.get peer = c.grant f.creditGrant :=
      (s.credits_noteFrame pl (receivedFrame f) peer).trans (if_pos rfl)
    cases hask : f.flags.getLsbD 2 with
    | false =>
      rw [exec_creditUpdate_tells h htype hask, hcr]
      generalize s.noteFrame pl (receivedFrame f) = u at *
      have hset : ((u.updFab pl.val (Fabric.updCredits peer (Credits.answered s.t))).fab pl.val).credits.get peer =
          (c.grant f.creditGrant).answered s.t := by
        rw [State.fab_updFab, if_pos rfl, Fabric.updCredits, Tab.get_upd, if_pos rfl, hcr]
      have hshared : ((u.updFab pl.val (Fabric.updCredits peer (Credits.answered s.t))).fab pl.val).shared = (s.fab pl.val).shared :=
        (State.updFab_fab_of Fabric.shared _ _ _).trans (hu.shared _)
      cases hasked : c.asked with
      | true =>
        refine ⟨_, congrArg _ (if_pos hasked), ?_⟩
        rw [hset]
        exact ⟨rfl, rfl, hu.cores, hu.chans, fun _ => ⟨rfl, rfl⟩, fun _ => ⟨hout, hshared, rfl⟩, nofun⟩
      | false =>
        refine ⟨u, congrArg _ (if_neg (by simp [Credits.grant, hasked])), ?_⟩
        rw [hcr]
        exact ⟨rfl, rfl, hu.cores, hu.chans, fun _ => ⟨(BitVec.add_zero _).symm, hasked⟩, fun _ => ⟨hout, hu.shared _, rfl⟩, nofun⟩
    | true =>
      obtain ⟨mac, ip, hexec⟩ := exec_creditUpdate_asks h htype hask
      rw [hexec]
      generalize s.noteFrame pl (receivedFrame f) = u at *
      by_cases hfew : (s.fab pl.val).shared < 8
      · refine ⟨u, congrArg _ (if_pos hfew), ?_⟩
        rw [hcr]
        exact ⟨rfl, rfl, hu.cores, hu.chans, nofun, fun _ => ⟨hout, hu.shared _, rfl⟩, fun _ h => absurd hfew (Nat.not_lt.2 h)⟩
      · refine ⟨_, congrArg _ (if_neg hfew), ?_⟩
        have hlent : ((u.updFab pl.val (Fabric.lend peer s.t)).fab pl.val).credits.get peer = (c.grant f.creditGrant).lend s.t := by
          rw [State.fab_updFab, if_pos rfl, Fabric.lend, Tab.get_upd, if_pos rfl, hcr]
        have hshared : ((u.updFab pl.val (Fabric.lend peer s.t)).fab pl.val).shared = (s.fab pl.val).shared - 8 := by
          rw [State.fab_updFab, if_pos rfl, Fabric.lend, hu.shared]
        have hup : (u.updFab pl.val (Fabric.lend peer s.t)).planeUp pl.val = s.planeUp pl.val := by
          rw [← hu.planeUp, State.planeUp, State.planeUp, State.updFab_fab_of Fabric.alive, State.updFab_fab_of Fabric.path]
        have hsame := (u.updFab pl.val (Fabric.lend peer s.t)).trafficOnly_sendCreditUpdate pl.val peer mac ip false
        have htold := (u.updFab pl.val (Fabric.lend peer s.t)).credits_sendCreditUpdate pl.val peer peer mac ip false
        rw [hlent] at htold
        refine ⟨(congrArg Credits.granted htold :), (congrArg Credits.used htold :), hsame.cores.trans hu.cores, hsame.chans.trans hu.chans, nofun,
          fun h => absurd (h.resolve_left nofun) hfew, fun _ _ => ⟨(hsame.shared _).trans hshared, (congrArg Credits.lent htold :), fun hplane => ?_⟩⟩
        obtain ⟨sb, ca, g, hgoes, htype, hjob, hflags, -⟩ := State.sendCreditUpdate_goes (hup.trans hplane) peer mac ip false
        rw [hgoes, State.send_outbox, State.updFab_outbox, State.updFab_outbox, hout]
        exact ⟨sb, ca, g, rfl, htype, hjob, hflags⟩
  case send =>
    intro pl peer s c huntold hquiet hup
    obtain ⟨sb, ca, g, hgoes, htype, hjob, -, hgrant⟩ := State.sendCreditUpdate_goes hup peer (s.peerAddr pl.val peer).1 (s.peerAddr pl.val peer).2 false
    have hexec : exec (.creditUpdateSend pl peer) s =
        .next (s.sendCreditUpdate pl.val peer (s.peerAddr pl.val peer).1 (s.peerAddr pl.val peer).2 false) :=
      if_neg (by rintro (h | h) <;> [exact absurd huntold (Nat.not_le.2 h); exact absurd hquiet (Nat.not_le.2 h)])
    rw [hexec, hgoes]
    refine ⟨_, sb, ca, g, rfl, rfl, htype, hjob, hgrant, ?_, fun p hp => ?_⟩
    · rw [State.fab_of_send, State.fab_updFab, if_pos rfl, Fabric.updCredits, Tab.get_upd, if_pos rfl]
      rfl
    · rw [State.fab_of_send, State.fab_updFab, if_pos rfl, Fabric.updCredits, Tab.get_upd, if_neg hp]
  case expiry =>
    intro pl peer s c hlent hunused
    have hmine : (c.lent != 0 && decide (c.lastUse + 1000000 ≤ s.t)) = true := by simp [hlent, hunused]
    refine ⟨_, rfl, ?_, ?_, ?_, fun p hp => ?_, ?_, rfl⟩
    · rw [State.fab_updFab, if_pos rfl]
      exact if_pos hmine
    · rw [State.fab_updFab, if_pos rfl]
      dsimp only
      rw [Tab.get_upd, if_pos rfl]
      exact if_pos hmine
    · rw [State.fab_updFab, if_pos rfl]
      dsimp only
      rw [Tab.get_upd, if_pos rfl]
    · rw [State.fab_updFab, if_pos rfl]
      dsimp only
      rw [Tab.get_upd, if_neg hp]
    · rw [State.fab_updFab, if_neg (by omega)]

end Sys2Proof.Machine
end

section
/-! PROOFS. Path probes answered, and path tables measured and rebuilt (R301 to R303). -/

namespace Sys2Proof.Machine

/-! ### Path probes (R46, R302) -/

/-- A probe that goes on is answered as done, or refused by a die that does not admit. -/
theorem State.GoodRequest.pathProbe_answered {s : State} {pl : Plane} {sub : SubPort} {f : WtFrame} (h : s.GoodRequest pl sub f) (htype : f.type = 0xB)
    (hpath : (s.fab pl.val).path ≠ []) (hcast : s.castHalted = false ∨ f.jobId = 0)
    (hnew : ((s.space (s.peerOf pl.val f) f.origin).floor f.ackFloor).classify f.seq f.ackFloor = .new) :
    ∃ t, exec (.pathProbe pl sub f) s = .next t ∧ s.TrafficOnly t ∧ ∃ sb ca g, t.outbox = s.outbox ++ [.wt pl.val sb ca g] ∧
      g.type = 6 ∧ g.status = (if s.dieAdmits (5 + pl.val) then stDone else stNotAdmitted) ∧ g.tag = f.tag ∧ g.seq = f.seq ∧ g.origin = f.origin := by
  have hu := s.trafficOnly_arrived pl (receivedFrame f)
  have hout := s.outbox_arrived pl (receivedFrame f)
  have hdups : ∀ n, ((s.arrived pl (receivedFrame f)).fab n).dups = [] := fun n =>
    (State.arrived_fab_of Fabric.dups s pl (receivedFrame f) n).trans (h.calm.1 n).2
  have hself := measuredFrame_self f (s.hopOf f)
  have hreq := h.wtRequest.1 hnew (fun hre => by rw [htype] at hre; exact absurd hre.2.1 (by decide))
  rw [htype] at hreq
  generalize s.arrived pl (receivedFrame f) = u at *
  have hexec : exec (.pathProbe pl sub f) s = .next (if u.dieAdmits (5 + pl.val) then u.execReq pl.val (measuredFrame f (s.hopOf f)) stDone []
      else u.refuseReq pl.val (measuredFrame f (s.hopOf f))) := by
    show execPathProbe pl sub f s = _
    unfold execPathProbe
    rw [hreq]
  have hanswer : ∀ v, s.TrafficOnly v → v.outbox = s.outbox → ∀ st replay,
      s.TrafficOnly (v.answer pl.val (measuredFrame f (s.hopOf f)) st [] replay) ∧ ∃ sb ca g,
        (v.answer pl.val (measuredFrame f (s.hopOf f)) st [] replay).outbox = s.outbox ++ [.wt pl.val sb ca g] ∧ g.type = 6 ∧ g.status = st ∧
          g.tag = f.tag ∧ g.seq = f.seq ∧ g.origin = f.origin := by
    intro v hv houtv st replay
    obtain ⟨sb, ca, g, hgoes, hty, hrest⟩ := State.answer_goes (s := v) hself h.twin (by rw [hv.path]; exact hpath)
      (by rw [hv.alive]; exact h.toGoodFrame.alive) (by rw [hv.castHalted]; exact hcast) st [] replay
    rw [houtv] at hgoes
    rw [measuredFrame_type, htype] at hty
    exact ⟨hv.trans (State.trafficOnly_answer hself _ _ _ _), sb, ca, g, hgoes, hty, hrest⟩
  rw [hexec, hu.dieAdmits]
  refine ⟨_, rfl, ?_⟩
  split
  · obtain ⟨v, hdone, hv, houtv⟩ := State.execReq_answers hself (wtReplay_measured f (s.hopOf f)) hdups pl.val stDone []
    rw [hdone]
    exact hanswer v (hu.trans hv) (houtv.trans hout) stDone false
  · exact hanswer u hu hout stNotAdmitted _

/-! ### Ports measured (R302, R303) -/

/-- Setting a bit of a mask leaves the others. -/
theorem getLsbD_setBit (v : BitVec 4) (i j : Fin 4) (b : Bool) : (setBit v i.val b).getLsbD j.val = if j = i then b else v.getLsbD j.val := by
  decide +revert

theorem getLsbD_setBit_mod (v : BitVec 4) (i j : Nat) (b : Bool) :
    (setBit v (i % 4) b).getLsbD (j % 4) = if j % 4 = i % 4 then b else v.getLsbD (j % 4) := by
  have h := getLsbD_setBit v ⟨i % 4, Nat.mod_lt _ (by decide)⟩ ⟨j % 4, Nat.mod_lt _ (by decide)⟩ b
  simpa only [Fin.mk.injEq] using h

/-- A port without what a window of the measurement writes. -/
def Port.sansMeasure (p : Port) : Port := { p with hot := 0, p99 := 0 }

/-- What the end of a window writes of a sub-port with the samples `h`, where `med` is twice the median of the medians. -/
def measureSub (hist : Tab (List Nat)) (med : Nat) (t : Tab Port) (sub : Nat) : Tab Port :=
  let h := hist.get sub
  let t1 := t.upd (sub / 4) (fun p => if sub % 4 = 0 then { p with p99 := BitVec.ofNat 16 (p99Of h) } else p)
  if sumN h < 64 then t1 else
  t1.upd (sub / 4) (fun p => { p with hot := setBit p.hot (sub % 4) (5 * med < 8 * p99Of h) })

theorem Tab.upd_get_of {α γ : Type} [Inhabited α] [DecidableEq α] (q : α → γ) (t : Tab α) (k n : Nat) {g : α → α} (hq : q (g (t.get k)) = q (t.get k)) :
    q ((t.upd k g).get n) = q (t.get n) := by
  rw [Tab.get_upd]
  split
  · rw [hq, ‹n = k›]
  · rfl

theorem sansMeasure_measureSub (hist : Tab (List Nat)) (med : Nat) (t : Tab Port) (sub p : Nat) :
    ((measureSub hist med t sub).get p).sansMeasure = (t.get p).sansMeasure := by
  unfold measureSub
  dsimp only
  have hfirst := Tab.upd_get_of Port.sansMeasure t (sub / 4) p
    (g := fun p => if sub % 4 = 0 then { p with p99 := BitVec.ofNat 16 (p99Of (hist.get sub)) } else p) (by split <;> rfl)
  split
  · exact hfirst
  · exact (Tab.upd_get_of Port.sansMeasure _ _ _ rfl).trans hfirst

/-- A sub-port with fewer than 64 samples keeps its mark, whatever is written of any. -/
theorem hot_measureSub {hist : Tab (List Nat)} {sub : Nat} (hfew : sumN (hist.get sub) < 64) (med : Nat) (t : Tab Port) (a : Nat) :
    ((measureSub hist med t a).get (sub / 4)).hot.getLsbD (sub % 4) = (t.get (sub / 4)).hot.getLsbD (sub % 4) := by
  unfold measureSub
  dsimp only
  have hfirst := Tab.upd_get_of (fun p : Port => p.hot.getLsbD (sub % 4)) t (a / 4) (sub / 4)
    (g := fun p => if a % 4 = 0 then { p with p99 := BitVec.ofNat 16 (p99Of (hist.get a)) } else p) (by split <;> rfl)
  split
  · exact hfirst
  next hmany =>
    have hne : sub ≠ a := fun h => hmany (h ▸ hfew)
    refine Eq.trans ?_ hfirst
    by_cases hport : sub / 4 = a / 4
    · rw [Tab.get_upd, if_pos hport, hport]
      exact (getLsbD_setBit_mod _ _ _ _).trans (if_neg (by omega))
    · rw [Tab.get_upd, if_neg hport]

/-- A plane's ports as the end of a window marks them. -/
def measurePorts (hist : Tab (List Nat)) (med : Nat) (t : Tab Port) : Tab Port := (List.range 48).foldl (measureSub hist med) t

theorem sansMeasure_measurePorts (hist : Tab (List Nat)) (med : Nat) (t : Tab Port) (p : Nat) :
    ((measurePorts hist med t).get p).sansMeasure = (t.get p).sansMeasure :=
  foldl_keeps (fun t => (Tab.get t p).sansMeasure) (fun t a => sansMeasure_measureSub hist med t a p) _ t

theorem hot_measurePorts {hist : Tab (List Nat)} {sub : Nat} (hfew : sumN (hist.get sub) < 64) (med : Nat) (t : Tab Port) :
    ((measurePorts hist med t).get (sub / 4)).hot.getLsbD (sub % 4) = (t.get (sub / 4)).hot.getLsbD (sub % 4) :=
  foldl_keeps (fun t => (Tab.get t (sub / 4)).hot.getLsbD (sub % 4)) (fun t a => hot_measureSub hfew med t a) _ t

/-! ### The path table (R301) -/

/-- The entries of a sub-port in the path table. -/
def Port.entries (p : Port) (sub : Nat) : List Nat := if !p.healthy sub then [] else if p.hot.getLsbD (sub % 4) then [sub] else [sub, sub, sub]

theorem Port.count_entries (p : Port) (sub n : Nat) : (p.entries sub).count n =
    if n = sub then (if p.healthy sub = true then (if p.hot.getLsbD (sub % 4) = true then 1 else 3) else 0) else 0 := by
  unfold Port.entries
  by_cases h : n = sub
  · subst h
    cases p.healthy n <;> cases p.hot.getLsbD (n % 4) <;> simp
  · rw [if_neg h, List.count_eq_zero]
    cases p.healthy sub <;> cases p.hot.getLsbD (sub % 4) <;> simp [h]

theorem Fabric.count_pathList (f : Fabric) {sub : Nat} (hsub : sub < 48) : f.pathList.count sub =
    if (f.ports.get (sub / 4)).healthy sub = true then (if (f.ports.get (sub / 4)).hot.getLsbD (sub % 4) = true then 1 else 3) else 0 := by
  have hlist : f.pathList = (List.range 48).flatMap (fun n => (f.ports.get (n / 4)).entries n) := rfl
  have hother : ∀ n, n ≠ sub → n ∈ List.range 48 → (List.count sub ∘ fun n => (f.ports.get (n / 4)).entries n) n = 0 := fun n hn _ => by
    rw [Function.comp_apply, Port.count_entries, if_neg hn.symm]
  rw [hlist, List.count_flatMap, List.sum_map_eq_nsmul_single sub _ hother, List.count_eq_one_of_mem List.nodup_range (List.mem_range.2 hsub), one_smul,
    Function.comp_apply, Port.count_entries, if_pos rfl]

/-- The plane's path table as its ports are. -/
def Fabric.rerouted (f : Fabric) : Fabric := { f with path := if f.alive then f.pathList else [] }

theorem Fabric.count_rerouted (f : Fabric) {sub : Nat} (hsub : sub < 48) : f.rerouted.path.count sub =
    if f.alive = true ∧ (f.ports.get (sub / 4)).healthy sub = true then (if (f.ports.get (sub / 4)).hot.getLsbD (sub % 4) = true then 1 else 3) else 0 := by
  by_cases halive : f.alive = true
  · rw [Fabric.rerouted, if_pos halive, f.count_pathList hsub]
    simp only [halive, true_and]
  · rw [Fabric.rerouted, if_neg halive, if_neg (fun h => halive h.1)]
    rfl

theorem State.fab_rebuildPath (s : State) (pl n : Nat) : (s.rebuildPath pl).fab n = if n = pl then (s.fab pl).rerouted else s.fab n :=
  s.fab_updFab pl n Fabric.rerouted

/-- The levels of a die are all that their measurement writes there. -/
theorem State.measureDie_fab_of {γ : Type} (q : Fabric → γ) (s : State) (pl n : Nat)
    (hq : ∀ f a b c d e, q { f with l0 := a, l1 := b, l2 := c, l3 := d, l4 := e } = q f := by intros; rfl) :
    q ((s.measureDie pl).fab n) = q (s.fab n) := by
  rw [State.measureDie, State.fab_of_drawn]
  exact s.updFab_fab_of q pl n (fun f => hq f _ _ _ _ _)

theorem State.measureDie_fab_of_ne (s : State) {pl n : Nat} (h : n ≠ pl) : (s.measureDie pl).fab n = s.fab n := by
  rw [State.measureDie, State.fab_of_drawn, State.fab_updFab, if_neg h]

/-- The end of a window: the ports as measured, and the next window begun. -/
def Fabric.newWindow (ports : Tab Port) (now : Nat) (f : Fabric) : Fabric := { f with ports := ports, hist := [], winAt := now }

/-- The package once a window of a plane has ended (R302, R303). -/
def State.endWindow (s : State) (pl : Plane) (ports : Tab Port) : State :=
  ((s.updFab pl.val (Fabric.newWindow ports s.t)).measureDie pl.val).rebuildPath pl.val

theorem exec_pathTableRebuild {s : State} {pl : Plane} (h : (s.fab pl.val).winAt + 100000 ≤ s.t) :
    ∃ med, exec (.pathTableRebuild pl) s = .next (s.endWindow pl (measurePorts (s.fab pl.val).hist med (s.fab pl.val).ports)) :=
  ⟨_, if_neg (Nat.not_lt.2 h)⟩

section Window
variable (s : State) (pl : Plane) (ports : Tab Port)

/-- The die at the end of a window, but for its levels. -/
theorem State.fab_endWindow : ∃ f : Fabric, (s.endWindow pl ports).fab pl.val = f.rerouted ∧ f.hist = [] ∧ f.winAt = s.t ∧ f.ports = ports ∧
    f.alive = (s.fab pl.val).alive := by
  have hwindow : (s.updFab pl.val (Fabric.newWindow ports s.t)).fab pl.val = (s.fab pl.val).newWindow ports s.t := by
    rw [State.fab_updFab, if_pos rfl]
  refine ⟨_, (State.fab_rebuildPath _ _ _).trans (if_pos rfl), ?hist, ?winAt, ?ports, ?alive⟩
  case hist => rw [State.measureDie_fab_of Fabric.hist, hwindow]; rfl
  case winAt => rw [State.measureDie_fab_of Fabric.winAt, hwindow]; rfl
  case ports => rw [State.measureDie_fab_of Fabric.ports, hwindow]; rfl
  case alive => rw [State.measureDie_fab_of Fabric.alive, hwindow]; rfl

theorem State.fab_endWindow_of_ne {n : Nat} (h : n ≠ pl.val) : (s.endWindow pl ports).fab n = s.fab n := by
  rw [State.endWindow, State.fab_rebuildPath, if_neg h, State.measureDie_fab_of_ne _ h, State.fab_updFab, if_neg h]

end Window

/-- Settles O27: a probe is a request that is done at once; the marks of a window's end follow the samples, and the path table the marks. -/
theorem pathsAreMeasuredAndRebuilt : Obligations.PathsAreMeasuredAndRebuilt := by
  unfold Obligations.PathsAreMeasuredAndRebuilt
  refine ⟨?probe, ?rebuild⟩
  case probe =>
    intro pl sub f s tn hlink hport hgood htwin htype hcalm hhop hawake hpath hjob hnew
    have h : s.GoodRequest pl sub f := ⟨⟨hlink, hport, hgood, htwin, hcalm⟩, by rw [htype]; rfl, hhop,
      hjob.imp_right (fun hj => ⟨hj.1, tn, hj.2.2⟩), hawake⟩
    obtain ⟨t, hexec, ht, sb, ca, g, hout, hty, hstatus, htag, hseq, horigin⟩ :=
      h.pathProbe_answered htype hpath (hjob.symm.imp_left (fun hj => hj.2.1)) hnew
    exact ⟨t, sb, ca, g, hexec, hout, hty, hstatus, htag, hseq, horigin, ht.cores, ht.chans⟩
  case rebuild =>
    intro pl s hdue
    obtain ⟨med, hexec⟩ := exec_pathTableRebuild hdue
    obtain ⟨f, hfab, hhist, hwin, hports, halive⟩ := s.fab_endWindow pl (measurePorts (s.fab pl.val).hist med (s.fab pl.val).ports)
    refine ⟨_, hexec, ?hist, ?winAt, fun p => ?ports, fun sub _ hfew => ?hot, fun sub hsub => ?path, s.fab_endWindow_of_ne pl _ (by omega)⟩
    case hist => rw [hfab]; exact hhist
    case winAt => rw [hfab]; exact hwin
    case ports =>
      have hp := sansMeasure_measurePorts (s.fab pl.val).hist med (s.fab pl.val).ports p
      rw [← hports] at hp
      rw [hfab]
      exact ⟨(congrArg Port.up hp :), (congrArg Port.failed hp :), (congrArg Port.mode hp :)⟩
    case hot =>
      rw [hfab]
      exact (congrArg (fun t : Tab Port => (t.get (sub / 4)).hot.getLsbD (sub % 4)) hports).trans (hot_measurePorts hfew med _)
    case path => rw [hfab, f.count_rerouted hsub, halive]; rfl

end Sys2Proof.Machine
end

section
/-! PROOFS. Outstanding requests (R291, R295, R296, R335): how a tag finds its request, what an answer does to it, and how it is sent again. -/

namespace Sys2Proof.Machine

/-! ### Outstanding requests by their tag (R291) -/

section Out
variable (s : State) (tag : BitVec 16) (n : Nat)

theorem State.outst_updOut (g : OutReq → OutReq) : ((s.updOut tag g).fab n).outst =
    if n = b2n (tag.getLsbD 15) then (s.fab n).outst.map (fun o => if o.tag = tag then g o else o) else (s.fab n).outst := by
  rw [State.updOut, State.fab_updFab]
  split
  · rw [‹n = _›]
  · rfl

theorem State.outst_releaseTag : ((s.releaseTag tag).fab n).outst =
    if n = b2n (tag.getLsbD 15) then (s.fab n).outst.filter (fun o => o.tag != tag) else (s.fab n).outst := by
  rw [State.releaseTag, State.fab_updFab]
  split
  · rw [‹n = _›]
  · rfl

/-- What does not speak of the outstanding requests stands when one of them is changed. -/
theorem State.updOut_fab_of {γ : Type} (q : Fabric → γ) (g : OutReq → OutReq) (hq : ∀ f os, q { f with outst := os } = q f := by intros; rfl) :
    q ((s.updOut tag g).fab n) = q (s.fab n) := s.updFab_fab_of q _ n (fun f => hq f _)

theorem State.releaseTag_fab_of {γ : Type} (q : Fabric → γ) (hq : ∀ f os, q { f with outst := os } = q f := by intros; rfl) :
    q ((s.releaseTag tag).fab n) = q (s.fab n) := s.updFab_fab_of q _ n (fun f => hq f _)

theorem State.trafficOnly_updOut (g : OutReq → OutReq) : s.TrafficOnly (s.updOut tag g) := s.trafficOnly_updFab _

theorem State.trafficOnly_releaseTag : s.TrafficOnly (s.releaseTag tag) := s.trafficOnly_updFab _

end Out

theorem State.mem_outst_updOut {s : State} {tag : BitVec 16} {o : OutReq} (h : o ∈ (s.fab (b2n (tag.getLsbD 15))).outst) (htag : o.tag = tag)
    (g : OutReq → OutReq) : g o ∈ ((s.updOut tag g).fab (b2n (tag.getLsbD 15))).outst := by
  rw [State.outst_updOut, if_pos rfl]
  exact List.mem_map.2 ⟨o, h, if_pos htag⟩

/-- A released request is gone from its die, and no other. -/
theorem State.mem_outst_releaseTag {s : State} {tag : BitVec 16} {o : OutReq} :
    o ∈ ((s.releaseTag tag).fab (b2n (tag.getLsbD 15))).outst ↔ o ∈ (s.fab (b2n (tag.getLsbD 15))).outst ∧ o.tag ≠ tag := by
  rw [State.outst_releaseTag, if_pos rfl, List.mem_filter, bne_iff_ne]

theorem State.mem_outst_of_releaseTag {s : State} {tag : BitVec 16} {n : Nat} {o : OutReq} (h : o ∈ ((s.releaseTag tag).fab n).outst) :
    o ∈ (s.fab n).outst := by
  rw [State.outst_releaseTag] at h
  split at h
  · exact List.mem_of_mem_filter h
  · exact h

theorem State.findOut_spec {s : State} {tag : BitVec 16} {seq : BitVec 24} {origin : Bool} {o : OutReq} (h : s.findOut tag seq origin = some o) :
    o ∈ (s.fab (b2n (tag.getLsbD 15))).outst ∧ o.tag = tag ∧ o.seq = seq ∧ o.origin = origin := by
  have hp := List.find?_some h
  simp only [Bool.and_eq_true, beq_iff_eq] at hp
  exact ⟨List.mem_of_find?_eq_some h, hp.1.1, hp.1.2, hp.2⟩

/-- The request of a die that a tag names is in that die. -/
theorem State.outReq_spec {s : State} {pl : Plane} {tag : BitVec 16} {o : OutReq} (h : s.outReq pl tag = some o) :
    o ∈ (s.fab pl.val).outst ∧ o.tag = tag ∧ b2n (tag.getLsbD 15) = pl.val := by
  have hp := List.find?_some h
  simp only [Bool.and_eq_true, beq_iff_eq] at hp
  refine ⟨List.mem_of_find?_eq_some h, hp.1, ?_⟩
  rw [hp.2]
  obtain rfl | rfl := plane_eq pl <;> rfl

/-! ### Answers received (R295, R302, R305, R335) -/

/-- A fabric die without what it measures of its paths. -/
def Fabric.sansPaths (f : Fabric) : Fabric := { f with hist := [], answered := [], unheard := [], hops := [] }

/-- Nothing differs but what the fabric dies measure of their paths. -/
structure State.PathsOnly (s t : State) : Prop where
  rest : t = { s with fabrics := t.fabrics }
  paths : ∀ n, (t.fab n).sansPaths = (s.fab n).sansPaths

theorem State.PathsOnly.refl (s : State) : s.PathsOnly s := ⟨rfl, fun _ => rfl⟩

theorem State.PathsOnly.trans {s t u : State} (h : s.PathsOnly t) (k : t.PathsOnly u) : s.PathsOnly u where
  rest := by rw [k.rest, h.rest]
  paths n := (k.paths n).trans (h.paths n)

theorem State.pathsOnly_updFab (s : State) (pl : Nat) {g : Fabric → Fabric} (hg : ∀ f, (g f).sansPaths = f.sansPaths := by intro; rfl) :
    s.PathsOnly (s.updFab pl g) where
  rest := rfl
  paths n := s.updFab_fab_of Fabric.sansPaths pl n hg

section Paths
variable {s t : State} (h : s.PathsOnly t)
include h

theorem State.PathsOnly.outst (n : Nat) : (t.fab n).outst = (s.fab n).outst := (congrArg Fabric.outst (h.paths n) :)
theorem State.PathsOnly.waiting (n : Nat) : (t.fab n).waiting = (s.fab n).waiting := (congrArg Fabric.waiting (h.paths n) :)
theorem State.PathsOnly.dups (n : Nat) : (t.fab n).dups = (s.fab n).dups := (congrArg Fabric.dups (h.paths n) :)
theorem State.PathsOnly.core (c : CoreId) : t.core c = s.core c := (congrArg (State.core · c) h.rest :)
theorem State.PathsOnly.cores : t.cores = s.cores := (congrArg State.cores h.rest :)
theorem State.PathsOnly.ckpt (n : Nat) : t.ckpt n = s.ckpt n := (congrArg (State.ckpt · n) h.rest :)
theorem State.PathsOnly.outbox : t.outbox = s.outbox := (congrArg State.outbox h.rest :)

end Paths

theorem State.pathsOnly_leaveUnheard (s : State) (o : OutReq) : s.PathsOnly (s.leaveUnheard o) :=
  List.foldlRecOn (motive := s.PathsOnly) _ _ (.refl s) (fun u hu _ _ => hu.trans (u.pathsOnly_updFab _))

/-- A request that its receiver refused at a time. -/
def OutReq.refuse (now : Nat) (o : OutReq) : OutReq := { o with refusedAt := some now, refusedFrom := some (o.refusedFrom.getD now) }

/-- A die counts a frame that it has had before, or that answers nothing. -/
def Fabric.countDup (f : Fabric) : Fabric := { f with dupDrop := satInc f.dupDrop }

section Match
variable {s : State} {tag : BitVec 16} {seq : BitVec 24} {origin : Bool}

theorem State.matchAnswer_unknown (h : s.findOut tag seq origin = none) (pl : Nat) (st : Byte) (hop : Option Nat) :
    s.matchAnswer pl tag seq origin st hop = (s.updFab pl Fabric.countDup, none) := by
  rw [State.matchAnswer, h]
  rfl

/-- An answer leaves its request outstanding where it is a refusal, and else releases it. -/
theorem State.matchAnswer_known {o : OutReq} (h : s.findOut tag seq origin = some o) (pl : Nat) (st : Byte) (hop : Option Nat) :
    ∃ u, s.PathsOnly u ∧ s.matchAnswer pl tag seq origin st hop =
      if st = stNotAdmitted then (u.updOut tag (OutReq.refuse s.t), none) else (u.releaseTag tag, some o) := by
  have hmeasured : ∀ s1, s.PathsOnly s1 → ∃ u, s.PathsOnly u ∧
      (if st = stNotAdmitted then (s1.updOut tag (OutReq.refuse s.t), none) else ((s1.leaveUnheard o).releaseTag tag, some o)) =
        if st = stNotAdmitted then (u.updOut tag (OutReq.refuse s.t), none) else (u.releaseTag tag, some o) := by
    intro s1 hs1
    by_cases hst : st = stNotAdmitted
    · exact ⟨s1, hs1, by rw [if_pos hst, if_pos hst]⟩
    · exact ⟨_, hs1.trans (s1.pathsOnly_leaveUnheard o), by rw [if_neg hst, if_neg hst]⟩
  rw [State.matchAnswer, h]
  cases hop with
  | none => exact hmeasured s (.refl s)
  | some d => exact hmeasured _ ((s.pathsOnly_updFab _).trans (State.pathsOnly_updFab _ _))

end Match

/-! ### Requests sent again (R296, R298, R315) -/

/-- A request as it goes out again on a path, `now` (R288, R296). -/
def OutReq.frameAgain (o : OutReq) (path : BitVec 7) (now : Nat) : WtFrame :=
  { o.frame with flags := o.frame.flags ||| 1, pathId := path, hopStamp := BitVec.ofNat 16 (Nat.min (now - o.tAccept) 0xFFFF) }

/-- A request that has gone out again by a sub-port of a plane. -/
def OutReq.sentAgain (pl : Plane) (sub now : Nat) (f : WtFrame) (o : OutReq) : OutReq :=
  { o with lastPlane := pl, lastSub := sub, tLast := now, tries := o.tries ++ [(pl, sub, now)], again := none, frame := f }

/-- A die counts a re-send that R296 or R306 asks for. -/
def Fabric.countResent (counted : Bool) (f : Fabric) : Fabric := { f with resent := if counted then satInc f.resent else f.resent }

/-- What a re-send writes before its frame goes out. -/
def State.noteResend (s : State) (o : OutReq) (pl : Plane) (sub : Nat) (path : BitVec 7) (counted : Bool) : State :=
  ((s.updOut o.tag (OutReq.sentAgain pl sub s.t (o.frameAgain path s.t))).updFab pl.val (Fabric.countResent counted)).pay pl.val o.peer o.frame.type

/-- A request that can be paid for is counted in its peer's credits. -/
def Credits.useOne (now : Nat) (c : Credits) : Credits := { c with used := c.used + 1, lastSent := now }

theorem State.pay_eq (s : State) (pl peer : Nat) (ty : BitVec 4) :
    s.pay pl peer ty = if needsCredit ty = true then s.updFab pl (Fabric.updCredits peer (Credits.useOne s.t)) else s := by
  unfold State.pay
  cases needsCredit ty <;> rfl

theorem State.trafficOnly_pay (s : State) (pl peer : Nat) (ty : BitVec 4) : s.TrafficOnly (s.pay pl peer ty) := by
  rw [State.pay_eq]
  split
  · exact s.trafficOnly_updFab pl
  · exact .refl s

theorem State.pay_fab_of {γ : Type} (q : Fabric → γ) (s : State) (pl peer : Nat) (ty : BitVec 4) (n : Nat)
    (hq : ∀ f cr, q { f with credits := cr } = q f := by intros; rfl) : q ((s.pay pl peer ty).fab n) = q (s.fab n) := by
  rw [State.pay_eq]
  split
  · exact s.updFab_fab_of q pl n (fun f => hq f _)
  · rfl

theorem State.used_pay (s : State) (pl peer : Nat) (ty : BitVec 4) : (((s.pay pl peer ty).fab pl).credits.get peer).used =
    ((s.fab pl).credits.get peer).used + (if needsCredit ty then 1 else 0) := by
  rw [State.pay_eq]
  split
  · rw [State.fab_updFab, if_pos rfl, Fabric.updCredits, Tab.get_upd, if_pos rfl]
    rfl
  · simp

section Resend
variable {s : State} {o : OutReq} {pl : Plane} {path : BitVec 7} {counted : Bool}

/-- A request with no valid entry on the plane ends there (R447). -/
theorem State.resendReq_ends (h : s.reqDest pl.val o = none) : s.resendReq o pl path counted = (s.releaseTag o.tag).rejectOwner o.owner := by
  rw [State.resendReq, h]

theorem State.resendReq_sends {d : BitVec 48 × BitVec 128} (h : s.reqDest pl.val o = some d) : s.resendReq o pl path counted =
    (s.noteResend o pl ((s.egress pl.val o.frame.twin path).getD 0) path counted).sendWt pl.val o.peer d.1 d.2 (o.frameAgain path s.t) := by
  rw [State.resendReq, h]
  rfl

theorem State.trafficOnly_noteResend (s : State) (o : OutReq) (pl : Plane) (sub : Nat) (path : BitVec 7) (counted : Bool) :
    s.TrafficOnly (s.noteResend o pl sub path counted) :=
  ((s.trafficOnly_updOut o.tag _).trans (State.trafficOnly_updFab _ pl.val)).trans (State.trafficOnly_pay _ _ _ _)

theorem State.outbox_noteResend (s : State) (o : OutReq) (pl : Plane) (sub : Nat) (path : BitVec 7) (counted : Bool) :
    (s.noteResend o pl sub path counted).outbox = s.outbox := by
  rw [State.noteResend, State.pay_eq]
  split
  · rw [State.updFab_outbox, State.updFab_outbox, State.updOut, State.updFab_outbox]
  · rw [State.updFab_outbox, State.updOut, State.updFab_outbox]

/-- What a re-send that goes out leaves: its frame, its credit, its count, and itself among the outstanding requests. -/
structure State.SentAgain (s t : State) (o : OutReq) (pl : Plane) (sub : Nat) (path : BitVec 7) (counted : Bool) : Prop where
  traffic : s.TrafficOnly t
  outst : ∀ n, (t.fab n).outst = ((s.updOut o.tag (OutReq.sentAgain pl sub s.t (o.frameAgain path s.t))).fab n).outst
  used : ((t.fab pl.val).credits.get o.peer).used = ((s.fab pl.val).credits.get o.peer).used + (if needsCredit o.frame.type then 1 else 0)
  resent : (t.fab pl.val).resent = if counted then satInc (s.fab pl.val).resent else (s.fab pl.val).resent
  sent : ∃ ca g, t.outbox = s.outbox ++ [.wt pl.val sub ca g] ∧ g.tag = o.frame.tag ∧ g.seq = o.frame.seq ∧ g.type = o.frame.type ∧
    g.payload = o.frame.payload ∧ g.flags = o.frame.flags ||| 1 ∧ g.pathId = path

theorem State.sentAgain_resendReq {sub : Nat} (hdest : (s.reqDest pl.val o).isSome = true) (hsub : s.egress pl.val o.frame.twin path = some sub)
    (halive : (s.fab pl.val).alive = true) (hcast : s.castHalted = false) (counted : Bool) :
    s.SentAgain (s.resendReq o pl path counted) o pl sub path counted := by
  obtain ⟨d, hd⟩ := Option.isSome_iff_exists.1 hdest
  have hnote := s.trafficOnly_noteResend o pl sub path counted
  have hresend : s.resendReq o pl path counted =
      (s.noteResend o pl sub path counted).sendWt pl.val o.peer d.1 d.2 (o.frameAgain path s.t) := by
    rw [State.resendReq_sends hd, hsub]
    rfl
  have hout := s.outbox_noteResend o pl sub path counted
  rw [hresend]
  refine ⟨hnote.trans (State.trafficOnly_sendWt _ _ _ _ _ _), fun n => ?outst, ?used, ?resent, ?sent⟩
  case outst => rw [State.sendWt_fab_of Fabric.outst, State.noteResend, State.pay_fab_of Fabric.outst, State.updFab_fab_of Fabric.outst]
  case used =>
    refine (congrArg Credits.used (State.credits_sendWt _ pl.val o.peer o.peer d.1 d.2 _) :).trans ?_
    show (((s.noteResend o pl sub path counted).fab pl.val).credits.get o.peer).used = _
    rw [State.noteResend, State.used_pay, State.updFab_fab_of (fun f => (f.credits.get o.peer).used),
      State.updOut_fab_of (q := fun f => (f.credits.get o.peer).used)]
  case resent =>
    rw [State.sendWt_fab_of Fabric.resent, State.noteResend, State.pay_fab_of Fabric.resent, State.fab_updFab, if_pos rfl, Fabric.countResent,
      State.updOut_fab_of (q := Fabric.resent)]
  case sent =>
    have hgoes := State.outbox_sendWt (f := o.frameAgain path s.t) (by rw [hnote.egress]; exact hsub) (by rw [hnote.alive]; exact halive)
      (.inl (by rw [hnote.castHalted]; exact hcast)) o.peer d.1 d.2
    rw [hout] at hgoes
    exact ⟨_, _, hgoes, rfl, rfl, rfl, rfl, rfl, rfl⟩

end Resend

end Sys2Proof.Machine
end

section
/-! PROOFS. The statement about answers, re-sends and the retry budget (R295, R296, R335, R340), from the lemmas above. -/

namespace Sys2Proof.Machine

/-! ### The commands that bring answers -/

theorem State.mirrorsDone_of_noMirrorWaits {s : State} (h : s.NoMirrorWaits) : s.mirrorsDone = s := by
  refine foldl_eq_self (fun n _ => ?_)
  obtain ⟨hmirror, hjob⟩ := h n
  dsimp only
  split
  · rfl
  · split
    · contradiction
    · contradiction
    · rfl

theorem State.NoMirrorWaits.of_ckpt {s t : State} (h : s.NoMirrorWaits) (hck : ∀ n, t.ckpt n = s.ckpt n) : t.NoMirrorWaits := fun n => by
  rw [hck]
  exact h n

/-- An answer to a request of the DMA engine reaches its core alone. -/
theorem State.core_dmaAnswer_of_ne {s : State} {c e : CoreId} (h : e ≠ c) (req part : Nat) (st : Byte) (data : List Byte) (logged : Bool) :
    (s.dmaAnswer c req part st data logged).core e = s.core e := by
  simp [State.dmaAnswer, h]

theorem State.fab_dmaAnswer (s : State) (c : CoreId) (req part : Nat) (st : Byte) (data : List Byte) (logged : Bool) (n : Nat) :
    (s.dmaAnswer c req part st data logged).fab n = s.fab n := rfl

/-- The data that an answer's frame brings (R324). -/
def answerData (f : WtFrame) : List Byte := if f.type = 6 then [] else (f.payload.drop 16).take (beVal (slice f.payload 0 2))

section Answer
variable {s : State} {pl : Plane} {sub : SubPort} {f : WtFrame} (h : s.GoodFrame pl sub f) (hjob : s.PassesJob f)
include h hjob

/-- A good answer of a job meets the package (R295, R448). -/
theorem State.GoodFrame.answerFrame {v : State} {r : Option OutReq} (hm : (s.noteFrame pl (receivedFrame f)).matchAnswer pl.val f.tag f.seq f.origin f.status
    (some f.hopStamp.toNat) = (v, r)) : s.answerFrame pl sub f f.type =
      r.elim v (fun o => (v.giveOwner o f.status (answerData f)).flushPlane (if f.tag.getLsbD 15 then 1 else 0)) := by
  have hgate := State.jobGate_passes ((s.trafficOnly_noteFrame pl (receivedFrame f)).passesJob hjob) pl.val
  unfold State.answerFrame
  dsimp only
  rw [h.wtIn, if_neg (by simp)]
  dsimp only
  rw [hgate, if_neg (by simp)]
  dsimp only
  rw [hm]
  cases r <;> rfl

/-- An answer that names no request is counted, and nothing else (R295). -/
theorem State.GoodFrame.answerFrame_unknown (hfind : s.findOut f.tag f.seq f.origin = none) :
    s.answerFrame pl sub f f.type = (s.noteFrame pl (receivedFrame f)).updFab pl.val Fabric.countDup := by
  have hsame : (s.noteFrame pl (receivedFrame f)).findOut f.tag f.seq f.origin = none := by
    rw [State.findOut, s.noteFrame_fab_of pl (receivedFrame f) Fabric.outst]
    exact hfind
  rw [h.answerFrame hjob (State.matchAnswer_unknown hsame pl.val f.status _), Option.elim_none]

/-- An answer that names a request meets it with its notes taken. -/
theorem State.GoodFrame.answerFrame_known {o : OutReq} (hfind : s.findOut f.tag f.seq f.origin = some o) :
    ∃ u, (s.noteFrame pl (receivedFrame f)).PathsOnly u ∧
      s.answerFrame pl sub f f.type = if f.status = stNotAdmitted then u.updOut f.tag (OutReq.refuse s.t)
        else ((u.releaseTag f.tag).giveOwner o f.status (answerData f)).flushPlane (if f.tag.getLsbD 15 then 1 else 0) := by
  have hsame : (s.noteFrame pl (receivedFrame f)).findOut f.tag f.seq f.origin = some o := by
    rw [State.findOut, s.noteFrame_fab_of pl (receivedFrame f) Fabric.outst]
    exact hfind
  obtain ⟨u, hu, hm⟩ := State.matchAnswer_known hsame pl.val f.status (some f.hopStamp.toNat)
  rw [(s.trafficOnly_noteFrame pl (receivedFrame f)).time] at hm
  refine ⟨u, hu, ?_⟩
  by_cases hst : f.status = stNotAdmitted
  · rw [if_pos hst] at hm ⊢
    rw [h.answerFrame hjob hm, Option.elim_none]
  · rw [if_neg hst] at hm ⊢
    rw [h.answerFrame hjob hm, Option.elim_some]

/-- A request of the DMA engine that is answered is released, and its status and data go to its core (R295, R322). -/
theorem State.GoodFrame.answerFrame_released {o : OutReq} {c : CoreId} {req part : Nat} (hfind : s.findOut f.tag f.seq f.origin = some o)
    (howner : o.owner = .dma c req part) (hwaits : ∃ r ∈ (s.core c).dma.outst, r.id = req) (hst : f.status ≠ stNotAdmitted) :
    (∀ n, (s.answerFrame pl sub f f.type).ckpt n = s.ckpt n) ∧
      (∀ x, x ∈ ((s.answerFrame pl sub f f.type).fab (b2n (f.tag.getLsbD 15))).outst ↔
        x ∈ (s.fab (b2n (f.tag.getLsbD 15))).outst ∧ x.tag ≠ f.tag) ∧
      (∀ e, e ≠ c → (s.answerFrame pl sub f f.type).core e = s.core e) ∧
      ((s.answerFrame pl sub f f.type).core c).dma.answers = (s.core c).dma.answers ++ [⟨req, part, f.status, answerData f, false⟩] := by
  have hnote := s.trafficOnly_noteFrame pl (receivedFrame f)
  have hcalm := h.calm.noteFrame s pl (receivedFrame f)
  have hnoted := s.noteFrame_fab_of pl (receivedFrame f) Fabric.outst
  obtain ⟨u, hu, hend⟩ := h.answerFrame_known hjob hfind
  generalize s.noteFrame pl (receivedFrame f) = w at *
  have hcore : ∀ e, (u.releaseTag f.tag).core e = s.core e := fun e => (hu.core e).trans (hnote.core e)
  have hgiven : ((u.releaseTag f.tag).dmaAnswer c req part f.status (answerData f)).NothingWaits :=
    hcalm.of_fabs (fun n => (u.releaseTag_fab_of f.tag n Fabric.waiting).trans (hu.waiting n))
      (fun n => (u.releaseTag_fab_of f.tag n Fabric.dups).trans (hu.dups n)) (fun n x hx => hu.outst n ▸ State.mem_outst_of_releaseTag hx)
  have hanswer : s.answerFrame pl sub f f.type = (u.releaseTag f.tag).dmaAnswer c req part f.status (answerData f) := by
    rw [hend, if_neg hst, State.giveOwner, howner]
    exact State.flushPlane_of_nothingWaits hgiven _
  rw [hanswer]
  refine ⟨fun n => ?_, fun x => ?_, fun e he => ?_, ?_⟩
  · exact (hu.ckpt n).trans (congrArg (Tab.get · n) hnote.ckpts)
  · refine State.mem_outst_releaseTag.trans ?_
    rw [hu.outst, hnoted]
  · rw [State.core_dmaAnswer_of_ne he, hcore]
  · rw [State.dmaAnswer_outstanding (by rw [hcore]; exact hwaits), hcore]

/-- A refused request stays outstanding, marked as refused now (R335). -/
theorem State.GoodFrame.answerFrame_refused {o : OutReq} (hfind : s.findOut f.tag f.seq f.origin = some o) (hst : f.status = stNotAdmitted) :
    (∀ n, (s.answerFrame pl sub f f.type).ckpt n = s.ckpt n) ∧ (s.answerFrame pl sub f f.type).cores = s.cores ∧
      ((s.answerFrame pl sub f f.type).fab (b2n (f.tag.getLsbD 15))).outst.length = (s.fab (b2n (f.tag.getLsbD 15))).outst.length ∧
      o.refuse s.t ∈ ((s.answerFrame pl sub f f.type).fab (b2n (f.tag.getLsbD 15))).outst := by
  have hnote := s.trafficOnly_noteFrame pl (receivedFrame f)
  have hnoted := s.noteFrame_fab_of pl (receivedFrame f) Fabric.outst
  obtain ⟨u, hu, hend⟩ := h.answerFrame_known hjob hfind
  rw [if_pos hst] at hend
  generalize s.noteFrame pl (receivedFrame f) = w at *
  obtain ⟨hmem, htag, -, -⟩ := State.findOut_spec hfind
  rw [hend]
  refine ⟨fun n => (hu.ckpt n).trans (congrArg (Tab.get · n) hnote.ckpts), hu.cores.trans hnote.cores, ?_, State.mem_outst_updOut ?_ htag _⟩
  · rw [State.outst_updOut, if_pos rfl, List.length_map, hu.outst, hnoted]
  · rw [hu.outst, hnoted]
    exact hmem

end Answer

theorem exec_answerFrame {pl : Plane} {sub : SubPort} {f : WtFrame} {i : Instr} {s : State}
    (hi : (i = .loadResponse pl sub f ∧ f.type = 3) ∨ (i = .atomicResponse pl sub f ∧ f.type = 5) ∨ (i = .acknowledgement pl sub f ∧ f.type = 6))
    (hmirror : (s.answerFrame pl sub f f.type).NoMirrorWaits) : exec i s = .next (s.answerFrame pl sub f f.type) := by
  rcases hi with ⟨rfl, htype⟩ | ⟨rfl, htype⟩ | ⟨rfl, htype⟩
  · rw [htype]; rfl
  · rw [htype]; rfl
  · have hdone := State.mirrorsDone_of_noMirrorWaits hmirror
    rw [htype] at hdone ⊢
    show Host.Outcome.next _ = _
    rw [hdone]

/-! ### The commands that send a request again, or give it up -/

theorem State.canPay_congr {s t : State} {pl : Nat} (h : (t.fab pl).credits = (s.fab pl).credits) (peer : Nat) (ty : BitVec 4) :
    t.canPay pl peer ty = s.canPay pl peer ty := by
  rw [State.canPay, State.canPay, State.avail, State.avail, h]

/-- Every place that a request may be sent by again is there: a credit, its entry, its plane and a sub-port. -/
structure State.CanResend (s : State) (o : OutReq) (pl : Plane) (sub : Nat) (path : BitVec 7) : Prop where
  pay : s.canPay pl.val o.peer o.frame.type = true
  dest : (s.reqDest pl.val o).isSome = true
  alive : (s.fab pl.val).alive = true
  egress : s.egress pl.val o.frame.twin path = some sub
  cast : s.castHalted = false

theorem State.CanResend.of_traffic {s t : State} {o : OutReq} {pl : Plane} {sub : Nat} {path : BitVec 7} (h : s.CanResend o pl sub path)
    (htraffic : s.TrafficOnly t) (hcredits : (t.fab pl.val).credits = (s.fab pl.val).credits) : t.CanResend o pl sub path where
  pay := by rw [State.canPay_congr hcredits]; exact h.pay
  dest := by rw [htraffic.reqDest]; exact h.dest
  alive := by rw [htraffic.alive]; exact h.alive
  egress := by rw [htraffic.egress]; exact h.egress
  cast := by rw [htraffic.castHalted]; exact h.cast

theorem State.CanResend.resendOrWait {s : State} {o : OutReq} {pl : Plane} {sub : Nat} {path : BitVec 7} (h : s.CanResend o pl sub path) (counted : Bool) :
    s.SentAgain (s.resendOrWait o pl path counted) o pl sub path counted := by
  rw [State.resendOrWait, if_pos h.pay]
  exact State.sentAgain_resendReq h.dest h.egress h.alive h.cast counted

/-- A request that was changed in place by `g` and is then sent again: its frame and credit, and how it stands among its die's requests. -/
structure State.ResentAs (s t : State) (pl : Plane) (tag : BitVec 16) (o : OutReq) (g : OutReq → OutReq) (dest : Plane) (sub : Nat) (path : BitVec 7)
    (counted : Bool) : Prop where
  mem : (g o).sentAgain dest sub s.t (o.frameAgain path s.t) ∈ (t.fab pl.val).outst
  used : ((t.fab dest.val).credits.get o.peer).used = ((s.fab dest.val).credits.get o.peer).used + (if needsCredit o.frame.type then 1 else 0)
  resent : (t.fab dest.val).resent = if counted then satInc (s.fab dest.val).resent else (s.fab dest.val).resent
  sent : ∃ ca g, t.outbox = s.outbox ++ [.wt dest.val sub ca g] ∧ g.tag = o.frame.tag ∧ g.seq = o.frame.seq ∧ g.type = o.frame.type ∧
    g.payload = o.frame.payload ∧ g.flags = o.frame.flags ||| 1 ∧ g.pathId = path

section Again
variable {s : State} {pl : Plane} {tag : BitVec 16} {o : OutReq} (h : s.outReq pl tag = some o)
include h

theorem State.resentAs_resendOrWait {g : OutReq → OutReq} (hg : ∀ o, (g o).tag = o.tag) {dest : Plane} {sub : Nat} {path : BitVec 7}
    (hcan : s.CanResend o dest sub path) (counted : Bool) :
    s.ResentAs ((s.updOut tag g).resendOrWait o dest path counted) pl tag o g dest sub path counted := by
  obtain ⟨hmem, htag, hdie⟩ := State.outReq_spec h
  have hcredits := s.updOut_fab_of tag dest.val Fabric.credits g
  obtain ⟨-, hout, hused, hresent, hsent⟩ := (hcan.of_traffic (s.trafficOnly_updOut tag g) hcredits).resendOrWait counted
  rw [hcredits] at hused
  rw [s.updOut_fab_of tag dest.val Fabric.resent g] at hresent
  refine ⟨?_, hused, hresent, hsent⟩
  subst htag
  rw [← hdie] at hmem
  rw [hout, ← hdie]
  exact State.mem_outst_updOut (State.mem_outst_updOut hmem rfl g) (hg o) _

/-- A request sent again once more (R296). -/
def OutReq.countAgain (o : OutReq) : OutReq := { o with resends := o.resends + 1 }

theorem exec_resendTimer_due {due : Nat} {other : Bool} {step : BitVec 7}
    (hplan : resendPlan o.resends = some (due, other, step)) (hadmitted : o.refusedAt = none) (hdue : o.tFirst + due ≤ s.t) (hself : o.frame.self = false) :
    exec (.resendTimer pl tag) s = .next ((s.updOut tag OutReq.countAgain).resendOrWait o (s.reqPlane o (if other then otherPlane pl else pl))
      (pathOf tag + step) true) := by
  show execResendTimer pl tag s = _
  unfold execResendTimer
  rw [h]
  dsimp only
  rw [hplan]
  dsimp only
  rw [if_neg (by simp [hadmitted, hself, hdue])]
  rfl

/-- A refused request that is made anew (R335). -/
def OutReq.renew (now : Nat) (o : OutReq) : OutReq := { o with refusedAt := none, resends := 0, tFirst := now }

/-- What a refused request's operation has waited is noted at its core; the request is then made anew, on the wire or within the package. -/
theorem exec_notAdmittedResend_due {r : Nat} (hrefused : o.refusedAt = some r) (hdue : r + 250 ≤ s.t) :
    ∃ u, (∃ cs, u = { s with cores := cs }) ∧ exec (.notAdmittedResend pl tag) s = .next (if o.frame.self then
        (if (u.updOut tag (OutReq.renew s.t)).dieAdmits (5 + pl.val) then (u.updOut tag (OutReq.renew s.t)).windowRequest pl o.frame
          else (u.updOut tag (OutReq.renew s.t)).refuseReq pl.val o.frame)
      else (u.updOut tag (OutReq.renew s.t)).resendOrWait o (s.reqPlane o o.lastPlane) o.frame.pathId false) := by
  show ∃ u : State, _ ∧ execNotAdmittedResend pl tag s = _
  unfold execNotAdmittedResend
  rw [h]
  dsimp only
  rw [hrefused]
  dsimp only
  rw [if_neg (Nat.not_lt.2 hdue)]
  refine ⟨_, ?_, rfl⟩
  split
  · split
    · exact ⟨_, rfl⟩
    · exact ⟨_, rfl⟩
  · exact ⟨_, rfl⟩

/-- A refused request to the package itself is refused again while its die does not admit (R46, R317). -/
theorem State.refuseReq_self {t : State} (hout : ∀ n, (t.fab n).outst = ((s.updOut tag (OutReq.renew s.t)).fab n).outst)
    (hself : o.frame.self = true) (htag : o.frame.tag = tag) (hseq : o.frame.seq = o.seq) (horigin : o.frame.origin = o.origin) :
    (t.refuseReq pl.val o.frame).outbox = t.outbox ∧ ∃ x ∈ ((t.refuseReq pl.val o.frame).fab pl.val).outst, x.tag = tag ∧ x.refusedAt = some t.t := by
  obtain ⟨hmem, htag', hdie⟩ := State.outReq_spec h
  subst htag'
  rw [← hdie] at hmem
  have hrenewed : o.renew s.t ∈ (t.fab (b2n (o.tag.getLsbD 15))).outst := by
    rw [hout]
    exact State.mem_outst_updOut hmem rfl _
  obtain ⟨x, hx⟩ : ∃ x, t.findOut o.frame.tag o.frame.seq o.frame.origin = some x := by
    rw [← Option.isSome_iff_exists, State.findOut, htag, List.find?_isSome]
    exact ⟨_, hrenewed, by simp [OutReq.renew, hseq, horigin]⟩
  obtain ⟨hxmem, hxtag, -, -⟩ := State.findOut_spec hx
  obtain ⟨u, hu, hm⟩ := State.matchAnswer_known hx pl.val stNotAdmitted none
  rw [if_pos rfl, htag] at hm
  rw [htag] at hxmem hxtag
  have hrefuse : t.refuseReq pl.val o.frame = u.updOut o.tag (OutReq.refuse t.t) := by
    rw [State.refuseReq, State.answer, if_pos hself, htag, hm]
  rw [hrefuse]
  refine ⟨hu.outbox, OutReq.refuse t.t x, ?_, hxtag, rfl⟩
  rw [← hdie]
  exact State.mem_outst_updOut (by rw [hu.outst]; exact hxmem) hxtag _

end Again

/-! ### A target is lost (R340) -/

/-- A die marks a package of a tenancy's rack map lost. -/
def Fabric.markLost (key : Nat) (f : Fabric) : Fabric := { f with rackMap := f.rackMap.upd key (fun e => { e with lost := true }) }

/-- A die counts a target lost. -/
def Fabric.countLost (f : Fabric) : Fabric := { f with targetLost := satInc f.targetLost }

/-- The package with a request's target marked lost. -/
def State.markLost (s : State) (pl : Nat) (o : OutReq) : State :=
  ((s.updFab 0 (Fabric.markLost (o.ten * 256 + o.pkg))).updFab 1 (Fabric.markLost (o.ten * 256 + o.pkg))).updFab pl Fabric.countLost

theorem State.markLost_fab_of {γ : Type} (q : Fabric → γ) (s : State) (pl : Nat) (o : OutReq) (n : Nat)
    (hq : ∀ f rm tl, q { f with rackMap := rm, targetLost := tl } = q f := by intros; rfl) : q ((s.markLost pl o).fab n) = q (s.fab n) :=
  ((State.updFab_fab_of q _ _ n (fun f => hq f f.rackMap _)).trans (State.updFab_fab_of q _ _ n (fun f => hq f _ f.targetLost))).trans
    (s.updFab_fab_of q _ n (fun f => hq f _ f.targetLost))

theorem State.lost_markLost (s : State) (pl : Nat) (o : OutReq) {n : Nat} (hn : n = 0 ∨ n = 1) :
    (((s.markLost pl o).fab n).rackMap.get (o.ten * 256 + o.pkg)).lost = true := by
  rw [State.markLost, State.updFab_fab_of Fabric.rackMap, State.fab_updFab]
  rcases hn with rfl | rfl
  · rw [if_neg (by decide), State.fab_updFab, if_pos rfl, Fabric.markLost, Tab.get_upd, if_pos rfl]
  · rw [if_pos rfl, Fabric.markLost, Tab.get_upd, if_pos rfl]

theorem State.targetLost_markLost (s : State) (pl : Nat) (o : OutReq) : ((s.markLost pl o).fab pl).targetLost = satInc (s.fab pl).targetLost := by
  rw [State.markLost, State.fab_updFab, if_pos rfl, Fabric.countLost, State.updFab_fab_of Fabric.targetLost, State.updFab_fab_of Fabric.targetLost]

theorem State.targetLostReq_dma {o : OutReq} {c : CoreId} {req part : Nat} (howner : o.owner = .dma c req part) (s : State) (pl : Nat) :
    ∃ r, s.targetLostReq pl o = (((s.markLost pl o).hand r).raise (32 + pl)).dmaAnswer c req part stTargetLost [] ∧ r.cls = 0x04 ∧
      r.status = stTargetLost := by
  unfold State.targetLostReq
  dsimp only
  rw [State.giveOwner, howner]
  exact ⟨_, rfl, rfl, rfl⟩

/-- The package once a request of the DMA engine of core `c` has been given up, with the record `r` of its target. -/
def State.givenUp (s : State) (pl : Nat) (o : OutReq) (c : CoreId) (req part : Nat) (r : ErrRec) : State :=
  ((((s.releaseTag o.tag).markLost pl o).hand r).raise (32 + pl)).dmaAnswer c req part stTargetLost []

theorem State.fab_givenUp (s : State) (pl : Nat) (o : OutReq) (c : CoreId) (req part : Nat) (r : ErrRec) (n : Nat) :
    (s.givenUp pl o c req part r).fab n = ((s.releaseTag o.tag).markLost pl o).fab n := by
  rw [State.givenUp, State.fab_dmaAnswer, State.fab_of_raise, State.fab_of_hand]

theorem State.handed_givenUp (s : State) (pl : Nat) (o : OutReq) (c : CoreId) (req part : Nat) (r : ErrRec) :
    (s.givenUp pl o c req part r).handed = s.handed ++ [{ r with time := s.t }] := by
  rw [State.givenUp, State.dmaAnswer, State.updCore_handed, State.raise_handed, State.hand_handed, State.markLost, State.releaseTag]
  simp only [State.updFab_handed, State.t_of_updFab]

theorem State.signals_givenUp (s : State) (pl : Nat) (o : OutReq) (c : CoreId) (req part : Nat) (r : ErrRec) :
    (s.givenUp pl o c req part r).signals = s.signals ++ [32 + pl] := by
  rw [State.givenUp, State.dmaAnswer, State.updCore_signals, State.raise_signals, State.hand_signals, State.markLost, State.releaseTag]
  simp only [State.updFab_signals]

theorem State.outbox_givenUp (s : State) (pl : Nat) (o : OutReq) (c : CoreId) (req part : Nat) (r : ErrRec) :
    (s.givenUp pl o c req part r).outbox = s.outbox := by
  rw [State.givenUp, State.dmaAnswer, State.updCore_outbox, State.raise_outbox, State.hand_outbox, State.markLost, State.releaseTag]
  simp only [State.updFab_outbox]

theorem State.answers_givenUp {s : State} {c : CoreId} {req : Nat} (h : ∃ r ∈ (s.core c).dma.outst, r.id = req) (pl : Nat) (o : OutReq) (part : Nat)
    (r : ErrRec) : ((s.givenUp pl o c req part r).core c).dma.answers = (s.core c).dma.answers ++ [⟨req, part, stTargetLost, [], false⟩] := by
  have hcore : ((((s.releaseTag o.tag).markLost pl o).hand r).raise (32 + pl)).core c = s.core c := by
    rw [State.core_of_raise, State.core_of_hand, State.markLost, State.releaseTag]
    simp only [State.core_of_updFab]
  rw [← hcore] at h ⊢
  exact State.dmaAnswer_outstanding h part stTargetLost [] false

theorem State.mem_outst_givenUp {s : State} {pl : Nat} {o : OutReq} {c : CoreId} {req part : Nat} {r : ErrRec} {n : Nat} {x : OutReq}
    (h : x ∈ ((s.givenUp pl o c req part r).fab n).outst) : x ∈ ((s.releaseTag o.tag).fab n).outst := by
  rwa [State.fab_givenUp, State.markLost_fab_of Fabric.outst] at h

theorem State.NothingWaits.givenUp {s : State} (h : s.NothingWaits) (pl : Nat) (o : OutReq) (c : CoreId) (req part : Nat) (r : ErrRec) :
    (s.givenUp pl o c req part r).NothingWaits := by
  refine h.of_fabs (fun n => ?_) (fun n => ?_) (fun n x hx => State.mem_outst_of_releaseTag (State.mem_outst_givenUp hx))
  · rw [State.fab_givenUp, State.markLost_fab_of Fabric.waiting, State.releaseTag_fab_of (q := Fabric.waiting)]
  · rw [State.fab_givenUp, State.markLost_fab_of Fabric.dups, State.releaseTag_fab_of (q := Fabric.dups)]

/-- 50 µs after its first transmission a request of the DMA engine is given up: released, and its target lost. -/
theorem exec_retryBudgetExpiry_due {s : State} {pl : Plane} {tag : BitVec 16} {o : OutReq} {c : CoreId} {req part : Nat} (h : s.outReq pl tag = some o)
    (howner : o.owner = .dma c req part) (hcalm : s.NothingWaits) (hadmitted : o.refusedAt = none) (hdue : o.tFirst + 50000 ≤ s.t)
    (hself : o.frame.self = false) :
    ∃ r, exec (.retryBudgetExpiry pl tag) s = .next (s.givenUp pl.val o c req part r) ∧ r.cls = 0x04 ∧ r.status = stTargetLost := by
  obtain ⟨-, rfl, -⟩ := State.outReq_spec h
  obtain ⟨r, hlost, hcls, hst⟩ := State.targetLostReq_dma howner (s.releaseTag o.tag) pl.val
  refine ⟨r, ?_, hcls, hst⟩
  show execRetryBudgetExpiry pl o.tag s = _
  unfold execRetryBudgetExpiry
  rw [h]
  dsimp only
  rw [if_neg (by simp [hadmitted, hself, hdue]), howner]
  dsimp only
  rw [hlost]
  exact congrArg _ (State.flushPlane_of_nothingWaits (hcalm.givenUp pl.val o c req part r) pl)

/-! ### The statement -/

/-- Settles O25: an answer is matched to its request among those outstanding, and each command on a request changes it in place. -/
theorem requestsEndByAnswerOrAreResent : Obligations.RequestsEndByAnswerOrAreResent := by
  unfold Obligations.RequestsEndByAnswerOrAreResent
  refine ⟨?answers, ?again⟩
  case answers =>
    intro pl sub f i s tn hi hlink hport hgood htwin hcalm hjobId hpaired hten hrank hmirror die
    have h : s.GoodFrame pl sub f := ⟨hlink, hport, hgood, htwin, hcalm⟩
    have hjob : s.PassesJob f := .inr ⟨hpaired, tn, hten, hrank⟩
    refine ⟨fun o c req part hfind howner hwaits hst => ?_, fun o hfind hst => ?_, fun hfind => ?_⟩
    · obtain ⟨hck, hout, hothers, hanswers⟩ := h.answerFrame_released hjob hfind howner hwaits hst
      exact ⟨_, exec_answerFrame hi (hmirror.of_ckpt hck), fun x hx => ((hout x).1 hx).2, fun x hx hne => (hout x).2 ⟨hx, hne⟩, hothers, hanswers⟩
    · obtain ⟨hck, hcores, hlength, hmem⟩ := h.answerFrame_refused hjob hfind hst
      obtain ⟨-, htag, hseq, -⟩ := State.findOut_spec hfind
      exact ⟨_, exec_answerFrame hi (hmirror.of_ckpt hck), hcores, hlength, _, hmem, htag, hseq, rfl⟩
    · have hnote := s.trafficOnly_noteFrame pl (receivedFrame f)
      have hnoted := s.noteFrame_fab_of pl (receivedFrame f) Fabric.outst
      have hend := h.answerFrame_unknown hjob hfind
      generalize s.noteFrame pl (receivedFrame f) = w at *
      have hck : ∀ n, (s.answerFrame pl sub f f.type).ckpt n = s.ckpt n := fun n => by
        rw [hend]
        exact congrArg (Tab.get · n) hnote.ckpts
      refine ⟨_, exec_answerFrame hi (hmirror.of_ckpt hck), ?_, ?_, ?_⟩
      · rw [hend, State.updFab_cores, hnote.cores]
      · rw [hend, State.updFab_fab_of Fabric.outst, hnoted]
      · rw [hend, State.fab_updFab, if_pos rfl, Fabric.countDup, hnote.dupDrop]
  case again =>
    intro pl tag s o h hcast
    refine ⟨fun due other step hplan hadmitted hdue => ?_, fun r hrefused hdue => ⟨?_, ?_⟩, fun c req part howner hadmitted hdue hself hcalm hwaits => ?_⟩
    · intro dest hself hpay hdest halive hsub
      obtain ⟨sub, hsub⟩ := Option.isSome_iff_exists.1 hsub
      obtain ⟨hmem, hused, hresent, ca, g, hout, htag, hseq, htype, hpayload, hflags, hpath⟩ :=
        State.resentAs_resendOrWait h (g := OutReq.countAgain) (fun _ => rfl) ⟨hpay, hdest, halive, hsub, hcast⟩ true
      obtain ⟨-, hotag, -⟩ := State.outReq_spec h
      exact ⟨_, sub, ca, g, exec_resendTimer_due h hplan hadmitted hdue hself, hout, htag, hseq, htype, hpayload, hflags, hpath, hused, hresent,
        _, hmem, hotag, rfl, rfl⟩
    · intro hself hpay hdest halive hsub
      obtain ⟨sub, hsub⟩ := Option.isSome_iff_exists.1 hsub
      obtain ⟨u, ⟨cs, rfl⟩, hexec⟩ := exec_notAdmittedResend_due h hrefused hdue
      rw [if_neg (by simp [hself])] at hexec
      obtain ⟨hmem, -, hresent, ca, g, hout, htag, hseq, -, hpayload, -, hpath⟩ := State.resentAs_resendOrWait (s := { s with cores := cs }) h
        (g := OutReq.renew s.t) (fun _ => rfl) ⟨hpay, hdest, halive, hsub, hcast⟩ false
      obtain ⟨-, hotag, -⟩ := State.outReq_spec h
      exact ⟨_, sub, ca, g, hexec, hout, htag, hseq, hpayload, hpath, hresent, _, hmem, hotag, rfl, rfl, rfl⟩
    · intro hself hclosed htag hseq horigin
      obtain ⟨u, ⟨cs, rfl⟩, hexec⟩ := exec_notAdmittedResend_due h hrefused hdue
      have hshut : ¬ (({ s with cores := cs } : State).updOut tag (OutReq.renew s.t)).dieAdmits (5 + pl.val) = true := by
        rw [(State.trafficOnly_updOut _ tag _).dieAdmits]
        exact fun hopen => Bool.false_ne_true (hclosed.symm.trans hopen)
      rw [if_pos hself, if_neg hshut] at hexec
      obtain ⟨hout, x, hx, hxtag, hxrefused⟩ := State.refuseReq_self (s := { s with cores := cs }) h (fun _ => rfl) hself htag hseq horigin
      exact ⟨_, hexec, hout, x, hx, hxtag, hxrefused⟩
    · obtain ⟨r, hexec, hcls, hst⟩ := exec_retryBudgetExpiry_due h howner hcalm hadmitted hdue hself
      obtain ⟨-, rfl, hdie⟩ := State.outReq_spec h
      refine ⟨_, _, hexec, fun x hx => ?_, State.answers_givenUp hwaits _ _ _ _, ?_, ?_, ?_, State.handed_givenUp _ _ _ _ _ _ _, hcls, hst,
        State.signals_givenUp _ _ _ _ _ _ _, State.outbox_givenUp _ _ _ _ _ _ _⟩
      · rw [← hdie] at hx
        exact (State.mem_outst_releaseTag.1 (State.mem_outst_givenUp hx)).2
      · rw [State.fab_givenUp]
        exact State.lost_markLost _ _ _ (.inl rfl)
      · rw [State.fab_givenUp]
        exact State.lost_markLost _ _ _ (.inr rfl)
      · rw [State.fab_givenUp, State.targetLost_markLost, State.releaseTag_fab_of (q := Fabric.targetLost)]

end Sys2Proof.Machine
end

section
/-! PROOFS. Sub-ports that go down and come up, and a plane that fails (R305 to R307, R571): the path table that is left, and the requests that
are sent again at once. -/

namespace Sys2Proof.Machine

/-! ### What sending requests again touches (R296, R306) -/

/-- The package without its fabric dies, cores, collectives and sent frames: what sending requests again does not touch. -/
def State.unsent (s : State) : State := { s with fabrics := [], cores := [], colls := [], outbox := [] }

section Unsent
variable {s t : State} (h : t.unsent = s.unsent)
include h

theorem State.handed_of_unsent : t.handed = s.handed := (congrArg State.handed h :)
theorem State.signals_of_unsent : t.signals = s.signals := (congrArg State.signals h :)
theorem State.pkg_of_unsent : t.pkg = s.pkg := (congrArg State.pkg h :)
theorem State.cpc_of_unsent : t.cpc = s.cpc := (congrArg State.cpc h :)

end Unsent

theorem State.TrafficOnly.unsent {s t : State} (h : s.TrafficOnly t) : t.unsent = s.unsent := by
  rw [h.rest]
  rfl

theorem State.unsent_rejectOwner (s : State) (w : OutOwner) : (s.rejectOwner w).unsent = s.unsent := by
  cases w <;> rfl

theorem State.fab_rejectOwner (s : State) (w : OutOwner) (n : Nat) : (s.rejectOwner w).fab n = s.fab n := by
  cases w <;> rfl

section Resend
variable (s : State) (o : OutReq) (pl : Plane) (path : BitVec 7) (counted : Bool)

theorem State.unsent_resendReq : (s.resendReq o pl path counted).unsent = s.unsent := by
  cases hdest : s.reqDest pl.val o with
  | none => rw [State.resendReq_ends hdest, State.unsent_rejectOwner, (s.trafficOnly_releaseTag o.tag).unsent]
  | some d =>
    rw [State.resendReq_sends hdest]
    exact ((s.trafficOnly_noteResend o pl _ path counted).trans (State.trafficOnly_sendWt _ _ _ _ _ _)).unsent

theorem State.unsent_resendOrWait : (s.resendOrWait o pl path counted).unsent = s.unsent := by
  unfold State.resendOrWait
  split
  · exact s.unsent_resendReq o pl path counted
  · exact (s.trafficOnly_updOut o.tag _).unsent

/-- What speaks of neither the outstanding requests, nor credits, nor the count of re-sends, stands. -/
theorem State.resendReq_fab_of {γ : Type} (q : Fabric → γ) (n : Nat)
    (hq : ∀ f os cr re, q { f with outst := os, credits := cr, resent := re } = q f := by intros; rfl) :
    q ((s.resendReq o pl path counted).fab n) = q (s.fab n) := by
  have hout : ∀ f os, q { f with outst := os } = q f := fun f os => hq f os f.credits f.resent
  have hcr : ∀ f cr, q { f with credits := cr } = q f := fun f cr => hq f f.outst cr f.resent
  cases hdest : s.reqDest pl.val o with
  | none => rw [State.resendReq_ends hdest, State.fab_rejectOwner, State.releaseTag_fab_of (q := q) (hq := hout)]
  | some d =>
    rw [State.resendReq_sends hdest, State.sendWt_fab_of q (hq := hcr), State.noteResend, State.pay_fab_of q (hq := hcr),
      State.updFab_fab_of (g := Fabric.countResent counted) q (hq := fun f => hq f f.outst f.credits _), State.updOut_fab_of (q := q) (hq := hout)]

theorem State.resendOrWait_fab_of {γ : Type} (q : Fabric → γ) (n : Nat)
    (hq : ∀ f os cr re, q { f with outst := os, credits := cr, resent := re } = q f := by intros; rfl) :
    q ((s.resendOrWait o pl path counted).fab n) = q (s.fab n) := by
  unfold State.resendOrWait
  split
  · exact s.resendReq_fab_of o pl path counted q n hq
  · exact s.updOut_fab_of o.tag n q _ (fun f os => hq f os f.credits f.resent)

theorem State.unsent_resendNow (sub : Option Nat) : (s.resendNow pl sub).unsent = s.unsent :=
  foldl_keeps State.unsent (fun s o => s.unsent_resendOrWait o (s.reqPlane o pl) o.frame.pathId true) _ s

theorem State.resendNow_fab_of {γ : Type} (q : Fabric → γ) (sub : Option Nat) (n : Nat)
    (hq : ∀ f os cr re, q { f with outst := os, credits := cr, resent := re } = q f := by intros; rfl) :
    q ((s.resendNow pl sub).fab n) = q (s.fab n) :=
  foldl_keeps (fun s : State => q (s.fab n)) (fun s o => s.resendOrWait_fab_of o (s.reqPlane o pl) o.frame.pathId true q n hq) _ s

end Resend

/-! ### The path table names healthy sub-ports alone (R301) -/

theorem Fabric.mem_pathList {f : Fabric} {sub : Nat} (hsub : sub < 48) : sub ∈ f.pathList ↔ (f.ports.get (sub / 4)).healthy sub = true := by
  rw [← List.count_pos_iff, f.count_pathList hsub]
  by_cases h : (f.ports.get (sub / 4)).healthy sub = true
  · rw [if_pos h]
    exact iff_of_true (by split <;> decide) h
  · rw [if_neg h]
    exact iff_of_false (by decide) h

theorem Port.healthy_iff (p : Port) (sub : Nat) : p.healthy sub = true ↔
    sub % 4 < p.subs ∧ p.isUp sub = true ∧ p.failed.getLsbD (sub % 4) = false ∧ p.twin = false := by
  simp [Port.healthy, Port.isUp, and_assoc]

/-! ### A fabric die fails (R307) -/

theorem Tab.get_map {α : Type} [Inhabited α] (t : Tab α) {g : α → α} (hg : g default = default) (k : Nat) :
    Tab.get (t.map (fun e => (e.1, g e.2))) k = g (t.get k) := by
  induction t with
  | nil => exact hg.symm
  | cons e r ih =>
    rw [List.map_cons, Tab.get_cons, Tab.get_cons, ih]
    split <;> rfl

/-- A port of a fabric die that has failed. -/
def Port.unlinked (p : Port) : Port := { p with up := 0 }

/-- A fabric die that has failed: its plane carries nothing. -/
def Fabric.dead (f : Fabric) : Fabric := { f with alive := false, path := [], ports := f.ports.map (fun p => (p.1, p.2.unlinked)) }

/-- A plane with no path of its own carries nothing, and one plane is then left (R303, R306). -/
theorem State.onePlane_rebuildPath {s : State} (pl : Plane) (h : (s.fab pl.val).alive = false) : (s.rebuildPath pl.val).pkg.onePlane = true := by
  have hdown : (s.rebuildPath pl.val).planeUp pl.val = false := by
    have hdead : (s.fab pl.val).rerouted.alive = false := h
    rw [State.planeUp, State.fab_rebuildPath, if_pos rfl, hdead, Bool.false_and]
  have hone : (s.rebuildPath pl.val).pkg.onePlane = !((s.rebuildPath pl.val).planeUp 0 && (s.rebuildPath pl.val).planeUp 1) := rfl
  rw [hone, Bool.not_eq_true', Bool.and_eq_false_iff]
  obtain rfl | rfl := plane_eq pl
  · exact .inl hdown
  · exact .inr hdown

/-- A fabric die fails, with a record of it, before requests are sent again (R307). -/
def State.planeDead (s : State) (failed : Plane) (r : ErrRec) : State :=
  ((s.updFab failed.val Fabric.dead).hand r).rebuildPath failed.val

theorem exec_planeTakeover {s : State} {failed : Plane} (h : (s.fab failed.val).alive = true) :
    ∃ r, exec (.planeTakeover failed) s = .next ((s.planeDead failed r).resendNow failed none) ∧ r.cls = 0x04 ∧ r.severity = 3 := by
  show ∃ r, execPlaneTakeover failed s = _ ∧ _
  unfold execPlaneTakeover
  rw [if_neg (by simp [h])]
  exact ⟨_, rfl, rfl, rfl⟩

section Dead
variable (s : State) (failed : Plane) (r : ErrRec)

theorem State.fab_planeDead : (s.planeDead failed r).fab failed.val = (s.fab failed.val).dead := by
  have hmarked : ((s.updFab failed.val Fabric.dead).hand r).fab failed.val = (s.fab failed.val).dead :=
    (s.fab_updFab failed.val failed.val Fabric.dead).trans (if_pos rfl)
  rw [State.planeDead, State.fab_rebuildPath, if_pos rfl, hmarked]
  rfl

theorem State.handed_planeDead : (s.planeDead failed r).handed = s.handed ++ [{ r with time := s.t }] := by
  have hhanded : (s.planeDead failed r).handed = (s.updFab failed.val Fabric.dead).handed ++ [{ r with time := s.t }] := rfl
  rw [hhanded, State.updFab_handed]

theorem State.fab_planeDead_other : (s.planeDead failed r).fab (1 - failed.val) = s.fab (1 - failed.val) := by
  have hne : 1 - failed.val ≠ failed.val := by omega
  rw [State.planeDead, State.fab_rebuildPath, if_neg hne]
  show (s.updFab failed.val Fabric.dead).fab (1 - failed.val) = _
  rw [State.fab_updFab, if_neg hne]

theorem State.onePlane_planeDead : (s.planeDead failed r).pkg.onePlane = true :=
  State.onePlane_rebuildPath failed (by
    show ((s.updFab failed.val Fabric.dead).fab failed.val).alive = false
    rw [State.fab_updFab, if_pos rfl]
    rfl)

end Dead

theorem b2n_plane (pl : Plane) : b2n (pl == 1) = pl.val := by
  obtain rfl | rfl := plane_eq pl <;> rfl

/-- A receive space of a die that has failed, which the other has not met yet, is taken over with its window unknown (R307). -/
theorem State.space_of_dead {s : State} {pl : Plane} (hdead : (s.fab pl.val).alive = false) {peer : Nat}
    (hnew : ((s.fab (1 - pl.val)).spaces.get (spaceKey peer (pl == 1))).takenOver = false) :
    s.space peer (pl == 1) = { known := false, takenOver := true } := by
  have hhome : s.spaceHome (pl == 1) = 1 - pl.val := by
    rw [State.spaceHome, b2n_plane, if_neg (by simp [hdead])]
  have hne : 1 - pl.val ≠ pl.val := by omega
  rw [State.space, hhome, b2n_plane]
  exact if_pos ⟨.inl hne, by simp [hnew]⟩

/-- Settles O29: what the failure writes on its own die stands whatever is then sent again; the receive spaces are read at the other die. -/
theorem aFailedPlaneIsTakenOver : Obligations.AFailedPlaneIsTakenOver := by
  unfold Obligations.AFailedPlaneIsTakenOver
  intro failed s halive
  obtain ⟨r, hexec, hcls, hsev⟩ := exec_planeTakeover halive
  have hdead := s.fab_planeDead failed r
  have hother := s.fab_planeDead_other failed r
  have hunsent := (s.planeDead failed r).unsent_resendNow failed none
  have halive' : (((s.planeDead failed r).resendNow failed none).fab failed.val).alive = false := by
    rw [State.resendNow_fab_of (q := Fabric.alive), hdead]
    rfl
  refine ⟨_, _, hexec, halive', ?path, fun p => ?up, ?onePlane, ?otherPath,
    (State.handed_of_unsent hunsent).trans (s.handed_planeDead failed r), hcls, hsev, fun _ peer hnew => ?space⟩
  case path => rw [State.resendNow_fab_of (q := Fabric.path), hdead]; rfl
  case up =>
    rw [State.resendNow_fab_of (q := Fabric.ports), hdead]
    exact congrArg Port.up (Tab.get_map (g := Port.unlinked) _ rfl p)
  case onePlane => exact (congrArg Pkg.onePlane (State.pkg_of_unsent hunsent)).trans (s.onePlane_planeDead failed r)
  case otherPath => rw [State.resendNow_fab_of (q := Fabric.path), hother]
  case space =>
    refine State.space_of_dead halive' ?_
    rw [State.resendNow_fab_of (q := Fabric.spaces), hother]
    exact hnew

end Sys2Proof.Machine
end

section
/-! PROOFS. The statement about sub-ports that go down, come up, and are reset (R305, R306, R571). -/

namespace Sys2Proof.Machine

/-! ### A sub-port goes down -/

/-- The port of a sub-port that goes down: marked failed, without its link, or both. -/
def Port.takeDown (sub : Nat) (failed linkLost : Bool) (p : Port) : Port :=
  { p with failed := if failed then setBit p.failed (sub % 4) true else p.failed
           up := if linkLost then setBit p.up (sub % 4) false else p.up }

def Fabric.takeDown (sub : Nat) (failed linkLost : Bool) (f : Fabric) : Fabric :=
  { f with unheard := f.unheard.filter (fun x => x.1 != sub), ports := f.ports.upd (sub / 4) (Port.takeDown sub failed linkLost) }

/-- A request without the transmissions that went by a sub-port. -/
def OutReq.forget (pl : Plane) (sub : Nat) (o : OutReq) : OutReq := { o with tries := o.tries.filter (fun x => !(x.1 == pl && x.2.1 == sub)) }

def Fabric.forget (pl : Plane) (sub : Nat) (f : Fabric) : Fabric := { f with outst := f.outst.map (OutReq.forget pl sub) }

/-- What a sub-port that goes down writes at the fabric dies. -/
def State.markDown (s : State) (pl : Plane) (sub : Nat) (failed linkLost : Bool) : State :=
  ((s.updFab pl.val (Fabric.takeDown sub failed linkLost)).updFab 0 (Fabric.forget pl sub)).updFab 1 (Fabric.forget pl sub)

/-- The record of a sub-port that has failed. -/
def downRecord (pl : Plane) (sub : Nat) : ErrRec := { unit := fabUnit pl.val 0x00 sub, cls := 0x05, severity := 3 }

/-- The record and signal of a sub-port that has failed, and the path table without it. -/
def State.noteDown (s : State) (pl : Plane) (sub : Nat) (failed : Bool) : State :=
  (if failed then (s.hand (downRecord pl sub)).raise (32 + pl.val) else s).rebuildPath pl.val

/-- The package with a sub-port down, before its requests are sent again. -/
def State.takeDown (s : State) (pl : Plane) (sub : Nat) (failed linkLost : Bool) : State :=
  (s.markDown pl sub failed linkLost).noteDown pl sub failed

theorem State.subDown_eq (s : State) (pl : Plane) (sub : Nat) (failed linkLost : Bool) :
    s.subDown pl sub failed linkLost = (s.takeDown pl sub failed linkLost).resendNow pl (some sub) := rfl

section Note
variable (s : State) (pl : Plane) (sub : Nat) (failed : Bool)

theorem State.fab_noteDown (n : Nat) : (s.noteDown pl sub failed).fab n = if n = pl.val then (s.fab n).rerouted else s.fab n := by
  have hlogged : ∀ n, (if failed then (s.hand (downRecord pl sub)).raise (32 + pl.val) else s).fab n = s.fab n := by
    intro n
    split <;> rfl
  rw [State.noteDown, State.fab_rebuildPath, hlogged, hlogged]
  split
  · rw [‹n = _›]
  · rfl

theorem State.noteDown_fab_of {γ : Type} (q : Fabric → γ) (n : Nat) (hq : ∀ f, q f.rerouted = q f := by intro; rfl) :
    q ((s.noteDown pl sub failed).fab n) = q (s.fab n) := by
  rw [State.fab_noteDown]
  split
  · exact hq _
  · rfl

theorem State.rest_noteDown : s.noteDown pl sub failed = { s with
    fabrics := (s.noteDown pl sub failed).fabrics, handed := (s.noteDown pl sub failed).handed
    signals := (s.noteDown pl sub failed).signals, pkg := (s.noteDown pl sub failed).pkg } := by
  cases failed <;> rfl

end Note

theorem State.rest_updFab {s t : State} (h : t = { s with fabrics := t.fabrics }) (n : Nat) (g : Fabric → Fabric) :
    t.updFab n g = { s with fabrics := (t.updFab n g).fabrics } :=
  congrArg (fun u : State => { u with fabrics := (t.updFab n g).fabrics }) h

section Down
variable (s : State) (pl : Plane) (sub : Nat) (failed linkLost : Bool)

theorem State.rest_markDown : s.markDown pl sub failed linkLost = { s with fabrics := (s.markDown pl sub failed linkLost).fabrics } :=
  State.rest_updFab (State.rest_updFab (State.rest_updFab rfl _ _) _ _) _ _

theorem State.fab_markDown {n : Nat} (hn : n < 2) : (s.markDown pl sub failed linkLost).fab n =
    (if n = pl.val then (s.fab n).takeDown sub failed linkLost else s.fab n).forget pl sub := by
  have hport : (s.updFab pl.val (Fabric.takeDown sub failed linkLost)).fab n =
      if n = pl.val then (s.fab n).takeDown sub failed linkLost else s.fab n := by
    rw [State.fab_updFab]
    split
    · rw [‹n = _›]
    · rfl
  rw [← hport, State.markDown]
  generalize s.updFab pl.val (Fabric.takeDown sub failed linkLost) = v
  obtain rfl | rfl : n = 0 ∨ n = 1 := by omega
  · rw [State.fab_updFab, if_neg (by decide), State.fab_updFab, if_pos rfl]
  · rw [State.fab_updFab, if_pos rfl, State.fab_updFab, if_neg (by decide)]

theorem State.fab_takeDown :
    (s.takeDown pl sub failed linkLost).fab pl.val = (((s.fab pl.val).takeDown sub failed linkLost).forget pl sub).rerouted := by
  rw [State.takeDown, State.fab_noteDown, if_pos rfl, State.fab_markDown _ _ _ _ _ pl.isLt, if_pos rfl]

theorem State.outst_takeDown {n : Nat} (hn : n < 2) :
    ((s.takeDown pl sub failed linkLost).fab n).outst = (s.fab n).outst.map (OutReq.forget pl sub) := by
  have hnote := s.markDown pl sub failed linkLost |>.noteDown_fab_of pl sub failed Fabric.outst n
  rw [State.takeDown, hnote, State.fab_markDown _ _ _ _ _ hn]
  by_cases hpl : n = pl.val
  · rw [if_pos hpl]; rfl
  · rw [if_neg hpl]; rfl

/-- A sub-port that goes down changes its fabric dies, the records and signals, and `one_plane`. -/
theorem State.rest_takeDown : s.takeDown pl sub failed linkLost =
    { s with fabrics := (s.takeDown pl sub failed linkLost).fabrics, handed := (s.takeDown pl sub failed linkLost).handed
             signals := (s.takeDown pl sub failed linkLost).signals, pkg := (s.takeDown pl sub failed linkLost).pkg } := by
  have hmark := s.rest_markDown pl sub failed linkLost
  rw [State.takeDown]
  generalize s.markDown pl sub failed linkLost = v at *
  rw [State.rest_noteDown, hmark]

theorem State.handed_takeDown : (s.takeDown pl sub true linkLost).handed = s.handed ++ [{ downRecord pl sub with time := s.t }] := by
  have hmark := s.rest_markDown pl sub true linkLost
  rw [State.takeDown]
  generalize s.markDown pl sub true linkLost = v at *
  exact (congrArg (fun u : State => u.handed ++ [{ downRecord pl sub with time := u.t }]) hmark :)

theorem State.signals_takeDown : (s.takeDown pl sub true linkLost).signals = s.signals ++ [32 + pl.val] := by
  have hmark := s.rest_markDown pl sub true linkLost
  rw [State.takeDown]
  generalize s.markDown pl sub true linkLost = v at *
  exact (congrArg (fun u : State => u.signals ++ [32 + pl.val]) hmark :)

theorem State.unsent_subDown : (s.subDown pl sub failed linkLost).unsent = (s.takeDown pl sub failed linkLost).unsent := by
  rw [State.subDown_eq, State.unsent_resendNow]

theorem State.handed_subDown : (s.subDown pl sub true linkLost).handed = s.handed ++ [{ downRecord pl sub with time := s.t }] :=
  (State.handed_of_unsent (s.unsent_subDown pl sub true linkLost)).trans (s.handed_takeDown pl sub linkLost)

theorem State.signals_subDown : (s.subDown pl sub true linkLost).signals = s.signals ++ [32 + pl.val] :=
  (State.signals_of_unsent (s.unsent_subDown pl sub true linkLost)).trans (s.signals_takeDown pl sub linkLost)

/-- A sub-port that is taken down unmarked leaves no record. -/
theorem State.handed_subDown_unmarked : (s.subDown pl sub false linkLost).handed = s.handed := by
  have hmark := s.rest_markDown pl sub false linkLost
  rw [State.handed_of_unsent (s.unsent_subDown pl sub false linkLost), State.takeDown]
  generalize s.markDown pl sub false linkLost = v at *
  exact (congrArg State.handed hmark :)

theorem State.cpc_subDown : (s.subDown pl sub failed linkLost).cpc = s.cpc :=
  (State.cpc_of_unsent (s.unsent_subDown pl sub failed linkLost)).trans (congrArg State.cpc (s.rest_takeDown pl sub failed linkLost) :)

theorem State.port_subDown : (s.subDown pl sub failed linkLost).port pl.val sub = (s.port pl.val sub).takeDown sub failed linkLost := by
  rw [State.subDown_eq, State.port, State.resendNow_fab_of (q := Fabric.ports), State.fab_takeDown]
  show Tab.get (Tab.upd _ _ _) _ = _
  rw [Tab.get_upd, if_pos rfl]
  rfl

theorem State.path_subDown : ((s.subDown pl sub failed linkLost).fab pl.val).path = ((s.takeDown pl sub failed linkLost).fab pl.val).path := by
  rw [State.subDown_eq, State.resendNow_fab_of (q := Fabric.path)]

end Down

theorem Port.failed_takeDown (sub : Nat) (linkLost : Bool) (p : Port) : (p.takeDown sub true linkLost).failed.getLsbD (sub % 4) = true := by
  show (setBit p.failed (sub % 4) true).getLsbD (sub % 4) = true
  rw [getLsbD_setBit_mod, if_pos rfl]

theorem Port.isUp_takeDown (sub : Nat) (failed linkLost : Bool) (p : Port) (h : p.isUp sub = true) : (p.takeDown sub failed linkLost).isUp sub = !linkLost := by
  cases linkLost with
  | false => exact h
  | true =>
    show (setBit p.up (sub % 4) false).getLsbD (sub % 4) = false
    rw [getLsbD_setBit_mod, if_pos rfl]

/-- A sub-port that is down or failed carries no requests. -/
theorem Port.healthy_takeDown {failed linkLost : Bool} (h : failed = true ∨ linkLost = true) (sub : Nat) (p : Port) (hup : p.isUp sub = true) :
    (p.takeDown sub failed linkLost).healthy sub = false := by
  rw [Bool.eq_false_iff, ne_eq, Port.healthy_iff]
  rintro ⟨-, hlink, hmark, -⟩
  obtain rfl | rfl := h
  · rw [Port.failed_takeDown] at hmark
    contradiction
  · rw [Port.isUp_takeDown _ _ _ _ hup] at hlink
    contradiction

theorem State.not_mem_path_takeDown {s : State} {pl : Plane} {sub : Nat} {failed linkLost : Bool} (h : failed = true ∨ linkLost = true) (hsub : sub < 48)
    (hup : (s.port pl.val sub).isUp sub = true) : sub ∉ ((s.takeDown pl sub failed linkLost).fab pl.val).path := by
  rw [State.fab_takeDown, Fabric.rerouted]
  split
  · rw [Fabric.mem_pathList hsub]
    show ¬ ((Tab.get (Tab.upd _ _ _) _ : Port).healthy sub = true)
    rw [Tab.get_upd, if_pos rfl]
    exact Bool.eq_false_iff.1 (Port.healthy_takeDown h sub _ hup)
  · exact List.not_mem_nil

/-! ### The request that was sent on it goes again -/

theorem State.reqDest_congr {s t : State} {pl : Nat} {o : OutReq} (htwin : o.frame.twin = false) (hranks : (t.fab pl).ranks = (s.fab pl).ranks)
    (htens : t.tens = s.tens) : t.reqDest pl o = s.reqDest pl o := by
  have hten : ∀ n, t.ten n = s.ten n := fun n => congrArg (Tab.get · n) htens
  rw [State.reqDest, State.reqDest, if_neg (by simp [htwin]), if_neg (by simp [htwin])]
  have hrank : ∀ tn rank, t.rankDest pl tn rank = s.rankDest pl tn rank := by
    intro tn rank
    rw [State.rankDest, State.rankDest, hranks, hten]
  have hhost : ∀ tn, t.hostEntry tn = s.hostEntry tn := by
    intro tn
    rw [State.hostEntry, State.hostEntry, hten]
  simp only [State.typeDest, State.fwDest, hrank, hhost]

/-- Where one request alone was last sent on a sub-port, and may be sent, that one is sent again. -/
theorem State.resendNow_one {s : State} {pl : Plane} {sub : Nat} {o : OutReq}
    (h : ((s.fab 0).outst ++ (s.fab 1).outst).filter (fun x => x.lastPlane == pl && x.lastSub == sub) = [o])
    (hrefused : o.refusedAt = none) (hself : o.frame.self = false) :
    s.resendNow pl (some sub) = s.resendOrWait o (s.reqPlane o pl) o.frame.pathId true := by
  have hone : ((s.fab 0).outst ++ (s.fab 1).outst).filter
      (fun x => x.lastPlane == pl && x.refusedAt.isNone && !x.frame.self && x.lastSub == sub) = [o] := by
    have hsplit : (fun x : OutReq => x.lastPlane == pl && x.refusedAt.isNone && !x.frame.self && x.lastSub == sub) =
        fun x => (x.refusedAt.isNone && !x.frame.self) && (x.lastPlane == pl && x.lastSub == sub) := by
      funext x
      ac_rfl
    rw [hsplit, ← List.filter_filter, h]
    simp [hrefused, hself]
  show List.foldl _ s (List.filter _ _) = _
  rw [hone]
  rfl

theorem State.reqPlane_up {s : State} {pl : Plane} {o : OutReq} (htwin : o.frame.twin = false) (halive : (s.fab pl.val).alive = true)
    (hpath : (s.fab pl.val).path ≠ []) : s.reqPlane o pl = pl := by
  simp [State.reqPlane, htwin, State.usePlane, State.planeUp, halive, hpath]

section Request
variable {s : State} {pl : Plane} {sub : Nat} {failed linkLost : Bool} {o : OutReq}
  (halive : (s.fab pl.val).alive = true) (hpath : ((s.subDown pl sub failed linkLost).fab pl.val).path ≠ [])
  (hone : ((s.fab 0).outst ++ (s.fab 1).outst).filter (fun x => x.lastPlane == pl && x.lastSub == sub) = [o])
  (hrefused : o.refusedAt = none) (hself : o.frame.self = false) (htwin : o.frame.twin = false)
include halive hpath hone hrefused hself htwin

theorem State.subDown_resends : s.subDown pl sub failed linkLost =
    (s.takeDown pl sub failed linkLost).resendOrWait (o.forget pl sub) pl o.frame.pathId true := by
  rw [State.path_subDown] at hpath
  have hmap : (((s.takeDown pl sub failed linkLost).fab 0).outst ++ ((s.takeDown pl sub failed linkLost).fab 1).outst).filter
      (fun x => x.lastPlane == pl && x.lastSub == sub) = [o.forget pl sub] := by
    rw [State.outst_takeDown _ _ _ _ _ (by decide), State.outst_takeDown _ _ _ _ _ (by decide), ← List.map_append, List.filter_map]
    exact congrArg (List.map (OutReq.forget pl sub)) hone
  have halive' : ((s.takeDown pl sub failed linkLost).fab pl.val).alive = true := by
    rw [State.fab_takeDown]
    exact halive
  rw [State.subDown_eq, State.resendNow_one hmap hrefused hself, State.reqPlane_up (by exact htwin) halive' hpath]
  rfl

/-- With a credit of its peer the request goes out by another sub-port of the plane. -/
theorem State.subDown_sends (hdown : sub ∉ ((s.takeDown pl sub failed linkLost).fab pl.val).path) (hcast : s.castHalted = false)
    (hpay : s.canPay pl.val o.peer o.frame.type = true) (hdest : (s.reqDest pl.val o).isSome = true) :
    ∃ sb ca g, (s.subDown pl sub failed linkLost).outbox = s.outbox ++ [.wt pl.val sb ca g] ∧ sb ≠ sub ∧ g.tag = o.frame.tag ∧
      g.seq = o.frame.seq ∧ g.flags = o.frame.flags ||| 1 := by
  have hrest := s.rest_takeDown pl sub failed linkLost
  have hfab := s.fab_takeDown pl sub failed linkLost
  rw [State.subDown_resends halive hpath hone hrefused hself htwin]
  rw [State.path_subDown] at hpath
  generalize s.takeDown pl sub failed linkLost = v at *
  obtain ⟨sb, hsb, hegress⟩ := State.egress_of_path hpath o.frame.pathId
  have hcan : v.CanResend (o.forget pl sub) pl sb o.frame.pathId := by
    refine ⟨?pay, ?dest, ?alive, ?egress, ?cast⟩
    case pay => exact (State.canPay_congr (congrArg Fabric.credits hfab :) _ _).trans hpay
    case dest =>
      have hsame : v.reqDest pl.val (o.forget pl sub) = s.reqDest pl.val o :=
        State.reqDest_congr htwin (congrArg Fabric.ranks hfab :) (congrArg State.tens hrest :)
      rw [hsame]
      exact hdest
    case alive => exact (congrArg Fabric.alive hfab :).trans halive
    case egress => exact htwin ▸ hegress
    case cast => exact (congrArg State.castHalted hrest :).trans hcast
  obtain ⟨ca, g, hout, htag, hseq, -, -, hflags, -⟩ := (hcan.resendOrWait true).sent
  exact ⟨sb, ca, g, hout.trans (congrArg (·.outbox ++ _) hrest), fun h => hdown (h ▸ hsb), htag, hseq, hflags⟩

/-- Without one it waits, marked with the plane and path it is to go by. -/
theorem State.subDown_waits (hmem : o ∈ (s.fab (b2n (o.tag.getLsbD 15))).outst) (hpay : s.canPay pl.val o.peer o.frame.type = false) :
    (s.subDown pl sub failed linkLost).outbox = s.outbox ∧
      { o.forget pl sub with again := some (pl, o.frame.pathId, true) } ∈ ((s.subDown pl sub failed linkLost).fab (b2n (o.tag.getLsbD 15))).outst := by
  have hrest := s.rest_takeDown pl sub failed linkLost
  have hfab := s.fab_takeDown pl sub failed linkLost
  have hout := s.outst_takeDown pl sub failed linkLost (n := b2n (o.tag.getLsbD 15)) (by cases o.tag.getLsbD 15 <;> decide)
  have hmem' := List.mem_map_of_mem (f := OutReq.forget pl sub) hmem
  rw [State.subDown_resends halive hpath hone hrefused hself htwin]
  generalize s.takeDown pl sub failed linkLost = v at *
  have hwait : v.canPay pl.val (o.forget pl sub).peer (o.forget pl sub).frame.type = false :=
    (State.canPay_congr (congrArg Fabric.credits hfab :) _ _).trans hpay
  rw [State.resendOrWait, if_neg (by simp [hwait])]
  refine ⟨(congrArg State.outbox hrest :), State.mem_outst_updOut (o := o.forget pl sub) (hout ▸ hmem') rfl _⟩

end Request

/-! ### The commands -/

theorem exec_subPortDown {pl : Plane} {sub : SubPort} {cause : DownCause} {s : State} (halive : (s.fab pl.val).alive = true)
    (hup : (s.port pl.val sub.val).isUp sub.val = true) (hfailed : (s.port pl.val sub.val).failed.getLsbD (sub.val % 4) = false)
    (hdeaf : cause = .unanswered → s.portDeaf pl sub.val = true) :
    exec (.subPortDown pl sub cause) s = .next (s.subDown pl sub.val true (cause == .lockLost)) := by
  have hguard : (cause == .unanswered && !s.portDeaf pl sub.val) = false := by
    by_cases h : cause = .unanswered
    · simp [hdeaf h]
    · simp [h]
  show execSubPortDown pl sub cause s = _
  unfold execSubPortDown
  exact if_neg (by simp [halive, hup, hfailed, hguard])

/-- The package with the fields of a `link_reset` write (R586). -/
def State.nameLink (s : State) (pl : Plane) (port sub : Nat) : State :=
  { s with cpc := { s.cpc with linkPlane := pl == 1, linkPort := BitVec.ofNat 4 port, linkSub := BitVec.ofNat 2 sub } }

/-- The package once a link reset has begun (R571). -/
def State.busyLink (s : State) (pl : Plane) (sub : Nat) : State := { s with cpc := { s.cpc with linkBusy := some (pl.val, sub) } }

theorem State.linkReset_of_up {s : State} {pl : Plane} {sub : Nat} (halive : (s.fab pl.val).alive = true) (hstopped : s.cpc.stopped = false)
    (hup : (s.port pl.val sub).isUp sub = true) : s.linkReset pl sub = (s.subDown pl sub false true).busyLink pl sub :=
  if_neg (by simp [halive, hstopped, hup])

theorem exec_linkReset {pl : Plane} {port : Fin 12} {sub : Fin 4} {s : State} (halive : (s.fab pl.val).alive = true) (hstopped : s.cpc.stopped = false)
    (hbusy : s.linkBusy = false) (hup : (s.port pl.val (port.val * 4 + sub.val)).isUp (port.val * 4 + sub.val) = true) :
    exec (.linkReset pl port sub) s = .next (((s.nameLink pl port.val sub.val).subDown pl (port.val * 4 + sub.val) false true).busyLink pl
      (port.val * 4 + sub.val)) := by
  have hreset := State.linkReset_of_up (s := s.nameLink pl port.val sub.val) halive hstopped hup
  show Host.Outcome.next (s.linkResetWrite pl port.val sub.val) = _
  rw [State.linkResetWrite, if_neg (by simp [hbusy]), ← hreset]
  rfl

/-- A sub-port that is reset loses its link, and with it its paths, and keeps its mark (R571). -/
theorem State.busyLink_subDown {s : State} {pl : Plane} {sub : Nat} (hsub : sub < 48) (hup : (s.port pl.val sub).isUp sub = true) {t : State}
    (ht : t = (s.subDown pl sub false true).busyLink pl sub) :
    (t.port pl.val sub).isUp sub = false ∧ (t.port pl.val sub).failed = (s.port pl.val sub).failed ∧ sub ∉ (t.fab pl.val).path ∧
      t.handed = s.handed ∧ t.cpc = { s.cpc with linkBusy := some (pl.val, sub) } := by
  have hport := s.port_subDown pl sub false true
  have hpath := s.path_subDown pl sub false true
  have hhanded := s.handed_subDown_unmarked pl sub true
  have hcpc := s.cpc_subDown pl sub false true
  have hdown := State.not_mem_path_takeDown (failed := false) (linkLost := true) (.inr rfl) hsub hup
  generalize s.subDown pl sub false true = v at *
  have hvport : t.port pl.val sub = (s.port pl.val sub).takeDown sub false true := by rw [ht]; exact hport
  have hvpath : (t.fab pl.val).path = (v.fab pl.val).path := by rw [ht]; rfl
  refine ⟨?_, ?_, ?_, ?_, ?_⟩
  · rw [hvport, Port.isUp_takeDown _ _ _ _ hup, Bool.not_true]
  · rw [hvport]; rfl
  · rw [hvpath, hpath]; exact hdown
  · rw [ht]; exact hhanded
  · rw [ht, State.busyLink, hcpc]

/-- The port of a sub-port whose link is up. -/
def Port.linked (sub : Nat) (p : Port) : Port := { p with up := setBit p.up (sub % 4) true }

def Fabric.linked (sub : Nat) (f : Fabric) : Fabric := { f with ports := f.ports.upd (sub / 4) (Port.linked sub) }

/-- A link that is up ends the wait of a link reset for it (R10, R571). -/
def State.linkReady (s : State) (pl : Plane) (sub : Nat) : State :=
  { s with cpc := { s.cpc with linkBusy := if s.cpc.linkBusy = some (pl.val, sub) then none else s.cpc.linkBusy } }

theorem exec_linkUp {pl : Plane} {sub : SubPort} {s : State} (halive : (s.fab pl.val).alive = true) (hstopped : s.cpc.stopped = false)
    (hsubs : sub.val % 4 < (s.port pl.val sub.val).subs) (htwin : (s.port pl.val sub.val).twin = false) :
    exec (.linkUp pl sub) s = .next (((s.updFab pl.val (Fabric.linked sub.val)).rebuildPath pl.val).linkReady pl sub.val) := by
  show Host.Outcome.next (s.linkUp pl sub.val) = _
  unfold State.linkUp
  dsimp only
  rw [halive, hstopped, htwin, if_neg (by simp [hsubs]), if_neg (by decide)]
  rfl

theorem Port.isUp_linked (sub : Nat) (p : Port) : (p.linked sub).isUp sub = true := by
  show (setBit p.up (sub % 4) true).getLsbD (sub % 4) = true
  rw [getLsbD_setBit_mod, if_pos rfl]

theorem Fabric.port_linked (sub : Nat) (f : Fabric) : (f.linked sub).ports.get (sub / 4) = (f.ports.get (sub / 4)).linked sub := by
  show Tab.get (Tab.upd _ _ _) _ = _
  rw [Tab.get_upd, if_pos rfl]

/-- A link that comes up writes its port's bit and its plane's path table, and sends nothing. -/
theorem State.linkReady_rebuilt {s : State} {pl : Plane} {sub : Nat} {t : State}
    (ht : t = ((s.updFab pl.val (Fabric.linked sub)).rebuildPath pl.val).linkReady pl sub) :
    t.fab pl.val = ((s.fab pl.val).linked sub).rerouted ∧ t.outbox = s.outbox := by
  have hfab : (s.updFab pl.val (Fabric.linked sub)).fab pl.val = (s.fab pl.val).linked sub := (s.fab_updFab _ _ _).trans (if_pos rfl)
  have hout := s.updFab_outbox pl.val (Fabric.linked sub)
  generalize s.updFab pl.val (Fabric.linked sub) = v at *
  constructor
  · rw [← hfab, ht]
    exact (v.fab_rebuildPath pl.val pl.val).trans (if_pos rfl)
  · rw [ht]
    exact hout

/-- Settles O28, a clause for each command: the sub-port's own bits, the path table rebuilt from them, and the one request sent again. -/
theorem subPortsGoDownAndComeUp : Obligations.SubPortsGoDownAndComeUp := by
  unfold Obligations.SubPortsGoDownAndComeUp
  refine ⟨?down, ?reset, ?up⟩
  case down =>
    intro pl sub cause s halive hup hfailed hdeaf
    have hport := s.port_subDown pl sub.val true (cause == .lockLost)
    have hdown := State.not_mem_path_takeDown (linkLost := cause == .lockLost) (.inl rfl) sub.isLt hup
    refine ⟨_, _, exec_subPortDown halive hup hfailed hdeaf, ?_, ?_, ?_, s.handed_subDown pl sub.val _, rfl, rfl, s.signals_subDown pl sub.val _,
      fun o hmem hone hrefused hself htwin hpath hcast => ⟨?_, ?_⟩⟩
    · rw [hport, Port.failed_takeDown]
    · rw [hport, Port.isUp_takeDown _ _ _ _ hup]
      rfl
    · rw [State.path_subDown]
      exact hdown
    · exact State.subDown_sends halive hpath hone hrefused hself htwin hdown hcast
    · exact State.subDown_waits halive hpath hone hrefused hself htwin hmem
  case reset =>
    intro pl port sub s halive hstopped hbusy hup
    have hsub : port.val * 4 + sub.val < 48 := by omega
    obtain ⟨hdown, hfailed, hpath, hhanded, hcpc⟩ := State.busyLink_subDown (s := s.nameLink pl port.val sub.val) hsub hup rfl
    refine ⟨_, exec_linkReset halive hstopped hbusy hup, hdown, hfailed, hpath, hhanded, ?_, ?_, ?_⟩
    · rw [hcpc]
      exact Nat.mod_eq_of_lt (by omega)
    · rw [hcpc]
      exact Nat.mod_eq_of_lt (by omega)
    · rw [hcpc]
      rfl
  case up =>
    intro pl sub s halive hstopped hsubs htwin
    obtain ⟨hfab, hout⟩ := State.linkReady_rebuilt (s := s) (pl := pl) (sub := sub.val) rfl
    have hport := (s.fab pl.val).port_linked sub.val
    have hlinked : ((s.port pl.val sub.val).linked sub.val).isUp sub.val = true := Port.isUp_linked _ _
    refine ⟨_, exec_linkUp halive hstopped hsubs htwin, ?_, ?_, hout, ?_⟩
    · rw [State.port, hfab]; exact hport ▸ hlinked
    · rw [State.port, hfab]; exact (congrArg Port.failed hport :)
    · have hjoins : ((s.port pl.val sub.val).linked sub.val).healthy sub.val = true ↔
          (s.port pl.val sub.val).failed.getLsbD (sub.val % 4) = false :=
        (Port.healthy_iff _ _).trans ⟨fun ⟨_, _, h, _⟩ => h, fun h => ⟨hsubs, hlinked, h, htwin⟩⟩
      rw [hfab, Fabric.rerouted, if_pos (show ((s.fab pl.val).linked sub.val).alive = true from halive), Fabric.mem_pathList sub.isLt, hport]
      exact hjoins

end Sys2Proof.Machine
end

section
/-! PROOFS. What the work of the package leaves standing while it goes on (R73, R92, R193, R262, R285): the settings of its dies, the tenancies, the
jobs that hold cores, and the halt of those that are halted. Here: accesses to memories, and frames sent. -/

namespace Sys2Proof.Machine

/-! ### What stands while the package works -/

/-- From one core to another as it works on: its job stands, and it stays halted. -/
def Core.JobKept (k k' : Core) : Prop := k'.jobValid = k.jobValid ∧ k'.tenancy = k.tenancy ∧ (k.haltCu = true → k'.haltCu = true)

theorem Core.JobKept.refl (k : Core) : k.JobKept k := ⟨rfl, rfl, id⟩

theorem Core.JobKept.trans {k k' k'' : Core} (h : k.JobKept k') (h' : k'.JobKept k'') : k.JobKept k'' :=
  ⟨h'.1.trans h.1, h'.2.1.trans h.2.1, h'.2.2 ∘ h.2.2⟩

/-- A fabric die without what its traffic, the collectives and the requests it serves move. -/
def Fabric.fixed (f : Fabric) : Fabric :=
  { f.still with waiting := [], nextTag := 0, nextSeq := [], shared := 0, tagsUsed := [], slotsUsed := [], groups := [], windows := []
                 chkFail := 0, dupDrop := 0, unheard := [] }

/-- A group entry as it was formed (R346). -/
def Group.formed (g : Group) : Group := { g with memberLost := false, lastCseq := 0, ended := [] }

/-- A fabric die works on: its settings and tables stand, its groups as they were formed; a request it has outstanding was so before, or its
frame is of the kind `P`. -/
structure Fabric.Steady (P : WtFrame → Prop) (f g : Fabric) : Prop where
  fixed : g.fixed = f.fixed
  groups : ∀ k, (g.groups.get k).formed = (f.groups.get k).formed
  outst : ∀ o ∈ g.outst, P o.frame ∨ ∃ o' ∈ f.outst, o'.ten = o.ten ∧ o'.frame = o.frame

/-- The package without what its work moves: its tenancies, registers and settings. -/
def State.standing (s : State) : State :=
  { s with freeCount := 0, cores := [], chans := [], fabrics := [], mesh := [], ckpts := [], collQ := [], colls := [], doneColls := [], twin := {}
           px := {}, ec := {}, log := {}, handed := [], signals := [], outbox := [] }

/-- The package works on: registers, settings and tenancies stand; cores keep their jobs and their halt; no collective begins; what has been
sent has been sent; a request outstanding at a fabric die was so before, or its frame is of the kind `P`. -/
structure State.Steady (P : WtFrame → Prop) (s t : State) : Prop where
  standing : t.standing = s.standing
  cores : ∀ c, (s.core c).JobKept (t.core c)
  fabs : ∀ n, (s.fab n).Steady P (t.fab n)
  colls : t.colls ⊆ s.colls
  outbox : s.outbox <+: t.outbox

section Steady
variable {P : WtFrame → Prop}

theorem Fabric.Steady.of_eq {f g : Fabric} (hfixed : g.fixed = f.fixed) (hgroups : ∀ k, (g.groups.get k).formed = (f.groups.get k).formed)
    (hout : g.outst = f.outst) : f.Steady P g :=
  ⟨hfixed, hgroups, fun o ho => .inr ⟨o, hout ▸ ho, rfl, rfl⟩⟩

theorem Fabric.Steady.refl (f : Fabric) : f.Steady P f := .of_eq rfl (fun _ => rfl) rfl

theorem Fabric.Steady.trans {f g h : Fabric} (hfg : f.Steady P g) (hgh : g.Steady P h) : f.Steady P h where
  fixed := hgh.fixed.trans hfg.fixed
  groups k := (hgh.groups k).trans (hfg.groups k)
  outst o ho := by
    rcases hgh.outst o ho with hP | ⟨o1, ho1, hten1, hframe1⟩
    · exact .inl hP
    · rcases hfg.outst o1 ho1 with hP | ⟨o2, ho2, hten2, hframe2⟩
      · exact .inl (hframe1 ▸ hP)
      · exact .inr ⟨o2, ho2, hten2.trans hten1, hframe2.trans hframe1⟩

theorem State.Steady.refl (s : State) : s.Steady P s := ⟨rfl, fun _ => .refl _, fun _ => .refl _, List.Subset.refl _, List.prefix_rfl⟩

theorem State.Steady.trans {s t u : State} (h : s.Steady P t) (k : t.Steady P u) : s.Steady P u where
  standing := k.standing.trans h.standing
  cores c := (h.cores c).trans (k.cores c)
  fabs n := (h.fabs n).trans (k.fabs n)
  colls := List.Subset.trans k.colls h.colls
  outbox := h.outbox.trans k.outbox

theorem State.Steady.ite {s t u : State} (p : Prop) [Decidable p] (h : s.Steady P t) (k : s.Steady P u) : s.Steady P (if p then t else u) := by
  split
  · exact h
  · exact k

theorem State.Steady.ite_fst {β : Type} {s : State} {a b : State × β} (p : Prop) [Decidable p] (h : s.Steady P a.1) (k : s.Steady P b.1) :
    s.Steady P (if p then a else b).1 := by
  split
  · exact h
  · exact k

theorem State.Steady.foldl {α : Type} {g : State → α → State} (hg : ∀ (t : State) x, t.Steady P (g t x)) (l : List α) (s : State) :
    s.Steady P (l.foldl g s) :=
  List.foldlRecOn (motive := fun t => s.Steady P t) l g (.refl s) (fun _ h x _ => h.trans (hg _ x))

/-- A loop that keeps something else beside the state. -/
theorem State.Steady.foldl_fst {α β : Type} {g : State × β → α → State × β} (hg : ∀ (t : State) b x, t.Steady P (g (t, b) x).1) (l : List α) (s : State)
    (b : β) : s.Steady P (l.foldl g (s, b)).1 :=
  List.foldlRecOn (motive := fun y : State × β => s.Steady P y.1) l g (.refl s) (fun y h x _ => h.trans (hg y.1 y.2 x))

/-- Work that touches no core, no fabric die and no frame. -/
theorem State.steady_of_rest {s t : State}
    (h : t = { s with freeCount := t.freeCount, chans := t.chans, mesh := t.mesh, ckpts := t.ckpts, collQ := t.collQ, doneColls := t.doneColls
                      twin := t.twin, px := t.px, ec := t.ec, log := t.log, handed := t.handed, signals := t.signals }) : s.Steady P t := by
  rw [h]
  exact ⟨rfl, fun _ => .refl _, fun _ => .refl _, List.Subset.refl _, List.prefix_rfl⟩

theorem State.steady_updCore (s : State) (c : CoreId) {g : Core → Core} (hg : ∀ k : Core, k.JobKept (g k) := by intro; exact ⟨rfl, rfl, id⟩) :
    s.Steady P (s.updCore c g) where
  standing := rfl
  cores d := by
    rw [State.core_updCore]
    split
    · next h => exact h ▸ hg _
    · exact .refl _
  fabs _ := .refl _
  colls := List.Subset.refl _
  outbox := List.prefix_rfl

theorem State.steady_updFab_of (s : State) (n : Nat) {g : Fabric → Fabric} (hg : ∀ f : Fabric, f.Steady P (g f)) : s.Steady P (s.updFab n g) where
  standing := rfl
  cores _ := .refl _
  fabs m := by
    rw [State.fab_updFab]
    split
    · next h => exact h ▸ hg _
    · exact .refl _
  colls := List.Subset.refl _
  outbox := List.prefix_rfl

theorem State.steady_updFab (s : State) (n : Nat) {g : Fabric → Fabric} (hfixed : ∀ f, (g f).fixed = f.fixed := by intro; rfl)
    (hgroups : ∀ f, (g f).groups = f.groups := by intro; rfl) (hout : ∀ f, (g f).outst = f.outst := by intro; rfl) : s.Steady P (s.updFab n g) :=
  s.steady_updFab_of n (fun f => .of_eq (hfixed f) (fun k => by rw [hgroups]) (hout f))

/-- Requests that are no longer outstanding, or are so in another way. -/
theorem State.steady_updFab_fewer (s : State) (n : Nat) {g : Fabric → Fabric} (hfixed : ∀ f, (g f).fixed = f.fixed)
    (hgroups : ∀ f, (g f).groups = f.groups) (hout : ∀ f, ∀ o ∈ (g f).outst, ∃ o' ∈ f.outst, o'.ten = o.ten ∧ o'.frame = o.frame) :
    s.Steady P (s.updFab n g) :=
  s.steady_updFab_of n (fun f => ⟨hfixed f, fun k => by rw [hgroups], fun o ho => .inr (hout f o ho)⟩)

theorem State.steady_hand (s : State) (r : ErrRec) : s.Steady P (s.hand r) := State.steady_of_rest rfl
theorem State.steady_drawn (s : State) : s.Steady P s.drawn := State.steady_of_rest rfl
theorem State.steady_updChan (s : State) (n : Nat) (g : Channel → Channel) : s.Steady P (s.updChan n g) := State.steady_of_rest rfl
theorem State.steady_sendFlit (s : State) (f : Flit) : s.Steady P (s.sendFlit f) := State.steady_of_rest rfl
theorem State.steady_updHart (s : State) (h : Nat) (g : HartRegs → HartRegs) : s.Steady P (s.updHart h g) := State.steady_of_rest rfl
theorem State.steady_updCkpt (s : State) (n : Nat) (g : Ckpt → Ckpt) : s.Steady P (s.updCkpt n g) := State.steady_of_rest rfl

theorem State.steady_send (s : State) (f : OutFrame) : s.Steady P (s.send f) where
  standing := rfl
  cores _ := .refl _
  fabs _ := .refl _
  colls := List.Subset.refl _
  outbox := List.prefix_append _ _

theorem State.steady_ite_hand (s : State) (p : Prop) [Decidable p] (r : ErrRec) : s.Steady P (if p then s.hand r else s) :=
  .ite p (s.steady_hand r) (.refl s)

end Steady

/-! ### GDDR (R258 to R268) -/

/-- Nothing differs but the channels and the records handed to the log. -/
def State.ChansOnly (s t : State) : Prop := t = { s with chans := t.chans, handed := t.handed }

theorem State.ChansOnly.refl (s : State) : s.ChansOnly s := rfl

theorem State.ChansOnly.trans {s t u : State} (h : s.ChansOnly t) (k : t.ChansOnly u) : s.ChansOnly u := by
  unfold State.ChansOnly at *
  rw [k, h]

theorem State.ChansOnly.foldl {α : Type} {g : State → α → State} (hg : ∀ (t : State) x, t.ChansOnly (g t x)) (l : List α) (s : State) :
    s.ChansOnly (l.foldl g s) :=
  List.foldlRecOn (motive := fun t => s.ChansOnly t) l g (.refl s) (fun _ h x _ => h.trans (hg _ x))

theorem State.ChansOnly.foldl_fst {α β : Type} {g : State × β → α → State × β} (hg : ∀ (t : State) b x, t.ChansOnly (g (t, b) x).1) (l : List α)
    (s : State) (b : β) : s.ChansOnly (l.foldl g (s, b)).1 :=
  List.foldlRecOn (motive := fun y : State × β => s.ChansOnly y.1) l g (.refl s) (fun y h x _ => h.trans (hg y.1 y.2 x))

theorem State.ChansOnly.steady {P : WtFrame → Prop} {s t : State} (h : s.ChansOnly t) : s.Steady P t := State.steady_of_rest (by rw [h])

section Gddr
variable (s : State) (w : Who)

theorem State.chansOnly_updChan (n : Nat) (g : Channel → Channel) : s.ChansOnly (s.updChan n g) := rfl

theorem State.chansOnly_ite_hand (p : Prop) [Decidable p] (r : ErrRec) : s.ChansOnly (if p then s.hand r else s) := by
  split <;> rfl

theorem State.chansOnly_gddrCorrect (ch pu q sec : Nat) (es f : List SymErr) (npa : Nat) : s.ChansOnly (s.gddrCorrect ch pu q sec es f npa w) := by
  unfold State.gddrCorrect
  exact (s.chansOnly_ite_hand _ _).trans (State.chansOnly_updChan _ ch _)

theorem State.chansOnly_gddrJudge (ch pu q npa : Nat) (secs : List Nat) : s.ChansOnly (s.gddrJudge ch pu q npa secs w).1 := by
  unfold State.gddrJudge
  refine .foldl_fst (fun t b sec => ?_) secs s []
  dsimp only
  split
  · split <;> rfl
  · exact t.chansOnly_gddrCorrect w _ _ _ _ _ _ _
  · rfl

theorem State.chansOnly_squallCount (ch q sec npa : Nat) : s.ChansOnly (s.squallCount ch q sec npa w) := by
  have hjudge := fun (t : State) (w : Who) secs => t.chansOnly_gddrJudge w ch ((s.chan ch).spared q) q npa secs
  unfold State.squallCount
  dsimp only
  split
  · exact .refl s
  · split
    · rfl
    · split
      · rfl
      · split
        · exact (s.chansOnly_updChan _ _).trans (hjudge _ _ _)
        · exact ((s.chansOnly_updChan _ _).trans (hjudge _ _ _)).trans (State.chansOnly_updChan _ _ _)

theorem State.chansOnly_countUnit (a n : Nat) : s.ChansOnly (s.countUnit a n w) := by
  unfold State.countUnit
  dsimp only
  split
  · exact .refl s
  · exact .foldl (fun t k => t.chansOnly_squallCount w _ _ _ _) _ s

theorem State.chansOnly_unitRead (a n : Nat) : s.ChansOnly (s.unitRead a n w).1 := by
  unfold State.unitRead
  dsimp only
  split
  · exact .refl s
  · exact s.chansOnly_gddrJudge w _ _ _ _ _

theorem State.chansOnly_unitWrite (a : Nat) (bs : List Byte) : s.ChansOnly (s.unitWrite a bs w).1 := by
  unfold State.unitWrite
  dsimp only
  split
  · exact .refl s
  · dsimp only
    exact (s.chansOnly_gddrJudge w _ _ _ _ _).trans (State.chansOnly_updChan _ _ _)

theorem State.chansOnly_gddrReadUnit (a n : Nat) : s.ChansOnly (s.gddrReadUnit a n w).1 :=
  (s.chansOnly_countUnit w a n).trans (State.chansOnly_unitRead _ w a n)

theorem State.chansOnly_gddrRead (a n : Nat) : s.ChansOnly (s.gddrRead a n w).1 := by
  unfold State.gddrRead
  exact .foldl_fst (fun t b p => t.chansOnly_gddrReadUnit w _ _) _ s _

theorem State.chansOnly_gddrWrite (a : Nat) (bs : List Byte) : s.ChansOnly (s.gddrWrite a bs w).1 := by
  unfold State.gddrWrite
  exact .foldl_fst (fun t b p => (t.chansOnly_countUnit w _ _).trans (State.chansOnly_unitWrite _ w _ _)) _ s _

end Gddr

/-! ### The stores of the cores, the SRAM ways and what a write breaks (R193, R485, R491 to R493) -/

section Memories
variable {P : WtFrame → Prop} (s : State)

theorem State.steady_storeCorrect (c : CoreId) (res : Bool) (word bit : Nat) (w : Who) : s.Steady P (s.storeCorrect c res word bit w) := by
  unfold State.storeCorrect
  exact (s.steady_ite_hand _ _).trans (State.steady_updCore _ c (fun k => by cases res <;> exact ⟨rfl, rfl, id⟩))

theorem State.steady_storeUnc (c : CoreId) (res : Bool) (word : Nat) (w : Who) : s.Steady P (s.storeUnc c res word w) := by
  unfold State.storeUnc
  exact ((s.steady_hand _).trans (State.steady_drawn _)).trans (State.steady_updCore _ c (fun k => by cases res <;> exact ⟨rfl, rfl, id⟩))

theorem State.steady_judge (c : CoreId) (res : Bool) (words : List Nat) (w : Who) : s.Steady P (s.judge c res words w).1 := by
  unfold State.judge
  refine .foldl_fst (fun t b e => ?_) _ s []
  dsimp only
  split
  · exact .refl t
  · exact t.steady_storeCorrect c res _ _ w
  · exact t.steady_storeUnc c res _ w

theorem State.steady_storeRead (c : CoreId) (res : Bool) (a n : Nat) (w : Who) : s.Steady P (s.storeRead c res a n w).1 :=
  s.steady_judge c res _ w

theorem State.steady_storeWrite (c : CoreId) (res : Bool) (a : Nat) (bs : List Byte) (w : Who) : s.Steady P (s.storeWrite c res a bs w).1 := by
  unfold State.storeWrite
  dsimp only
  exact (s.steady_judge c res _ w).trans (State.steady_updCore _ c (fun k => by cases res <;> exact ⟨rfl, rfl, id⟩))

theorem State.steady_breakRes (a n : Nat) : s.Steady P (s.breakRes a n) := by
  unfold State.breakRes
  exact .ite _ (State.steady_of_rest rfl) (.refl s)

theorem State.steady_dropLines (a n : Nat) : s.Steady P (s.dropLines a n) := by
  unfold State.dropLines
  dsimp only
  split
  · exact (State.steady_of_rest rfl).trans (.foldl (fun t x => (t.chansOnly_gddrWrite _ _ _).steady) _ _)
  · exact .refl s

theorem State.steady_foreignWrote (a n : Nat) : s.Steady P (s.foreignWrote a n) := (s.steady_breakRes a n).trans (State.steady_dropLines _ a n)

theorem State.steady_sramJudge (words : List Nat) (w : Who) : s.Steady P (s.sramJudge words w).1 := by
  unfold State.sramJudge
  refine .foldl_fst (fun t b i => ?_) words s []
  split
  · exact .refl t
  · exact State.steady_of_rest rfl
  · exact t.steady_hand _

theorem State.steady_sramGet (off n : Nat) (w : Who) : s.Steady P (s.sramGet off n w).1 := s.steady_sramJudge _ w

theorem State.steady_sramPut (off : Nat) (bs : List Byte) (w : Who) : s.Steady P (s.sramPut off bs w).1 := by
  unfold State.sramPut
  exact ((s.steady_sramJudge _ w).trans (State.steady_of_rest rfl)).trans (State.steady_breakRes _ _ _)

theorem State.steady_npaWrite (c : CoreId) (npa : Nat) (bs : List Byte) (w : Who) : s.Steady P (s.npaWrite c npa bs w).1 := by
  unfold State.npaWrite
  dsimp only
  split
  · exact (s.chansOnly_gddrWrite _ _ _).steady.trans (State.steady_foreignWrote _ _ _)
  · split
    · exact s.steady_storeWrite _ _ _ _ _
    · exact .refl s
  · exact s.steady_storeWrite _ _ _ _ _
  · split
    · exact s.steady_sramPut _ _ _
    · exact .refl s
  · exact .refl s

/-- A piece of an access to a store by the flits of another die (R33, R35). -/
theorem State.steady_diePiece (d : CoreId) (res : Bool) (o n : Nat) (store last : Bool) (bs : List Byte) (w : Who) :
    s.Steady P (s.diePiece d res o n store last bs w).1 := by
  unfold State.diePiece
  dsimp only
  split
  · exact ((s.steady_updCore d).trans (State.steady_hand _ _)).trans (State.steady_drawn _)
  · split
    · exact s.steady_hand _
    · split
      · exact s.steady_storeWrite _ _ _ _ _
      · exact s.steady_storeRead _ _ _ _ _

theorem State.steady_rsServe (off : Nat) (op : MemOp) (len : Nat) (data : List Byte) (w : Who) : s.Steady P (s.rsServe off op len data w).1 := by
  unfold State.rsServe
  refine .foldl_fst (fun t b p => ?_) _ s _
  dsimp only
  split
  · exact .refl t
  · exact t.steady_diePiece _ _ _ _ _ _ _ _

end Memories

/-! ### Frames sent and answers matched (R289, R291, R295, R301) -/

section Frames
variable {P : WtFrame → Prop} (s : State)

theorem State.steady_sendWt (pl peer : Nat) (mac : BitVec 48) (ip : BitVec 128) (f : WtFrame) : s.Steady P (s.sendWt pl peer mac ip f) := by
  rcases s.sendWt_cases pl peer mac ip f with h | ⟨o, h⟩
  · rw [h]
    exact .refl s
  · rw [h]
    exact (s.steady_updFab pl).trans (State.steady_send _ o)

theorem State.steady_pay (pl peer : Nat) (ty : BitVec 4) : s.Steady P (s.pay pl peer ty) := by
  unfold State.pay
  exact .ite _ (.refl s) (s.steady_updFab pl)

theorem State.steady_dmaAnswer (c : CoreId) (req part : Nat) (st : Byte) (data : List Byte) (logged : Bool) :
    s.Steady P (s.dmaAnswer c req part st data logged) :=
  s.steady_updCore c (fun k => by dsimp only; split <;> exact ⟨rfl, rfl, id⟩)

theorem State.steady_updOut (tag : BitVec 16) {g : OutReq → OutReq} (hten : ∀ o, (g o).ten = o.ten) (hframe : ∀ o, (g o).frame = o.frame) :
    s.Steady P (s.updOut tag g) :=
  s.steady_updFab_fewer _ (fun _ => rfl) (fun _ => rfl) (fun _ o ho => by
    obtain ⟨o', ho', rfl⟩ := List.mem_map.1 ho
    refine ⟨o', ho', ?_⟩
    split
    · exact ⟨(hten o').symm, (hframe o').symm⟩
    · exact ⟨rfl, rfl⟩)

/-- Requests given up are no longer outstanding. -/
theorem State.steady_dropOut (n : Nat) (p : OutReq → Bool) (q : ReqPlan → Bool) :
    s.Steady P (s.updFab n (fun f => { f with outst := f.outst.filter p, waiting := f.waiting.filter q })) :=
  s.steady_updFab_fewer n (fun _ => rfl) (fun _ => rfl) (fun _ o ho => ⟨o, List.mem_of_mem_filter ho, rfl, rfl⟩)

theorem State.steady_releaseTag (tag : BitVec 16) : s.Steady P (s.releaseTag tag) :=
  s.steady_updFab_fewer _ (fun _ => rfl) (fun _ => rfl) (fun _ o ho => ⟨o, List.mem_of_mem_filter ho, rfl, rfl⟩)

theorem State.steady_leaveUnheard (o : OutReq) : s.Steady P (s.leaveUnheard o) :=
  .foldl (fun t x => t.steady_updFab _) _ s

theorem State.steady_probeEnd : s.Steady P s.probeEnd :=
  ((s.steady_dropOut 0 _ _).trans (State.steady_dropOut _ 1 _ _)).trans (State.steady_of_rest rfl)

theorem State.steady_giveOwner (o : OutReq) (st : Byte) (data : List Byte) : s.Steady P (s.giveOwner o st data) := by
  unfold State.giveOwner
  split
  · exact s.steady_dmaAnswer _ _ _ _ _ _
  · exact s.steady_probeEnd
  · exact .refl s

/-- An answer that no frame brings, of a request of the package itself (R317). -/
theorem State.steady_matchAnswer_self (pl : Nat) (tag : BitVec 16) (seq : BitVec 24) (origin : Bool) (st : Byte) :
    s.Steady P (s.matchAnswer pl tag seq origin st none).1 := by
  unfold State.matchAnswer
  split
  · exact s.steady_updFab pl (g := Fabric.countDup)
  · dsimp only
    split
    · exact s.steady_updOut tag (fun _ => rfl) (fun _ => rfl)
    · exact (s.steady_leaveUnheard _).trans (State.steady_releaseTag _ tag)

theorem State.steady_answer (pl : Nat) (f : WtFrame) (st : Byte) (data : List Byte) (replay : Bool) : s.Steady P (s.answer pl f st data replay) := by
  have hmatch := s.steady_matchAnswer_self (P := P) pl f.tag f.seq f.origin st
  unfold State.answer
  dsimp only
  split
  · split
    · exact hmatch.trans (State.steady_giveOwner _ _ _ _)
    · exact hmatch
  · exact s.steady_sendWt _ _ _ _ _

theorem State.steady_wtDone (pl : Nat) (f : WtFrame) (st : Byte) (data : List Byte) : s.Steady P (s.wtDone pl f st data) := by
  unfold State.wtDone
  dsimp only
  split
  · exact s.steady_answer _ _ _ _ _
  · refine .trans ?_ (.foldl (fun t y => t.steady_answer _ _ _ _ _) _ _)
    refine .trans (.trans ?_ (State.steady_updFab _ _)) (State.steady_answer _ _ _ _ _ _)
    split
    · exact (s.steady_updFab _).trans (State.steady_updFab _ _)
    · exact s.steady_updFab _

theorem State.steady_twinSend (pl : Nat) (kind : Byte) (payload : List Byte) (answer : Option WtFrame) (aPl : Plane) (aSub : Nat) :
    s.Steady P (s.twinSend pl kind payload answer aPl aSub) := by
  unfold State.twinSend
  exact (State.steady_of_rest rfl).trans (State.steady_send _ _)

theorem State.steady_busyAdd (pl key : Nat) (d : Int) : s.Steady P (s.busyAdd pl key d) := s.steady_updFab pl

end Frames

/-! ### Requests served at a slice in their turn (R194, R196, R336, R460) -/

section Serve
variable {P : WtFrame → Prop} (s : State)

theorem State.steady_gddrAtomic (a n aop ty : Nat) (comparand opd : List Byte) (w : Who) : s.Steady P (s.gddrAtomic a n aop ty comparand opd w).1 := by
  unfold State.gddrAtomic
  extract_lets u r new x
  have hr : s.ChansOnly r.1 := s.chansOnly_gddrReadUnit u _ _
  have hx : r.1.ChansOnly x.1 := r.1.chansOnly_unitWrite u _ _
  clear_value x new r
  exact .ite_fst _ hr.steady ((hr.trans hx).steady.trans (State.steady_foreignWrote _ _ _))

theorem State.steady_gddrOp (a : Nat) (op : MemOp) (len : Nat) (data : List Byte) (w : Who) : s.Steady P (s.gddrOp a op len data w).1 := by
  unfold State.gddrOp
  split
  · exact (s.chansOnly_gddrRead _ _ _).steady
  · exact (s.chansOnly_gddrWrite _ _ _).steady.trans (State.steady_foreignWrote _ _ _)
  · exact .ite_fst _ (.refl s) (s.steady_gddrAtomic _ _ _ _ _ _ _)

theorem State.steady_windowServe (pl : Plane) (f : WtFrame) (m : MemReq) : s.Steady P (s.windowServe pl f m) := by
  unfold State.windowServe
  extract_lets q w x r
  have hr : s.Steady P r.1 := .ite_fst _ (s.steady_gddrOp _ _ _ _ _) (s.steady_rsServe _ _ _ _ _)
  clear_value r
  split
  · exact hr.trans (State.steady_wtDone _ _ _ _ _)
  · dsimp only
    split
    · exact (hr.trans (State.steady_busyAdd _ _ _ _)).trans (State.steady_wtDone _ _ _ _ _)
    · exact hr.trans (.foldl (fun t x => t.steady_twinSend _ _ _ _ _ _) _ _)

theorem State.steady_flitServe (d : CoreId) (f : Flit) : s.Steady P (s.flitServe d f) := by
  have haccess : s.Steady P (s.flitAccess d f).1 := by
    unfold State.flitAccess
    exact .ite_fst _ (.refl s) (.ite_fst _ (.refl s) (.ite_fst _ (s.steady_storeRead _ _ _ _ _) (s.steady_storeWrite _ _ _ _ _)))
  unfold State.flitServe State.flitAnswer
  exact haccess.trans (.ite _ (.refl _) (State.steady_sendFlit _ _))

theorem State.steady_foreignServe (c : CoreId) : s.Steady P (s.foreignServe c) := by
  unfold State.foreignServe
  split
  · exact .refl s
  · extract_lets t
    have ht : s.Steady P t := s.steady_updCore c (fun k => by split <;> exact ⟨rfl, rfl, id⟩)
    split
    · exact ht.trans (State.steady_windowServe _ _ _ _)
    · exact ht.trans (State.steady_flitServe _ _ _)
    · exact ht

theorem State.steady_rsOp (off : Nat) (op : MemOp) (len : Nat) (data : List Byte) (w : Who) : s.Steady P (s.rsOp off op len data w).1 := by
  unfold State.rsOp
  refine .trans (.foldl (fun t p => ?_) _ s) (State.steady_rsServe _ _ _ _ _ _)
  split
  · exact .refl t
  · exact .foldl (fun u _ => u.steady_foreignServe _) _ t

theorem State.steady_dieWrite (c : CoreId) (npa : Nat) (bs : List Byte) (w : Who) : s.Steady P (s.dieWrite c npa bs w).1 := by
  unfold State.dieWrite
  split
  · exact s.steady_rsOp _ _ _ _ _
  · exact .foldl_fst (fun t b p => t.steady_diePiece _ _ _ _ _ _ _ _) _ s _
  · exact s.steady_npaWrite _ _ _ _

/-- Node firmware's own reads and writes (R401). -/
theorem State.steady_svcRead (npa n : Nat) : s.Steady P (s.svcRead npa n).1 := by
  unfold State.svcRead
  split
  · exact (s.chansOnly_gddrRead _ _ _).steady
  · exact s.steady_rsOp _ _ _ _ _
  · split
    · exact s.steady_sramGet _ _ _
    · exact .refl s
  · exact .refl s

theorem State.steady_svcWrite (npa : Nat) (bs : List Byte) : s.Steady P (s.svcWrite npa bs) := by
  unfold State.svcWrite
  split
  · exact (s.chansOnly_gddrWrite _ _ _).steady.trans (State.steady_foreignWrote _ _ _)
  · exact s.steady_rsOp _ _ _ _ _
  · split
    · exact s.steady_sramPut _ _ _
    · exact .refl s
  · exact .refl s

end Serve

end Sys2Proof.Machine
end

section
/-! PROOFS. What stands while operations end, caches are flushed, collectives end, node firmware sends and the checkpoint state goes back to idle
(R75, R92, R343, R352, R372, R414, R430). -/

namespace Sys2Proof.Machine

/-! ### What steady work leaves of a package -/

section Of
variable {P : WtFrame → Prop} {s t : State} (h : s.Steady P t)
include h

theorem State.Steady.time : t.t = s.t := (congrArg State.t h.standing :)
theorem State.Steady.ten (n : Nat) : t.ten n = s.ten n := (congrArg (State.ten · n) h.standing :)

end Of

/-! ### Operations that end (R69, R73, R75, R76, R81, R92) -/

section Operations
variable {P : WtFrame → Prop} (s : State)

theorem State.steady_recordWrite (c : CoreId) (npa : Nat) (bs : List Byte) (tag : BitVec 32) : s.Steady P (s.recordWrite c npa bs tag) := by
  have hown : s.Steady P (s.npaWrite c npa bs ((s.core c).who 0 tag)).1 := s.steady_npaWrite c npa bs _
  unfold State.recordWrite
  dsimp only
  split
  · exact hown
  · split
    · exact hown
    · exact .ite _ hown (s.steady_sendFlit _)

theorem State.steady_returnCredits (ten : Nat) (e : Entry) : s.Steady P (s.returnCredits ten e) := by
  unfold State.returnCredits
  exact (State.Steady.foldl (fun t x => t.steady_updChan _ _) _ s).trans (.foldl (fun t x => t.steady_updFab _) _ _)

theorem State.steady_releaseTeam (c : CoreId) (i off : Nat) (tag : BitVec 32) : s.Steady P (s.releaseTeam c i off tag) := by
  unfold State.releaseTeam
  exact (State.Steady.foldl (fun t m => (t.steady_updCore m).trans (State.steady_sendFlit _ _)) _ s).trans (State.steady_updCore _ c)

theorem State.steady_healthSlots (c : CoreId) (e : Entry) (n i : Nat) : s.Steady P (s.healthSlots c e n i) := by
  induction n generalizing s i with
  | zero => exact .refl s
  | succ n ih =>
    unfold State.healthSlots
    extract_lets base w h b
    have hh : s.Steady P h.1 := s.steady_storeRead _ _ _ _ _
    have hb : s.Steady P b.1 := hh.trans (h.1.steady_storeRead _ _ _ _ _)
    exact .ite _ (hh.trans (ih _ _)) (.ite _ (.ite _ hb (hb.trans (State.steady_storeWrite _ _ _ _ _ _))) (hh.trans (ih _ _)))

theorem State.steady_castDeliver (c : CoreId) (e : Entry) : s.Steady P (s.castDeliver c e) := by
  unfold State.castDeliver
  dsimp only
  split
  · exact (State.steady_of_rest rfl).trans (State.steady_twinSend _ _ _ _ _ _ _)
  · exact .refl s

theorem Core.jobKept_retire (k : Core) (rd : BitVec 5) (v : BitVec 32) : k.JobKept (k.retire rd v) := by
  unfold Core.retire Core.retireTo
  rw [Core.setX_eq_xregs]
  exact ⟨rfl, rfl, id⟩

theorem State.steady_deliver (c : CoreId) (rd : BitVec 5) (i : Nat) : s.Steady P (s.deliver c rd i) := by
  unfold State.deliver
  extract_lets e s1 s2
  have h1 : s.Steady P s1 := .ite _ (s.steady_healthSlots c e 8 0) (.refl s)
  refine (h1.trans (s1.steady_castDeliver c e)).trans (s2.steady_updCore c (fun k => .trans ?_ (Core.jobKept_retire _ rd _)))
  split <;> exact ⟨rfl, rfl, id⟩

theorem State.steady_wakeCu (c : CoreId) : s.Steady P (s.wakeCu c) := by
  have hretire : ∀ rd v, s.Steady P (s.updCore c (fun k => k.retire rd v)) := fun rd v =>
    s.steady_updCore c (fun k => k.jobKept_retire rd v)
  unfold State.wakeCu
  dsimp only
  split
  · exact .refl s
  · exact hretire _ _
  · split
    · exact .ite _ (.refl s) (s.steady_deliver c _ _)
    · exact .refl s
  · exact .ite _ (.refl s) (hretire _ _)

theorem State.steady_castComplete (core : Nat) (acc : BitVec 32) (st : Byte) (jobId jobGen : BitVec 16) (w : List (Nat × List Byte)) :
    s.Steady P (s.castComplete core acc st jobId jobGen w) := by
  unfold State.castComplete
  exact .ite _ (.refl s) (.foldl (fun t i => t.steady_twinSend _ _ _ _ _ _) _ s)

theorem State.steady_castEnd (c : CoreId) (e : Entry) (st : Byte) (ok : Bool) : s.Steady P (s.castEnd c e st ok) := by
  unfold State.castEnd
  exact .ite _ (s.steady_castComplete _ _ _ _ _ _) (.refl s)

theorem State.steady_endOne (c : CoreId) (i : Nat) (x : Ending) (bounded : Bool) : s.Steady P (s.endOne c i x bounded) := by
  unfold State.endOne
  extract_lets k e late st s1 s2 fl e1 rec0 s3 s4 s5
  have h2 : s.Steady P s2 := (s.steady_ite_hand _ _).trans (s1.steady_returnCredits _ _)
  have h3 : s.Steady P s3 := h2.trans (.ite _ (.refl s2) (s2.steady_recordWrite _ _ _ _))
  have h4 : s.Steady P s4 := h3.trans (s3.steady_updCore c)
  have h5 : s.Steady P s5 := h4.trans (s4.steady_castEnd _ _ _ _)
  exact .ite _ (h5.trans (s5.steady_releaseTeam _ _ _ _)) h5

theorem State.steady_breakDeps (c : CoreId) (n : Nat) : s.Steady P (s.breakDeps c n) := by
  induction n generalizing s with
  | zero => exact .refl s
  | succ n ih =>
    unfold State.breakDeps
    split
    · exact (s.steady_endOne _ _ _ _).trans (ih _)
    · exact .refl s

theorem State.steady_endEntry (c : CoreId) (i : Nat) (x : Ending) (bounded : Bool) : s.Steady P (s.endEntry c i x bounded) :=
  ((s.steady_endOne c i x bounded).trans (State.steady_breakDeps _ c 64)).trans (State.steady_wakeCu _ c)

theorem State.steady_abortAll (c : CoreId) (st : Byte) : s.Steady P (s.abortAll c st) := by
  refine .foldl (fun t i => ?_) _ s
  unfold State.abortEntry
  dsimp only
  split
  · exact t.steady_endEntry c i _ _
  · exact t.steady_updCore c
  · exact .refl t

theorem State.steady_setHalt (c : CoreId) : s.Steady P (s.setHalt c true) :=
  s.steady_updCore c (fun _ => ⟨rfl, rfl, fun _ => rfl⟩)

end Operations

/-! ### The processor die in a revoke (R485, R487, R528) -/

section Harts
variable {P : WtFrame → Prop} (s : State)

theorem State.steady_pxClean (h line : Nat) : s.Steady P (s.pxClean h line) := by
  unfold State.pxClean
  dsimp only
  split
  · exact ((State.steady_of_rest rfl).trans (State.chansOnly_gddrWrite _ _ _ _).steady).trans (State.steady_updHart _ _ _)
  · exact .refl s

theorem State.steady_pxFlush (h : Nat) : s.Steady P (s.pxFlush h) :=
  (State.Steady.foldl (fun t l => t.steady_pxClean h l) _ s).trans (State.steady_of_rest rfl)

theorem State.steady_resetApps (t : Nat) : s.Steady P (s.resetApps t) :=
  .foldl (fun u h => .ite _ ((u.steady_pxFlush h).trans (State.steady_of_rest rfl)) (.refl u)) _ s

theorem State.steady_ecRevoke (t : Nat) : s.Steady P (s.ecRevoke t) := State.steady_of_rest rfl

end Harts

/-! ### Collectives that end (R352, R372, R471) -/

section Collectives
variable {P : WtFrame → Prop} (s : State)

theorem State.steady_writeRecord (d : CollDesc) (bytes : List Byte) : s.Steady P (s.writeRecord d bytes) := by
  unfold State.writeRecord
  split
  · exact s.steady_dieWrite _ _ _ _
  · exact .refl s

theorem State.steady_updGroup (t g : Nat) {f : Group → Group} (hf : ∀ x, (f x).formed = x.formed) : s.Steady P (s.updGroup t g f) := by
  refine .foldl (fun u pl => ?_) _ s
  refine u.steady_updFab_of pl (fun x => .of_eq rfl (fun k => ?_) rfl)
  dsimp only
  rw [Tab.get_upd]
  split
  · next h => rw [hf, h]
  · rfl

theorem State.steady_castColl (c : Coll) (d : CollDesc) (st : Byte) (out : Bool) : s.Steady P (s.castColl c d st out) := by
  unfold State.castColl
  refine .ite _ (.refl s) ?_
  split
  · exact .refl s
  · exact s.steady_castComplete _ _ _ _ _ _

/-- The collective leaves the list; an early end is noted in its group. -/
theorem State.steady_dropColl (c : Coll) (st : Byte) : s.Steady P (s.dropColl c false st) := by
  have hlist : s.Steady P { s with colls := s.colls.filter (fun d => !(d.ten == c.ten && d.cseq == c.cseq)) } :=
    ⟨rfl, fun _ => .refl _, fun _ => .refl _, fun _ h => List.mem_of_mem_filter h, List.prefix_rfl⟩
  exact (hlist.trans (State.steady_updFab _ _)).trans (State.steady_updGroup _ _ _ (fun _ => rfl))

theorem State.steady_endRecords (c : Coll) (st : Byte) (fl : Byte) (t0 : Nat) : s.Steady P
    (c.descs.foldl (fun s d => s.castColl c d st false)
      (c.descs.foldl (fun s d => s.writeRecord d (collRecord d.b st fl t0 s.t (if t0 = 0 then 0 else t0 + c.boundNow) 0 c.gen 0)) s)) :=
  (State.Steady.foldl (fun t d => t.steady_writeRecord d _) _ s).trans (.foldl (fun t d => t.steady_castColl c d st false) _ _)

theorem State.steady_endColl {c : Coll} {st : Byte} {abandon : Bool} (h : abandon = true → ∀ t : State, t.Steady P (t.sendAbandon c st)) :
    s.Steady P (s.endColl c st abandon) := by
  unfold State.endColl
  extract_lets s0 fl t0 s1 s2 s3
  have h0 : s.Steady P s0 := .foldl (fun t _ => t.steady_hand _) _ s
  have h2 : s.Steady P s2 := h0.trans (s0.steady_endRecords c st fl t0)
  have h3 : s.Steady P s3 := by
    cases abandon with
    | false => exact h2
    | true => exact h2.trans (h rfl s2)
  exact (h3.trans (.ite _ (s3.steady_updFab _) (.refl s3))).trans (State.steady_dropColl _ c st)

end Collectives

end Sys2Proof.Machine
end

section
/-! PROOFS. What stands while requests are issued and node firmware sends (R289, R291, R301, R430), the checkpoint state goes back to idle (R414), and a
revoke ends the requests, operations and collectives of a job (R343). -/

namespace Sys2Proof.Machine

/-! ### Requests issued and messages sent (R291, R298, R301) -/

section Issue
variable {P : WtFrame → Prop} (s : State)

theorem State.steady_issueReq {r : ReqPlan} (hP : ∀ f : WtFrame, f.jobId = r.jobId → P f) (pl : Plane) (e : RankEntry) :
    s.Steady P (s.issueReq pl r e).1 := by
  unfold State.issueReq
  extract_lets fb t15 tag peer seq path f o s1 s2
  have h1 : s.Steady P s1 := s.steady_updFab_of pl.val (fun g => ⟨rfl, fun _ => rfl, fun o' ho' => by
    rcases List.mem_append.1 ho' with hold | hnew
    · exact .inr ⟨o', hold, rfl, rfl⟩
    · rw [List.mem_singleton.1 hnew]
      exact .inl (hP f rfl)⟩)
  have h2 : s.Steady P s2 := (h1.trans (s1.steady_updFab _)).trans (State.steady_pay _ _ _ _)
  exact .ite_fst _ h1 (h2.trans (s2.steady_sendWt _ _ _ _ _))

theorem State.steady_issueOrWait {r : ReqPlan} (hP : ∀ f : WtFrame, f.jobId = r.jobId → P f) (pl : Plane) (e : RankEntry) :
    s.Steady P (s.issueOrWait pl r e) := by
  unfold State.issueOrWait
  extract_lets peer s1
  have h1 : s.Steady P s1 := s.steady_updFab _
  exact .ite _ (s.steady_issueReq hP pl e) (.ite _ (h1.trans ((s1.steady_updFab _).trans (State.steady_sendWt _ _ _ _ _ _))) h1)

/-- The frames of node firmware carry job 0 (R289). -/
theorem State.steady_fwSend (hP : ∀ f : WtFrame, f.jobId = 0 → P f) (pl : Plane) (t rank : Nat) (p : List Byte) : s.Steady P (s.fwSend pl t rank p) := by
  unfold State.fwSend
  split
  · exact s.steady_issueOrWait hP pl _
  · exact .refl s

theorem State.steady_mgmtSend (t : Nat) (c : Bool) (p : List Byte) : s.Steady P (s.mgmtSend t c p) := by
  unfold State.mgmtSend
  exact (State.steady_of_rest rfl).trans (State.steady_send _ _)

theorem State.steady_sendAll (hP : ∀ f : WtFrame, f.jobId = 0 → P f) (t : Nat) (p : List Byte) : s.Steady P (s.sendAll t p) :=
  .foldl (fun u r => u.steady_fwSend hP _ t r p) _ s

theorem State.steady_sendAbandon (c : Coll) (st : Byte) : s.Steady (fun _ => True) (s.sendAbandon c st) := by
  refine .foldl (fun u m => ?_) _ s
  unfold State.collSend
  dsimp only
  split
  · exact .refl u
  · exact u.steady_issueOrWait (fun _ _ => trivial) _ _

/-- The collectives of a group that run end. -/
def State.endRunning (s : State) (t g : Nat) (st : Byte) : State :=
  (s.colls.filter (fun c => c.ten == t && c.group == g)).foldl (fun s c => s.endColl c st true) s

/-- The collectives of a group that wait for their admission end, and what was kept of its finished ones is given up. -/
def State.endWaiting (s : State) (t g : Nat) (st : Byte) : State :=
  let seqs := (((s.collQ.get t).filter (fun d => d.b.group == g)).map (·.b.cseq)).eraseDups
  let s1 := seqs.foldl (fun s x =>
    let c := s.collOf t g x ((s.collQ.get t).filter (fun d => d.b.cseq == x && d.b.group == g)) (s.pickHome ((((s.collQ.get t).find? (fun d => d.b.cseq == x)).getD {}).b))
    (s.endQueued t g x st).sendAbandon c st) s
  { s1 with doneColls := s1.doneColls.filter (fun c => !(c.ten == t && c.group == g)) }

theorem State.endGroupColls_eq (t g : Nat) (st : Byte) : s.endGroupColls t g st = (s.endRunning t g st).endWaiting t g st := rfl

theorem State.steady_endColls (l : List Coll) (st : Byte) : s.Steady (fun _ => True) (l.foldl (fun s c => s.endColl c st true) s) :=
  .foldl (fun u c => u.steady_endColl (fun _ v => v.steady_sendAbandon c st)) l s

theorem State.steady_endWaiting (t g : Nat) (st : Byte) : s.Steady (fun _ => True) (s.endWaiting t g st) := by
  unfold State.endWaiting
  extract_lets seqs s1
  have hqueued : ∀ (u : State) x, u.Steady (fun _ => True) (u.endQueued t g x st) := fun u x => by
    unfold State.endQueued
    extract_lets q pick
    exact ((State.steady_of_rest rfl).trans (.foldl (fun v d => v.steady_writeRecord d _) _ _)).trans (State.steady_updGroup _ _ _ (fun _ => rfl))
  have h1 : s.Steady (fun _ => True) s1 := .foldl (fun u x => (hqueued u x).trans (State.steady_sendAbandon _ _ _)) _ s
  exact h1.trans (State.steady_of_rest rfl)

theorem State.steady_endGroupColls (t g : Nat) (st : Byte) : s.Steady (fun _ => True) (s.endGroupColls t g st) :=
  (s.steady_endColls _ st).trans (State.steady_endWaiting _ t g st)

end Issue

/-! ### The plan, and the checkpoint state (R401, R405, R406, R414, R416) -/

section Checkpoint
variable {P : WtFrame → Prop} (s : State)

theorem State.steady_planWrite (t off : Nat) (bs : List Byte) : s.Steady P (s.planWrite t off bs) := s.steady_svcWrite _ bs

/-- No deferred trigger fires when the job is not ACTIVE. -/
theorem State.steady_ckptIdle {t : Nat} (h : (s.ten t).job.state ≠ 2) : s.Steady P (s.ckptIdle t) := by
  unfold State.ckptIdle
  extract_lets s1
  have h1 : s.Steady P s1 := s.steady_updCkpt t _
  have hinactive : s1.jobActive t = false := by
    unfold State.jobActive
    rw [h1.ten]
    simpa using h
  rw [hinactive]
  refine .ite _ h1 ?_
  rw [if_neg (by simp)]
  exact h1

theorem State.steady_abandonLocal {t : Nat} (h : (s.ten t).job.state ≠ 2) (reason : Byte) : s.Steady P (s.abandonLocal t reason) := by
  unfold State.abandonLocal
  extract_lets c s1
  have h1 : s.Steady P s1 := ((s.steady_planWrite t _ _).trans (State.steady_planWrite _ t _ _)).trans (State.steady_planWrite _ t _ _)
  refine (h1.trans (s1.steady_updCkpt t _)).trans (State.steady_ckptIdle _ ?_)
  rwa [(h1.trans (s1.steady_updCkpt t _)).ten]

theorem State.steady_abandonAll (hP : ∀ f : WtFrame, f.jobId = 0 → P f) {t : Nat} (h : (s.ten t).job.state ≠ 2) (reason : Byte) :
    s.Steady P (s.abandonAll t reason) := by
  have hsent := s.steady_sendAll hP t ([0x07] ++ beBytes 4 (s.ckpt t).gen.toNat ++ [reason])
  exact hsent.trans (State.steady_abandonLocal _ (by rwa [hsent.ten]) reason)

theorem State.steady_planHead (t : Nat) : s.Steady P (s.planHead t).1 := s.steady_svcRead _ _

theorem State.steady_planEntries (t : Nat) (head : List Byte) : s.Steady P (s.planEntries t head).1 :=
  (s.steady_svcRead _ _).trans (State.steady_svcRead _ _ _)

theorem State.steady_restoreStart (t : Nat) : s.Steady P (s.restoreStart t) := by
  unfold State.restoreStart
  extract_lets h p n
  have hp : s.Steady P p.1 := (s.steady_planHead t).trans (h.1.steady_planEntries t _)
  exact (hp.trans (.foldl (fun u x => u.steady_send _) _ _)).trans (State.steady_updCkpt _ _ _)

end Checkpoint

/-! ### The steps of a revoke (R343) -/

section Revoke
variable {P : WtFrame → Prop} (s : State)

/-- The job's requests at a fabric die fail, and their tags are released. -/
def State.failPlane (s : State) (t pl : Nat) : State :=
  let f := s.fab pl
  let mine := f.outst.filter (fun o => o.ten == t && o.frame.jobId != 0)
  let wait := f.waiting.filter (fun r => r.ten == t && r.jobId != 0)
  let s1 := s.updFab pl (fun f => { f with outst := f.outst.filter (fun o => !(o.ten == t && o.frame.jobId != 0)), waiting := f.waiting.filter (fun r => !(r.ten == t && r.jobId != 0)) })
  let s2 := mine.foldl (fun s o => s.giveOwner o stJobRevoked []) s1
  wait.foldl (fun s r => match r.owner with | .dma c req part => s.dmaAnswer c req part stJobRevoked [] | _ => s) s2

theorem State.failRequests_eq (t : Nat) : s.failRequests t = (s.failPlane t 0).failPlane t 1 := rfl

/-- No request of the tenancy's job is outstanding at a fabric die. -/
def State.NoneOfJob (s : State) (t pl : Nat) : Prop := ∀ o ∈ (s.fab pl).outst, o.ten = t → o.frame.jobId = 0

theorem State.Steady.noneOfJob {s u : State} {t pl : Nat} (h : s.Steady (fun f => f.jobId = 0) u) (hs : s.NoneOfJob t pl) : u.NoneOfJob t pl := by
  intro o ho hten
  rcases (h.fabs pl).outst o ho with hnew | ⟨o', ho', hten', hframe⟩
  · exact hnew
  · exact hframe ▸ hs o' ho' (hten'.trans hten)

/-- The owners of the failed requests are answered; the requests have left. -/
theorem State.steady_failPlane (t pl : Nat) : s.Steady P (s.failPlane t pl) ∧ (s.failPlane t pl).NoneOfJob t pl := by
  unfold State.failPlane
  extract_lets f mine wait s1 s2
  have h1 : s.Steady P s1 := s.steady_dropOut pl _ _
  have hgone : s1.NoneOfJob t pl := fun o ho hten => by
    unfold s1 at ho
    rw [State.fab_updFab, if_pos rfl] at ho
    simpa [hten] using (List.mem_filter.1 ho).2
  have hanswered : ∀ Q, s1.Steady Q (wait.foldl (fun s r => match r.owner with | .dma c req part => s.dmaAnswer c req part stJobRevoked [] | _ => s) s2) := fun Q =>
    State.Steady.trans (.foldl (fun v o => v.steady_giveOwner o _ _) _ s1) (.foldl (fun v r => by
      split
      · exact v.steady_dmaAnswer _ _ _ _ _ _
      · exact .refl v) _ s2)
  exact ⟨h1.trans (hanswered P), (hanswered _).noneOfJob hgone⟩

theorem State.steady_failRequests (t : Nat) : s.Steady P (s.failRequests t) :=
  (s.steady_failPlane t 0).1.trans (State.steady_failPlane _ t 1).1

theorem State.noneOfJob_failRequests (t : Nat) {pl : Nat} (hpl : pl < 2) : (s.failRequests t).NoneOfJob t pl := by
  rw [s.failRequests_eq]
  rcases (by omega : pl = 0 ∨ pl = 1) with rfl | rfl
  · exact (State.steady_failPlane _ t 1).1.noneOfJob (s.steady_failPlane (P := fun _ => True) t 0).2
  · exact (State.steady_failPlane (P := fun _ => True) _ t 1).2

theorem Group.formed_get_map_ended (t : Nat) (l : Tab Group) (k : Nat) :
    (Tab.get (l.map (fun x => if x.1 / 16 = t then (x.1, { x.2 with ended := [] }) else x)) k).formed = (l.get k).formed := by
  by_cases h : k / 16 = t
  · rcases Tab.get_map_where l (p := fun k => k / 16 = t) (fun x => { x with ended := [] }) h with hget | ⟨hget, hdefault⟩
    · rw [hget]
      rfl
    · rw [hget, hdefault]
  · exact congrArg Group.formed (Tab.get_map_where_not l (p := fun k => k / 16 = t) (fun x => { x with ended := [] }) h)

theorem State.steady_revokeColls (t : Nat) : s.Steady P (s.revokeColls t) := by
  unfold State.revokeColls
  extract_lets used s1 q s2
  have h1 : s.Steady P s1 := .foldl (fun u c => u.steady_endColl (fun h => absurd h (by decide))) _ s
  have h2 : s.Steady P s2 := (h1.trans (State.steady_of_rest rfl)).trans (.foldl (fun u d => u.steady_writeRecord d _) _ _)
  refine h2.trans (.foldl (fun u pl => ?_) _ s2)
  exact u.steady_updFab_of pl (fun f => .of_eq rfl (Group.formed_get_map_ended t f.groups) rfl)

end Revoke

end Sys2Proof.Machine
end

section
/-! PROOFS. How a host command comes to its effect (R429, R434, R437) and how it completes (R426, R430): its completion goes out by the way it
came, and what that leaves of the package. -/

namespace Sys2Proof.Machine

/-! ### The completion of a command -/

/-- The tables of a fabric die that commands set (R318, R319, R345, R446). -/
def Fabric.tables (f : Fabric) : Tab Window × Tab RackEntry × Tab Group × Tab RankEntry := (f.windows, f.rackMap, f.groups, f.ranks)

/-- A command of tenancy `tn` closes: nothing differs but its queue, what its completion and a log record touch, and the profile that may be
lowered after it. The tables of the fabric dies stand, and the tenancy's job. -/
structure State.Closes (s t : State) (tn : Nat) : Prop where
  rest : t = { s with tens := t.tens, fabrics := t.fabrics, outbox := t.outbox, log := t.log, handed := t.handed, cpc := t.cpc, dies := t.dies }
  tables : ∀ n, (t.fab n).tables = (s.fab n).tables
  job : (t.ten tn).job = (s.ten tn).job
  revoke : (t.ten tn).revoke = (s.ten tn).revoke

section Closes
variable {s t u : State} {tn : Nat}

theorem State.Closes.refl (s : State) (tn : Nat) : s.Closes s tn := ⟨rfl, fun _ => rfl, rfl, rfl⟩

theorem State.Closes.trans (h : s.Closes t tn) (k : t.Closes u tn) : s.Closes u tn where
  rest := by rw [k.rest, h.rest]
  tables n := (k.tables n).trans (h.tables n)
  job := k.job.trans h.job
  revoke := k.revoke.trans h.revoke

theorem State.Closes.foldl {α : Type} {g : State → α → State} (hg : ∀ (t : State) x, t.Closes (g t x) tn) (l : List α) (s : State) :
    s.Closes (l.foldl g s) tn :=
  List.foldlRecOn (motive := fun t => s.Closes t tn) l g (.refl s tn) (fun _ h x _ => h.trans (hg _ x))

theorem State.TrafficOnly.closes (h : s.TrafficOnly t) (tn : Nat) : s.Closes t tn where
  rest := by rw [h.rest]
  tables n := (congrArg Fabric.tables (h.still n) :)
  job := by rw [h.ten]
  revoke := by rw [h.ten]

theorem State.closes_updFab (s : State) (n tn : Nat) {g : Fabric → Fabric} (hg : ∀ f, (g f).tables = f.tables := by intro; rfl) :
    s.Closes (s.updFab n g) tn := ⟨rfl, fun m => s.updFab_fab_of Fabric.tables n m hg, rfl, rfl⟩

theorem State.closes_updTen (s : State) (tn : Nat) {g : Tenancy → Tenancy} (hjob : ∀ n, (g n).job = n.job := by intro; rfl)
    (hrevoke : ∀ n, (g n).revoke = n.revoke := by intro; rfl) : s.Closes (s.updTen tn g) tn where
  rest := rfl
  tables _ := rfl
  job := by rw [State.ten_updTen, if_pos rfl, hjob]
  revoke := by rw [State.ten_updTen, if_pos rfl, hrevoke]

variable (h : s.Closes t tn)
include h

theorem State.Closes.core (c : CoreId) : t.core c = s.core c := (congrArg (State.core · c) h.rest :)
theorem State.Closes.ckpt (n : Nat) : t.ckpt n = s.ckpt n := (congrArg (State.ckpt · n) h.rest :)
theorem State.Closes.colls : t.colls = s.colls := (congrArg State.colls h.rest :)
theorem State.Closes.boot : t.boot = s.boot := (congrArg State.boot h.rest :)
theorem State.Closes.pkg : t.pkg = s.pkg := (congrArg State.pkg h.rest :)
theorem State.Closes.windows (n : Nat) : (t.fab n).windows = (s.fab n).windows := congrArg (·.1) (h.tables n)
theorem State.Closes.rackMap (n : Nat) : (t.fab n).rackMap = (s.fab n).rackMap := congrArg (·.2.1) (h.tables n)
theorem State.Closes.groups (n : Nat) : (t.fab n).groups = (s.fab n).groups := congrArg (·.2.2.1) (h.tables n)
theorem State.Closes.ranks (n : Nat) : (t.fab n).ranks = (s.fab n).ranks := congrArg (·.2.2.2) (h.tables n)

end Closes

section Sending
variable (s : State) (tn : Nat)

theorem State.closes_issueReq (pl : Plane) (r : ReqPlan) (e : RankEntry) : s.Closes (s.issueReq pl r e).1 tn := by
  unfold State.issueReq
  extract_lets fb t15 tag peer seq path f o s1 s2
  have h1 : s.Closes s1 tn := s.closes_updFab _ tn
  have h2 : s.Closes s2 tn := (h1.trans (s1.closes_updFab _ tn)).trans ((State.trafficOnly_pay _ _ _ _).closes tn)
  split
  · exact h1
  · exact h2.trans ((s2.trafficOnly_sendWt _ _ _ _ _).closes tn)

theorem State.closes_issueOrWait (pl : Plane) (r : ReqPlan) (e : RankEntry) : s.Closes (s.issueOrWait pl r e) tn := by
  unfold State.issueOrWait
  extract_lets peer s1
  have h1 : s.Closes s1 tn := s.closes_updFab _ tn
  split
  · exact s.closes_issueReq tn pl r e
  · split
    · exact h1.trans ((s1.closes_updFab _ tn).trans ((State.trafficOnly_sendWt _ _ _ _ _ _).closes tn))
    · exact h1

theorem State.closes_hostReply (port : Option Plane) (queue : Nat) (cid : BitVec 16) (st reason : Byte) (result tAccept : Nat) (data : List Byte) :
    s.Closes (s.hostReply tn port queue cid st reason result tAccept data) tn := by
  unfold State.hostReply
  cases port with
  | none => exact ⟨rfl, fun _ => rfl, rfl, rfl⟩
  | some pl =>
    dsimp only
    unfold State.fwSend
    split
    · exact s.closes_issueOrWait tn _ _ _
    · exact .refl s tn

theorem State.closes_cmdDone (c : HostCmd) (d : Done) : s.Closes (s.cmdDone tn c d) tn := by
  unfold State.cmdDone
  extract_lets late st s1 s2
  have h1 : s.Closes s1 tn := by
    unfold s1
    split
    · exact ⟨rfl, fun _ => rfl, rfl, rfl⟩
    · exact .refl s tn
  have h2 : s.Closes s2 tn := h1.trans (s1.closes_updTen tn)
  clear_value s2
  exact h2.trans (s2.closes_hostReply tn _ _ _ _ _ _ _ _)

theorem State.closes_startChange (profile : BitVec 2) : s.Closes (s.startChange profile) tn := by
  obtain ⟨dies, hstart⟩ := s.startChange_eq profile
  rw [hstart]
  exact ⟨rfl, fun _ => rfl, rfl, rfl⟩

theorem State.closes_lowerProfile : s.Closes s.lowerProfile tn := by
  unfold State.lowerProfile
  split
  · exact s.closes_startChange tn _
  · exact .refl s tn

end Sending

/-! ### The completion that a host receives (R426, R430) -/

/-- From `s` to `u` node firmware reaches the host of tenancy `tn` in the same way; what has been sent has been sent. -/
structure State.Reaches (s u : State) (tn : Nat) : Prop where
  time : u.t = s.t
  host : u.hostEntry tn = s.hostEntry tn
  up : ∀ n, u.planeUp n = s.planeUp n
  carriage : ∀ p, u.mgmtCarriage tn p = s.mgmtCarriage tn p
  outbox : s.outbox <+: u.outbox

/-- The tenancy's queue stands besides. -/
structure State.Answers (s u : State) (tn : Nat) : Prop extends s.Reaches u tn where
  cmds : (u.ten tn).cmds = (s.ten tn).cmds

section Answers
variable {s t u : State} {tn : Nat}

theorem State.Reaches.trans (h : s.Reaches t tn) (k : t.Reaches u tn) : s.Reaches u tn where
  time := k.time.trans h.time
  host := k.host.trans h.host
  up n := (k.up n).trans (h.up n)
  carriage p := (k.carriage p).trans (h.carriage p)
  outbox := h.outbox.trans k.outbox

theorem State.Answers.refl (s : State) (tn : Nat) : s.Answers s tn := ⟨⟨rfl, rfl, fun _ => rfl, fun _ => rfl, List.prefix_rfl⟩, rfl⟩

theorem State.Answers.trans (h : s.Answers t tn) (k : t.Answers u tn) : s.Answers u tn :=
  ⟨h.toReaches.trans k.toReaches, k.cmds.trans h.cmds⟩

theorem State.Answers.foldl {α : Type} {g : State → α → State} (hg : ∀ (t : State) x, t.Answers (g t x) tn) (l : List α) (s : State) :
    s.Answers (l.foldl g s) tn :=
  List.foldlRecOn (motive := fun t => s.Answers t tn) l g (.refl s tn) (fun _ h x _ => h.trans (hg _ x))

theorem State.Reaches.usePlane (h : s.Reaches u tn) (pl : Plane) : u.usePlane pl = s.usePlane pl := by
  rw [State.usePlane, h.up]
  rfl

theorem State.Steady.answers {P : WtFrame → Prop} (h : s.Steady P t) (tn : Nat) : s.Answers t tn where
  time := h.time
  cmds := by rw [h.ten]
  host := (congrArg (State.hostEntry · tn) h.standing :)
  up n := (congrArg (fun f : Fabric => f.alive && !f.path.isEmpty) (h.fabs n).fixed :)
  carriage p := by
    have hown : t.ownAddr 0xFF 0 = s.ownAddr 0xFF 0 := (congrArg (State.ownAddr · 0xFF 0) h.standing :)
    have hhost : t.hostEntry tn = s.hostEntry tn := (congrArg (State.hostEntry · tn) h.standing :)
    have hcarriage : ∀ me mac ip n, (t.fab 0).carriage me mac ip n = (s.fab 0).carriage me mac ip n := fun me mac ip n =>
      (congrArg (Fabric.carriage · me mac ip n) (h.fabs 0).fixed :)
    simp only [State.mgmtCarriage, hown, hhost, hcarriage]
  outbox := h.outbox

/-- A change of a fabric die that leaves its paths and its carriage. -/
theorem State.answers_updFab (s : State) (n tn : Nat) {g : Fabric → Fabric} (hup : ∀ f, (g f).path = f.path ∧ (g f).alive = f.alive := by intro; exact ⟨rfl, rfl⟩)
    (hcarriage : ∀ f, (g f).carriage = f.carriage := by intro; rfl) : s.Answers (s.updFab n g) tn where
  time := rfl
  cmds := rfl
  host := rfl
  up m := by
    have halive : ((s.updFab n g).fab m).alive = (s.fab m).alive := s.updFab_fab_of Fabric.alive n m (fun f => (hup f).2)
    have hpath : ((s.updFab n g).fab m).path = (s.fab m).path := s.updFab_fab_of Fabric.path n m (fun f => (hup f).1)
    rw [State.planeUp, halive, hpath]
    rfl
  carriage p := by
    have hsame : ((s.updFab n g).fab 0).carriage = (s.fab 0).carriage := s.updFab_fab_of Fabric.carriage n 0 hcarriage
    rw [State.mgmtCarriage, hsame]
    rfl
  outbox := List.prefix_rfl

/-- A change of a tenancy that leaves its host. -/
theorem State.reaches_updTen (s : State) (tn : Nat) {g : Tenancy → Tenancy}
    (hhost : ∀ n, (g n).hostMac = n.hostMac ∧ (g n).ip6hi = n.ip6hi ∧ (g n).ip6lo = n.ip6lo ∧ (g n).queues = n.queues := by
      intro; exact ⟨rfl, rfl, rfl, rfl⟩) : s.Reaches (s.updTen tn g) tn := by
  have hten : (s.updTen tn g).ten tn = g (s.ten tn) := by rw [State.ten_updTen, if_pos rfl]
  obtain ⟨hmac, hhi, hlo, hqueues⟩ := hhost (s.ten tn)
  have hentry : (s.updTen tn g).hostEntry tn = s.hostEntry tn := by simp only [State.hostEntry, hten, hmac, hhi, hlo, hqueues]
  refine ⟨rfl, hentry, fun _ => rfl, fun p => ?_, List.prefix_rfl⟩
  rw [State.mgmtCarriage, hentry]
  rfl

/-- A change of a tenancy that leaves its queue and its host. -/
theorem State.answers_updTen (s : State) (tn : Nat) {g : Tenancy → Tenancy} (hcmds : ∀ n, (g n).cmds = n.cmds := by intro; rfl)
    (hhost : ∀ n, (g n).hostMac = n.hostMac ∧ (g n).ip6hi = n.ip6hi ∧ (g n).ip6lo = n.ip6lo ∧ (g n).queues = n.queues := by
      intro; exact ⟨rfl, rfl, rfl, rfl⟩) : s.Answers (s.updTen tn g) tn :=
  ⟨s.reaches_updTen tn hhost, by rw [State.ten_updTen, if_pos rfl, hcmds]⟩

end Answers

/-- A request that node firmware issues is outstanding then. -/
theorem State.mem_outst_issueReq (s : State) (pl : Plane) (r : ReqPlan) (e : RankEntry) : ∃ o ∈ ((s.issueReq pl r e).1.fab pl.val).outst,
    o.ten = r.ten ∧ o.owner = r.owner ∧ o.frame.type = r.type ∧ o.frame.jobId = r.jobId ∧ o.frame.dstRank = BitVec.ofNat 16 r.rank ∧ o.frame.payload = r.payload := by
  unfold State.issueReq
  extract_lets fb t15 tag peer seq path f o s1 s2
  have h1 : (s1.fab pl.val).outst = (s.fab pl.val).outst ++ [o] := by
    unfold s1
    rw [State.fab_updFab, if_pos rfl]
  have h2 : (s2.fab pl.val).outst = (s.fab pl.val).outst ++ [o] :=
    (State.pay_fab_of Fabric.outst _ _ _ _ _).trans ((State.updFab_fab_of Fabric.outst s1 _ _).trans h1)
  refine ⟨o, ?_, rfl, rfl, rfl, rfl, rfl, rfl⟩
  split
  · exact h1 ▸ List.mem_append_right _ (List.mem_singleton_self o)
  · rw [State.sendWt_fab_of Fabric.outst, h2]
    exact List.mem_append_right _ (List.mem_singleton_self o)

/-- A frame of node firmware is outstanding, or it waits (R291, R298). -/
theorem State.sentOn_issueOrWait (s : State) (pl : Plane) (tn : Nat) {rank : Nat} (hrank : rank < 65536) (p : List Byte) (e : RankEntry) :
    SentOn (s.issueOrWait pl { ten := tn, rank := rank, type := 0xA, payload := p } e) pl tn rank p := by
  have hwaits : ∀ u : State, (u.fab pl.val).waiting = (s.fab pl.val).waiting ++ [{ ten := tn, rank := rank, type := 0xA, payload := p }] →
      SentOn u pl tn rank p := fun u hu =>
    .inr ⟨_, hu ▸ List.mem_append_right _ (List.mem_singleton_self _), rfl, rfl, rfl, rfl, rfl, rfl⟩
  unfold State.issueOrWait
  extract_lets peer s1
  have h1 : (s1.fab pl.val).waiting = (s.fab pl.val).waiting ++ [{ ten := tn, rank := rank, type := 0xA, payload := p }] := by
    unfold s1
    rw [State.fab_updFab, if_pos rfl]
  split
  · obtain ⟨o, ho, hten, howner, htype, hjob, hdst, hpayload⟩ := s.mem_outst_issueReq pl { ten := tn, rank := rank, type := 0xA, payload := p } e
    refine .inl ⟨o, ho, hten, howner, htype, hjob, ?_, hpayload⟩
    rw [hdst, BitVec.toNat_ofNat]
    exact Nat.mod_eq_of_lt hrank
  · split
    · refine hwaits _ ((State.sendWt_fab_of Fabric.waiting _ _ _ _ _ _ _).trans ?_)
      exact (s1.updFab_fab_of Fabric.waiting _ _).trans h1
    · exact hwaits s1 h1

/-- A tenancy whose command ends as `d` says: the command leaves the queue, and its digest is kept. -/
def Tenancy.without (n : Tenancy) (c : HostCmd) (d : Done) : Tenancy :=
  { n with cmds := n.cmds.erase c
           digests := if d.verified then n.digests ++ [{ digest := c.digest, expire := c.sig 0x18 8, status := d.status, reason := d.reason }] else n.digests }

theorem State.cmdDone_inTime {s : State} {c : HostCmd} (h : c.endBy = 0 ∨ s.t ≤ c.endBy) (tn : Nat) (d : Done) : s.cmdDone tn c d =
    (s.updTen tn (·.without c d)).hostReply tn c.port c.queue c.cid d.status d.reason d.result c.tAccept d.data := by
  have hlate : (c.endBy != 0 && decide (c.endBy < s.t)) = false := by
    rcases h with h0 | hle
    · simp [h0]
    · simp [Nat.not_lt.2 hle]
  unfold State.cmdDone
  rw [hlate]
  rfl

/-- A completion goes to a configured host by the way the command came. -/
theorem State.told_hostReply {s u : State} {tn : Nat} (h : s.Reaches u tn) (htn : tn < 8) (port : Option Plane) (queue : Nat) (cid : BitVec 16)
    (st reason : Byte) (result tAccept : Nat) (data : List Byte) :
    Told s (u.hostReply tn port queue cid st reason result tAccept data) tn port (completion queue cid st reason result tAccept s.t data) := by
  cases port with
  | none =>
    obtain ⟨l, hl⟩ := h.outbox
    refine ⟨l, _, _, congrArg (· ++ [_]) hl.symm, h.carriage _, rfl, rfl, rfl, ?_, _, List.mem_append_right _ (List.mem_singleton_self _), rfl⟩
    rw [← h.time]
    rfl
  | some pl =>
    intro hqueues
    have hvalid : (u.hostEntry tn).valid = true := by
      rw [h.host]
      simpa [State.hostEntry] using hqueues
    have hdest : u.fwDest (u.usePlane pl).val tn (0xFFF0 + tn) = some (u.hostEntry tn) := by
      rw [State.fwDest, if_pos (by omega), if_pos hvalid]
    rw [State.hostReply, h.time, ← h.usePlane]
    rw [State.fwSend, hdest]
    exact u.sentOn_issueOrWait _ tn (by omega) _ _

/-- A command that is not past its end-by time completes with the status it ends with. -/
theorem State.steady_hostReply (s : State) (tn : Nat) (port : Option Plane) (queue : Nat) (cid : BitVec 16) (st reason : Byte) (result tAccept : Nat)
    (data : List Byte) : s.Steady (fun _ => True) (s.hostReply tn port queue cid st reason result tAccept data) := by
  cases port with
  | none => exact s.steady_mgmtSend tn true _
  | some pl => exact s.steady_fwSend (fun _ _ => trivial) _ tn _ _

theorem answered_cmdDone {s u : State} {tn : Nat} (h : s.Answers u tn) (htn : tn < 8) {c : HostCmd} (hend : c.endBy = 0 ∨ s.t ≤ c.endBy) (d : Done) :
    Answered s (u.cmdDone tn c d) tn c d.status d.reason d.result d.data := by
  rw [State.cmdDone_inTime (h.time ▸ hend)]
  have hwithout : s.Reaches (u.updTen tn (·.without c d)) tn := h.toReaches.trans (u.reaches_updTen tn)
  refine ⟨?_, State.told_hostReply hwithout htn _ _ _ _ _ _ _ _⟩
  rw [(State.steady_hostReply _ tn _ _ _ _ _ _ _ _).ten, State.ten_updTen, if_pos rfl, ← h.cmds]
  rfl

/-- A lowering of the profile takes nothing from an answer. -/
theorem answered_lowerProfile {s u : State} {tn : Nat} {c : HostCmd} {st reason : Byte} {result : Nat} {data : List Byte}
    (h : Answered s u tn c st reason result data) : Answered s u.lowerProfile tn c st reason result data := by
  unfold State.lowerProfile
  split
  · obtain ⟨dies, hstart⟩ := u.startChange_eq (u.cpc.active + 1)
    rw [hstart]
    exact h
  · exact h

/-! ### A command executes after its checks (R429, R434, R437) -/

section Checks
variable {s : State} {tn : Nat}

theorem State.liveDigests_pruneDigests (s : State) (tn : Nat) : (s.pruneDigests tn).liveDigests tn = s.liveDigests tn := by
  unfold State.liveDigests State.pruneDigests
  rw [State.ten_updTen, if_pos rfl]
  exact List.filter_filter.trans (List.filter_congr (fun _ _ => Bool.and_self _))

theorem State.preCheck_pruneDigests (s : State) (tn : Nat) (c : HostCmd) : (s.pruneDigests tn).preCheck tn c = s.preCheck tn c := by
  unfold State.preCheck
  rw [s.liveDigests_pruneDigests]
  rfl

/-- The command that a tenancy executes next takes its effect. -/
theorem State.Ready.runCmd {code : Nat} {c : HostCmd} (h : s.Ready tn code c) (act : State → HostCmd → State) :
    s.runCmd tn code act = act (s.pruneDigests tn) c := by
  obtain ⟨hnext, hchecks, -⟩ := h
  rw [State.runCmd, hnext]
  dsimp only
  split
  · rfl
  · next hfresh =>
    rw [s.preCheck_pruneDigests, hchecks.resolve_left hfresh]

theorem State.Ready.inTime {code : Nat} {c : HostCmd} (h : s.Ready tn code c) : c.endBy = 0 ∨ s.t ≤ c.endBy := h.2.2

theorem State.answers_pruneDigests (s : State) (tn : Nat) : s.Answers (s.pruneDigests tn) tn := s.answers_updTen tn
theorem State.closes_pruneDigests (s : State) (tn : Nat) : s.Closes (s.pruneDigests tn) tn := s.closes_updTen tn

theorem State.ChansOnly.answers {t : State} (h : s.ChansOnly t) (tn : Nat) : s.Answers t tn := (h.steady (P := fun _ => True)).answers tn

/-- A blob that is good lies in GDDR; reading it touches nothing else. -/
theorem State.chansOnly_of_blob {npa n : Nat} {digest b : List Byte} {s2 : State} (h : s.blob tn npa n digest = (s2, .ok b)) : s.ChansOnly s2 := by
  unfold State.blob at h
  split at h
  · cases h
  · next hcovers =>
    have hspace : npa / 2 ^ 48 = 0 := by
      have hboth : s.tenCovers tn npa n .r = true := by simpa using hcovers
      rw [State.tenCovers, Bool.and_eq_true, beq_iff_eq] at hboth
      exact hboth.1
    have hread : s.ChansOnly (s.svcRead npa n).1 := by
      rw [State.svcRead, hspace]
      exact s.chansOnly_gddrRead _ _ _
    dsimp only at h
    split at h
    · cases h
    · split at h
      · cases h
      · cases h
        exact hread

/-- The job's state is one of those a command needs (R450). -/
theorem State.stateCheck_of_mem {states : List Nat} (h : (s.ten tn).job.state.toNat ∈ states) : s.stateCheck tn states = none := by
  unfold State.stateCheck
  simp [h]

end Checks

end Sys2Proof.Machine
end

section
/-! PROOFS. JOB_REVOKE and its drain (R343, R450), JOB_FREE and RESTORE (R431, R443). -/

namespace Sys2Proof.Machine

/-! ### The cores a job holds -/

theorem coreOfKey_coreKey (x : CoreId) : coreOfKey (coreKey x) = x := by
  obtain ⟨⟨d, hd⟩, ⟨p, hp⟩⟩ := x
  have hdie : (d * 21572 + p) / 21572 % 4 = d := by omega
  have hcore : (d * 21572 + p) % 21572 = p := by omega
  simp only [coreOfKey, coreKey, hdie, hcore]

theorem State.mem_jobCores {s : State} {tn : Nat} {x : CoreId} (hvalid : (s.core x).jobValid = true) (hten : (s.core x).tenancy.toNat = tn) :
    x ∈ s.jobCores tn := by
  have hmem : (coreKey x, s.core x) ∈ s.cores := (Tab.get_mem s.cores (coreKey x)).resolve_left (fun h => by
    have hdefault : (s.core x).jobValid = false := by
      rw [State.core, h]
      rfl
    rw [hdefault] at hvalid
    cases hvalid)
  refine List.mem_map.2 ⟨_, List.mem_filter.2 ⟨hmem, ?_⟩, coreOfKey_coreKey x⟩
  simp [hvalid, hten]

/-- Every core of a job stops, and its operations are aborted. -/
def State.haltJob (s : State) (cs : List CoreId) : State := cs.foldl (fun s c => (s.abortAll c stJobRevoked).setHalt c true) s

section Halt
variable {P : WtFrame → Prop} (s : State)

theorem State.steady_haltJob (cs : List CoreId) : s.Steady P (s.haltJob cs) :=
  .foldl (fun t c => (t.steady_abortAll c _).trans (State.steady_setHalt _ c)) cs s

theorem State.haltCu_haltJob {cs : List CoreId} {x : CoreId} (hx : x ∈ cs) : ((s.haltJob cs).core x).haltCu = true := by
  induction cs generalizing s with
  | nil => cases hx
  | cons c cs ih =>
    rcases List.mem_cons.1 hx with rfl | hrest
    · refine ((State.steady_haltJob (P := fun _ => True) _ cs).cores x).2.2 ?_
      exact congrArg Core.haltCu ((State.core_updCore _ _ _ _).trans (if_pos rfl))
    · exact ih _ hrest

end Halt

/-! ### JOB_REVOKE (R343) -/

section Revoke
variable (s : State) (tn : Nat)

/-- The job is DRAINING. -/
def State.draining : State := s.updTen tn (fun n => { n with job := { n.job with state := 3, running := false, tState := s.t } })

/-- The generation in the making is abandoned, and a restore ends (R414). -/
def State.leaveCkpt : State :=
  let k := s.ckpt tn
  if k.state = 1 ∨ k.state = 2 then (if s.isRank0 tn then s.abandonAll tn 4 else s.abandonLocal tn 4)
  else if k.state = 3 then s.ckptIdle tn else s

theorem State.revokeStart_eq : s.revokeStart tn = (let s1 := (s.draining tn).failRequests tn
    (((s1.haltJob (s1.jobCores tn)).revokeColls tn).ecRevoke tn).resetApps tn).leaveCkpt tn := rfl

theorem State.answers_draining : s.Answers (s.draining tn) tn := s.answers_updTen tn

theorem State.job_draining : ((s.draining tn).ten tn).job = { (s.ten tn).job with state := 3, running := false, tState := s.t } := by
  rw [State.draining, State.ten_updTen, if_pos rfl]

variable {s tn}

theorem State.steady_leaveCkpt (h : (s.ten tn).job.state ≠ 2) : s.Steady (fun f => f.jobId = 0) (s.leaveCkpt tn) := by
  unfold State.leaveCkpt
  refine .ite _ (.ite _ ?_ ?_) (.ite _ ?_ (.refl s))
  · exact s.steady_abandonAll (fun _ => id) h 4
  · exact s.steady_abandonLocal h 4
  · exact s.steady_ckptIdle h

theorem State.revokeStart_drains (s : State) (tn : Nat) : (s.draining tn).Steady (fun f => f.jobId = 0) (s.revokeStart tn) ∧
    (∀ pl, pl < 2 → (s.revokeStart tn).NoneOfJob tn pl) ∧
    ∀ x : CoreId, (s.core x).jobValid = true → (s.core x).tenancy.toNat = tn → ((s.revokeStart tn).core x).haltCu = true := by
  rw [s.revokeStart_eq]
  extract_lets s1
  have h1 : (s.draining tn).Steady (fun f => f.jobId = 0) s1 := State.steady_failRequests _ tn
  have hnone : ∀ pl, pl < 2 → s1.NoneOfJob tn pl := fun pl hpl => State.noneOfJob_failRequests _ tn hpl
  clear_value s1
  have hhalt : s1.Steady (fun f => f.jobId = 0) (s1.haltJob (s1.jobCores tn)) := s1.steady_haltJob _
  have hhalted : ∀ x : CoreId, (s.core x).jobValid = true → (s.core x).tenancy.toNat = tn → ((s1.haltJob (s1.jobCores tn)).core x).haltCu = true := by
    intro x hvalid hten
    obtain ⟨hvalid1, hten1, -⟩ := h1.cores x
    exact s1.haltCu_haltJob (State.mem_jobCores (hvalid1.trans hvalid) (by rw [hten1]; exact hten))
  generalize s1.haltJob (s1.jobCores tn) = s2 at hhalt hhalted ⊢
  have hend : s2.Steady (fun f => f.jobId = 0) (((s2.revokeColls tn).ecRevoke tn).resetApps tn) :=
    ((s2.steady_revokeColls tn).trans (State.steady_ecRevoke _ tn)).trans (State.steady_resetApps _ tn)
  generalize ((s2.revokeColls tn).ecRevoke tn).resetApps tn = s3 at hend ⊢
  have hinactive : (s3.ten tn).job.state ≠ 2 := by
    rw [((h1.trans hhalt).trans hend).ten, State.job_draining]
    exact (by decide : (3 : BitVec 3) ≠ 2)
  have hleave := State.steady_leaveCkpt hinactive
  exact ⟨((h1.trans hhalt).trans hend).trans hleave, fun pl hpl => ((hhalt.trans hend).trans hleave).noneOfJob (hnone pl hpl),
    fun x hvalid hten => ((hend.trans hleave).cores x).2.2 (hhalted x hvalid hten)⟩

end Revoke

section Commands
variable {s : State} {tn : Ten} {c : HostCmd}

theorem exec_jobRevoke (tn : Ten) (s : State) : exec (.jobRevoke tn) s = .next (s.runCmd tn.val 0x12 (State.cmdJobRevoke tn.val)) := rfl
theorem exec_jobFree (tn : Ten) (s : State) : exec (.jobFree tn) s = .next (s.runCmd tn.val 0x13 (State.cmdJobFree tn.val)) := rfl
theorem exec_restore (tn : Ten) (s : State) : exec (.restore tn) s = .next (s.runCmd tn.val 0x14 (State.cmdRestore tn.val)) := rfl

/-- The command names the job of a tenancy. -/
def State.NamesJob (s : State) (tn : Nat) (c : HostCmd) : Prop :=
  (s.ten tn).job.jobId = BitVec.ofNat 16 (c.num 0 2) ∧ (s.ten tn).job.jobGen = BitVec.ofNat 16 (c.num 2 2)

theorem State.cmdJobRevoke_active {s : State} {tn : Nat} (hjob : s.NamesJob tn c) (hstate : (s.ten tn).job.state = 2) : State.cmdJobRevoke tn s c =
    (s.revokeStart tn).updTen tn (fun n => { n with cmds := n.cmds.erase c, revoke := some c }) := by
  unfold State.cmdJobRevoke
  simp [hjob.1, hjob.2, hstate]

theorem State.cmdJobRevoke_loading {s : State} {tn : Nat} (hjob : s.NamesJob tn c) (hstate : (s.ten tn).job.state = 1) (hckpt : (s.ckpt tn).state ≠ 3) :
    State.cmdJobRevoke tn s c =
      ((s.updTen tn (fun n => { n with job := { n.job with state := 4, running := false, tState := s.t } })).cmdDone tn c doneV).lowerProfile := by
  have hlive : ¬ ((s.ten tn).job.state = 0 ∨ (s.ten tn).job.jobId ≠ BitVec.ofNat 16 (c.num 0 2) ∨ (s.ten tn).job.jobGen ≠ BitVec.ofNat 16 (c.num 2 2)) := by
    simp [hjob.1, hjob.2, hstate]
  unfold State.cmdJobRevoke
  dsimp only
  rw [if_neg hlive, if_neg (by simp [hstate]), if_pos hstate, if_neg hckpt]

theorem jobRevoke_drains (h : s.Ready tn.val 0x12 c) (hjob : s.NamesJob tn.val c) (hstate : (s.ten tn.val).job.state = 2) :
    ∃ t, exec (.jobRevoke tn) s = .next t ∧ (t.ten tn.val).job.state = 3 ∧ (t.ten tn.val).job.running = false ∧
      (t.ten tn.val).revoke = some c ∧ (t.ten tn.val).cmds = (s.ten tn.val).cmds.erase c ∧
      (∀ pl o, pl < 2 → o ∈ (t.fab pl).outst → o.ten = tn.val → o.frame.jobId = 0) ∧
      ∀ x : CoreId, (s.core x).jobValid = true → (s.core x).tenancy.toNat = tn.val → (t.core x).haltCu = true := by
  have hprune := s.closes_pruneDigests tn.val
  obtain ⟨hsteady, hnone, hhalt⟩ := (s.pruneDigests tn.val).revokeStart_drains tn.val
  have hten : ∀ g, (((s.pruneDigests tn.val).revokeStart tn.val).updTen tn.val g).ten tn.val = g (((s.pruneDigests tn.val).draining tn.val).ten tn.val) := fun g => by
    rw [State.ten_updTen, if_pos rfl, hsteady.ten]
  have hqueue : (((s.pruneDigests tn.val).draining tn.val).ten tn.val).cmds = (s.ten tn.val).cmds :=
    ((s.answers_pruneDigests tn.val).trans (State.answers_draining _ tn.val)).cmds
  have hnames : (s.pruneDigests tn.val).NamesJob tn.val c := by rwa [State.NamesJob, hprune.job]
  have hactive : ((s.pruneDigests tn.val).ten tn.val).job.state = 2 := by rwa [hprune.job]
  rw [exec_jobRevoke, h.runCmd, State.cmdJobRevoke_active hnames hactive]
  generalize (s.pruneDigests tn.val).revokeStart tn.val = u at hnone hhalt hten ⊢
  refine ⟨_, rfl, ?_, ?_, ?_, ?_, fun pl o hpl ho => hnone pl hpl o ho, fun x hvalid hown => hhalt x hvalid hown⟩
  · rw [hten, State.job_draining]
  · rw [hten, State.job_draining]
  · rw [hten]
  · rw [hten, hqueue]

theorem jobRevoke_ends (h : s.Ready tn.val 0x12 c) (hjob : s.NamesJob tn.val c) (hstate : (s.ten tn.val).job.state = 1)
    (hckpt : (s.ckpt tn.val).state ≠ 3) :
    ∃ t, exec (.jobRevoke tn) s = .next t ∧ Answered s t tn.val c stDone 0 0 [] ∧ (t.ten tn.val).job.state = 4 := by
  have hprune := s.closes_pruneDigests tn.val
  rw [exec_jobRevoke, h.runCmd, State.cmdJobRevoke_loading (s := s.pruneDigests tn.val) (by rwa [State.NamesJob, hprune.job]) (by rwa [hprune.job]) hckpt]
  refine ⟨_, rfl, answered_lowerProfile (answered_cmdDone (.trans (s.answers_pruneDigests _) ?_) tn.isLt h.inTime doneV), ?_⟩
  · exact State.answers_updTen _ _
  · rw [(State.closes_lowerProfile _ tn.val).job, (State.closes_cmdDone _ tn.val c doneV).job, State.ten_updTen, if_pos rfl]

/-! ### The end of the drain (R343 steps 4 to 6) -/

/-- The cores of a job are no longer valid. -/
def State.freeCores (s : State) (cs : List CoreId) : State := cs.foldl (fun s c => s.updCore c (fun k => { k with jobValid := false })) s

theorem State.jobValid_freeCores (s : State) {cs : List CoreId} {x : CoreId} (h : x ∈ cs ∨ (s.core x).jobValid = false) :
    ((s.freeCores cs).core x).jobValid = false := by
  induction cs generalizing s with
  | nil => exact h.resolve_left (by simp)
  | cons c cs ih =>
    refine ih (s.updCore c _) ?_
    rw [State.core_updCore]
    by_cases hc : x = c
    · exact .inr (by rw [if_pos hc])
    · rw [if_neg hc]
      exact h.imp_left (fun hx => (List.mem_cons.1 hx).resolve_left hc)

theorem State.freeCores_eq (s : State) (cs : List CoreId) : s.freeCores cs = { s with cores := (s.freeCores cs).cores } :=
  List.foldlRecOn (motive := fun t : State => t = { s with cores := t.cores }) cs _ rfl (fun t h x _ => by
    rw [h]
    rfl)

/-- A fabric die whose windows of a tenancy are no longer valid. -/
def Fabric.endJob (tn : Nat) (f : Fabric) : Fabric :=
  { f with windows := f.windows.map (fun w => if w.1 / 256 = tn then (w.1, { w.2 with valid := false }) else w), slotsUsed := f.slotsUsed.set tn 0 }

theorem Fabric.endJob_invalid (tn : Nat) (f : Fabric) {n : Nat} (h : n < 256) : ((f.endJob tn).windows.get (tn * 256 + n)).valid = false := by
  have hkey : (tn * 256 + n) / 256 = tn := by omega
  rcases Tab.get_map_where f.windows (p := fun k => k / 256 = tn) (fun w => { w with valid := false }) hkey with hget | ⟨hget, -⟩
  · exact congrArg Window.valid hget
  · exact congrArg Window.valid hget

/-- The package once a job has drained. -/
def State.drainedJob (s : State) (tn : Nat) : State :=
  (((s.freeCores (s.jobCores tn)).updFab 0 (Fabric.endJob tn)).updFab 1 (Fabric.endJob tn)).updTen tn
    (fun n => { n with revoke := none, job := { n.job with state := 4, tState := s.t } })

theorem exec_revokeDrained (hrevoke : (s.ten tn.val).revoke = some c) (hrun : s.cpc.stopped = false) (hidle : s.revokeIdle tn.val = true) :
    exec (.revokeDrained tn) s = .next (if c.code = 0x12 then (s.drainedJob tn.val).cmdDone tn.val c doneV else s.drainedJob tn.val).lowerProfile := by
  change execRevokeDrained tn s = _
  unfold execRevokeDrained
  simp only [hrevoke, hrun, hidle, Bool.not_true, Bool.or_self, Bool.false_eq_true, if_false]
  rfl

section Drained
variable (s : State) (tn : Nat)

theorem State.answers_freeCores (cs : List CoreId) : s.Answers (s.freeCores cs) tn := by
  rw [s.freeCores_eq cs]
  exact ⟨⟨rfl, rfl, fun _ => rfl, fun _ => rfl, List.prefix_rfl⟩, rfl⟩

theorem State.answers_drainedJob : s.Answers (s.drainedJob tn) tn := by
  have hcores := s.answers_freeCores tn (s.jobCores tn)
  have hfab := (hcores.trans (State.answers_updFab _ 0 tn (g := Fabric.endJob tn))).trans (State.answers_updFab _ 1 tn (g := Fabric.endJob tn))
  exact .trans hfab (State.answers_updTen _ tn)

theorem State.core_drainedJob (x : CoreId) : (s.drainedJob tn).core x = (s.freeCores (s.jobCores tn)).core x := rfl

theorem State.ten_drainedJob : (s.drainedJob tn).ten tn =
    { s.ten tn with revoke := none, job := { (s.ten tn).job with state := 4, tState := s.t } } := by
  rw [State.drainedJob, State.ten_updTen, if_pos rfl, s.freeCores_eq]
  rfl

theorem State.windows_drainedJob {pl n : Nat} (hpl : pl < 2) (hn : n < 256) : (((s.drainedJob tn).fab pl).windows.get (tn * 256 + n)).valid = false := by
  have hfab : ∃ f, (s.drainedJob tn).fab pl = Fabric.endJob tn f := by
    rcases (by omega : pl = 0 ∨ pl = 1) with rfl | rfl
    · exact ⟨_, ((State.fab_updFab _ 1 0 _).trans (if_neg (by decide))).trans ((State.fab_updFab _ 0 0 _).trans (if_pos rfl))⟩
    · exact ⟨_, (State.fab_updFab _ 1 1 _).trans (if_pos rfl)⟩
  obtain ⟨f, hf⟩ := hfab
  rw [hf]
  exact f.endJob_invalid tn hn

end Drained

theorem revokeDrained_ends (hrevoke : (s.ten tn.val).revoke = some c) (hrun : s.cpc.stopped = false) (hidle : s.revokeIdle tn.val = true)
    (hend : c.endBy = 0 ∨ s.t ≤ c.endBy) :
    ∃ t, exec (.revokeDrained tn) s = .next t ∧ (t.ten tn.val).job = { (s.ten tn.val).job with state := 4, tState := s.t } ∧ (t.ten tn.val).revoke = none ∧
      (c.code = 0x12 → Answered s t tn.val c stDone 0 0 []) ∧
      (∀ pl n, pl < 2 → n < 256 → ((t.fab pl).windows.get (tn.val * 256 + n)).valid = false) ∧
      ∀ x : CoreId, (s.core x).jobValid = true → (s.core x).tenancy.toNat = tn.val → (t.core x).jobValid = false := by
  refine ⟨_, exec_revokeDrained hrevoke hrun hidle, ?_⟩
  have hcloses : (s.drainedJob tn.val).Closes
      (if c.code = 0x12 then (s.drainedJob tn.val).cmdDone tn.val c doneV else s.drainedJob tn.val).lowerProfile tn.val := by
    refine .trans ?_ (State.closes_lowerProfile _ tn.val)
    split
    · exact State.closes_cmdDone _ _ _ _
    · exact .refl _ _
  have hten := s.ten_drainedJob tn.val
  refine ⟨by rw [hcloses.job, hten], by rw [hcloses.revoke, hten], fun hcode => ?_, fun pl n hpl hn => ?_, fun x hvalid hown => ?_⟩
  · rw [if_pos hcode]
    exact answered_lowerProfile (answered_cmdDone (s.answers_drainedJob tn.val) tn.isLt hend doneV)
  · rw [hcloses.windows]
    exact s.windows_drainedJob tn.val hpl hn
  · rw [hcloses.core, s.core_drainedJob]
    exact s.jobValid_freeCores (.inl (State.mem_jobCores hvalid hown))

/-! ### JOB_FREE (R431, R443) -/

/-- A fabric die without the tables of a tenancy's job. -/
def Fabric.freeJob (tn : Nat) (f : Fabric) : Fabric :=
  { f with windows := f.windows.filter (fun w => w.1 / 256 != tn), rackMap := f.rackMap.filter (fun w => w.1 / 256 != tn)
           groups := f.groups.filter (fun w => w.1 / 16 != tn) }

/-- The package without the tables of a tenancy's job. -/
def State.freeTables (s : State) (tn : Nat) : State :=
  (((s.returnShared tn).clearRanks tn).updFab 0 (Fabric.freeJob tn)).updFab 1 (Fabric.freeJob tn)

/-- The package when a job has been freed. -/
def State.freedJob (s : State) (tn : Nat) : State :=
  ((s.freeTables tn).addHistory (s.ten tn).job.jobId (s.ten tn).job.jobGen).updTen tn (fun n => { n with job := { tState := s.t } })

theorem State.cmdJobFree_revoked {s : State} {tn : Nat} (h : (s.ten tn).job.state = 4) : State.cmdJobFree tn s c = (s.freedJob tn).cmdDone tn c doneV := by
  unfold State.cmdJobFree
  rw [if_neg (by simp [h])]
  rfl

section Free
variable (s : State) (tn : Nat)

/-- The history alone differs. -/
theorem State.addHistory_eq (id gen : BitVec 16) : ∃ l, s.addHistory id gen = { s with pkg := { s.pkg with history := l } } := by
  unfold State.addHistory
  extract_lets h e put past
  split
  · exact ⟨_, rfl⟩
  · split
    · exact ⟨_, rfl⟩
    · split
      · exact ⟨_, rfl⟩
      · exact ⟨_, rfl⟩

/-- With room in the history the job is recorded. -/
theorem State.mem_addHistory (id gen : BitVec 16) (h : s.pkg.history.length < 64) : (id, gen, s.t) ∈ (s.addHistory id gen).pkg.history := by
  unfold State.addHistory
  dsimp only
  split
  · exact List.mem_append_right _ (List.mem_singleton_self _)
  · exact List.mem_append_right _ (List.mem_singleton_self _)

theorem State.answers_addHistory (id gen : BitVec 16) : s.Answers (s.addHistory id gen) tn := by
  obtain ⟨l, hl⟩ := s.addHistory_eq id gen
  rw [hl]
  exact ⟨⟨rfl, rfl, fun _ => rfl, fun _ => rfl, List.prefix_rfl⟩, rfl⟩

theorem State.fab_addHistory (id gen : BitVec 16) (n : Nat) : (s.addHistory id gen).fab n = s.fab n := by
  obtain ⟨l, hl⟩ := s.addHistory_eq id gen
  rw [hl]
  rfl

theorem State.answers_returnShared : s.Answers (s.returnShared tn) tn := .foldl (fun t n => t.answers_updFab n tn) _ s

/-- Buffers return: the tables stand. -/
theorem State.closes_returnShared : s.Closes (s.returnShared tn) tn := .foldl (fun t n => t.closes_updFab n tn) _ s

/-- A fabric die without the ranks of a tenancy's job. -/
def Fabric.clearRanks (tn : Nat) (f : Fabric) : Fabric := { f with ranks := f.ranks.filter (fun e => e.1 / 65536 != tn) }

theorem State.clearRanks_eq : s.clearRanks tn = (s.updFab 0 (Fabric.clearRanks tn)).updFab 1 (Fabric.clearRanks tn) := rfl

/-- The same change of both fabric dies. -/
theorem State.fab_updBoth (g : Fabric → Fabric) {pl : Nat} (h : pl < 2) : ((s.updFab 0 g).updFab 1 g).fab pl = g (s.fab pl) := by
  rcases (by omega : pl = 0 ∨ pl = 1) with rfl | rfl <;> simp

theorem State.answers_updBoth {g : Fabric → Fabric} (hup : ∀ f, (g f).path = f.path ∧ (g f).alive = f.alive := by intro; exact ⟨rfl, rfl⟩)
    (hcarriage : ∀ f, (g f).carriage = f.carriage := by intro; rfl) : s.Answers ((s.updFab 0 g).updFab 1 g) tn :=
  (s.answers_updFab 0 tn hup hcarriage).trans (State.answers_updFab _ 1 tn hup hcarriage)

theorem State.answers_freeTables : s.Answers (s.freeTables tn) tn := by
  have hranks : s.Answers ((s.returnShared tn).clearRanks tn) tn := (s.answers_returnShared tn).trans (State.answers_updBoth _ tn (g := Fabric.clearRanks tn))
  exact hranks.trans (State.answers_updBoth _ tn (g := Fabric.freeJob tn))

theorem State.answers_freedJob : s.Answers (s.freedJob tn) tn := by
  have hhistory := (s.answers_freeTables tn).trans (State.answers_addHistory _ tn (s.ten tn).job.jobId (s.ten tn).job.jobGen)
  exact .trans hhistory (State.answers_updTen _ tn)

theorem State.fab_freedJob {pl : Nat} (h : pl < 2) : ((s.freedJob tn).fab pl).tables =
    ((s.fab pl).windows.filter (fun w => w.1 / 256 != tn), (s.fab pl).rackMap.filter (fun w => w.1 / 256 != tn),
      (s.fab pl).groups.filter (fun w => w.1 / 16 != tn), (s.fab pl).ranks.filter (fun e => e.1 / 65536 != tn)) := by
  have hfab : (s.freedJob tn).fab pl = (s.freeTables tn).fab pl := State.fab_addHistory _ _ _ pl
  have hshared := s.closes_returnShared tn
  rw [hfab, State.freeTables, State.fab_updBoth _ _ h, State.clearRanks_eq, State.fab_updBoth _ _ h, ← hshared.windows, ← hshared.rackMap, ← hshared.groups,
    ← hshared.ranks]
  rfl

theorem State.mem_history_freedJob (h : s.pkg.history.length < 64) :
    ((s.ten tn).job.jobId, (s.ten tn).job.jobGen, s.t) ∈ (s.freedJob tn).pkg.history := by
  have htime : (s.freeTables tn).t = s.t := (s.answers_freeTables tn).time
  have hpkg : (s.freeTables tn).pkg = s.pkg := by
    simp only [State.freeTables, State.clearRanks_eq, State.updFab_pkg, (s.closes_returnShared tn).pkg]
  have hroom : (s.freeTables tn).pkg.history.length < 64 := by rwa [hpkg]
  have hmem := State.mem_addHistory _ (s.ten tn).job.jobId (s.ten tn).job.jobGen hroom
  rw [htime] at hmem
  exact hmem

end Free

theorem jobFree_empties (h : s.Ready tn.val 0x13 c) (hstate : (s.ten tn.val).job.state = 4) :
    ∃ t, exec (.jobFree tn) s = .next t ∧ Answered s t tn.val c stDone 0 0 [] ∧
      (t.ten tn.val).job = { tState := s.t } ∧
      (∀ pl n, pl < 2 → n < 256 → (t.fab pl).windows.get (tn.val * 256 + n) = {} ∧ (t.fab pl).rackMap.get (tn.val * 256 + n) = {}) ∧
      (∀ pl g, pl < 2 → g < 16 → (t.fab pl).groups.get (tn.val * 16 + g) = {}) ∧
      (∀ pl r, pl < 2 → r < 65536 → (t.fab pl).ranks.get (tn.val * 65536 + r) = {}) ∧
      (s.pkg.history.length < 64 → ((s.ten tn.val).job.jobId, (s.ten tn.val).job.jobGen, s.t) ∈ t.pkg.history) := by
  have hprune := s.closes_pruneDigests tn.val
  have hjob : ((s.pruneDigests tn.val).ten tn.val).job = (s.ten tn.val).job := hprune.job
  have hcloses := ((s.pruneDigests tn.val).freedJob tn.val).closes_cmdDone tn.val c doneV
  have htables := fun {pl} (hpl : pl < 2) => (hcloses.tables pl).trans ((s.pruneDigests tn.val).fab_freedJob tn.val hpl)
  have hgone : ∀ {α : Type} [Inhabited α] (l : Tab α) (n k : Nat), k / n = tn.val → Tab.get (l.filter (fun e => e.1 / n != tn.val)) k = default :=
    fun l n k hk => (Tab.get_filter_key l (fun i => i / n != tn.val) k).trans (if_neg (by simp [hk]))
  rw [exec_jobFree, h.runCmd, State.cmdJobFree_revoked (by rwa [hjob])]
  refine ⟨_, rfl, answered_cmdDone ((s.answers_pruneDigests _).trans (State.answers_freedJob _ _)) tn.isLt h.inTime doneV, ?_, fun pl n hpl hn => ⟨?_, ?_⟩,
    fun pl g hpl hg => ?_, fun pl r hpl hr => ?_, fun hroom => ?_⟩
  · rw [hcloses.job, State.freedJob, State.ten_updTen, if_pos rfl]
    rfl
  · rw [show (Fabric.windows _) = _ from congrArg (·.1) (htables hpl)]
    exact hgone _ 256 _ (by omega)
  · rw [show (Fabric.rackMap _) = _ from congrArg (·.2.1) (htables hpl)]
    exact hgone _ 256 _ (by omega)
  · rw [show (Fabric.groups _) = _ from congrArg (·.2.2.1) (htables hpl)]
    exact hgone _ 16 _ (by omega)
  · rw [show (Fabric.ranks _) = _ from congrArg (·.2.2.2) (htables hpl)]
    exact hgone _ 65536 _ (by omega)
  · rw [hcloses.pkg, ← hjob]
    exact State.mem_history_freedJob _ tn.val hroom

/-! ### RESTORE (R416, R431) -/

theorem State.ckpt_restoreStart (s : State) (tn : Nat) :
    ((s.restoreStart tn).ckpt tn).state = 3 ∧ ((s.restoreStart tn).ckpt tn).views = [] ∧ ((s.restoreStart tn).ckpt tn).dones = [] := by
  unfold State.restoreStart
  simp

theorem restore_begins (h : s.Ready tn.val 0x14 c) (hstate : (s.ten tn.val).job.state = 1) :
    ∃ t, exec (.restore tn) s = .next t ∧ Answered s t tn.val c stDone 0 0 [] ∧
      (t.ckpt tn.val).state = 3 ∧ (t.ckpt tn.val).views = [] ∧ (t.ckpt tn.val).dones = [] := by
  have hprune := s.closes_pruneDigests tn.val
  have hcmd : State.cmdRestore tn.val (s.pruneDigests tn.val) c = ((s.pruneDigests tn.val).restoreStart tn.val).cmdDone tn.val c doneV := by
    rw [State.cmdRestore, State.stateCheck_of_mem (by simp [hprune.job, hstate])]
  have hcloses := ((s.pruneDigests tn.val).restoreStart tn.val).closes_cmdDone tn.val c doneV
  have hsteady := (s.pruneDigests tn.val).steady_restoreStart (P := fun _ => True) tn.val
  rw [exec_restore, h.runCmd, hcmd]
  refine ⟨_, rfl, answered_cmdDone ((s.answers_pruneDigests _).trans (hsteady.answers _)) tn.isLt h.inTime doneV, ?_⟩
  rw [hcloses.ckpt]
  exact State.ckpt_restoreStart _ tn.val

end Commands

/-- Settles O34, by what steady work leaves standing (`State.Steady`) while the requests, operations and collectives of the job end. -/
theorem jobsAreRevokedAndFreed : Obligations.JobsAreRevokedAndFreed := by
  unfold Obligations.JobsAreRevokedAndFreed
  intro tn s c
  exact ⟨fun h hid hgen => ⟨jobRevoke_drains h ⟨hid, hgen⟩, jobRevoke_ends h ⟨hid, hgen⟩⟩, revokeDrained_ends, jobFree_empties, restore_begins⟩

end Sys2Proof.Machine
end

section
/-! PROOFS. The commands that set tables and the image (R319, R323, R346, R372, R431, R446, R558). -/

namespace Sys2Proof.Machine

/-! ### What reading a blob and what a command's end leave -/

section Of
variable {s t : State} (h : s.ChansOnly t)
include h

theorem State.ChansOnly.fab (n : Nat) : t.fab n = s.fab n := (congrArg (State.fab · n) h :)
theorem State.ChansOnly.ten (n : Nat) : t.ten n = s.ten n := (congrArg (State.ten · n) h :)
theorem State.ChansOnly.boot : t.boot = s.boot := (congrArg State.boot h :)
theorem State.ChansOnly.outbox : t.outbox = s.outbox := (congrArg State.outbox h :)

end Of

/-- The job is LOADING or ACTIVE, as the commands that set tables need it (R450). -/
theorem State.stateCheck_loaded {s : State} {tn : Nat} (h : (s.ten tn).job.state = 1 ∨ (s.ten tn).job.state = 2) : s.stateCheck tn [1, 2] = none :=
  State.stateCheck_of_mem (by rcases h with h | h <;> simp [h])

theorem Tab.get_foldl_upd_range {α : Type} [Inhabited α] [DecidableEq α] (base : Nat) (F : Nat → α → α) (m : Tab α) (n k : Nat) :
    Tab.get ((List.range n).foldl (fun m i => Tab.upd m (base + i) (F i)) m) k =
      if base ≤ k ∧ k < base + n then F (k - base) (m.get k) else m.get k := by
  induction n with
  | zero => rw [if_neg (by omega)]; rfl
  | succ n ih =>
    rw [List.range_succ, List.foldl_append, List.foldl_cons, List.foldl_nil, Tab.get_upd]
    by_cases hk : k = base + n
    · subst hk
      rw [if_pos rfl, ih, if_neg (by omega), if_pos (by omega), Nat.add_sub_cancel_left]
    · rw [if_neg hk, ih]
      simp only [show (base ≤ k ∧ k < base + n) ↔ (base ≤ k ∧ k < base + (n + 1)) by omega]

section Commands
variable {s : State} {tn : Ten} {c : HostCmd}

theorem exec_windowSet (tn : Ten) (s : State) : exec (.windowSet tn) s = .next (s.runCmd tn.val 0x18 (State.cmdWindowSet tn.val)) := rfl
theorem exec_groupSet (tn : Ten) (s : State) : exec (.groupSet tn) s = .next (s.runCmd tn.val 0x19 (State.cmdGroupSet tn.val)) := rfl
theorem exec_rackMapSet (tn : Ten) (s : State) : exec (.rackMapSet tn) s = .next (s.runCmd tn.val 0x1A (State.cmdRackMapSet tn.val)) := rfl
theorem exec_rankSet (tn : Ten) (s : State) : exec (.rankSet tn) s = .next (s.runCmd tn.val 0x1B (State.cmdRankSet tn.val)) := rfl
theorem exec_imageWrite (tn : Ten) (s : State) : exec (.imageWrite tn) s = .next (s.runCmd tn.val 0x28 (State.cmdImageWrite tn.val)) := rfl

/-! ### WINDOW_SET (R319, R323) -/

/-- A fabric die whose window of a key is out of use. -/
def Fabric.closeWindow (key : Nat) (f : Fabric) : Fabric := { f with windows := f.windows.upd key (fun x => { x with valid := false }) }

/-- A fabric die with a window in its place. -/
def Fabric.putWindow (key : Nat) (w : Window) (f : Fabric) : Fabric := { f with windows := f.windows.set key w }

/-- The command is marked as begun. -/
def State.markStarted (s : State) (tn : Nat) (c : HostCmd) : State :=
  s.updTen tn (fun n => { n with cmds := n.cmds.map (fun x => if x = c then { x with started := true } else x) })

/-- The window that a WINDOW_SET names. -/
def HostCmd.window (c : HostCmd) : Window := windowWord (c.num 8 8) (c.num 16 8) (c.num 24 8)

/-- A WINDOW_SET passes the checks of its range, its job and the job's state (R319, R320, R450). -/
structure State.MaySetWindow (s : State) (tn : Nat) (c : HostCmd) : Prop where
  range : c.started = true ∨ (c.window.mirror = true → 0xC0 ≤ c.num 0 1) ∧ s.windowFits tn c.window = true
  job : c.window.valid = true → c.window.jobId = (s.ten tn).job.jobId ∧ c.window.jobGen = (s.ten tn).job.jobGen
  state : (s.ten tn).job.state = 1 ∨ (s.ten tn).job.state = 2

theorem State.windowFits_pruneDigests (s : State) (tn : Nat) (w : Window) : (s.pruneDigests tn).windowFits tn w = s.windowFits tn w := by
  have hbands : ((s.pruneDigests tn).ten tn).bands = (s.ten tn).bands := by rw [State.pruneDigests, State.ten_updTen, if_pos rfl]
  simp only [State.windowFits, hbands]
  rfl

theorem State.MaySetWindow.pruneDigests {tn : Nat} (h : s.MaySetWindow tn c) : (s.pruneDigests tn).MaySetWindow tn c where
  range := by rw [s.windowFits_pruneDigests]; exact h.range
  job := by rw [(s.closes_pruneDigests tn).job]; exact h.job
  state := by rw [(s.closes_pruneDigests tn).job]; exact h.state

/-- The window in both planes out of use. -/
def State.closeWindows (s : State) (key : Nat) : State := (s.updFab 0 (Fabric.closeWindow key)).updFab 1 (Fabric.closeWindow key)

section Window
variable (s : State) (key : Nat)

theorem State.windows_closeWindows {pl : Nat} (h : pl < 2) :
    ((s.closeWindows key).fab pl).windows = (s.fab pl).windows.upd key (fun x => { x with valid := false }) := by
  rw [State.closeWindows, State.fab_updBoth _ _ h]
  rfl

theorem State.busy_closeWindows {pl : Nat} (h : pl < 2) : (((s.closeWindows key).fab pl).windows.get key).busy = ((s.fab pl).windows.get key).busy := by
  rw [s.windows_closeWindows key h, Tab.get_upd, if_pos rfl]

/-- A window is set once neither plane has a request in the old one. -/
theorem State.cmdWindowSet_eq {tn : Nat} (h : s.MaySetWindow tn c) : let key := tn * 256 + c.num 0 1
    State.cmdWindowSet tn s c = if ((s.fab 0).windows.get key).busy = 0 ∧ ((s.fab 1).windows.get key).busy = 0 then
      ((((s.closeWindows key).updFab 0 (Fabric.putWindow key c.window)).updFab 1 (Fabric.putWindow key c.window)).cmdDone tn c doneV)
    else (s.closeWindows key).markStarted tn c := by
  intro key
  have hrange : ¬ (c.started = false ∧ ((c.window.mirror = true ∧ c.num 0 1 < 0xC0) ∨ s.windowFits tn c.window = false)) := by
    rintro ⟨hfresh, hbad⟩
    obtain ⟨hmirror, hfits⟩ := h.range.resolve_left (by simp [hfresh])
    rcases hbad with ⟨hm, hlow⟩ | hbad
    · exact absurd (hmirror hm) (by omega)
    · simp [hfits] at hbad
  have hjob : ¬ (c.window.valid = true ∧ (c.window.jobId ≠ (s.ten tn).job.jobId ∨ c.window.jobGen ≠ (s.ten tn).job.jobGen)) := by
    rintro ⟨hvalid, hother⟩
    obtain ⟨hid, hgen⟩ := h.job hvalid
    simp [hid, hgen] at hother
  unfold HostCmd.window at hrange hjob
  have hbusy := And.intro (s.busy_closeWindows key (pl := 0) (by decide)) (s.busy_closeWindows key (pl := 1) (by decide))
  rw [← hbusy.1, ← hbusy.2]
  unfold State.cmdWindowSet
  dsimp only
  rw [if_neg hrange, if_neg hjob, State.stateCheck_loaded h.state]
  rfl

end Window

theorem windowSet_puts (h : s.Ready tn.val 0x18 c) (hset : s.MaySetWindow tn.val c) :
    let key := tn.val * 256 + c.num 0 1
    ((s.fab 0).windows.get key).busy = 0 → ((s.fab 1).windows.get key).busy = 0 → ∃ t, exec (.windowSet tn) s = .next t ∧ Answered s t tn.val c stDone 0 0 [] ∧
      (∀ pl, pl < 2 → (t.fab pl).windows.get key = c.window) ∧ ∀ pl k, k ≠ key → (t.fab pl).windows.get k = (s.fab pl).windows.get k := by
  intro key h0 h1
  have hcmd := (State.cmdWindowSet_eq _ hset.pruneDigests).trans (if_pos ⟨h0, h1⟩)
  have hanswers := (s.answers_pruneDigests tn.val).trans (State.answers_updBoth _ tn.val (g := Fabric.closeWindow key))
  have hanswers := hanswers.trans (State.answers_updBoth _ tn.val (g := Fabric.putWindow key c.window))
  rw [exec_windowSet, h.runCmd, hcmd]
  refine ⟨_, rfl, answered_cmdDone hanswers tn.isLt h.inTime doneV, fun pl hpl => ?_, fun pl k hk => ?_⟩
  · rw [(State.closes_cmdDone _ tn.val c doneV).windows, State.fab_updBoth _ _ hpl]
    exact Tab.get_set_same _ _ _
  · have hkeeps : ∀ (u : State) n g, (∀ f : Fabric, (g f).windows.get k = f.windows.get k) → ((u.updFab n g).fab pl).windows.get k = (u.fab pl).windows.get k :=
      fun u n g hg => u.updFab_fab_of (fun f => f.windows.get k) n pl hg
    have hput : ∀ f : Fabric, (Fabric.putWindow key c.window f).windows.get k = f.windows.get k := fun f => Tab.get_set_other _ _ hk
    have hclose : ∀ f : Fabric, (Fabric.closeWindow key f).windows.get k = f.windows.get k := fun f => Tab.get_set_other _ _ hk
    rw [(State.closes_cmdDone _ tn.val c doneV).windows, hkeeps _ _ _ hput, hkeeps _ _ _ hput, State.closeWindows, hkeeps _ _ _ hclose,
      hkeeps _ _ _ hclose]
    rfl

theorem windowSet_waits (h : s.Ready tn.val 0x18 c) (hset : s.MaySetWindow tn.val c) :
    let key := tn.val * 256 + c.num 0 1
    ((s.fab 0).windows.get key).busy ≠ 0 → ∃ t, exec (.windowSet tn) s = .next t ∧ t.outbox = s.outbox ∧
      (∀ pl, pl < 2 → (t.fab pl).windows.get key = { (s.fab pl).windows.get key with valid := false }) := by
  intro key hbusy
  have hcmd := (State.cmdWindowSet_eq _ hset.pruneDigests).trans (if_neg (fun hidle => hbusy hidle.1))
  rw [exec_windowSet, h.runCmd, hcmd]
  refine ⟨_, rfl, rfl, fun pl hpl => ?_⟩
  refine (congrArg (Tab.get · key) ((s.pruneDigests tn.val).windows_closeWindows key hpl)).trans ?_
  exact (Tab.get_upd _ _ _ _).trans (if_pos rfl)

/-! ### GROUP_SET (R346, R372) -/

section Groups
variable (s : State)

/-- A collective that has ended is not among those that run. -/
theorem State.not_mem_endColl {c x : Coll} {st : Byte} {abandon : Bool} (h : x ∈ (s.endColl c st abandon).colls) : ¬ (x.ten = c.ten ∧ x.cseq = c.cseq) := by
  unfold State.endColl at h
  extract_lets s0 fl t0 s1 s2 s3 at h
  have hkept := (List.mem_filter.1 h).2
  rintro ⟨hten, hcseq⟩
  simp [hten, hcseq] at hkept

theorem State.not_mem_endColls {l : List Coll} {x : Coll} {st : Byte} (h : x ∈ (l.foldl (fun s c => s.endColl c st true) s).colls) : x ∉ l := by
  induction l generalizing s with
  | nil => exact List.not_mem_nil
  | cons c l ih =>
    intro hx
    rcases List.mem_cons.1 hx with rfl | hx
    · exact s.not_mem_endColl ((State.steady_endColls _ l st).colls h) ⟨rfl, rfl⟩
    · exact ih _ h hx

/-- No collective of the group goes on. -/
theorem State.not_group_endGroupColls {t g : Nat} {st : Byte} {x : Coll} (h : x ∈ (s.endGroupColls t g st).colls) : ¬ (x.ten = t ∧ x.group = g) := by
  rintro ⟨hten, hgroup⟩
  rw [s.endGroupColls_eq] at h
  have hrun : x ∈ (s.endRunning t g st).colls := (State.steady_endWaiting _ t g st).colls h
  have hbefore : x ∈ s.colls := (s.steady_endColls _ st).colls hrun
  refine s.not_mem_endColls hrun (List.mem_filter.2 ⟨hbefore, ?_⟩)
  simp [hten, hgroup]

/-- A group as GROUP_SET forms it. -/
def Group.form (x : Group) (j : Job) (c : HostCmd) (b : List Byte) : Group :=
  { x with jobId := j.jobId, jobGen := j.jobGen, gen := x.gen + 1, localCount := BitVec.ofNat 12 (c.num 2 2), valid := true, hier := false
           memberAddr := BitVec.ofNat 52 (c.num 8 8), members := BitVec.ofNat 17 (c.num 4 4), list := listOf (c.num 4 4) b }

/-- A group whose entry is out of use. -/
def Group.close (x : Group) : Group := { x with valid := false }

/-- The package with a group out of use, and its collectives ended where it was in use. -/
def State.closeGroup (s : State) (tn g : Nat) : State :=
  if (s.groupOf tn g).valid then (s.updGroup tn g Group.close).endGroupColls tn g stGroupChanged else s.updGroup tn g Group.close

variable {s}

theorem State.cmdGroupSet_eq {s2 : State} {b : List Byte} {tn : Nat} (hblob : s.blob tn (c.num 8 8) (2 * c.num 4 4) (c.bytes 16 32) = (s2, .ok b))
    (hstate : (s2.ten tn).job.state = 1 ∨ (s2.ten tn).job.state = 2) : State.cmdGroupSet tn s c =
      ((s2.closeGroup tn (c.num 0 1)).updGroup tn (c.num 0 1) (·.form (s2.ten tn).job c b)).cmdDone tn c doneV := by
  unfold State.cmdGroupSet
  dsimp only
  rw [hblob]
  dsimp only
  rw [State.stateCheck_loaded hstate]
  rfl

theorem State.updGroup_eq (s : State) (tn g : Nat) (f : Group → Group) : s.updGroup tn g f =
    (s.updFab 0 (fun x => { x with groups := x.groups.upd (State.groupKey tn g) f })).updFab 1
      (fun x => { x with groups := x.groups.upd (State.groupKey tn g) f }) := rfl

theorem State.group_updGroup (s : State) (tn g : Nat) (f : Group → Group) {pl : Nat} (h : pl < 2) :
    ((s.updGroup tn g f).fab pl).groups.get (State.groupKey tn g) = f ((s.fab pl).groups.get (State.groupKey tn g)) := by
  rw [s.updGroup_eq, State.fab_updBoth _ _ h]
  exact (Tab.get_upd _ _ _ _).trans (if_pos rfl)

theorem State.answers_updGroup (s : State) (n tn g : Nat) (f : Group → Group) : s.Answers (s.updGroup tn g f) n := .foldl (fun t pl => t.answers_updFab pl n) _ s

/-- The group's generation stands while its entry is taken out of use. -/
theorem State.gen_closeGroup (s : State) (tn g : Nat) {pl : Nat} (h : pl < 2) : (((s.closeGroup tn g).fab pl).groups.get (State.groupKey tn g)).gen =
    ((s.fab pl).groups.get (State.groupKey tn g)).gen := by
  have hclose := s.group_updGroup tn g Group.close h
  unfold State.closeGroup
  split
  · have hformed := (((s.updGroup tn g Group.close).steady_endGroupColls tn g stGroupChanged).fabs pl).groups (State.groupKey tn g)
    refine (congrArg Group.gen hformed :).trans ?_
    rw [hclose]
    rfl
  · rw [hclose]
    rfl

theorem State.answers_closeGroup (s : State) (n tn g : Nat) : s.Answers (s.closeGroup tn g) n := by
  have hclose := s.answers_updGroup n tn g Group.close
  unfold State.closeGroup
  split
  · exact hclose.trans ((State.steady_endGroupColls _ tn g stGroupChanged).answers n)
  · exact hclose

end Groups

theorem groupSet_forms (h : s.Ready tn.val 0x19 c) {s2 : State} {b : List Byte} (hcount : c.num 2 2 ≤ 4095) (hmembers : c.num 4 4 ≤ 65536)
    (hblob : (s.pruneDigests tn.val).blob tn.val (c.num 8 8) (2 * c.num 4 4) (c.bytes 16 32) = (s2, .ok b))
    (hstate : (s.ten tn.val).job.state = 1 ∨ (s.ten tn.val).job.state = 2) : let key := State.groupKey tn.val (c.num 0 1)
    ∃ t, exec (.groupSet tn) s = .next t ∧ Answered s t tn.val c stDone 0 0 [] ∧
      (∀ pl, pl < 2 → ((t.fab pl).groups.get key).valid = true ∧ ((t.fab pl).groups.get key).gen = ((s.fab pl).groups.get key).gen + 1 ∧
        ((t.fab pl).groups.get key).members.toNat = c.num 4 4 ∧ ((t.fab pl).groups.get key).localCount.toNat = c.num 2 2 ∧
        ((t.fab pl).groups.get key).jobId = (s.ten tn.val).job.jobId ∧ ((t.fab pl).groups.get key).list = listOf (c.num 4 4) b) ∧
      ((s.groupOf tn.val (c.num 0 1)).valid = true → ∀ x ∈ t.colls, ¬ (x.ten = tn.val ∧ x.group = c.num 0 1)) := by
  intro key
  have hread := State.chansOnly_of_blob hblob
  have hjob : (s2.ten tn.val).job = (s.ten tn.val).job := by rw [hread.ten, (s.closes_pruneDigests tn.val).job]
  have hfab : ∀ pl, s2.fab pl = s.fab pl := hread.fab
  have hanswers := ((s.answers_pruneDigests tn.val).trans (hread.answers tn.val)).trans (State.answers_closeGroup _ tn.val tn.val (c.num 0 1))
  rw [exec_groupSet, h.runCmd, State.cmdGroupSet_eq hblob (by rwa [hjob])]
  have hcloses := ((s2.closeGroup tn.val (c.num 0 1)).updGroup tn.val (c.num 0 1) (·.form (s2.ten tn.val).job c b)).closes_cmdDone tn.val c doneV
  refine ⟨_, rfl, answered_cmdDone (hanswers.trans (State.answers_updGroup _ _ _ _ _)) tn.isLt h.inTime doneV, fun pl hpl => ?_, fun hvalid x hx => ?_⟩
  · have hgroup := State.group_updGroup (s2.closeGroup tn.val (c.num 0 1)) tn.val (c.num 0 1) (·.form (s2.ten tn.val).job c b) hpl
    have hgen := s2.gen_closeGroup tn.val (c.num 0 1) hpl
    rw [hfab] at hgen
    rw [hcloses.groups, hgroup]
    refine ⟨rfl, congrArg (· + 1) hgen, ?_, ?_, congrArg Job.jobId hjob, rfl⟩
    · exact (BitVec.toNat_ofNat _ _).trans (Nat.mod_eq_of_lt (by omega))
    · exact (BitVec.toNat_ofNat _ _).trans (Nat.mod_eq_of_lt (by omega))
  · have hold : (s2.groupOf tn.val (c.num 0 1)).valid = true := by rwa [State.groupOf, hfab]
    rw [hcloses.colls] at hx
    have hended : x ∈ (s2.closeGroup tn.val (c.num 0 1)).colls := hx
    rw [State.closeGroup, if_pos hold] at hended
    exact State.not_group_endGroupColls _ hended

/-! ### RACK_MAP_SET (R318) and RANK_SET (R446) -/

/-- A rack-map entry as a word sets it; its `lost` mark is cleared where the word says so and the job is LOADING. -/
def RackEntry.setBy (v : Nat) (loading : Bool) (e : RackEntry) : RackEntry := ⟨BitVec.ofNat 16 v, bitAt v 16, bitAt v 17, e.lost && !(bitAt v 18 && loading)⟩

/-- A fabric die with the rack map of a blob. -/
def Fabric.putRackMap (tn : Nat) (b : List Byte) (loading : Bool) (f : Fabric) : Fabric :=
  { f with rackMap := (List.range 256).foldl (fun m i => m.upd (tn * 256 + i) (RackEntry.setBy (fieldAt b (8 * i) 8) loading)) f.rackMap }

theorem Fabric.rackMap_putRackMap (tn : Nat) (b : List Byte) (loading : Bool) (f : Fabric) {i : Nat} (h : i < 256) :
    (f.putRackMap tn b loading).rackMap.get (tn * 256 + i) = (f.rackMap.get (tn * 256 + i)).setBy (fieldAt b (8 * i) 8) loading := by
  unfold Fabric.putRackMap
  rw [Tab.get_foldl_upd_range (tn * 256) (fun i => RackEntry.setBy (fieldAt b (8 * i) 8) loading), if_pos (by omega), Nat.add_sub_cancel_left]

theorem State.cmdRackMapSet_eq {s2 : State} {b : List Byte} {tn : Nat} (hblob : s.blob tn (c.num 0 8) 2048 (c.bytes 8 32) = (s2, .ok b))
    (hstate : (s2.ten tn).job.state = 1 ∨ (s2.ten tn).job.state = 2) : State.cmdRackMapSet tn s c =
      ((s2.updFab 0 (Fabric.putRackMap tn b ((s.ten tn).job.state == 1))).updFab 1 (Fabric.putRackMap tn b ((s.ten tn).job.state == 1))).cmdDone tn c doneV := by
  unfold State.cmdRackMapSet
  rw [hblob]
  dsimp only
  rw [State.stateCheck_loaded hstate]
  rfl

theorem rackMapSet_puts (h : s.Ready tn.val 0x1A c) {s2 : State} {b : List Byte}
    (hblob : (s.pruneDigests tn.val).blob tn.val (c.num 0 8) 2048 (c.bytes 8 32) = (s2, .ok b))
    (hstate : (s.ten tn.val).job.state = 1 ∨ (s.ten tn.val).job.state = 2) :
    ∃ t, exec (.rackMapSet tn) s = .next t ∧ Answered s t tn.val c stDone 0 0 [] ∧
      ∀ pl i, pl < 2 → i < 256 → (t.fab pl).rackMap.get (tn.val * 256 + i) =
        ((s.fab pl).rackMap.get (tn.val * 256 + i)).setBy (fieldAt b (8 * i) 8) ((s.ten tn.val).job.state == 1) := by
  have hread := State.chansOnly_of_blob hblob
  have hprune : ((s.pruneDigests tn.val).ten tn.val).job = (s.ten tn.val).job := (s.closes_pruneDigests tn.val).job
  have hanswers := ((s.answers_pruneDigests tn.val).trans (hread.answers tn.val)).trans
    (State.answers_updBoth _ tn.val (g := Fabric.putRackMap tn.val b ((s.ten tn.val).job.state == 1)))
  rw [exec_rackMapSet, h.runCmd, State.cmdRackMapSet_eq hblob (by rwa [hread.ten, hprune]), hprune]
  refine ⟨_, rfl, answered_cmdDone hanswers tn.isLt h.inTime doneV, fun pl i hpl hi => ?_⟩
  rw [(State.closes_cmdDone _ tn.val c doneV).rackMap, State.fab_updBoth _ _ hpl, hread.fab]
  exact Fabric.rackMap_putRackMap _ _ _ _ hi

/-- A fabric die with rank-table entries of a blob of 64 bytes a rank, of which its plane has the half from `off` on. -/
def Fabric.putRanks (base count off : Nat) (b : List Byte) (f : Fabric) : Fabric :=
  { f with ranks := (List.range count).foldl (fun r i => r.set (base + i) (rankEntryOf (slice b (64 * i + off) 32))) f.ranks }

theorem Fabric.ranks_putRanks (base count off : Nat) (b : List Byte) (f : Fabric) (k : Nat) : (f.putRanks base count off b).ranks.get k =
    if base ≤ k ∧ k < base + count then rankEntryOf (slice b (64 * (k - base) + off) 32) else f.ranks.get k :=
  Tab.get_foldl_upd_range base (fun i _ => rankEntryOf (slice b (64 * i + off) 32)) f.ranks count k

theorem State.cmdRankSet_eq {s2 : State} {b : List Byte} {tn : Nat} (hblob : s.blob tn (c.num 8 8) (64 * c.num 4 4) (c.bytes 16 32) = (s2, .ok b))
    (hstate : (s2.ten tn).job.state = 1 ∨ (s2.ten tn).job.state = 2) : State.cmdRankSet tn s c =
      ((s2.updFab 0 (Fabric.putRanks (tn * 65536 + c.num 0 4) (c.num 4 4) 0 b)).updFab 1
        (Fabric.putRanks (tn * 65536 + c.num 0 4) (c.num 4 4) 32 b)).cmdDone tn c doneV := by
  unfold State.cmdRankSet
  dsimp only
  rw [hblob]
  dsimp only
  rw [State.stateCheck_loaded hstate]
  rfl

theorem rankSet_puts (h : s.Ready tn.val 0x1B c) {s2 : State} {b : List Byte}
    (hblob : (s.pruneDigests tn.val).blob tn.val (c.num 8 8) (64 * c.num 4 4) (c.bytes 16 32) = (s2, .ok b))
    (hstate : (s.ten tn.val).job.state = 1 ∨ (s.ten tn.val).job.state = 2) :
    ∃ t, exec (.rankSet tn) s = .next t ∧ Answered s t tn.val c stDone 0 0 [] ∧ ∀ pl k, pl < 2 → (t.fab pl).ranks.get k =
      if tn.val * 65536 + c.num 0 4 ≤ k ∧ k < tn.val * 65536 + c.num 0 4 + c.num 4 4 then
        rankEntryOf (slice b (64 * (k - (tn.val * 65536 + c.num 0 4)) + 32 * pl) 32)
      else (s.fab pl).ranks.get k := by
  have hread := State.chansOnly_of_blob hblob
  have hjob : (s2.ten tn.val).job = (s.ten tn.val).job := by rw [hread.ten, (s.closes_pruneDigests tn.val).job]
  have hfab : ∀ pl, s2.fab pl = s.fab pl := hread.fab
  have hanswers := ((s.answers_pruneDigests tn.val).trans (hread.answers tn.val)).trans
    (State.answers_updFab _ 0 tn.val (g := Fabric.putRanks (tn.val * 65536 + c.num 0 4) (c.num 4 4) 0 b))
  have hanswers := hanswers.trans (State.answers_updFab _ 1 tn.val (g := Fabric.putRanks (tn.val * 65536 + c.num 0 4) (c.num 4 4) 32 b))
  rw [exec_rankSet, h.runCmd, State.cmdRankSet_eq hblob (by rwa [hjob])]
  refine ⟨_, rfl, answered_cmdDone hanswers tn.isLt h.inTime doneV, fun pl k hpl => ?_⟩
  rw [(State.closes_cmdDone _ tn.val c doneV).ranks, ← hfab]
  rcases (by omega : pl = 0 ∨ pl = 1) with rfl | rfl
  · rw [State.fab_updFab, if_neg (by decide), State.fab_updFab, if_pos rfl]
    exact Fabric.ranks_putRanks _ _ _ _ _ _
  · rw [State.fab_updFab, if_pos rfl, State.fab_updFab, if_neg (by decide)]
    exact Fabric.ranks_putRanks _ _ _ _ _ _

/-! ### IMAGE_WRITE (R558) -/

theorem imageWrite_begins (h : s.Ready tn.val 0x28 c) (hfresh : c.started = false) {s2 : State} {b : List Byte}
    (hblob : (s.pruneDigests tn.val).blob tn.val (c.num 0 8) (c.num 8 8) (c.bytes 16 32) = (s2, .ok b)) (hidle : s.boot.imageWriting = false)
    (hgood : (imageCheck b).1 = 0) :
    ∃ t, exec (.imageWrite tn) s = .next t ∧ t.boot.flash = b ∧ t.boot.imageWriting = true ∧ t.outbox = s.outbox := by
  have hread := State.chansOnly_of_blob hblob
  have hquiet : s2.boot.imageWriting = false := by rw [hread.boot]; exact hidle
  have hcmd : State.cmdImageWrite tn.val (s.pruneDigests tn.val) c =
      { s2 with boot := { s2.boot with flash := b, imageWriting := true } }.markStarted tn.val c := by
    unfold State.cmdImageWrite
    rw [hfresh, hblob]
    simp only [hquiet, hgood]
    rfl
  rw [exec_imageWrite, h.runCmd, hcmd]
  exact ⟨_, rfl, rfl, rfl, hread.outbox⟩

theorem imageWrite_completes (h : s.Ready tn.val 0x28 c) (hstarted : c.started = true) :
    ∃ t, exec (.imageWrite tn) s = .next t ∧ t.boot = { s.boot with imageWriting := false } ∧ Answered s t tn.val c stDone 0 0 [] := by
  have hwritten : ∀ u : State, u.Answers { u with boot := { u.boot with imageWriting := false } } tn.val := fun u =>
    ⟨⟨rfl, rfl, fun _ => rfl, fun _ => rfl, List.prefix_rfl⟩, rfl⟩
  rw [exec_imageWrite, h.runCmd, State.cmdImageWrite, if_pos hstarted]
  exact ⟨_, rfl, (State.closes_cmdDone _ tn.val c doneV).boot,
    answered_cmdDone ((s.answers_pruneDigests tn.val).trans (hwritten _)) tn.isLt h.inTime doneV⟩

end Commands

/-- Settles O35, by what each command writes into the tables of both fabric dies, and what its completion leaves of them (`State.Closes`). -/
theorem tablesAndImageAreSetByCommands : Obligations.TablesAndImageAreSetByCommands := by
  unfold Obligations.TablesAndImageAreSetByCommands
  intro tn s c s1 j
  refine ⟨fun h hform hstate hjob => ?_, fun h s2 b _ _ hcount _ hmembers hblob hstate => groupSet_forms h hcount hmembers hblob hstate,
    fun h s2 b hblob hstate => rackMapSet_puts h hblob hstate, fun h s2 b _ hblob hstate => ?_, fun h hfresh s2 b => imageWrite_begins h hfresh,
    imageWrite_completes⟩
  · have hset : s.MaySetWindow tn.val c := ⟨hform.imp_right (fun ⟨_, _, _, _, _, _, hmirror, hfits⟩ => ⟨hmirror, hfits⟩), hjob, hstate⟩
    exact ⟨windowSet_puts h hset, windowSet_waits h hset⟩
  · obtain ⟨t, hexec, hanswered, hranks⟩ := rankSet_puts h hblob hstate
    refine ⟨t, hexec, hanswered, fun pl r hpl => ⟨fun i hi hr => ?_, fun hout => ?_⟩⟩
    · rw [hranks pl r hpl, hr, if_pos (by omega), Nat.add_sub_cancel_left]
    · rw [hranks pl r hpl, if_neg (by omega)]

end Sys2Proof.Machine
end

section
/-! PROOFS. What accesses to memories and frames sent leave of the collective engine (R33, R193, R262, R285, R346, R354): its queues, its
collectives, its groups and its slots. The records handed to the log before stand. -/

namespace Sys2Proof.Machine

/-! ### What stands of the collective engine -/

/-- The package without what serving accesses and sending frames moves. The queues of descriptors and the collectives stay in it. -/
def State.collRest (s : State) : State :=
  { s with freeCount := 0, cores := [], chans := [], fabrics := [], mesh := [], twin := {}, px := {}, handed := [], signals := [], outbox := [] }

/-- A fabric die's settings and tables, with the groups and the slots of its collectives. -/
def Fabric.collPart (f : Fabric) : Fabric := { f.fixed with groups := f.groups, slotsUsed := f.slotsUsed }

/-- The package has served accesses and sent frames, and the collective engine's state stands. -/
structure State.CollKept (s t : State) : Prop where
  rest : t.collRest = s.collRest
  fabs : ∀ n, (t.fab n).collPart = (s.fab n).collPart
  handed : s.handed <+: t.handed

theorem State.CollKept.refl (s : State) : s.CollKept s := ⟨rfl, fun _ => rfl, List.prefix_rfl⟩

theorem State.CollKept.trans {s t u : State} (h : s.CollKept t) (k : t.CollKept u) : s.CollKept u :=
  ⟨k.rest.trans h.rest, fun n => (k.fabs n).trans (h.fabs n), h.handed.trans k.handed⟩

theorem State.CollKept.ite {s t u : State} (p : Prop) [Decidable p] (h : s.CollKept t) (k : s.CollKept u) : s.CollKept (if p then t else u) := by
  split
  · exact h
  · exact k

theorem State.CollKept.ite_fst {β : Type} {s : State} {a b : State × β} (p : Prop) [Decidable p] (h : s.CollKept a.1) (k : s.CollKept b.1) :
    s.CollKept (if p then a else b).1 := by
  split
  · exact h
  · exact k

theorem State.CollKept.foldl {α : Type} {g : State → α → State} (hg : ∀ (t : State) x, t.CollKept (g t x)) (l : List α) (s : State) :
    s.CollKept (l.foldl g s) :=
  List.foldlRecOn (motive := fun t => s.CollKept t) l g (.refl s) (fun _ h x _ => h.trans (hg _ x))

/-- A loop that keeps something else beside the state. -/
theorem State.CollKept.foldl_fst {α β : Type} {g : State × β → α → State × β} (hg : ∀ (t : State) b x, t.CollKept (g (t, b) x).1) (l : List α)
    (s : State) (b : β) : s.CollKept (l.foldl g (s, b)).1 :=
  List.foldlRecOn (motive := fun y : State × β => s.CollKept y.1) l g (.refl s) (fun y h x _ => h.trans (hg y.1 y.2 x))

/-- Work that touches no fabric die and hands no record. -/
theorem State.collKept_of_eq {s t : State}
    (h : t = { s with freeCount := t.freeCount, cores := t.cores, chans := t.chans, mesh := t.mesh, twin := t.twin, px := t.px
                      signals := t.signals, outbox := t.outbox }) : s.CollKept t := by
  rw [h]
  exact ⟨rfl, fun _ => rfl, List.prefix_rfl⟩

theorem State.TrafficOnly.collKept {s t : State} (h : s.TrafficOnly t) : s.CollKept t where
  rest := by rw [h.rest]; rfl
  fabs n := (congrArg Fabric.collPart (h.still n) :)
  handed := h.handed ▸ List.prefix_rfl

theorem State.collKept_hand (s : State) (r : ErrRec) : s.CollKept (s.hand r) := ⟨rfl, fun _ => rfl, List.prefix_append _ _⟩

theorem State.collKept_ite_hand (s : State) (p : Prop) [Decidable p] (r : ErrRec) : s.CollKept (if p then s.hand r else s) :=
  .ite p (s.collKept_hand r) (.refl s)

theorem State.collKept_updCore (s : State) (c : CoreId) (g : Core → Core) : s.CollKept (s.updCore c g) := State.collKept_of_eq rfl
theorem State.collKept_updChan (s : State) (n : Nat) (g : Channel → Channel) : s.CollKept (s.updChan n g) := State.collKept_of_eq rfl
theorem State.collKept_drawn (s : State) : s.CollKept s.drawn := State.collKept_of_eq rfl
theorem State.collKept_sendFlit (s : State) (f : Flit) : s.CollKept (s.sendFlit f) := State.collKept_of_eq rfl

theorem State.collKept_updFab (s : State) (n : Nat) {g : Fabric → Fabric} (hg : ∀ f, (g f).collPart = f.collPart := by intro; rfl) :
    s.CollKept (s.updFab n g) :=
  ⟨rfl, fun m => s.updFab_fab_of Fabric.collPart n m hg, List.prefix_rfl⟩

section Of
variable {s t : State} (h : s.CollKept t)
include h

theorem State.CollKept.collQ : t.collQ = s.collQ := (congrArg State.collQ h.rest :)
theorem State.CollKept.colls : t.colls = s.colls := (congrArg State.colls h.rest :)
theorem State.CollKept.ten (n : Nat) : t.ten n = s.ten n := (congrArg (State.ten · n) h.rest :)
theorem State.CollKept.findColl (n : Nat) (q : BitVec 32) : t.findColl n q = s.findColl n q := (congrArg (State.findColl · n q) h.rest :)
theorem State.CollKept.slotsUsed (n : Nat) : (t.fab n).slotsUsed = (s.fab n).slotsUsed := (congrArg Fabric.slotsUsed (h.fabs n) :)
theorem State.CollKept.groupOf (n g : Nat) : t.groupOf n g = s.groupOf n g :=
  (congrArg (fun f : Fabric => f.groups.get (State.groupKey n g)) (h.fabs 0) :)

theorem State.CollKept.rankDest (n tn rank : Nat) : t.rankDest n tn rank = s.rankDest n tn rank := by
  have hranks : (t.fab n).ranks = (s.fab n).ranks := (congrArg Fabric.ranks (h.fabs n) :)
  simp only [State.rankDest, hranks, h.ten]

end Of

/-! ### GDDR (R258 to R268) -/

section Gddr
variable (s : State) (w : Who)

theorem State.collKept_gddrCorrect (ch pu q sec : Nat) (es f : List SymErr) (npa : Nat) : s.CollKept (s.gddrCorrect ch pu q sec es f npa w) := by
  unfold State.gddrCorrect
  exact (s.collKept_ite_hand _ _).trans (State.collKept_updChan _ ch _)

theorem State.collKept_gddrJudge (ch pu q npa : Nat) (secs : List Nat) : s.CollKept (s.gddrJudge ch pu q npa secs w).1 := by
  unfold State.gddrJudge
  refine .foldl_fst (fun t b sec => ?_) secs s []
  dsimp only
  split
  · exact .ite_fst _ (.refl t) (State.collKept_of_eq rfl)
  · exact t.collKept_gddrCorrect w _ _ _ _ _ _ _
  · exact t.collKept_hand _

theorem State.collKept_squallCount (ch q sec npa : Nat) : s.CollKept (s.squallCount ch q sec npa w) := by
  have hjudge := fun (t : State) (w : Who) secs => t.collKept_gddrJudge w ch ((s.chan ch).spared q) q npa secs
  unfold State.squallCount
  dsimp only
  split
  · exact .refl s
  · split
    · exact s.collKept_updChan _ _
    · split
      · exact State.collKept_of_eq rfl
      · split
        · exact (s.collKept_updChan _ _).trans (hjudge _ _ _)
        · exact ((s.collKept_updChan _ _).trans (hjudge _ _ _)).trans (State.collKept_updChan _ _ _)

theorem State.collKept_countUnit (a n : Nat) : s.CollKept (s.countUnit a n w) :=
  .ite _ (.refl s) (.foldl (fun t _ => t.collKept_squallCount w _ _ _ _) _ s)

theorem State.collKept_unitRead (a n : Nat) : s.CollKept (s.unitRead a n w).1 := by
  unfold State.unitRead
  exact .ite_fst _ (.refl s) (s.collKept_gddrJudge w _ _ _ _ _)

theorem State.collKept_unitWrite (a : Nat) (bs : List Byte) : s.CollKept (s.unitWrite a bs w).1 := by
  unfold State.unitWrite
  exact .ite_fst _ (.refl s) ((s.collKept_gddrJudge w _ _ _ _ _).trans (State.collKept_of_eq rfl))

theorem State.collKept_gddrReadUnit (a n : Nat) : s.CollKept (s.gddrReadUnit a n w).1 :=
  (s.collKept_countUnit w a n).trans (State.collKept_unitRead _ w a n)

theorem State.collKept_gddrRead (a n : Nat) : s.CollKept (s.gddrRead a n w).1 :=
  .foldl_fst (fun t _ _ => t.collKept_gddrReadUnit w _ _) _ s _

theorem State.collKept_gddrWrite (a : Nat) (bs : List Byte) : s.CollKept (s.gddrWrite a bs w).1 :=
  .foldl_fst (fun t _ _ => (t.collKept_countUnit w _ _).trans (State.collKept_unitWrite _ w _ _)) _ s _

theorem State.collKept_breakRes (a n : Nat) : s.CollKept (s.breakRes a n) := by
  unfold State.breakRes
  exact .ite _ (State.collKept_of_eq rfl) (.refl s)

theorem State.collKept_dropLines (a n : Nat) : s.CollKept (s.dropLines a n) := by
  unfold State.dropLines
  exact .ite _ ((State.collKept_of_eq rfl).trans (.foldl (fun t _ => t.collKept_gddrWrite _ _ _) _ _)) (.refl s)

theorem State.collKept_foreignWrote (a n : Nat) : s.CollKept (s.foreignWrote a n) := (s.collKept_breakRes a n).trans (State.collKept_dropLines _ a n)

theorem State.collKept_gddrAtomic (a n aop ty : Nat) (comparand opd : List Byte) : s.CollKept (s.gddrAtomic a n aop ty comparand opd w).1 := by
  unfold State.gddrAtomic
  extract_lets u r new x
  have hr : s.CollKept r.1 := s.collKept_gddrReadUnit u _ _
  have hx : r.1.CollKept x.1 := r.1.collKept_unitWrite u _ _
  clear_value x new r
  exact .ite_fst _ hr ((hr.trans hx).trans (State.collKept_foreignWrote _ _ _))

theorem State.collKept_gddrOp (a : Nat) (op : MemOp) (len : Nat) (data : List Byte) : s.CollKept (s.gddrOp a op len data w).1 := by
  unfold State.gddrOp
  split
  · exact s.collKept_gddrRead _ _ _
  · exact (s.collKept_gddrWrite _ _ _).trans (State.collKept_foreignWrote _ _ _)
  · exact .ite_fst _ (.refl s) (s.collKept_gddrAtomic _ _ _ _ _ _ _)

end Gddr

/-! ### The stores of the cores and the SRAM ways (R193, R209, R210, R493) -/

section Memories
variable (s : State)

theorem State.collKept_storeCorrect (c : CoreId) (res : Bool) (word bit : Nat) (w : Who) : s.CollKept (s.storeCorrect c res word bit w) := by
  unfold State.storeCorrect
  exact (s.collKept_ite_hand _ _).trans (State.collKept_updCore _ c _)

theorem State.collKept_storeUnc (c : CoreId) (res : Bool) (word : Nat) (w : Who) : s.CollKept (s.storeUnc c res word w) := by
  unfold State.storeUnc
  exact ((s.collKept_hand _).trans (State.collKept_drawn _)).trans (State.collKept_updCore _ c _)

theorem State.collKept_judge (c : CoreId) (res : Bool) (words : List Nat) (w : Who) : s.CollKept (s.judge c res words w).1 := by
  unfold State.judge
  refine .foldl_fst (fun t b e => ?_) _ s []
  dsimp only
  split
  · exact .refl t
  · exact t.collKept_storeCorrect c res _ _ w
  · exact t.collKept_storeUnc c res _ w

theorem State.collKept_storeRead (c : CoreId) (res : Bool) (a n : Nat) (w : Who) : s.CollKept (s.storeRead c res a n w).1 :=
  s.collKept_judge c res _ w

theorem State.collKept_storeWrite (c : CoreId) (res : Bool) (a : Nat) (bs : List Byte) (w : Who) : s.CollKept (s.storeWrite c res a bs w).1 := by
  unfold State.storeWrite
  dsimp only
  exact (s.collKept_judge c res _ w).trans (State.collKept_updCore _ c _)

theorem State.collKept_sramJudge (words : List Nat) (w : Who) : s.CollKept (s.sramJudge words w).1 := by
  unfold State.sramJudge
  refine .foldl_fst (fun t b i => ?_) words s []
  split
  · exact .refl t
  · exact State.collKept_of_eq rfl
  · exact t.collKept_hand _

theorem State.collKept_sramPut (off : Nat) (bs : List Byte) (w : Who) : s.CollKept (s.sramPut off bs w).1 :=
  ((s.collKept_sramJudge _ w).trans (State.collKept_of_eq rfl)).trans (State.collKept_breakRes _ _ _)

theorem State.collKept_npaWrite (c : CoreId) (npa : Nat) (bs : List Byte) (w : Who) : s.CollKept (s.npaWrite c npa bs w).1 := by
  unfold State.npaWrite
  dsimp only
  split
  · exact (s.collKept_gddrWrite _ _ _).trans (State.collKept_foreignWrote _ _ _)
  · split
    · exact s.collKept_storeWrite _ _ _ _ _
    · exact .refl s
  · exact s.collKept_storeWrite _ _ _ _ _
  · exact .ite_fst _ (s.collKept_sramPut _ _ _) (.refl s)
  · exact .refl s

theorem State.collKept_npaRead (c : CoreId) (npa n : Nat) (w : Who) : s.CollKept (s.npaRead c npa n w).1 := by
  unfold State.npaRead
  dsimp only
  split
  · exact s.collKept_gddrRead _ _ _
  · split
    · exact s.collKept_storeRead _ _ _ _ _
    · exact .refl s
  · exact s.collKept_storeRead _ _ _ _ _
  · exact .ite_fst _ (s.collKept_sramJudge _ _) (.refl s)
  · exact .refl s

theorem State.collKept_dieFault (c : CoreId) (npa : Nat) (w : Who) : s.CollKept (s.dieFault c npa w) := s.collKept_hand _

/-- A piece of an access to a store by the flits of another die (R33, R35). -/
theorem State.collKept_diePiece (d : CoreId) (res : Bool) (o n : Nat) (store last : Bool) (bs : List Byte) (w : Who) :
    s.CollKept (s.diePiece d res o n store last bs w).1 :=
  .ite_fst _ (((s.collKept_updCore d _).trans (State.collKept_hand _ _)).trans (State.collKept_drawn _))
    (.ite_fst _ (s.collKept_dieFault _ _ _) (.ite_fst _ (s.collKept_storeWrite _ _ _ _ _) (s.collKept_storeRead _ _ _ _ _)))

theorem State.collKept_rsServe (off : Nat) (op : MemOp) (len : Nat) (data : List Byte) (w : Who) : s.CollKept (s.rsServe off op len data w).1 := by
  unfold State.rsServe
  refine .foldl_fst (fun t b p => ?_) _ s _
  dsimp only
  split
  · exact .refl t
  · exact t.collKept_diePiece _ _ _ _ _ _ _ _

end Memories

/-! ### Frames sent and answers matched (R289, R291, R295, R453) -/

section Frames
variable (s : State)

theorem State.collKept_sendWt (pl peer : Nat) (mac : BitVec 48) (ip : BitVec 128) (f : WtFrame) : s.CollKept (s.sendWt pl peer mac ip f) :=
  (s.trafficOnly_sendWt pl peer mac ip f).collKept

theorem State.collKept_pay (pl peer : Nat) (ty : BitVec 4) : s.CollKept (s.pay pl peer ty) := .ite _ (.refl s) (s.collKept_updFab pl)

theorem State.collKept_releaseTag (tag : BitVec 16) : s.CollKept (s.releaseTag tag) := s.collKept_updFab _

theorem State.collKept_updOut (tag : BitVec 16) (g : OutReq → OutReq) : s.CollKept (s.updOut tag g) := s.collKept_updFab _

theorem State.collKept_probeEnd : s.CollKept s.probeEnd :=
  ((s.collKept_updFab 0).trans (State.collKept_updFab _ 1)).trans (State.collKept_of_eq rfl)

theorem State.collKept_giveOwner (o : OutReq) (st : Byte) (data : List Byte) : s.CollKept (s.giveOwner o st data) := by
  unfold State.giveOwner
  split
  · exact s.collKept_updCore _ _
  · exact s.collKept_probeEnd
  · exact .refl s

/-- An answer that no frame brings, of a request of the package itself (R317). -/
theorem State.collKept_matchAnswer_self (pl : Nat) (tag : BitVec 16) (seq : BitVec 24) (origin : Bool) (st : Byte) :
    s.CollKept (s.matchAnswer pl tag seq origin st none).1 := by
  unfold State.matchAnswer
  split
  · exact s.collKept_updFab pl (g := Fabric.countDup)
  · dsimp only
    split
    · exact s.collKept_updOut tag _
    · exact (State.CollKept.foldl (fun t _ => t.collKept_updFab _) _ s).trans (State.collKept_releaseTag _ tag)

theorem State.collKept_answer (pl : Nat) (f : WtFrame) (st : Byte) (data : List Byte) (replay : Bool) : s.CollKept (s.answer pl f st data replay) := by
  have hmatch := s.collKept_matchAnswer_self pl f.tag f.seq f.origin st
  unfold State.answer
  dsimp only
  split
  · split
    · exact hmatch.trans (State.collKept_giveOwner _ _ _ _)
    · exact hmatch
  · exact s.collKept_sendWt _ _ _ _ _

theorem State.collKept_wtDone (pl : Nat) (f : WtFrame) (st : Byte) (data : List Byte) : s.CollKept (s.wtDone pl f st data) := by
  unfold State.wtDone
  extract_lets peer s1 home s2 mine held
  have h1 : s.CollKept s1 := s.collKept_updFab _
  have h2 : s.CollKept s2 := .ite _ (h1.trans (s1.collKept_updFab _)) h1
  exact .ite _ (s.collKept_answer _ _ _ _ _)
    (((h2.trans (s2.collKept_updFab _)).trans (State.collKept_answer _ _ _ _ _ _)).trans (.foldl (fun t _ => t.collKept_answer _ _ _ _ _) _ _))

theorem State.collKept_twinSend (pl : Nat) (kind : Byte) (payload : List Byte) (answer : Option WtFrame) (aPl : Plane) (aSub : Nat) :
    s.CollKept (s.twinSend pl kind payload answer aPl aSub) := State.collKept_of_eq rfl

theorem State.collKept_castComplete (core : Nat) (acc : BitVec 32) (st : Byte) (jobId jobGen : BitVec 16) (w : List (Nat × List Byte)) :
    s.CollKept (s.castComplete core acc st jobId jobGen w) :=
  .ite _ (.refl s) (.foldl (fun t _ => t.collKept_twinSend _ _ _ _ _ _) _ s)

end Frames

/-! ### Accesses of the fabric dies (R191, R194, R196, R336) -/

section Serve
variable (s : State)

theorem State.collKept_windowServe (pl : Plane) (f : WtFrame) (m : MemReq) : s.CollKept (s.windowServe pl f m) := by
  unfold State.windowServe
  extract_lets q w x r
  have hr : s.CollKept r.1 := .ite_fst _ (s.collKept_gddrOp _ _ _ _ _) (s.collKept_rsServe _ _ _ _ _)
  clear_value r
  split
  · exact hr.trans (State.collKept_wtDone _ _ _ _ _)
  · exact .ite _ ((hr.trans (State.collKept_updFab _ _)).trans (State.collKept_wtDone _ _ _ _ _))
      (hr.trans (.foldl (fun t _ => t.collKept_twinSend _ _ _ _ _ _) _ _))

theorem State.collKept_flitServe (d : CoreId) (f : Flit) : s.CollKept (s.flitServe d f) := by
  have haccess : s.CollKept (s.flitAccess d f).1 :=
    .ite_fst _ (.refl s) (.ite_fst _ (.refl s) (.ite_fst _ (s.collKept_storeRead _ _ _ _ _) (s.collKept_storeWrite _ _ _ _ _)))
  unfold State.flitServe State.flitAnswer
  exact haccess.trans (.ite _ (.refl _) (State.collKept_sendFlit _ _))

theorem State.collKept_foreignServe (c : CoreId) : s.CollKept (s.foreignServe c) := by
  unfold State.foreignServe
  split
  · exact .refl s
  · extract_lets t
    have ht : s.CollKept t := s.collKept_updCore c _
    split
    · exact ht.trans (State.collKept_windowServe _ _ _ _)
    · exact ht.trans (State.collKept_flitServe _ _ _)
    · exact ht

theorem State.collKept_rsOp (off : Nat) (op : MemOp) (len : Nat) (data : List Byte) (w : Who) : s.CollKept (s.rsOp off op len data w).1 := by
  unfold State.rsOp
  refine .trans (.foldl (fun t p => ?_) _ s) (State.collKept_rsServe _ _ _ _ _ _)
  split
  · exact .refl t
  · exact .foldl (fun u _ => u.collKept_foreignServe _) _ t

theorem State.collKept_dieWrite (c : CoreId) (npa : Nat) (bs : List Byte) (w : Who) : s.CollKept (s.dieWrite c npa bs w).1 := by
  unfold State.dieWrite
  split
  · exact s.collKept_rsOp _ _ _ _ _
  · exact .foldl_fst (fun t _ _ => t.collKept_diePiece _ _ _ _ _ _ _ _) _ s _
  · exact s.collKept_npaWrite _ _ _ _

theorem State.collKept_dieRead (c : CoreId) (npa n : Nat) (w : Who) : s.CollKept (s.dieRead c npa n w).1 := by
  unfold State.dieRead
  split
  · exact s.collKept_rsOp _ _ _ _ _
  · exact .foldl_fst (fun t _ _ => t.collKept_diePiece _ _ _ _ _ _ _ _) _ s _
  · exact s.collKept_npaRead _ _ _ _

theorem State.collKept_upset (c : CoreId) (ups : List Upset) : s.CollKept (s.upset c ups) := .ite _ (.refl s) (s.collKept_updCore c _)

end Serve

/-! ### Requests issued (R291, R298) -/

section Issue
variable (s : State) (pl : Plane) (r : ReqPlan) (e : RankEntry)

theorem State.collKept_issueReq : s.CollKept (s.issueReq pl r e).1 := by
  unfold State.issueReq
  extract_lets fb t15 tag peer seq path f o s1 s2
  have h1 : s.CollKept s1 := s.collKept_updFab pl.val
  have h2 : s.CollKept s2 := (h1.trans (s1.collKept_updFab _)).trans (State.collKept_pay _ _ _ _)
  exact .ite_fst _ h1 (h2.trans (s2.collKept_sendWt _ _ _ _ _))

theorem State.collKept_issueOrWait : s.CollKept (s.issueOrWait pl r e) := by
  unfold State.issueOrWait
  extract_lets peer s1
  have h1 : s.CollKept s1 := s.collKept_updFab _
  exact .ite _ (s.collKept_issueReq pl r e) (.ite _ (h1.trans ((s1.collKept_updFab _).trans (State.collKept_sendWt _ _ _ _ _ _))) h1)

end Issue

end Sys2Proof.Machine
end

section
/-! PROOFS. Frames, records and ends of collectives (R352, R366, R368, R372, R447): which of them leave the engine's state as it is, and what the
end of a collective leaves. The queues of descriptors stand while collectives go on. -/

namespace Sys2Proof.Machine

/-! ### Collectives in the list -/

section List
variable {s : State} {c d : Coll}

theorem State.findColl_some {t : Nat} {q : BitVec 32} (h : s.findColl t q = some c) : c.ten = t ∧ c.cseq = q := by
  have hc := List.find?_some h
  simpa using hc

/-- A collective that is put back is found, and has named a rank that cannot be sent to where the list says so. -/
theorem State.findColl_putColl (h : s.findColl c.ten c.cseq = some d) :
    (s.putColl c).findColl c.ten c.cseq = some { c with badRank := c.badRank || d.badRank } := by
  have hkeys : (fun x : Coll => x.ten == c.ten && x.cseq == c.cseq) ∘
      (fun d => if d.ten = c.ten ∧ d.cseq = c.cseq then { c with badRank := c.badRank || d.badRank } else d) =
      fun x => x.ten == c.ten && x.cseq == c.cseq := by
    funext x
    dsimp only [Function.comp]
    split
    next hx => simp [hx]
    next => rfl
  unfold State.findColl State.putColl at *
  dsimp only
  rw [List.find?_map, hkeys, h, Option.map_some, if_pos (by simpa using List.find?_some h)]

theorem State.findColl_putColl_good (h : s.findColl c.ten c.cseq = some d) (hd : d.badRank = false) :
    (s.putColl c).findColl c.ten c.cseq = some c := by
  rw [State.findColl_putColl h, hd, Bool.or_false]

/-- The list is `l` and behind it the collective `c`, which no other one has the numbers of. -/
structure State.HasLast (s : State) (l : List Coll) (c : Coll) : Prop where
  colls : s.colls = l ++ [c]
  only : ∀ x ∈ l, ¬ (x.ten = c.ten ∧ x.cseq = c.cseq)
  good : c.badRank = false

variable {l : List Coll} (h : s.HasLast l c)
include h

theorem State.HasLast.findColl : s.findColl c.ten c.cseq = some c := by
  have hnone : l.find? (fun x => x.ten == c.ten && x.cseq == c.cseq) = none := by
    simpa using h.only
  rw [State.findColl, h.colls, List.find?_append, hnone]
  simp

theorem State.HasLast.putColl (hten : d.ten = c.ten) (hcseq : d.cseq = c.cseq) (hgood : d.badRank = false) : (s.putColl d).HasLast l d where
  colls := by
    have hrest : l.map (fun x => if x.ten = d.ten ∧ x.cseq = d.cseq then { d with badRank := d.badRank || x.badRank } else x) = l := by
      rw [hten, hcseq]
      exact (List.map_congr_left (fun x hx => if_neg (h.only x hx))).trans (List.map_id' l)
    unfold State.putColl
    dsimp only
    rw [h.colls, List.map_append, hrest, List.map_singleton, if_pos ⟨hten.symm, hcseq.symm⟩, h.good, Bool.or_false]
  only := by rw [hten, hcseq]; exact h.only
  good := hgood

theorem State.HasLast.of_colls {t : State} (k : t.colls = s.colls) : t.HasLast l c := ⟨k.trans h.colls, h.only, h.good⟩

omit h in
theorem State.CollKept.hasLast {t : State} (k : s.CollKept t) (h : s.HasLast l c) : t.HasLast l c := h.of_colls k.colls

end List

/-! ### Groups (R346, R376) -/

section Groups
variable (s : State) (t g : Nat) (f : Group → Group)

@[simp] theorem State.updGroup_collQ : (s.updGroup t g f).collQ = s.collQ := rfl
@[simp] theorem State.updGroup_colls : (s.updGroup t g f).colls = s.colls := rfl
@[simp] theorem State.updGroup_handed : (s.updGroup t g f).handed = s.handed := rfl

theorem State.groupOf_updGroup : (s.updGroup t g f).groupOf t g = f (s.groupOf t g) := by
  have hfab : (s.updGroup t g f).fab 0 = { s.fab 0 with groups := (s.fab 0).groups.upd (State.groupKey t g) f } := by
    simp [State.updGroup]
  rw [State.groupOf, hfab]
  exact (Tab.get_upd _ _ _ _).trans (if_pos rfl)

/-- Of a fabric die's state all but its groups stands. -/
theorem State.updGroup_fab_of {γ : Type} (q : Fabric → γ) (n : Nat) (hq : ∀ f gs, q { f with groups := gs } = q f := by intros; rfl) :
    q ((s.updGroup t g f).fab n) = q (s.fab n) :=
  foldl_keeps (fun u : State => q (u.fab n)) (fun u pl => u.updFab_fab_of q pl n (fun x => hq x _)) _ s

theorem State.rankDest_updGroup (n tn rank : Nat) : (s.updGroup t g f).rankDest n tn rank = s.rankDest n tn rank := by
  have hranks := s.updGroup_fab_of t g f Fabric.ranks n
  unfold State.rankDest
  rw [hranks]
  rfl

end Groups

/-! ### Frames sent (R368, R447) -/

/-- Frames can be sent to every member of a collective. -/
def State.SendsToAll (s : State) (c : Coll) : Prop := ∀ r ∈ c.members, ∀ pl : Plane, (s.rankDest pl.val c.ten r).isSome = true

theorem State.CollKept.sendsToAll {s t : State} {c : Coll} (h : s.CollKept t) (hs : s.SendsToAll c) : t.SendsToAll c := fun r hr pl => by
  rw [h.rankDest]
  exact hs r hr pl

section Sends
variable {s : State} {c : Coll} {m : Nat}

theorem State.collKept_collSend (hs : s.SendsToAll c) (hm : m < c.members.length) (ty : BitVec 4) (q : CollSub) (bs : List AccBlock) (own : OutOwner) :
    s.CollKept (s.collSend c ty m q bs own) := by
  unfold State.collSend
  extract_lets pl g rank r
  have hmem : rank ∈ c.members := by
    simp only [rank, List.getD_eq_getElem _ _ hm]
    exact List.getElem_mem hm
  obtain ⟨e, he⟩ := Option.isSome_iff_exists.1 (hs rank hmem pl)
  rw [he]
  exact s.collKept_issueOrWait pl r e

/-- Of a loop that sends, each step may use that the engine's state stands until then. -/
theorem State.CollKept.foldl_sends {α : Type} {g : State → α → State} {l : List α}
    (hg : ∀ t : State, t.SendsToAll c → ∀ x ∈ l, t.CollKept (g t x)) (hs : s.SendsToAll c) : s.CollKept (l.foldl g s) :=
  List.foldlRecOn (motive := fun t => s.CollKept t) l g (.refl s) (fun t h x hx => h.trans (hg t (h.sendsToAll hs) x hx))

theorem State.collKept_sendBlocks (hs : s.SendsToAll c) (hm : m < c.members.length) (ty : BitVec 4) (tab : Tab AccBlock) (lo hi tAdmit : Nat) (hn : Bool) :
    s.CollKept (s.sendBlocks c ty m tab lo hi tAdmit hn) :=
  .foldl_sends (fun _ ht _ _ => State.collKept_collSend ht hm _ _ _ _) hs

theorem State.collKept_sendAbandon (s : State) (c : Coll) (st : Byte) : s.CollKept (s.sendAbandon c st) := by
  refine .foldl (fun u m => ?_) _ s
  unfold State.collSend
  dsimp only
  split
  · exact .refl u
  · exact u.collKept_issueOrWait _ _ _

end Sends

/-! ### Records and ends (R352, R366, R372, R471) -/

section Ends
variable (s : State) (c : Coll)

theorem State.collKept_writeRecord (d : CollDesc) (bytes : List Byte) : s.CollKept (s.writeRecord d bytes) := by
  unfold State.writeRecord
  split
  · exact s.collKept_dieWrite _ _ _ _
  · exact .refl s

theorem State.collKept_refuseDesc (d : CollDesc) (st : Byte) (recOk : Bool) : s.CollKept (s.refuseDesc d st recOk) :=
  .ite _ (s.collKept_writeRecord _ _) (.refl s)

theorem State.collKept_castColl (d : CollDesc) (st : Byte) (out : Bool) : s.CollKept (s.castColl c d st out) := by
  unfold State.castColl
  refine .ite _ (.refl s) ?_
  split
  · exact .refl s
  · exact s.collKept_castComplete _ _ _ _ _ _

/-- A collective ends early: it is dropped after work that leaves the engine's state. -/
theorem State.endColl_drops (st : Byte) (abandon : Bool) : ∃ u, s.CollKept u ∧ s.endColl c st abandon = u.dropColl c false st := by
  unfold State.endColl
  extract_lets s0 fl t0 s1 s2 s3
  have h0 : s.CollKept s0 := .foldl (fun t _ => t.collKept_hand _) _ s
  have h2 : s.CollKept s2 :=
    (h0.trans (.foldl (fun t d => t.collKept_writeRecord d _) _ _)).trans (.foldl (fun t d => t.collKept_castColl c d st false) _ _)
  have h3 : s.CollKept s3 := .ite _ (h2.trans (s2.collKept_sendAbandon c st)) h2
  exact ⟨_, .ite _ (h3.trans (s3.collKept_updFab _)) h3, rfl⟩

/-- A collective completes: it is dropped after work that leaves the engine's state. -/
theorem State.completeColl_drops : ∃ u, s.CollKept u ∧ s.completeColl c = u.dropColl c true stDone := by
  unfold State.completeColl
  extract_lets x bound nf bad late s0 s1
  have h0 : s.CollKept s0 := s.collKept_ite_hand _ _
  exact ⟨s1, h0.trans (.foldl (fun t d => (t.collKept_writeRecord d _).trans (State.collKept_castColl _ c d _ _)) _ _), rfl⟩

variable (done : Bool) (st : Byte)

theorem State.collQ_dropColl : (s.dropColl c done st).collQ = s.collQ := by
  rw [State.dropColl, State.updGroup_collQ, State.updFab_collQ]

theorem State.handed_dropColl : (s.dropColl c done st).handed = s.handed := by
  rw [State.dropColl, State.updGroup_handed, State.updFab_handed]

theorem State.colls_dropColl : (s.dropColl c done st).colls = s.colls.filter (fun d => !(d.ten == c.ten && d.cseq == c.cseq)) := by
  rw [State.dropColl, State.updGroup_colls, State.updFab_colls]

theorem State.findColl_dropColl : (s.dropColl c done st).findColl c.ten c.cseq = none := by
  rw [State.findColl, State.colls_dropColl, List.find?_eq_none]
  intro d hd
  simpa only [Bool.not_eq_true', Bool.not_eq_true] using (List.mem_filter.1 hd).2

theorem State.groupOf_dropColl : (s.dropColl c done st).groupOf c.ten c.group =
    if done then { s.groupOf c.ten c.group with lastCseq := c.cseq }
    else { s.groupOf c.ten c.group with ended := (s.groupOf c.ten c.group).ended ++ [(c.cseq, st)] } := by
  unfold State.dropColl
  rw [State.groupOf_updGroup, State.groupOf,
    State.updFab_fab_of (fun f => f.groups.get (State.groupKey c.ten c.group)) _ c.home 0]
  rfl

end Ends

end Sys2Proof.Machine
end

section
/-! PROOFS. The queues of descriptors stand while the collective engine works (R349, R353, R359 to R367): whatever a collective reads, adds, sends and
writes. -/

namespace Sys2Proof.Machine

/-! ### Contributions read and results written (R166, R357, R360) -/

section Blocks
variable (s : State) (c : Coll)

theorem State.collKept_spillBlock (b : Nat) (blk : AccBlock) (read : Bool) : s.CollKept (s.spillBlock c b blk read).1 := by
  unfold State.spillBlock
  refine .ite_fst _ (.refl s) ?_
  dsimp only
  split
  · exact .refl s
  · exact .ite_fst _ (s.collKept_dieFault _ _ _) (.trans (.ite_fst _ (s.collKept_dieRead _ _ _ _) (.refl s)) (State.collKept_dieWrite _ _ _ _ _))

theorem State.collKept_spillSum (b : Nat) (parts : List AccBlock) : s.CollKept (s.spillSum c b parts).1 := by
  unfold State.spillSum
  exact .ite_fst _ (.refl s) (.foldl_fst (fun t _ _ => t.collKept_spillBlock c b _ _) _ s _)

theorem State.collKept_readContrib (d : CoreId) (npa fmt n : Nat) (w : Who) : s.CollKept (s.readContrib d npa fmt n w).1 := by
  unfold State.readContrib
  refine .ite_fst _ (.refl s) (.ite_fst _ (s.collKept_dieFault _ _ _) ?_)
  exact .ite_fst _ ((s.collKept_dieRead _ _ _ _).trans (State.collKept_dieRead _ _ _ _ _)) (s.collKept_dieRead _ _ _ _)

theorem State.collKept_packageSums : s.CollKept (s.packageSums c).1 := by
  unfold State.packageSums
  extract_lets x ks n parts
  have hks : s.CollKept ks.1 := .foldl_fst (fun t b d => by
    dsimp only
    split
    · exact .refl t
    · exact t.collKept_readContrib _ _ _ _ _) _ s _
  clear_value ks
  exact .ite_fst _ hks (hks.trans (.foldl_fst (fun t _ b => t.collKept_spillSum c b _) _ _ _))

theorem State.collKept_gatherParts : s.CollKept (s.gatherParts c).1 := by
  unfold State.gatherParts
  refine .foldl_fst (fun t b d => ?_) _ s _
  dsimp only
  split
  · exact t.collKept_readContrib _ _ _ _ _
  · exact .refl t

theorem State.collKept_writeVec (d : CoreId) (dst fmt total at0 : Nat) (codes heads : List Nat) (w : Who) :
    s.CollKept (s.writeVec d dst fmt total at0 codes heads w).1 := by
  unfold State.writeVec
  extract_lets eb put r h
  have hput : ∀ (t : State) a bs, t.CollKept (put t a bs).1 := fun t a bs => .ite_fst _ (t.collKept_dieWrite _ _ _ _) (t.collKept_dieFault _ _ _)
  exact .ite_fst _ ((hput s _ _).trans (hput _ _ _)) (hput s _ _)

theorem State.collKept_writeBlock (m b : Nat) (blk : AccBlock) : s.CollKept (s.writeBlock c m b blk).1 := by
  unfold State.writeBlock
  refine .foldl_fst (fun t st d => ?_) _ s _
  dsimp only
  split
  · exact .refl t
  · split
    · exact .refl t
    · exact t.collKept_writeVec _ _ _ _ _ _ _ _

theorem State.collKept_takeResult (m b : Nat) (blk : AccBlock) : s.CollKept (s.takeResult c m b blk).1 := s.collKept_writeBlock _ m b blk

theorem State.collKept_cured (key : Nat × Nat × Nat) : s.CollKept (s.cured c key).1 := by
  unfold State.cured
  exact .ite_fst _ (s.collKept_hand _) (.refl s)

theorem State.collKept_settleShard (sh : Nat × Nat) : s.CollKept (s.settleShard c sh).1 := by
  unfold State.settleShard
  exact .ite_fst _ (State.collKept_of_eq rfl) (.refl s)

end Blocks

/-! ### The queues while collectives go on -/

section Queues
variable (s : State) (c : Coll)

/-- A step taken or not keeps what both keep. -/
theorem State.collQ_ite {p : Prop} [Decidable p] {t u v : State} (h : t.collQ = v.collQ) (k : u.collQ = v.collQ) : (if p then t else u).collQ = v.collQ := by
  split
  · exact h
  · exact k

@[simp] theorem State.collQ_collSend (ty : BitVec 4) (m : Nat) (q : CollSub) (bs : List AccBlock) (own : OutOwner) :
    (s.collSend c ty m q bs own).collQ = s.collQ := by
  unfold State.collSend
  dsimp only
  split
  · unfold State.rejectOwner
    split
    · exact (State.collKept_updCore _ _ _).collQ
    · rfl
    · rfl
  · exact (s.collKept_issueOrWait _ _ _).collQ

@[simp] theorem State.collQ_sendBlocks (ty : BitVec 4) (m : Nat) (tab : Tab AccBlock) (lo hi tAdmit : Nat) (hn : Bool) :
    (s.sendBlocks c ty m tab lo hi tAdmit hn).collQ = s.collQ :=
  foldl_keeps State.collQ (fun t _ => t.collQ_collSend c _ _ _ _ _) _ s

@[simp] theorem State.collQ_endColl (st : Byte) (abandon : Bool) : (s.endColl c st abandon).collQ = s.collQ := by
  obtain ⟨u, hu, hend⟩ := s.endColl_drops c st abandon
  rw [hend, State.collQ_dropColl, hu.collQ]

@[simp] theorem State.collQ_completeColl : (s.completeColl c).collQ = s.collQ := by
  obtain ⟨u, hu, hend⟩ := s.completeColl_drops c
  rw [hend, State.collQ_dropColl, hu.collQ]

@[simp] theorem State.collQ_mismatch (key : Nat × Nat × Nat) (ty : BitVec 4) (who : List Nat) (lo n : Nat) :
    (s.mismatch c key ty who lo n).collQ = s.collQ := by
  unfold State.mismatch
  extract_lets asks new c1 c2 s1
  exact State.collQ_ite (s.collQ_endColl _ _ _) (foldl_keeps State.collQ (fun t _ => t.collQ_collSend c2 _ _ _ _ _) asks s1)

@[simp] theorem State.collQ_hierSet : (s.hierSet c).collQ = s.collQ := State.collQ_ite rfl rfl

@[simp] theorem State.collQ_takeResults (m first : Nat) (bs : List AccBlock) : (s.takeResults c m first bs).collQ = s.collQ := by
  unfold State.takeResults
  extract_lets y
  have hy : y.1.collQ = s.collQ := (State.CollKept.foldl_fst (fun t b p => t.collKept_takeResult b.1 m _ p.1) _ s _).collQ
  exact State.collQ_ite hy ((y.1.collQ_endColl _ _ _).trans hy)

@[simp] theorem State.collQ_shardOut (k : Nat) : (s.shardOut c k).collQ = s.collQ := by
  unfold State.shardOut
  extract_lets sh a s1 c1 cFwd c2 mute s2 s3 bs
  have ha : s1.collQ = s.collQ := (s.collKept_settleShard c sh).collQ
  have h3 : s3.collQ = s.collQ := State.collQ_ite ha (by
    rw [foldl_keeps State.collQ (fun t _ => t.collQ_sendBlocks c2 _ _ _ _ _ _ _)]
    exact (State.collQ_hierSet _ c2).trans ha)
  exact State.collQ_ite ((State.collQ_sendBlocks _ _ _ _ _ _ _ _ _).trans ha) (State.collQ_ite h3 ((State.collQ_takeResults _ _ _ _ _).trans h3))

@[simp] theorem State.collQ_checkShard (k : Nat) : (s.checkShard c k).collQ = s.collQ := by
  unfold State.checkShard
  extract_lets sh bs mine c1 a
  exact State.collQ_ite rfl (State.collQ_ite (s.collQ_mismatch _ _ _ _ _ _) ((a.1.collQ_shardOut _ k).trans (s.collKept_cured c _).collQ))

@[simp] theorem State.collQ_checkShards : (s.checkShards c).collQ = s.collQ := by
  unfold State.checkShards
  refine foldl_keeps State.collQ (fun t k => ?_) _ (s.putColl c)
  split
  · exact t.collQ_checkShard _ k
  · rfl

@[simp] theorem State.collQ_spread (own : Tab AccBlock) : (s.spread c own).collQ = s.collQ := by
  unfold State.spread
  extract_lets nf here c1 s2
  have h2 : s2.collQ = s.collQ := foldl_keeps State.collQ (fun t m => foldl_keeps State.collQ (fun u _ => u.collQ_sendBlocks c1 _ _ _ _ _ _ _) _ t) _ (s.putColl c1)
  exact (s2.collQ_checkShards c1).trans h2

@[simp] theorem State.collQ_give (tab : Tab AccBlock) : (s.give c tab).collQ = s.collQ := by
  unfold State.give
  extract_lets x s0 at0 s1 hn s2 s3
  have h1 : s1.collQ = s.collQ := State.collQ_hierSet s0 c
  have h2 : s2.collQ = s1.collQ := foldl_keeps State.collQ (fun t _ => t.collQ_sendBlocks c _ _ _ _ _ _ _) _ s1
  have h3 : s3.collQ = s2.collQ := foldl_keeps State.collQ (fun t _ => t.collQ_sendBlocks c _ _ _ _ _ _ _) _ s2
  exact State.collQ_ite rfl ((s3.collQ_takeResults _ _ _ _).trans (h3.trans (h2.trans h1)))

@[simp] theorem State.collQ_startPass : (s.startPass c).collQ = s.collQ := by
  unfold State.startPass
  extract_lets r y
  have hr : r.1.collQ = s.collQ := (s.collKept_gatherParts c).collQ
  have hy : y.1.collQ = s.collQ := (s.collKept_packageSums c).collQ
  exact State.collQ_ite (s.collQ_spread c []) (State.collQ_ite
    (State.collQ_ite ((r.1.collQ_endColl _ _ _).trans hr) ((r.1.collQ_give _ _).trans hr))
    (State.collQ_ite ((y.1.collQ_endColl _ _ _).trans hy) ((y.1.collQ_spread _ _).trans hy)))

@[simp] theorem State.collQ_addChunk (q : CollSub) (m : Nat) (bs : List AccBlock) : (s.addChunk c q m bs).collQ = s.collQ := by
  unfold State.addChunk
  extract_lets mx a s1 c1 y
  have h1 : s1.collQ = s.collQ := (s.collKept_cured _ _).collQ
  have hy : y.1.collQ = s1.collQ := (State.CollKept.foldl_fst (fun t _ _ => t.collKept_spillBlock c1 _ _ _) _ s1 _).collQ
  exact State.collQ_ite (s.collQ_mismatch _ _ _ _ _ _) (State.collQ_ite h1
    (State.collQ_ite ((y.1.collQ_endColl _ _ _).trans (hy.trans h1)) ((y.1.collQ_checkShards _).trans (hy.trans h1))))

@[simp] theorem State.collQ_collForward (m : Nat) (q : CollSub) (bs : List AccBlock) : (s.collForward c m q bs).collQ = s.collQ := by
  unfold State.collForward
  extract_lets first
  exact State.collQ_ite rfl ((foldl_keeps State.collQ (fun t _ => t.collQ_collSend c _ _ _ _ _) _ _).trans (s.collQ_hierSet c))

@[simp] theorem State.collQ_addResult (q : CollSub) (m : Nat) (bs : List AccBlock) : (s.addResult c q m bs).collQ = s.collQ := by
  unfold State.addResult
  extract_lets own s1 a c1 c2 s2
  have h1 : s1.collQ = s.collQ := State.collQ_ite rfl rfl
  have h2 : s2.collQ = s.collQ := (a.1.collQ_collForward _ _ _ _).trans ((s1.collKept_cured _ _).collQ.trans h1)
  exact State.collQ_ite ((s1.collQ_mismatch _ _ _ _ _ _).trans h1)
    (State.collQ_ite h2 (State.collQ_ite h2 ((s2.collQ_takeResults _ _ _ _).trans h2)))

@[simp] theorem State.collQ_takeFrame (ty m : Nat) (q : CollSub) (bs : List AccBlock) : (s.takeFrame c ty m q bs).collQ = s.collQ :=
  State.collQ_ite (s.collQ_addChunk c q m bs) (s.collQ_addResult c q m bs)

@[simp] theorem State.collQ_advanceColl (t : Nat) (cseq : BitVec 32) (n : Nat) : (s.advanceColl t cseq n).collQ = s.collQ := by
  induction n generalizing s with
  | zero => rfl
  | succ n ih =>
    unfold State.advanceColl
    split
    · rfl
    next c _ =>
      refine State.collQ_ite (s.collQ_endColl c _ _) (State.collQ_ite (State.collQ_ite ?_ rfl) (State.collQ_ite (State.collQ_ite (s.collQ_completeColl c) rfl)
        (State.collQ_ite (s.collQ_completeColl c) rfl)))
      rw [ih, foldl_keeps State.collQ (fun u h => ?_), State.collQ_startPass]
      split
      · exact u.collQ_takeFrame _ _ _ _ _
      · rfl

end Queues

end Sys2Proof.Machine
end

section
/-! PROOFS. Descriptors submitted (R348 to R351, R372): what makes one good, and what a good one does. -/

namespace Sys2Proof.Machine

theorem exec_collectiveSubmit (src : BitVec 17) (off : BitVec 15) (bytes : List Byte) (s : State) :
    exec (.collectiveSubmit src off bytes) s = .next (s.collSubmit src.toNat off.toNat bytes 0) := rfl

/-- The descriptor that core `c` writes, under the job that owns it (R34, R349). -/
def State.descOf (s : State) (src : BitVec 17) (c : CoreId) (bytes : List Byte) : CollDesc := ⟨src, bytes, 0, (s.core c).jobId, (s.core c).jobGen⟩

/-- A write to the submission area of a tenancy passes every check of a descriptor (R348 to R351). -/
structure State.GoodDesc (s : State) (src : BitVec 17) (off : Nat) (bytes : List Byte) (tn : Nat) (c : CoreId) (g : Group) : Prop where
  place : off % 128 = 0
  length : bytes.length = 128
  area : off / 4096 % 8 = tn
  core : s.phys src.toNat = some c
  group : s.groupOf tn (collBody bytes).group = g
  fields : (collBody bytes).bad bytes g = false
  active : s.groupOk tn g = true
  tenancy : (s.core c).tenancy.toNat = tn
  job : (s.core c).jobValid = true
  record : (collBody bytes).record / 2 ^ 48 = 2
  recordOk : s.regionOk c (collBody bytes).record 64 .w = true
  regions : s.collRegionsOk c g (((g.memberList).findIdx? (· == (s.ten tn).job.ownRank.toNat)).getD 0) (collBody bytes) = true
  rack : s.beyondRack tn g = false
  agrees : ∀ y ∈ s.collQ.get tn, y.b.cseq = (collBody bytes).cseq →
    (collBody bytes).agrees y.b = true ∧ y.b.group = (collBody bytes).group ∧ y.b.localIndex ≠ (collBody bytes).localIndex

section Good
variable {s : State} {src : BitVec 17} {off : Nat} {bytes : List Byte} {tn : Nat} {c : CoreId} {g : Group}

/-- What is no descriptor is logged and dropped (R348). -/
theorem State.collSubmit_misplaced (h : off % 128 ≠ 0 ∨ bytes.length ≠ 128) :
    s.collSubmit src.toNat off bytes 0 = s.hand { unit := fabUnit 0 0x02 0, cls := 0x0B, severity := 0 } := if_pos h

variable (h : s.GoodDesc src off bytes tn c g)
include h

/-- A good descriptor gets the record of a collective that has ended, is refused for want of room or of an admitting home, or joins the queue. -/
theorem State.GoodDesc.collSubmit : s.collSubmit src.toNat off bytes 0 =
    if let some e := g.ended.find? (·.1 == (collBody bytes).cseq) then
      s.writeRecord (s.descOf src c bytes) (collRecord (collBody bytes) e.2 4 0 s.t 0 0 g.gen 0)
    else if 1024 ≤ (s.collQ.get tn).length ∨ ¬ s.homeAdmits (collBody bytes) then s.refuseDesc (s.descOf src c bytes) stNotAdmitted true
    else { s with collQ := s.collQ.set tn (s.collQ.get tn ++ [s.descOf src c bytes]) } := by
  obtain ⟨hplace, hlength, rfl, hcore, rfl, hfields, hactive, htenancy, hjob, hrecord, hrecordOk, hregions, hrack, hagrees⟩ := h
  have hqueue : ((s.collQ.get (off / 4096 % 8)).any fun y => y.b.cseq == (collBody bytes).cseq &&
      (!(collBody bytes).agrees y.b || y.b.group != (collBody bytes).group || y.b.localIndex == (collBody bytes).localIndex)) = false := by
    rw [List.any_eq_false]
    intro y hy hbad
    simp only [Bool.and_eq_true, beq_iff_eq, Bool.or_eq_true, Bool.not_eq_true', bne_iff_ne] at hbad
    obtain ⟨hshape, hgroup, hindex⟩ := hagrees y hy hbad.1
    simp [hshape, hgroup, hindex] at hbad
  have hdesc : (⟨BitVec.ofNat 17 src.toNat, bytes, 0, ((s.core c).who 4 0).jobId, ((s.core c).who 4 0).jobGen⟩ : CollDesc) = s.descOf src c bytes := by
    simp [State.descOf, Core.who, hjob]
  unfold State.collSubmit
  rw [if_neg (by simp [hplace, hlength])]
  simp only [hcore, Option.map_some, Option.getD_some, hdesc]
  rw [if_neg]
  · rfl
  · simp only [Bool.or_eq_true, not_or, Bool.not_eq_true]
    have hb : (s.descOf src c bytes).b = collBody bytes := rfl
    simpa [hb, hfields, hactive, htenancy, hjob, hrecordOk, hregions, hrack, hqueue] using hrecord

theorem State.GoodDesc.joins (hended : ∀ e ∈ g.ended, e.1 ≠ (collBody bytes).cseq) (hroom : (s.collQ.get tn).length < 1024)
    (hhome : s.homeAdmits (collBody bytes) = true) :
    s.collSubmit src.toNat off bytes 0 = { s with collQ := s.collQ.set tn (s.collQ.get tn ++ [s.descOf src c bytes]) } := by
  have hnone : g.ended.find? (·.1 == (collBody bytes).cseq) = none := by simpa using hended
  rw [h.collSubmit, hnone]
  exact if_neg (by simp [hhome, hroom])

/-- With no room or no home the descriptor comes to a record alone. -/
theorem State.GoodDesc.collKept (hfull : 1024 ≤ (s.collQ.get tn).length ∨ s.homeAdmits (collBody bytes) = false) :
    s.CollKept (s.collSubmit src.toNat off bytes 0) := by
  rw [h.collSubmit]
  split
  · exact s.collKept_writeRecord _ _
  · rw [if_pos (by simpa using hfull)]
    exact s.collKept_refuseDesc _ _ _

end Good

/-- The statement's first part: what a write to the submission area does (R348 to R351, R372). -/
theorem collectiveSubmit_queues (src : BitVec 17) (off : BitVec 15) (bytes : List Byte) (s : State) (tn : Nat) (c : CoreId) (g : Group)
    (h : s.GoodDesc src off.toNat bytes tn c g) :
    ((∀ e ∈ g.ended, e.1 ≠ (collBody bytes).cseq) → (s.collQ.get tn).length < 1024 → s.homeAdmits (collBody bytes) = true →
      ∃ t, exec (.collectiveSubmit src off bytes) s = .next t ∧ t = { s with collQ := t.collQ } ∧
        t.collQ.get tn = s.collQ.get tn ++ [s.descOf src c bytes] ∧ ∀ n, n ≠ tn → t.collQ.get n = s.collQ.get n) ∧
    (∀ e, g.ended.find? (·.1 == (collBody bytes).cseq) = some e → exec (.collectiveSubmit src off bytes) s =
      .next (s.writeRecord (s.descOf src c bytes) (collRecord (collBody bytes) e.2 4 0 s.t 0 0 g.gen 0))) ∧
    (1024 ≤ (s.collQ.get tn).length ∨ s.homeAdmits (collBody bytes) = false →
      ∃ t, exec (.collectiveSubmit src off bytes) s = .next t ∧ t.collQ = s.collQ ∧ t.colls = s.colls) := by
  rw [exec_collectiveSubmit]
  refine ⟨fun hended hroom hhome => ?_, fun e he => ?_, fun hfull => ⟨_, rfl, (h.collKept hfull).collQ, (h.collKept hfull).colls⟩⟩
  · rw [h.joins hended hroom hhome]
    exact ⟨_, rfl, rfl, Tab.get_set_same _ _ _, fun n hn => Tab.get_set_other _ _ hn⟩
  · rw [h.collSubmit, he]

end Sys2Proof.Machine
end

section
/-! PROOFS. A barrier's pass (R353, R358, R364): its one empty shard, whose owner is member 0, and when the package that is not member 0 goes on waiting. -/

namespace Sys2Proof.Machine

/-! ### A collective that goes on or completes (R358, R447) -/

section Advance
variable {s : State} {t : Nat} {q : BitVec 32} {c : Coll} (hfound : s.findColl t q = some c) (hgood : c.badRank = false) (hplain : c.agree = false)
include hfound hgood hplain

/-- A collective for which something has not come goes on as it is. -/
theorem State.advanceColl_waits (hbarrier : c.b.cop = 5 → c.shardDone = false)
    (hwait : c.b.cop ≠ 5 → ¬ (c.arrived.length = c.expected ∧ (c.b.gathers = true ∨ c.pointsDone = true))) (n : Nat) : s.advanceColl t q n = s := by
  cases n with
  | zero => rfl
  | succ n =>
    rw [State.advanceColl, hfound]
    simp only [hgood, hplain, Bool.false_eq_true, if_false]
    split
    next hcop => rw [hbarrier hcop]; rfl
    next hcop => exact if_neg (hwait hcop)

/-- A barrier whose result is there completes. -/
theorem State.advanceColl_barrier (hcop : c.b.cop = 5) (hdone : c.shardDone = true) (n : Nat) : s.advanceColl t q (n + 1) = s.completeColl c := by
  rw [State.advanceColl, hfound]
  simp [hgood, hplain, hcop, hdone]

end Advance

/-- When the last collective of the list is dropped, the others are left. -/
theorem State.HasLast.colls_dropColl {s : State} {l : List Coll} {c : Coll} (h : s.HasLast l c) (done : Bool) (st : Byte) :
    (s.dropColl c done st).colls = l := by
  have hrest : l.filter (fun d => !(d.ten == c.ten && d.cseq == c.cseq)) = l :=
    List.filter_eq_self.2 (fun x hx => by simpa [imp_iff_not_or] using h.only x hx)
  rw [State.colls_dropColl, h.colls, List.filter_append, hrest]
  simp

/-- Applying the choice of shape touches the groups alone (R364). -/
theorem State.colls_hierSet (s : State) (c : Coll) : (s.hierSet c).colls = s.colls := by
  unfold State.hierSet
  split
  · rfl
  · rfl

/-! ### A barrier -/

/-- What the pass of a barrier does not move of it. -/
def Coll.fixedPart (c : Coll) : Coll := { c with own := [], acc := [], got := [], nfAny := false, fwd := [], heard := [], shardDone := false }

theorem Coll.identity_of_fixedPart {c d : Coll} (h : c.fixedPart = d.fixedPart) :
    c.ten = d.ten ∧ c.group = d.group ∧ c.cseq = d.cseq ∧ c.home = d.home ∧ c.tAdmit = d.tAdmit ∧ c.me = d.me :=
  ⟨(congrArg Coll.ten h :), (congrArg Coll.group h :), (congrArg Coll.cseq h :), (congrArg Coll.home h :), (congrArg Coll.tAdmit h :),
    (congrArg Coll.me h :)⟩

/-- A barrier that has come as far as its chunks, which are empty (R353, R359). -/
structure Coll.Barrier (c : Coll) : Prop where
  cop : c.b.cop = 5
  empty : c.b.n = 0
  plain : c.agree = false
  own : c.own = []
  acc : c.acc = []
  got : ∀ g ∈ c.got, g = (c.me, 0, 0, 0)
  bad : c.bad = []
  good : c.badRank = false
  undone : c.shardDone = false

theorem sumN_eq_zero {l : List Nat} (h : ∀ x ∈ l, x = 0) : sumN l = 0 := by
  rw [List.eq_replicate_of_mem h]
  induction l.length with
  | zero => rfl
  | succ n ih => simpa [sumN, List.replicate_succ] using ih

section Shards
variable {c : Coll} (hcop : c.b.cop = 5) (hempty : c.b.n = 0)

include hempty in
theorem Coll.shardOf_of_empty (k : Nat) : c.shardOf k = (0, 0) := by
  simp [Coll.shardOf, CollBody.blocks, hempty, ceilDiv, shardLo]

include hcop in
theorem Coll.shardsAt_of_barrier (m : Nat) : c.shardsAt m = if c.target 0 = m then [0] else [] := by
  simp [Coll.shardsAt, Coll.shards, hcop, List.filter_cons]

include hcop hempty in
theorem Coll.ranges_of_barrier (m : Nat) : c.ranges (c.shardsAt m) = if c.target 0 = m then [(0, 0)] else [] := by
  rw [Coll.shardsAt_of_barrier hcop]
  split
  · simp [Coll.ranges, Coll.shardOf_of_empty hempty]
  · rfl

end Shards

theorem Coll.lt_of_mem_others {c : Coll} {m : Nat} (h : m ∈ c.others) : m < c.members.length :=
  List.mem_range.1 (List.mem_of_mem_filter h)

section Barrier
variable {c : Coll} (h : c.Barrier)
include h

theorem Coll.Barrier.gotOf (k : Nat) : c.gotOf k = c.got := by
  refine List.filter_eq_self.2 (fun g hg => ?_)
  rw [Coll.shardOf_of_empty h.empty, h.got g hg]
  rfl

theorem Coll.Barrier.gotSum (k : Nat) : c.gotSum k = 0 := by
  have hzero : ∀ x ∈ c.got.map (fun g => g.2.2.2), x = 0 := by
    simp only [List.mem_map]
    rintro x ⟨g, hg, rfl⟩
    rw [h.got g hg]
  rw [Coll.gotSum, h.gotOf, sumN_eq_zero hzero]
  rfl

/-- The chunk of the only member makes the shard full. -/
theorem Coll.Barrier.shardFull_alone (hgot : c.got ≠ []) (hfeeds : c.feeders 0 = [c.me]) : c.shardFull 0 = true := by
  have hany : c.got.any (fun g => g.1 == c.me) = true := by
    obtain ⟨g, hg⟩ := List.exists_mem_of_ne_nil _ hgot
    exact List.any_eq_true.2 ⟨g, hg, by rw [h.got g hg]; exact beq_self_eq_true _⟩
  have hzero : ∀ x ∈ (c.got.filter (fun g => g.1 == c.me)).map (fun g => g.2.2.1), x = 0 := by
    simp only [List.mem_map]
    rintro x ⟨g, hg, rfl⟩
    rw [h.got g (List.mem_of_mem_filter hg)]
  unfold Coll.shardFull
  simp only [hfeeds, h.gotOf, Coll.shardOf_of_empty h.empty, List.all_cons, hany, sumN_eq_zero hzero]
  rfl

/-- The sums of an empty shard match, and nothing stands to be cured (R366). -/
theorem State.checkShard_barrier (s : State) (k : Nat) : s.checkShard c k = if c.pointDone k || !c.shardFull k then s else s.shardOut c k := by
  have hcured : ∀ key, s.cured c key = (s, c) := fun key => by simp [State.cured, h.bad]
  have hsum : (!c.maxing && c.gotSum k != blocksSum 0 []) = false := by
    rw [h.gotSum]
    simp [blocksSum, checksum]
  unfold State.checkShard
  simp only [Coll.shardOf_of_empty h.empty, hcured, Nat.sub_self, List.range_zero, List.map_nil, hsum, Bool.false_eq_true, if_false]

theorem State.settleShard_barrier (s : State) (sh : Nat × Nat) : s.settleShard c sh = (s, c) := by
  simp [State.settleShard, h.acc]

end Barrier

/-! ### The pass -/

section Pass
variable {s : State} {l : List Coll} {c : Coll} (hlast : s.HasLast l c) (h : c.Barrier)
include hlast h

/-- A shard of another member goes on to it, and the barrier stays undone. -/
theorem State.shardOut_barrier_away (hk : 0 ≠ c.me) (hs : s.SendsToAll c) (hlen : 0 < c.members.length) :
    ∃ c', (s.shardOut c 0).HasLast l c' ∧ c'.fixedPart = c.fixedPart ∧ c'.shardDone = false := by
  unfold State.shardOut
  simp only [State.settleShard_barrier h]
  rw [if_pos hk]
  have hs' : (s.putColl { c with fwd := c.fwd ++ [0] }).SendsToAll { c with fwd := c.fwd ++ [0] } := hs
  exact ⟨_, (State.collKept_sendBlocks hs' hlen _ _ _ _ _ _).hasLast (hlast.putColl rfl rfl h.good), rfl, h.undone⟩

/-- The only member of a barrier has its result. -/
theorem State.shardOut_barrier_alone (hk : c.me = 0) (halone : c.peers = [] ∧ c.reps = []) :
    ∃ c', (s.shardOut c 0).HasLast l c' ∧ c'.fixedPart = c.fixedPart ∧ c'.shardDone = true := by
  unfold State.shardOut
  extract_lets sh a s1 c1 cFwd d mute s2 s3 bs
  have ha : a = (s, c) := State.settleShard_barrier h s sh
  have hsh : sh = (0, 0) := Coll.shardOf_of_empty h.empty 0
  clear_value a sh
  subst ha hsh
  have hmute : ¬ mute := fun hm => hm.elim (fun hm => absurd (h.cop.symm.trans hm.1) (by decide)) (fun hm => hm.2 h.cop)
  have hsends : d.peers ++ d.reps = [] := List.append_eq_nil_iff.2 halone
  have hs3 : s3 = s2.hierSet d := by
    simp only [s3]
    rw [if_neg hmute, hsends]
    rfl
  have hplain : ¬ d.agree = true := ne_true_of_eq_false h.plain
  have hlast2 : s2.HasLast l d := hlast.putColl rfl rfl h.good
  rw [if_neg (not_not.2 hk.symm), if_neg hplain, hs3]
  exact ⟨d, (hlast2.of_colls (s2.colls_hierSet d)).putColl rfl rfl h.good, rfl, rfl⟩

/-- Of a member other than the shard's owner, the barrier stays undone. -/
theorem State.checkShards_barrier_away (hk : 0 ≠ c.me) (hs : s.SendsToAll c) (hlen : 0 < c.members.length) :
    ∃ c', (s.checkShards c).HasLast l c' ∧ c'.fixedPart = c.fixedPart ∧ c'.shardDone = false := by
  have hput : (s.putColl c).HasLast l c := hlast.putColl rfl rfl h.good
  unfold State.checkShards
  rw [Coll.shardsAt_of_barrier h.cop]
  split
  · rw [List.foldl_cons, List.foldl_nil, hput.findColl]
    dsimp only
    rw [State.checkShard_barrier h]
    split
    · exact ⟨c, hput, rfl, h.undone⟩
    · exact State.shardOut_barrier_away hput h hk hs hlen
  · exact ⟨c, hput, rfl, h.undone⟩

/-- The only member of a group reduces the empty shard, and its own chunk makes it full. -/
theorem State.checkShards_barrier_alone (hk : c.me = 0) (hflat : c.doms = []) (halone : c.members.length = 1) (hgot : c.got ≠ []) :
    ∃ c', (s.checkShards c).HasLast l c' ∧ c'.fixedPart = c.fixedPart ∧ c'.shardDone = true := by
  have hput : (s.putColl c).HasLast l c := hlast.putColl rfl rfl h.good
  have hshape : c.hierShape = false := by simp [Coll.hierShape, hflat]
  have htarget : c.target 0 = c.me := by simp [Coll.target, hshape, hk]
  have hothers : c.peers = [] ∧ c.reps = [] := by simp [Coll.peers, Coll.others, Coll.reps, hshape, hflat, halone, hk]
  have hfeeds : c.feeders 0 = [c.me] := by simp [Coll.feeders, hshape, halone, hk]
  have hfull : c.shardFull 0 = true := h.shardFull_alone hgot hfeeds
  have hpoint : c.pointDone 0 = false := by simp [Coll.pointDone, hk, h.undone]
  unfold State.checkShards
  rw [Coll.shardsAt_of_barrier h.cop, if_pos htarget, List.foldl_cons, List.foldl_nil, hput.findColl]
  dsimp only
  rw [State.checkShard_barrier h, hpoint, hfull]
  exact State.shardOut_barrier_alone hput h hk hothers

end Pass

/-! ### The pass begins (R353) -/

/-- A barrier as its admission leaves it. -/
structure Coll.FreshBarrier (c : Coll) : Prop where
  cop : c.b.cop = 5
  empty : c.b.n = 0
  plain : c.agree = false
  got : c.got = []
  bad : c.bad = []
  good : c.badRank = false
  undone : c.shardDone = false

section Start
variable {s : State} {l : List Coll} {c : Coll} (h : c.FreshBarrier)
include h

/-- A barrier's pass spreads empty chunks; its own is in where this member reduces the shard. -/
theorem State.startPass_barrier (hs : c.others = [] ∨ s.SendsToAll c) :
    ∃ u d, d.Barrier ∧ d.fixedPart = c.fixedPart ∧ (s.putColl d).CollKept u ∧ s.startPass c = u.checkShards d ∧ (d.target 0 = d.me → d.got ≠ []) := by
  unfold State.startPass
  rw [if_pos h.cop]
  unfold State.spread
  extract_lets nf here d u
  have hhere : here = if d.target 0 = d.me then [(0, 0)] else [] := Coll.ranges_of_barrier h.cop h.empty c.me
  have hgot : d.got = here.map (fun r => (c.me, r.1, r.2 - r.1, blocksSum r.1 ((List.range (r.2 - r.1)).map (fun i => Tab.get [] (r.1 + i))))) := by
    simp only [d, h.got, List.nil_append]
  have hd : d.Barrier := by
    refine ⟨h.cop, h.empty, h.plain, rfl, rfl, fun g hg => ?_, h.bad, h.good, h.undone⟩
    rw [hgot, hhere] at hg
    split at hg
    · exact List.mem_singleton.1 hg
    · exact absurd hg List.not_mem_nil
  have hsends : (s.putColl d).CollKept u := by
    rcases hs with hnone | hall
    · have hnone : d.others = [] := hnone
      simp only [u, hnone]
      exact .refl _
    · have hall : (s.putColl d).SendsToAll d := hall
      exact .foldl_sends (fun t ht m hm => .foldl_sends (fun v hv r _ => State.collKept_sendBlocks hv (Coll.lt_of_mem_others hm) _ _ _ _ _ _) ht) hall
  refine ⟨u, d, hd, rfl, hsends, rfl, fun htarget => ?_⟩
  rw [hgot, hhere, if_pos htarget]
  exact List.cons_ne_nil _ _

end Start

end Sys2Proof.Machine
end

section
/-! PROOFS. Local admission (R347, R354 to R357): when a collective may be admitted, what its admission changes at once, and the pass that follows. -/

namespace Sys2Proof.Machine

theorem exec_collectiveLocalAdmit (t : Ten) (cseq : BitVec 32) (ups : List (CoreId × Upset)) (s : State) :
    exec (.collectiveLocalAdmit t cseq ups) s = execCollectiveLocalAdmit t cseq ups s := rfl

/-! ### The descriptors of a collective (R351) -/

/-- The descriptors queued for a collective. -/
def State.descsFor (s : State) (t : Nat) (cseq : BitVec 32) : List CollDesc := (s.collQ.get t).filter (fun d => d.b.cseq == cseq)

/-- The descriptors queued for other collectives. -/
def State.descsBeside (s : State) (t : Nat) (cseq : BitVec 32) : List CollDesc := (s.collQ.get t).filter (fun d => d.b.cseq != cseq)

/-- The body that a collective's descriptors share. -/
def State.bodyFor (s : State) (t : Nat) (cseq : BitVec 32) : CollBody := ((s.descsFor t cseq).headD {}).b

/-- Descriptors in the order of their local indices. -/
def byIndex (l : List CollDesc) : List CollDesc := (List.range l.length).filterMap (fun i => l.find? (fun d => d.b.localIndex == i))

/-- Where every local index is below the number of descriptors, some descriptor stands first. -/
theorem headD_byIndex_mem {l : List CollDesc} (hne : l ≠ []) (hindex : ∀ d ∈ l, d.b.localIndex < l.length) : (byIndex l).headD {} ∈ l := by
  have hsub : ∀ d ∈ byIndex l, d ∈ l := fun d hd => by
    obtain ⟨i, -, hi⟩ := List.mem_filterMap.1 hd
    exact List.mem_of_find?_eq_some hi
  obtain ⟨d, hd⟩ := List.exists_mem_of_ne_nil l hne
  obtain ⟨e, he⟩ := Option.isSome_iff_exists.1 (List.find?_isSome.2 ⟨d, hd, beq_self_eq_true d.b.localIndex⟩ :
    (l.find? (fun x => x.b.localIndex == d.b.localIndex)).isSome = true)
  have hmem : e ∈ byIndex l := List.mem_filterMap.2 ⟨d.b.localIndex, List.mem_range.2 (hindex d hd), he⟩
  obtain ⟨x, r, hxr⟩ := List.exists_cons_of_ne_nil (List.ne_nil_of_mem hmem)
  rw [hxr, List.headD_cons]
  exact hsub x (hxr ▸ List.mem_cons_self)

/-! ### What an admission changes at once (R354, R355, R364) -/

/-- The home of a collective (R355). -/
def State.homeFor (s : State) (t : Nat) (cseq : BitVec 32) : Nat := s.measure.pickHome (s.bodyFor t cseq)

/-- The slots that a collective needs are free at its home. -/
def State.slotsFree (s : State) (t : Nat) (cseq : BitVec 32) : Prop :=
  ((s.fab (s.homeFor t cseq)).slotsUsed.get t).toNat + (s.bodyFor t cseq).slots ≤ ((s.fab (s.homeFor t cseq)).slotQuota.get t).toNat

/-- The descriptors of a collective leave their queue. -/
def State.dequeued (s : State) (t : Nat) (cseq : BitVec 32) : State := { s.measure with collQ := s.collQ.set t (s.descsBeside t cseq) }

/-- The collective takes `n` slots. -/
def State.slotsTaken (s : State) (t : Nat) (cseq : BitVec 32) (n : Nat) (ups : List (CoreId × Upset)) : State :=
  (ups.foldl (fun s u => s.upset u.1 [u.2]) (s.dequeued t cseq)).updFab (s.homeFor t cseq)
    (fun f => { f with slotsUsed := f.slotsUsed.upd t (fun u => u + BitVec.ofNat 12 n) })

/-- A collective as its admission computes it, without its shape to come and its slots. -/
def State.boundedFor (s : State) (t : Nat) (cseq : BitVec 32) : Coll :=
  s.collBounded { s.collOf t (s.bodyFor t cseq).group cseq (byIndex (s.descsFor t cseq)) (s.homeFor t cseq) with
    agree := (s.bodyFor t cseq).agree == 1 && (s.bodyFor t cseq).cop ≤ 2 }

/-- The collective with the shape to come (R364). -/
def State.shapedFor (s : State) (t : Nat) (cseq : BitVec 32) : Coll := { s.boundedFor t cseq with hierTo := s.measure.hierNext (s.boundedFor t cseq) }

/-- The collective that is admitted with `n` slots. -/
def State.admittedFor (s : State) (t : Nat) (cseq : BitVec 32) (n : Nat) : Coll := { s.shapedFor t cseq with slots := n }

/-- A collective is behind those that run. -/
def State.listed (s : State) (c : Coll) : State := { s with colls := s.colls ++ [c] }

/-- Every local contributor of a group has submitted a collective, no earlier one of its kind stands before it, and its home admits. -/
structure State.MayAdmit (s : State) (t : Nat) (cseq : BitVec 32) : Prop where
  present : s.descsFor t cseq ≠ []
  all : (s.descsFor t cseq).length = (s.groupOf t (s.bodyFor t cseq).group).localCount.toNat
  first : ∀ d ∈ s.descsBeside t cseq, serialLt d.b.cseq cseq = false
  alone : ∀ c ∈ s.colls, ¬ (c.ten = t ∧ (c.group = (s.bodyFor t cseq).group ∨ c.cseq = cseq))
  active : s.groupOk t (s.groupOf t (s.bodyFor t cseq).group) = true
  noShadow : s.castShadow = false
  home : s.dieAdmits (5 + s.homeFor t cseq) = true

section Admit
variable {s : State} {t : Ten} {cseq : BitVec 32} (h : s.MayAdmit t.val cseq) (ups : List (CoreId × Upset))
include h

theorem State.MayAdmit.not_early : (((s.descsFor t.val cseq).isEmpty || (s.descsFor t.val cseq).length != (s.groupOf t.val (s.bodyFor t.val cseq).group).localCount.toNat
    || (s.descsBeside t.val cseq).any (fun d => serialLt d.b.cseq cseq)) || s.colls.any (fun c => c.ten == t.val && c.group == (s.bodyFor t.val cseq).group)
    || !s.groupOk t.val (s.groupOf t.val (s.bodyFor t.val cseq).group) || s.castShadow) = false := by
  have hfirst : (s.descsBeside t.val cseq).any (fun d => serialLt d.b.cseq cseq) = false := List.any_eq_false.2 (fun d hd => by simp [h.first d hd])
  have halone : s.colls.any (fun c => c.ten == t.val && c.group == (s.bodyFor t.val cseq).group) = false :=
    List.any_eq_false.2 (fun c hc hk => h.alone c hc (by simp only [Bool.and_eq_true, beq_iff_eq] at hk; exact ⟨hk.1, .inl hk.2⟩))
  have hsome : (s.descsFor t.val cseq).isEmpty = false := by simpa using h.present
  rw [hfirst, halone, h.active, h.noShadow, h.all, hsome]
  simp

/-- An admission that may be comes to a pass where the slots are free; where they are not, to records of a refusal or to a longer wait, as the
descriptors say (R354, R356). -/
theorem State.MayAdmit.exec_cases :
    ((s.bodyFor t.val cseq).slots = 0 ∨ s.slotsFree t.val cseq → ∃ n, exec (.collectiveLocalAdmit t cseq ups) s =
      .next ((((s.slotsTaken t.val cseq n ups).listed (s.admittedFor t.val cseq n)).startPass (s.admittedFor t.val cseq n)).advanceColl t.val cseq 3)) ∧
    ((s.bodyFor t.val cseq).slots ≠ 0 → ¬ s.slotsFree t.val cseq →
      ((s.bodyFor t.val cseq).onFull = 2 → ∃ gen, exec (.collectiveLocalAdmit t cseq ups) s = .next ((byIndex (s.descsFor t.val cseq)).foldl
        (fun u d => u.writeRecord d (collRecord d.b stSlotsExhausted 4 0 u.t 0 0 gen 0)) (s.dequeued t.val cseq))) ∧
      ((s.bodyFor t.val cseq).onFull = 1 → (s.bodyFor t.val cseq).slots ≤ ((s.fab (s.homeFor t.val cseq)).slotQuota.get t.val).toNat →
        exec (.collectiveLocalAdmit t cseq ups) s = .next s)) := by
  rw [exec_collectiveLocalAdmit]
  unfold execCollectiveLocalAdmit
  extract_lets q mine rest x g sm home fb need quota free descs c0 c cTo s0 s1 c1 s2 c2
  have hmine : mine = s.descsFor t.val cseq := rfl
  have hrest : rest = s.descsBeside t.val cseq := rfl
  clear_value mine rest
  subst hmine hrest
  have hx : x = s.bodyFor t.val cseq := rfl
  clear_value x
  subst hx
  have hhome : home = s.homeFor t.val cseq := rfl
  clear_value home
  cases hhome
  have hearly := ne_true_of_eq_false h.not_early
  have hadmits : ¬ (!s.dieAdmits (5 + s.homeFor t.val cseq)) = true := by simp [h.home]
  have hfree : free = s.slotsFree t.val cseq := rfl
  refine ⟨fun hslots => ⟨need, ?_⟩, fun hneed hfull => ?_⟩
  · have hgo : need = 0 ∨ free = (true = true) := hslots.imp_right (fun hf => eq_true hf |>.trans (eq_true rfl).symm)
    refine (if_neg hearly).trans ((if_neg hadmits).trans ((if_pos hgo).trans ?_))
    clear hgo
    clear_value need
    have hc : c = s.boundedFor t.val cseq := rfl
    have hs1 : s1 = s.slotsTaken t.val cseq need ups := rfl
    have hshape : cTo = s.shapedFor t.val cseq := by
      rw [State.shapedFor, ← hc]
    rw [State.admittedFor, ← hshape, ← hs1]
    clear_value s1 cTo
    rfl
  · have hstop : ¬ (need = 0 ∨ free = (true = true)) := not_or.2 ⟨hneed, fun hf => hfull (of_eq_true (hf.trans (eq_true rfl)))⟩
    refine ⟨fun hrefuse => ⟨g.gen, ?_⟩, fun hwait hquota => ?_⟩
    · exact (if_neg hearly).trans ((if_neg hadmits).trans ((if_neg hstop).trans (if_pos hrefuse)))
    · have hasks : ¬ (s.bodyFor t.val cseq).onFull = 2 := fun hx => absurd (hx.symm.trans hwait) (by decide)
      exact (if_neg hearly).trans ((if_neg hadmits).trans ((if_neg hstop).trans ((if_neg hasks).trans (if_pos ⟨hwait, hquota⟩))))

end Admit

end Sys2Proof.Machine
end

section
/-! PROOFS. What a local admission leaves (R354 to R358): the queue without its descriptors, and a barrier that completes at once or is held open. -/

namespace Sys2Proof.Machine

/-! ### The state that an admission's pass begins in -/

section Taken
variable (s : State) (t : Nat) (cseq : BitVec 32)

/-- The measured levels are no part of anything else (R364). -/
theorem State.measure_fab_of {γ : Type} (q : Fabric → γ) (n : Nat)
    (hq : ∀ f l0 l1 l2 l3 l4, q { f with l0 := l0, l1 := l1, l2 := l2, l3 := l3, l4 := l4 } = q f := by intros; rfl) :
    q (s.measure.fab n) = q (s.fab n) := by
  have hdie : ∀ (u : State) pl, q ((u.measureDie pl).fab n) = q (u.fab n) := fun u pl => u.updFab_fab_of q pl n (fun f => hq f _ _ _ _ _)
  exact (hdie _ 1).trans (hdie s 0)

theorem State.ten_dequeued (n : Nat) : (s.dequeued t cseq).ten n = s.ten n := rfl

theorem State.rankDest_dequeued (n tn rank : Nat) : (s.dequeued t cseq).rankDest n tn rank = s.rankDest n tn rank := by
  have hranks : ((s.dequeued t cseq).fab n).ranks = (s.fab n).ranks := s.measure_fab_of Fabric.ranks n
  simp only [State.rankDest, hranks, State.ten_dequeued]

variable (ups : List (CoreId × Upset))

/-- Upsets leave the engine's state. -/
theorem State.collKept_upsets : s.CollKept (ups.foldl (fun s u => s.upset u.1 [u.2]) s) := .foldl (fun t _ => t.collKept_upset _ _) ups s

variable (n : Nat)

theorem State.collQ_slotsTaken : (s.slotsTaken t cseq n ups).collQ = s.collQ.set t (s.descsBeside t cseq) :=
  ((s.dequeued t cseq).collKept_upsets ups).collQ

theorem State.colls_slotsTaken : (s.slotsTaken t cseq n ups).colls = s.colls := ((s.dequeued t cseq).collKept_upsets ups).colls

theorem State.rankDest_slotsTaken (pl tn rank : Nat) : (s.slotsTaken t cseq n ups).rankDest pl tn rank = s.rankDest pl tn rank := by
  have hkept := (s.dequeued t cseq).collKept_upsets ups
  have hranks := State.updFab_fab_of Fabric.ranks (ups.foldl (fun s u => s.upset u.1 [u.2]) (s.dequeued t cseq)) (s.homeFor t cseq) pl
    (g := fun f => { f with slotsUsed := f.slotsUsed.upd t (fun u => u + BitVec.ofNat 12 n) })
  rw [← s.rankDest_dequeued t cseq, ← hkept.rankDest, State.rankDest, State.slotsTaken, hranks]
  rfl

end Taken

/-! ### The collective that is admitted -/

section Admitted
variable {s : State} {t : Nat} {cseq : BitVec 32} (h : s.MayAdmit t cseq) (n : Nat)
include h

theorem State.MayAdmit.hasLast (ups : List (CoreId × Upset)) :
    ((s.slotsTaken t cseq n ups).listed (s.admittedFor t cseq n)).HasLast s.colls (s.admittedFor t cseq n) where
  colls := congrArg (· ++ [s.admittedFor t cseq n]) (s.colls_slotsTaken t cseq ups n)
  only c hc hk := h.alone c hc ⟨hk.1, .inr hk.2⟩
  good := rfl

/-- The descriptors of a barrier make a barrier (R353). -/
theorem State.MayAdmit.freshBarrier (hcop : (s.bodyFor t cseq).cop = 5)
    (hdescs : ∀ d ∈ s.descsFor t cseq, d.b.cop = 5 ∧ d.b.n = 0 ∧ d.b.localIndex < (s.descsFor t cseq).length) :
    (s.admittedFor t cseq n).FreshBarrier := by
  obtain ⟨hfive, hempty, -⟩ := hdescs _ (headD_byIndex_mem h.present (fun d hd => (hdescs d hd).2.2))
  have hplain : (s.admittedFor t cseq n).agree = ((s.bodyFor t cseq).agree == 1 && decide ((s.bodyFor t cseq).cop ≤ 2)) := rfl
  exact ⟨hfive, hempty, by rw [hplain, hcop]; simp, rfl, rfl, rfl, rfl⟩

end Admitted

section Fields
variable (s : State) (t : Nat) (cseq : BitVec 32) (n : Nat)

theorem State.home_admittedFor : (s.admittedFor t cseq n).home = s.homeFor t cseq := by
  simp only [State.admittedFor, State.shapedFor, State.boundedFor, State.collBounded, State.collOf]

theorem State.members_admittedFor : (s.admittedFor t cseq n).members = (s.groupOf t (s.bodyFor t cseq).group).memberList := rfl

theorem State.me_admittedFor : (s.admittedFor t cseq n).me =
    (((s.groupOf t (s.bodyFor t cseq).group).memberList).findIdx? (· == (s.ten t).job.ownRank.toNat)).getD 0 := rfl

/-- A group of this package alone has the flat shape (R364). -/
theorem State.doms_admittedFor (halone : (s.groupOf t (s.bodyFor t cseq).group).memberList = [(s.ten t).job.ownRank.toNat]) :
    (s.admittedFor t cseq n).doms = [] := by
  have hdoms : (s.admittedFor t cseq n).doms = if (s.groupOf t (s.bodyFor t cseq).group).hier && s.hallMember t (s.groupOf t (s.bodyFor t cseq).group).memberList
      then s.rackDomains t (s.groupOf t (s.bodyFor t cseq).group).memberList else [] := rfl
  rw [hdoms, halone]
  simp [State.hallMember, State.inDomain]

end Fields

/-! ### The pass of an admitted barrier (R358) -/

section Pass
variable {u : State} {l : List Coll} {c : Coll} (hlast : u.HasLast l c) (h : c.FreshBarrier)
include hlast h

/-- A barrier of one package completes in the step of its admission. -/
theorem State.admit_barrier_alone (hflat : c.doms = []) (halone : c.members.length = 1) (hme : c.me = 0) :
    ((u.startPass c).advanceColl c.ten c.cseq 3).colls = l ∧
      (((u.startPass c).advanceColl c.ten c.cseq 3).groupOf c.ten c.group).lastCseq = c.cseq := by
  have hothers : c.others = [] := by simp [Coll.others, halone, hme]
  obtain ⟨v, d, hd, hfixed, hkept, hstart, hgot⟩ := u.startPass_barrier h (.inl hothers)
  have hten : d.ten = c.ten := (congrArg Coll.ten hfixed :)
  have hcseq : d.cseq = c.cseq := (congrArg Coll.cseq hfixed :)
  have hdoms : d.doms = c.doms := (congrArg Coll.doms hfixed :)
  have hmembers : d.members = c.members := (congrArg Coll.members hfixed :)
  have hdme : d.me = 0 := (congrArg Coll.me hfixed :).trans hme
  have htarget : d.target 0 = d.me := by simp [Coll.target, Coll.hierShape, hdoms, hflat, hdme]
  have hbegun : v.HasLast l d := hkept.hasLast (hlast.putColl hten hcseq hd.good)
  obtain ⟨e, hend, hsame, hdone⟩ := State.checkShards_barrier_alone hbegun hd hdme (hdoms.trans hflat) (by rw [hmembers, halone]) (hgot htarget)
  have hall : e.fixedPart = c.fixedPart := hsame.trans hfixed
  have heten : e.ten = c.ten := (congrArg Coll.ten hall :)
  have hecseq : e.cseq = c.cseq := (congrArg Coll.cseq hall :)
  have hegroup : e.group = c.group := (congrArg Coll.group hall :)
  have hecop : e.b.cop = 5 := (congrArg (fun x : Coll => x.b.cop) hall :).trans h.cop
  have heplain : e.agree = false := (congrArg Coll.agree hall :).trans h.plain
  rw [hstart, ← heten, ← hecseq, ← hegroup, State.advanceColl_barrier hend.findColl hend.good heplain hecop hdone]
  obtain ⟨w, hw, hcomplete⟩ := (v.checkShards d).completeColl_drops e
  rw [hcomplete, State.groupOf_dropColl]
  exact ⟨(hw.hasLast hend).colls_dropColl _ _, rfl⟩

/-- A barrier of more packages is held open by one that is not member 0. -/
theorem State.admit_barrier_waits (hme : c.me ≠ 0) (hlen : 0 < c.members.length) (hs : u.SendsToAll c) :
    ∃ e, ((u.startPass c).advanceColl c.ten c.cseq 3).colls = l ++ [e] ∧ e.fixedPart = c.fixedPart := by
  obtain ⟨v, d, hd, hfixed, hkept, hstart, -⟩ := u.startPass_barrier h (.inr hs)
  have hten : d.ten = c.ten := (congrArg Coll.ten hfixed :)
  have hcseq : d.cseq = c.cseq := (congrArg Coll.cseq hfixed :)
  have hmembers : d.members = c.members := (congrArg Coll.members hfixed :)
  have hdme : 0 ≠ d.me := fun h0 => hme (h0.trans (congrArg Coll.me hfixed :)).symm
  have hds : (u.putColl d).SendsToAll d := by
    unfold State.SendsToAll at *
    rw [hmembers, hten]
    exact hs
  obtain ⟨e, hend, hsame, hundone⟩ := State.checkShards_barrier_away (hkept.hasLast (hlast.putColl hten hcseq hd.good)) hd hdme (hkept.sendsToAll hds)
    (by rw [hmembers]; exact hlen)
  have hall : e.fixedPart = c.fixedPart := hsame.trans hfixed
  have heten : e.ten = c.ten := (congrArg Coll.ten hall :)
  have hecseq : e.cseq = c.cseq := (congrArg Coll.cseq hall :)
  have hecop : e.b.cop = 5 := (congrArg (fun x : Coll => x.b.cop) hall :).trans h.cop
  have heplain : e.agree = false := (congrArg Coll.agree hall :).trans h.plain
  rw [hstart, ← heten, ← hecseq, State.advanceColl_waits hend.findColl hend.good heplain (fun _ => hundone) (fun hne => absurd hecop hne)]
  exact ⟨e, hend.colls, hall⟩

end Pass

end Sys2Proof.Machine
end

section
/-! PROOFS. The statement about submission and local admission (R348, R349, R351, R355), from the lemmas above. -/

namespace Sys2Proof.Machine

section Admission
variable {s : State} {tn : Ten} {cseq : BitVec 32} (h : s.MayAdmit tn.val cseq) (ups : List (CoreId × Upset))
include h

/-- With its slots free, a collective's descriptors leave their queue; a barrier completes at once in a group of this package alone, and is held open
by a package that is not member 0 (R354, R358). -/
theorem State.MayAdmit.admission (hslots : (s.bodyFor tn.val cseq).slots = 0 ∨ s.slotsFree tn.val cseq) :
    ∃ t, exec (.collectiveLocalAdmit tn cseq ups) s = .next t ∧ t.collQ = s.collQ.set tn.val (s.descsBeside tn.val cseq) ∧
      ((s.bodyFor tn.val cseq).cop = 5 → (∀ d ∈ s.descsFor tn.val cseq, d.b.cop = 5 ∧ d.b.n = 0 ∧ d.b.localIndex < (s.descsFor tn.val cseq).length) →
        ((s.groupOf tn.val (s.bodyFor tn.val cseq).group).memberList = [(s.ten tn.val).job.ownRank.toNat] →
          t.colls = s.colls ∧ (t.groupOf tn.val (s.bodyFor tn.val cseq).group).lastCseq = cseq) ∧
        (∀ i, (s.groupOf tn.val (s.bodyFor tn.val cseq).group).memberList.findIdx? (· == (s.ten tn.val).job.ownRank.toNat) = some (i + 1) →
          (∀ r ∈ (s.groupOf tn.val (s.bodyFor tn.val cseq).group).memberList, ∀ pl : Plane, (s.rankDest pl.val tn.val r).isSome = true) →
          ∃ c, t.colls = s.colls ++ [c] ∧ c.ten = tn.val ∧ c.group = (s.bodyFor tn.val cseq).group ∧ c.cseq = cseq ∧ c.home = s.homeFor tn.val cseq ∧
            c.tAdmit = s.t ∧ c.me = i + 1)) := by
  obtain ⟨n, hexec⟩ := (h.exec_cases ups).1 hslots
  have hlast := h.hasLast n ups
  have hmembers := s.members_admittedFor tn.val cseq n
  have hme := s.me_admittedFor tn.val cseq n
  refine ⟨_, hexec, ?_, fun hcop hdescs => ⟨fun halone => ?_, fun i hi hranks => ?_⟩⟩
  · rw [State.collQ_advanceColl, State.collQ_startPass]
    exact s.collQ_slotsTaken tn.val cseq ups n
  · refine State.admit_barrier_alone hlast (h.freshBarrier n hcop hdescs) (s.doms_admittedFor tn.val cseq n halone) ?_ ?_
    · rw [hmembers, halone]
      rfl
    · rw [hme, halone]
      simp
  · rw [hi, Option.getD_some] at hme
    have hlen : 0 < (s.admittedFor tn.val cseq n).members.length := by
      rw [hmembers]
      exact Nat.pos_of_ne_zero (fun h0 => by simp [List.length_eq_zero_iff.1 h0] at hi)
    have hsends : ((s.slotsTaken tn.val cseq n ups).listed (s.admittedFor tn.val cseq n)).SendsToAll (s.admittedFor tn.val cseq n) := fun r hr pl => by
      rw [hmembers] at hr
      exact (s.rankDest_slotsTaken tn.val cseq ups n pl.val tn.val r).symm ▸ hranks r hr pl
    obtain ⟨e, hcolls, hfixed⟩ := State.admit_barrier_waits hlast (h.freshBarrier n hcop hdescs) (by rw [hme]; exact Nat.succ_ne_zero i) hlen hsends
    obtain ⟨hten, hgroup, hcseq, hhome, htime, hplace⟩ := Coll.identity_of_fixedPart hfixed
    exact ⟨e, hcolls, hten, hgroup, hcseq, hhome.trans (s.home_admittedFor _ _ n), htime, hplace.trans hme⟩

/-- A collective that is to be refused without slots comes to its records (R356). -/
theorem State.MayAdmit.refusal (hneed : (s.bodyFor tn.val cseq).slots ≠ 0) (hfull : ¬ s.slotsFree tn.val cseq) (hrefuse : (s.bodyFor tn.val cseq).onFull = 2) :
    ∃ t, exec (.collectiveLocalAdmit tn cseq ups) s = .next t ∧ t.collQ.get tn.val = s.descsBeside tn.val cseq ∧ t.colls = s.colls ∧
      (t.fab (s.homeFor tn.val cseq)).slotsUsed = (s.fab (s.homeFor tn.val cseq)).slotsUsed := by
  obtain ⟨gen, hexec⟩ := ((h.exec_cases ups).2 hneed hfull).1 hrefuse
  have hkept : (s.dequeued tn.val cseq).CollKept ((byIndex (s.descsFor tn.val cseq)).foldl
      (fun u d => u.writeRecord d (collRecord d.b stSlotsExhausted 4 0 u.t 0 0 gen 0)) (s.dequeued tn.val cseq)) :=
    .foldl (fun u d => u.collKept_writeRecord d _) _ _
  refine ⟨_, hexec, ?_, hkept.colls, ?_⟩
  · rw [hkept.collQ]
    exact Tab.get_set_same _ _ _
  · rw [hkept.slotsUsed]
    exact s.measure_fab_of Fabric.slotsUsed _

end Admission

/-- Settles O30: a descriptor by the checks it has passed (`State.GoodDesc`), an admission by what its slots decide (`State.MayAdmit.exec_cases`), and a barrier
by its one empty shard (`Coll.Barrier`). -/
theorem collectivesAreQueuedAndAdmitted : Obligations.CollectivesAreQueuedAndAdmitted := by
  unfold Obligations.CollectivesAreQueuedAndAdmitted
  refine ⟨fun src off bytes s => ⟨fun hbad => ?_, ?_⟩, ?_⟩
  · rw [exec_collectiveSubmit, State.collSubmit_misplaced hbad]
    exact ⟨_, { unit := fabUnit 0 0x02 0, cls := 0x0B, severity := 0, time := s.t }, rfl, rfl, rfl, rfl⟩
  · intro c hplace hlength hcore x tn g me hfields hactive htenancy hjob hrecord hrecordOk hregions hrack hagrees
    exact collectiveSubmit_queues src off bytes s tn c g
      ⟨hplace, hlength, rfl, hcore, rfl, hfields, hactive, htenancy, hjob, hrecord, hrecordOk, hregions, hrack, hagrees⟩
  · intro tn cseq ups s q mine rest x g home free hsome hall hfirst halone hactive hshadow hhome
    have h : s.MayAdmit tn.val cseq := ⟨hsome, hall, hfirst, halone, hactive, hshadow, hhome⟩
    refine ⟨fun hslots => ?_, h.refusal ups, ((h.exec_cases ups).2 · · |>.2)⟩
    obtain ⟨t, hexec, hqueues, hbarrier⟩ := h.admission ups hslots
    refine ⟨t, hexec, ?_, fun n hn => ?_, fun hcop hmembers hdescs => (hbarrier hcop hdescs).1 hmembers,
      fun hcop i hi hdescs => (hbarrier hcop hdescs).2 i hi⟩
    · rw [hqueues]
      exact Tab.get_set_same _ _ _
    · rw [hqueues]
      exact Tab.get_set_other _ _ hn

end Sys2Proof.Machine
end

section
/-! PROOFS. A collective's frame up to its collective (R289, R359, R366): a new frame of a member is executed at once and finds it. -/

namespace Sys2Proof.Machine

theorem State.TrafficOnly.activeTen {s t : State} (h : s.TrafficOnly t) (id gen : BitVec 16) : t.activeTen id gen = s.activeTen id gen :=
  (congrArg (State.activeTen · id gen) h.rest :)

/-- A good new frame comes from member `m` of the running collective `c` of tenancy `tn`, in its group's generation and range of blocks. -/
structure State.ReachesColl (s : State) (pl : Plane) (sub : SubPort) (f : WtFrame) (tn m : Nat) (c : Coll) : Prop extends s.GoodRequest pl sub f where
  type : f.type = 8 ∨ f.type = 9
  new : ((s.space (s.peerOf pl.val f) f.origin).floor f.ackFloor).classify f.seq f.ackFloor = .new
  tenancy : s.activeTen f.jobId f.jobGen = some tn
  valid : (s.groupOf tn (collSub f.payload).group).valid = true
  gen : (s.groupOf tn (collSub f.payload).group).gen = (collSub f.payload).gen
  found : s.findColl tn (collSub f.payload).cseq = some c
  range : (collSub f.payload).first + (collSub f.payload).blocks ≤ c.frameBlocks f.type m
  member : c.members.findIdx? (· == f.srcRank.toNat) = some m

section Reach
variable {s : State} {pl : Plane} {sub : SubPort} {f : WtFrame} {tn m : Nat} {c : Coll} (h : s.ReachesColl pl sub f tn m c)
include h

theorem State.ReachesColl.wtRequest : s.wtRequest pl sub f f.type = (s.arrived pl (receivedFrame f), some (measuredFrame f (s.hopOf f))) :=
  h.toGoodRequest.wtRequest.1 h.new (fun hre => by rcases h.type with ht | ht <;> exact absurd (ht.symm.trans hre.2.1) (by decide))

/-- The request is executed, and its collective is found. -/
theorem State.ReachesColl.collArrive : ∃ u, s.TrafficOnly u ∧
    (s.arrived pl (receivedFrame f)).collArrive pl (measuredFrame f (s.hopOf f)) = (u, some (c, collSub f.payload, m)) := by
  have hu := s.trafficOnly_arrived pl (receivedFrame f)
  have hdups : ∀ n, ((s.arrived pl (receivedFrame f)).fab n).dups = [] := fun n =>
    (State.arrived_fab_of Fabric.dups s pl (receivedFrame f) n).trans (h.calm.1 n).2
  have hself := measuredFrame_self f (s.hopOf f)
  obtain ⟨v, hdone, hv, -⟩ := State.execReq_answers hself (wtReplay_measured f (s.hopOf f)) hdups pl.val stDone []
  refine ⟨_, (hu.trans hv).trans (State.trafficOnly_answer hself pl.val stDone [] false), ?_⟩
  have htenancy := (hu.activeTen f.jobId f.jobGen).trans h.tenancy
  have hfound := (hu.collKept.findColl tn _).trans h.found
  have hvalid := (congrArg Group.valid (hu.collKept.groupOf tn _)).trans h.valid
  have hgen := (congrArg Group.gen (hu.collKept.groupOf tn _)).trans h.gen
  rw [← hdone]
  generalize s.arrived pl (receivedFrame f) = u at *
  have hframe : ∀ hop, (measuredFrame f hop).jobId = f.jobId ∧ (measuredFrame f hop).jobGen = f.jobGen ∧ (measuredFrame f hop).payload = f.payload ∧
      (measuredFrame f hop).srcRank = f.srcRank := fun _ => ⟨rfl, rfl, rfl, rfl⟩
  obtain ⟨hid, hjobGen, hpayload, hsrc⟩ := hframe (s.hopOf f)
  unfold State.collArrive
  simp only [hid, hjobGen, hpayload, hsrc, htenancy, hvalid, hgen, hfound, h.member, measuredFrame_type, Option.orElse_some, bne_self_eq_false, Bool.not_true,
    Bool.or_self, Bool.false_eq_true, if_false, if_neg (Nat.not_lt.2 h.range)]

/-- A frame that does not abandon goes to its collective. -/
theorem State.ReachesColl.collFrame (hgoes : (collSub f.payload).abandon = false) :
    ∃ u, s.TrafficOnly u ∧ s.collFrame pl sub f f.type = u.collFrameIn c f.type (collSub f.payload) m f.payload := by
  obtain ⟨u, hu, harrive⟩ := h.collArrive
  refine ⟨u, hu, ?_⟩
  unfold State.collFrame
  rw [if_neg (by simp [hgoes]), h.wtRequest]
  dsimp only
  rw [harrive]
  rfl

/-- A frame that abandons ends its collective with the frame's status (R372). -/
theorem State.ReachesColl.abandon (hends : (collSub f.payload).abandon = true) (hopen : c.finished = false) :
    ∃ u, s.TrafficOnly u ∧ exec (.abandon pl sub f) s = .next (u.endColl c (collSub f.payload).astatus false) := by
  obtain ⟨u, hu, harrive⟩ := h.collArrive
  refine ⟨u, hu, ?_⟩
  have hfound := ((s.trafficOnly_arrived pl (receivedFrame f)).collKept.findColl tn _).trans h.found
  have htenancy := ((s.trafficOnly_arrived pl (receivedFrame f)).activeTen f.jobId f.jobGen).trans h.tenancy
  have hpass : ¬ ((f.type ≠ 8 ∧ f.type ≠ 9) ∨ ¬ (collSub f.payload).abandon = true) := by
    rcases h.type with ht | ht <;> simp [ht, hends]
  show execAbandon pl sub f s = _
  unfold execAbandon
  rw [if_neg hpass, h.wtRequest]
  generalize s.arrived pl (receivedFrame f) = v at *
  have hframe : ∀ hop, (measuredFrame f hop).jobId = f.jobId ∧ (measuredFrame f hop).jobGen = f.jobGen ∧ (measuredFrame f hop).payload = f.payload :=
    fun _ => ⟨rfl, rfl, rfl⟩
  obtain ⟨hid, hjobGen, hpayload⟩ := hframe (s.hopOf f)
  simp only [hid, hjobGen, hpayload, htenancy, hfound, harrive, hopen, Option.filter_some, Option.isNone_some, Bool.and_false, Bool.false_and,
    Bool.false_eq_true, if_false]

end Reach

end Sys2Proof.Machine
end

section
/-! PROOFS. Chunks taken in (R359, R360, R365, R366): a chunk that has not come before is added to the sums of its blocks and noted with its checksum. -/

namespace Sys2Proof.Machine

/-! ### Blocks added (R360) -/

/-- A chunk's blocks added to the sums, from block `first` on. -/
def addBlocks (mx : Bool) (bits first : Nat) (sums : Tab AccBlock) (bs : List (AccBlock × Nat)) : Tab AccBlock :=
  bs.foldl (fun t p => t.set (first + p.2) (if (t.get (first + p.2)).elems.isEmpty then p.1 else AccBlock.plus mx bits (t.get (first + p.2)) p.1)) sums

/-- Sums of blocks outside the chunk's range stand. -/
theorem get_addBlocks {mx : Bool} {bits first b : Nat} {bs : List AccBlock} (hb : b < first ∨ first + bs.length ≤ b) (sums : Tab AccBlock) :
    (addBlocks mx bits first sums bs.zipIdx).get b = sums.get b := by
  refine List.foldlRecOn (motive := fun t : Tab AccBlock => t.get b = sums.get b) _ _ rfl (fun t ht p hp => ?_)
  have hlt := List.snd_lt_of_mem_zipIdx hp
  exact (Tab.get_set_other _ _ (by omega)).trans ht

/-- A package that does not spill adds a chunk's blocks without an access (R357). -/
theorem State.foldl_addBlocks {c : Coll} (hinside : c.spilled = false) (mx : Bool) (first : Nat) (s : State) (bs : List (AccBlock × Nat))
    (sums : Tab AccBlock) :
    bs.foldl (fun (acc : State × Coll × Byte) p =>
      let b := first + p.2
      let blk := if (acc.2.1.acc.get b).elems.isEmpty then p.1 else AccBlock.plus mx (accBits c.b) (acc.2.1.acc.get b) p.1
      let r := acc.1.spillBlock c b blk true
      (r.1, { acc.2.1 with acc := acc.2.1.acc.set b blk }, worse acc.2.2 r.2)) (s, { c with acc := sums }, stDone) =
    (s, { c with acc := addBlocks mx (accBits c.b) first sums bs }, stDone) := by
  have hspill : ∀ b blk, s.spillBlock c b blk true = (s, stDone) := fun b blk => by simp [State.spillBlock, hinside]
  induction bs generalizing sums with
  | nil => rfl
  | cons p bs ih =>
    rw [List.foldl_cons, addBlocks, List.foldl_cons]
    dsimp only
    rw [hspill]
    exact ih _

/-! ### Shards that are not full -/

/-- Shards for which chunks are missing are left as they are. -/
theorem State.checkShards_waits {s : State} {c d : Coll} (hfound : s.findColl c.ten c.cseq = some d) (hgood : d.badRank = false)
    (hpart : ∀ k ∈ c.shardsAt c.me, c.shardFull k = false) : s.checkShards c = s.putColl c := by
  refine List.foldlRecOn (motive := fun t => t = s.putColl c) _ _ rfl (fun t ht k hk => ?_)
  rw [ht, State.findColl_putColl_good hfound hgood]
  exact if_pos (by rw [hpart k hk]; simp)

/-! ### A chunk's way in -/

theorem State.cured_cases (s : State) (c : Coll) (key : Nat × Nat × Nat) :
    ∃ bad, (s.cured c key).2 = { c with bad := bad } ∧ (s.cured c key).1.colls = s.colls ∧ (s.cured c key).1.cores = s.cores := by
  unfold State.cured
  split
  · exact ⟨_, rfl, rfl, rfl⟩
  · exact ⟨c.bad, rfl, rfl, rfl⟩

/-- The collective, which does not spill, adds elements and waits for the chunk of member `m` from block `first` on, and for others after it. -/
structure Coll.AwaitsChunk (c : Coll) (m : Nat) (q : CollSub) : Prop where
  plain : c.agree = false
  adds : c.b.cop ≠ 6
  inside : c.spilled = false
  opens : c.pointsDone = false
  undone : c.shardDone = false
  waits : c.b.gathers = false ∨ c.arrived.length ≠ c.expected
  fresh : ∀ k ∈ c.got, ¬ (k.1 = m ∧ k.2.1 = q.first)
  partly : ∀ k ∈ c.shardsAt c.me, ({ c with got := c.got ++ [(m, q.first, q.blocks, q.checksum)] } : Coll).shardFull k = false

/-- The collective with a chunk taken in. -/
def Coll.tookChunk (c : Coll) (m : Nat) (q : CollSub) (bs : List AccBlock) (bad : List (Nat × Nat × Nat)) : Coll :=
  { c.came 8 m q with bad := bad, acc := addBlocks c.maxing (accBits c.b) q.first c.acc bs.zipIdx
                      got := c.got ++ [(m, q.first, q.blocks, q.checksum)] }

section Chunk
variable {s : State} {c d : Coll} {m : Nat} {q : CollSub} (h : c.AwaitsChunk m q) (hfound : s.findColl c.ten c.cseq = some d) (hgood : d.badRank = false)
include h

theorem Coll.AwaitsChunk.not_maxing : c.maxing = false := by
  simp [Coll.maxing, h.plain, h.adds]

include hfound hgood

theorem Coll.AwaitsChunk.addChunk (bs : List AccBlock) :
    ∃ (u : State) (bad : _), u.colls = s.colls ∧ u.cores = s.cores ∧ s.addChunk c q m bs = u.putColl (c.tookChunk m q bs bad) := by
  obtain ⟨bad, hcured, hcolls, hcores⟩ := s.cured_cases (c.came 8 m q) (8, m, q.first)
  refine ⟨_, bad, hcolls, hcores, ?_⟩
  have hnew : (c.got.any (fun g => g.1 == m && g.2.1 == q.first && (g.2.2.1 != 0 || q.blocks == 0)) || c.pointsDone) = false := by
    rw [h.opens, Bool.or_false, List.any_eq_false]
    exact fun g hg hk => h.fresh g hg (by simp only [Bool.and_eq_true, beq_iff_eq] at hk; exact hk.1)
  have hfound' : (s.cured (c.came 8 m q) (8, m, q.first)).1.findColl c.ten c.cseq = some d := by
    rw [State.findColl, hcolls]
    exact hfound
  unfold State.addChunk
  extract_lets mx a s1 c1 y
  have hc1 : c1 = { c.came 8 m q with bad := bad } := hcured
  have hmx : mx = c.maxing := rfl
  have hy : y = (s1, { c1 with acc := addBlocks mx (accBits c1.b) q.first c1.acc bs.zipIdx }, stDone) :=
    s1.foldl_addBlocks (by rw [hc1]; exact h.inside) mx q.first bs.zipIdx c1.acc
  have hs1 : s1 = (s.cured (c.came 8 m q) (8, m, q.first)).1 := rfl
  clear_value y c1 s1 mx
  subst hc1 hmx hy hs1
  refine (if_neg (by simp [h.not_maxing])).trans ((if_neg (ne_true_of_eq_false hnew)).trans ((if_neg (not_not_intro rfl)).trans ?_))
  exact State.checkShards_waits (c := c.tookChunk m q bs bad) hfound' hgood h.partly

/-- A chunk with others still to come is kept, and its collective goes on. -/
theorem Coll.AwaitsChunk.takeFrame (hgoodc : c.badRank = false) (bs : List AccBlock) :
    ∃ (u : State) (bad : _), u.cores = s.cores ∧ (s.takeFrame c 8 m q bs).advanceColl c.ten c.cseq 3 = u ∧ u.findColl c.ten c.cseq = some (c.tookChunk m q bs bad) := by
  obtain ⟨u, bad, hcolls, hcores, hadd⟩ := h.addChunk hfound hgood bs
  have hkept : (u.putColl (c.tookChunk m q bs bad)).findColl c.ten c.cseq = some (c.tookChunk m q bs bad) :=
    State.findColl_putColl_good (c := c.tookChunk m q bs bad) (d := d) (by rw [State.findColl, hcolls]; exact hfound) hgood
  have hwait : ¬ (c.arrived.length = c.expected ∧ (c.b.gathers = true ∨ c.pointsDone = true)) := by
    rintro ⟨hlen, hg | hp⟩
    · exact h.waits.elim (fun hno => by simp [hno] at hg) (· hlen)
    · simp [h.opens] at hp
  refine ⟨u.putColl (c.tookChunk m q bs bad), bad, hcores, ?_, hkept⟩
  rw [show s.takeFrame c 8 m q bs = _ from hadd]
  exact State.advanceColl_waits hkept hgoodc h.plain (fun _ => h.undone) (fun _ => hwait) 3

end Chunk

end Sys2Proof.Machine
end

section
/-! PROOFS. Frames heard, the result of a barrier, and collectives that end early (R358, R359, R364, R366, R372). -/

namespace Sys2Proof.Machine

/-! ### A frame heard and taken (R359, R366) -/

/-- A frame with data of the stage that its collective is in is heard and taken. -/
theorem State.collFrameIn_takes {c : Coll} {ty : BitVec 4} {q : CollSub} {m : Nat} {p : List Byte} (hopen : c.finished = false)
    (hdata : collHasData q p = true) (hstage : q.stage = c.stageOf ty m) (s : State) :
    s.collFrameIn c ty q m p = (s.takeFrame (c.hear ty q m) ty.toNat m q (collBlocks q p)).advanceColl c.ten c.cseq 3 := by
  unfold State.collFrameIn
  simp only [hopen, hdata, Bool.not_true, Bool.and_false, Bool.false_eq_true, if_false]
  exact if_pos hstage

/-- What a frame tells of admissions does not change what its collective awaits. -/
theorem Coll.AwaitsChunk.hear {c : Coll} {m : Nat} {q : CollSub} (h : c.AwaitsChunk m q) : (c.hear 8 q m).AwaitsChunk m q :=
  ⟨h.plain, h.adds, h.inside, h.opens, h.undone, h.waits, h.fresh, h.partly⟩

theorem length_collBlocks (q : CollSub) (p : List Byte) : (collBlocks q p).length = q.blocks := by
  simp [collBlocks]

/-! ### The result of a barrier (R358, R364) -/

/-- Results go on within this member's rack domain alone. -/
theorem Coll.lt_of_mem_peers {c : Coll} (hdoms : ∀ d ∈ c.doms, ∀ j ∈ d, j < c.members.length) {j : Nat} (h : j ∈ c.peers) : j < c.members.length := by
  unfold Coll.peers at h
  split at h
  · obtain ⟨hmem, hother⟩ := List.mem_filter.1 h
    unfold Coll.domOf at hmem
    cases hdom : c.doms.find? (·.contains c.me) with
    | none =>
      rw [hdom, Option.getD_none, List.mem_singleton] at hmem
      simp [hmem] at hother
    | some d =>
      rw [hdom, Option.getD_some] at hmem
      exact hdoms d (List.mem_of_find?_eq_some hdom) j hmem
  · exact Coll.lt_of_mem_others h

theorem State.rankDest_hierSet (s : State) (c : Coll) (n tn rank : Nat) : (s.hierSet c).rankDest n tn rank = s.rankDest n tn rank := by
  unfold State.hierSet
  split
  · exact s.rankDest_updGroup _ _ _ n tn rank
  · rfl

section Result
variable {s : State} {c d : Coll} {m : Nat} {q : CollSub} (hsends : s.SendsToAll c) (hpeers : ∀ j ∈ c.peers, j < c.members.length)
include hsends hpeers

theorem State.colls_collForward (bs : List AccBlock) : (s.collForward c m q bs).colls = s.colls := by
  unfold State.collForward
  extract_lets first
  split
  · rfl
  · have hset : (s.hierSet c).SendsToAll c := fun r hr pl => (s.rankDest_hierSet c pl.val c.ten r).symm ▸ hsends r hr pl
    exact (State.CollKept.foldl_sends (fun _ ht j hj => State.collKept_collSend ht (hpeers j hj) _ _ _ _) hset).colls.trans (s.colls_hierSet c)

/-- The result of a barrier, which has no blocks, makes its shard done. -/
theorem State.addResult_barrier (hcop : c.b.cop = 5) (hempty : q.blocks = 0) (bs : List AccBlock) :
    ∃ (u : State) (bad : _) (acc : _), u.colls = s.colls ∧
      s.addResult c q m bs = u.putColl { c.came 9 m q with bad := bad, acc := acc, shardDone := true } := by
  unfold State.addResult
  extract_lets own s1 a e c1 s2
  have hs1 : s1.colls = s.colls ∧ ∀ n tn rank, s1.rankDest n tn rank = s.rankDest n tn rank := by
    simp only [s1]
    split
    · exact ⟨rfl, s.rankDest_updGroup _ _ _⟩
    · exact ⟨rfl, fun _ _ _ => rfl⟩
  obtain ⟨bad, hbad, -, -⟩ := s1.cured_cases (c.came 9 m q) (9, m, q.first)
  have hkept := s1.collKept_cured (c.came 9 m q) (9, m, q.first)
  obtain ⟨acc, hc1⟩ : ∃ acc, c1 = { c.came 9 m q with bad := bad, acc := acc } := by
    simp only [c1, e, a, hbad]
    split
    · exact ⟨c.acc, rfl⟩
    · exact ⟨_, rfl⟩
  have hs2 : s2 = a.1.collForward c1 m q bs := rfl
  have ha : s1.CollKept a.1 := hkept
  clear_value c1 s2 a s1
  subst hc1 hs2
  have hall : a.1.SendsToAll c := fun r hr pl => by
    rw [ha.rankDest, hs1.2]
    exact hsends r hr pl
  refine ⟨_, bad, acc, ?_, (if_neg (by simp [hempty])).trans (if_pos hcop)⟩
  exact (State.colls_collForward (c := { c.came 9 m q with bad := bad, acc := acc }) hall hpeers bs).trans (ha.colls.trans hs1.1)

/-- The result of a barrier completes it, and its number is its group's last completed one (R358, R376). -/
theorem State.takeFrame_barrier (hfound : s.findColl c.ten c.cseq = some d) (hgood : d.badRank = false) (hgoodc : c.badRank = false) (hplain : c.agree = false)
    (hcop : c.b.cop = 5) (hempty : q.blocks = 0) (bs : List AccBlock) :
    ∃ t, (s.takeFrame c 9 m q bs).advanceColl c.ten c.cseq 3 = t ∧ t.findColl c.ten c.cseq = none ∧ (t.groupOf c.ten c.group).lastCseq = c.cseq := by
  obtain ⟨u, bad, acc, hcolls, htake⟩ := State.addResult_barrier (m := m) hsends hpeers hcop hempty bs
  generalize hdone : ({ c.came 9 m q with bad := bad, acc := acc, shardDone := true } : Coll) = e at htake
  have hkeys : e.ten = c.ten ∧ e.cseq = c.cseq ∧ e.group = c.group ∧ e.badRank = false ∧ e.agree = false ∧ e.b.cop = 5 ∧ e.shardDone = true := by
    rw [← hdone]
    exact ⟨rfl, rfl, rfl, hgoodc, hplain, hcop, rfl⟩
  obtain ⟨hten, hcseq, hgroup, hgoode, hplaine, hcope, hshard⟩ := hkeys
  have hput : (u.putColl e).findColl e.ten e.cseq = some e :=
    State.findColl_putColl_good (d := d) (by rw [State.findColl, hcolls, hten, hcseq]; exact hfound) hgood
  obtain ⟨v, -, hend⟩ := (u.putColl e).completeColl_drops e
  have hpass : (s.takeFrame c 9 m q bs).advanceColl c.ten c.cseq 3 = v.dropColl e true stDone := by
    rw [show s.takeFrame c 9 m q bs = _ from htake, ← hten, ← hcseq, State.advanceColl_barrier hput hgoode hplaine hcope hshard 2, hend]
  refine ⟨_, hpass, ?_, ?_⟩
  · rw [← hten, ← hcseq]
    exact v.findColl_dropColl e true stDone
  · rw [← hten, ← hgroup, v.groupOf_dropColl e true stDone, ← hcseq]
    rfl

end Result

/-! ### Collectives that end early (R372) -/

/-- A collective that ends without completing is off the list; of its group the last completed number and the mark of a lost member stand, and
records handed before stand. -/
theorem State.endColl_leaves (s : State) (c : Coll) (st : Byte) (abandon : Bool) :
    (s.endColl c st abandon).findColl c.ten c.cseq = none ∧
      ((s.endColl c st abandon).groupOf c.ten c.group).lastCseq = (s.groupOf c.ten c.group).lastCseq ∧
      ((s.endColl c st abandon).groupOf c.ten c.group).memberLost = (s.groupOf c.ten c.group).memberLost ∧
      s.handed <+: (s.endColl c st abandon).handed := by
  obtain ⟨u, hu, hend⟩ := s.endColl_drops c st abandon
  rw [hend, u.groupOf_dropColl, hu.groupOf, u.handed_dropColl]
  exact ⟨u.findColl_dropColl c false st, rfl, rfl, hu.handed⟩

theorem State.findColl_updGroup (s : State) (t g : Nat) (f : Group → Group) (n : Nat) (q : BitVec 32) : (s.updGroup t g f).findColl n q = s.findColl n q := by
  rw [State.findColl, State.updGroup_colls, State.findColl]

/-- The record of a member that does not answer (R372). -/
def lostTargetRec (pl : Nat) (f : WtFrame) : ErrRec :=
  { unit := fabUnit pl 0x02 0, cls := 0x04, severity := 2, status := stTargetLost, jobId := f.jobId, jobGen := f.jobGen }

/-- A frame that has not been answered is given up: its record is handed, and its die raises its interrupt (R372). -/
def State.noteLost (s : State) (pl : Nat) (tag : BitVec 16) (f : WtFrame) : State := ((s.releaseTag tag).hand (lostTargetRec pl f)).raise (32 + pl)

/-- Groups of the generation that the frame names have lost a member. -/
def Group.loseMember (gen : BitVec 16) (g : Group) : Group := if g.valid ∧ g.gen = gen then { g with memberLost := true } else g

section Lost
variable (s : State) (pl : Nat) (tag : BitVec 16) (f : WtFrame)

theorem State.collKept_noteLost : s.CollKept (s.noteLost pl tag f) :=
  ((s.collKept_releaseTag tag).trans (State.collKept_hand _ _)).trans (State.collKept_of_eq rfl)

theorem State.handed_noteLost : (s.noteLost pl tag f).handed = s.handed ++ [{ lostTargetRec pl f with time := s.t }] := rfl

end Lost

/-- A frame that has not been answered in time ends its collective, with the member marked lost. -/
theorem State.exec_collectiveTargetLost {s : State} {pl : Plane} {tag : BitVec 16} {o : OutReq} {tn : Nat} {cseq : BitVec 32} {c : Coll}
    (hout : (s.fab pl.val).outst.find? (fun o => o.tag == tag) = some o) (howner : o.owner = .coll tn cseq) (hplain : o.refusedAt = none)
    (hlate : o.tFirst + 50000 ≤ s.t) (hfound : s.findColl tn cseq = some c) :
    exec (.collectiveTargetLost pl tag) s = .next (((s.noteLost pl.val tag o.frame).updGroup tn (collSub o.frame.payload).group
      (Group.loseMember (collSub o.frame.payload).gen)).endColl c stTargetLost true) := by
  show execCollectiveTargetLost pl tag s = _
  unfold execCollectiveTargetLost
  rw [hout]
  dsimp only
  rw [howner]
  dsimp only
  rw [if_neg (by simp [hplain, hlate])]
  have hkept : ((s.noteLost pl.val tag o.frame).updGroup tn (collSub o.frame.payload).group (Group.loseMember (collSub o.frame.payload).gen)).findColl tn cseq =
      some c := by
    rw [State.findColl_updGroup, (s.collKept_noteLost _ _ _).findColl, hfound]
  unfold State.noteLost lostTargetRec Group.loseMember at *
  rw [hkept]

/-- The member is marked lost and the collective ends, with the record handed. -/
theorem State.collectiveTargetLost_ends {s : State} {pl : Plane} {tag : BitVec 16} {o : OutReq} {tn : Nat} {cseq : BitVec 32} {c : Coll}
    (hout : (s.fab pl.val).outst.find? (fun o => o.tag == tag) = some o) (howner : o.owner = .coll tn cseq) (hplain : o.refusedAt = none)
    (hlate : o.tFirst + 50000 ≤ s.t) (hfound : s.findColl tn cseq = some c) (hgroup : (collSub o.frame.payload).group = c.group)
    (hvalid : (s.groupOf tn c.group).valid = true) (hgen : (s.groupOf tn c.group).gen = (collSub o.frame.payload).gen) :
    ∃ t l, exec (.collectiveTargetLost pl tag) s = .next t ∧ (t.groupOf tn c.group).memberLost = true ∧ t.findColl tn cseq = none ∧
      (t.groupOf tn c.group).lastCseq = (s.groupOf tn c.group).lastCseq ∧ t.handed = s.handed ++ { lostTargetRec pl.val o.frame with time := s.t } :: l := by
  have hexec := State.exec_collectiveTargetLost hout howner hplain hlate hfound
  obtain ⟨hten, hcseq⟩ := State.findColl_some hfound
  subst hten hcseq
  rw [hgroup] at hexec
  have hkept := s.collKept_noteLost pl.val tag o.frame
  have hhanded := s.handed_noteLost pl.val tag o.frame
  generalize s.noteLost pl.val tag o.frame = u at hexec hkept hhanded
  rw [← hkept.groupOf] at hvalid hgen ⊢
  obtain ⟨hnone, hlast, hlost, l, hl⟩ := (u.updGroup c.ten c.group (Group.loseMember (collSub o.frame.payload).gen)).endColl_leaves c stTargetLost true
  rw [State.groupOf_updGroup, Group.loseMember, if_pos ⟨hvalid, hgen⟩] at hlast hlost
  refine ⟨_, l, hexec, hlost, hnone, hlast, ?_⟩
  rw [← hl, State.updGroup_handed, hhanded, List.append_assoc, List.singleton_append]

end Sys2Proof.Machine
end

section
/-! PROOFS. The statement about frames of collectives and lost targets (R359, R366, R372), from the lemmas above. -/

namespace Sys2Proof.Machine

/-! ### Frames that reach their collective -/

section Reach
variable {s : State} {pl : Plane} {sub : SubPort} {f : WtFrame} {tn m : Nat} {c : Coll} (h : s.ReachesColl pl sub f tn m c)
  (hopen : c.finished = false) (hgood : c.badRank = false)
include h hopen

/-- A frame that abandons ends its collective, and its group's last completed one stands. -/
theorem State.ReachesColl.abandon_ends (hends : (collSub f.payload).abandon = true) :
    ∃ t, exec (.abandon pl sub f) s = .next t ∧ t.findColl tn (collSub f.payload).cseq = none ∧
      (t.groupOf tn c.group).lastCseq = (s.groupOf tn c.group).lastCseq := by
  obtain ⟨u, hu, hexec⟩ := h.abandon hends hopen
  obtain ⟨hten, hcseq⟩ := State.findColl_some h.found
  obtain ⟨hnone, hlast, -, -⟩ := u.endColl_leaves c (collSub f.payload).astatus false
  rw [hten, hu.collKept.groupOf] at hlast
  rw [hten, hcseq] at hnone
  exact ⟨_, hexec, hnone, hlast⟩

include hgood

/-- A chunk that its collective awaits is kept with its blocks and checksum. -/
theorem State.ReachesColl.chunk_kept (htype : f.type = 8) (hgoes : (collSub f.payload).abandon = false)
    (hdata : collHasData (collSub f.payload) f.payload = true) (hstage : (collSub f.payload).stage = c.stageOf 8 m)
    (hawaits : c.AwaitsChunk m (collSub f.payload)) :
    ∃ t bad, exec (.collectiveChunk pl sub f) s = .next t ∧ t.cores = s.cores ∧ t.findColl tn (collSub f.payload).cseq =
      some ((c.hear 8 (collSub f.payload) m).tookChunk m (collSub f.payload) (collBlocks (collSub f.payload) f.payload) bad) := by
  obtain ⟨u, hu, hframe⟩ := h.collFrame hgoes
  obtain ⟨hten, hcseq⟩ := State.findColl_some h.found
  have hfound : u.findColl c.ten c.cseq = some c := by rw [hu.collKept.findColl, hten, hcseq, h.found]
  obtain ⟨t, bad, hcores, hpass, hkept⟩ := hawaits.hear.takeFrame hfound hgood hgood (collBlocks (collSub f.payload) f.payload)
  rw [htype] at hframe
  rw [← hten, ← hcseq]
  exact ⟨t, bad, congrArg Host.Outcome.next (hframe.trans ((State.collFrameIn_takes hopen hdata hstage u).trans hpass)), hcores.trans hu.cores, hkept⟩

/-- The result of a barrier completes it. -/
theorem State.ReachesColl.barrier_completes (htype : f.type = 9) (hgoes : (collSub f.payload).abandon = false)
    (hdata : collHasData (collSub f.payload) f.payload = true) (hstage : (collSub f.payload).stage = c.stageOf 9 m)
    (hsends : s.SendsToAll c) (hdoms : ∀ d ∈ c.doms, ∀ j ∈ d, j < c.members.length) (hplain : c.agree = false) (hcop : c.b.cop = 5)
    (hempty : (collSub f.payload).blocks = 0) :
    ∃ t, exec (.collectiveResult pl sub f) s = .next t ∧ t.findColl tn (collSub f.payload).cseq = none ∧
      (t.groupOf tn c.group).lastCseq = (collSub f.payload).cseq := by
  obtain ⟨u, hu, hframe⟩ := h.collFrame hgoes
  obtain ⟨hten, hcseq⟩ := State.findColl_some h.found
  have hfound : u.findColl c.ten c.cseq = some c := by rw [hu.collKept.findColl, hten, hcseq, h.found]
  have hsendsu : u.SendsToAll (c.hear 9 (collSub f.payload) m) := hu.collKept.sendsToAll (c := c) hsends
  obtain ⟨t, hpass, hnone, hlast⟩ := State.takeFrame_barrier (c := c.hear 9 (collSub f.payload) m) hsendsu (fun _ => Coll.lt_of_mem_peers (c := c) hdoms)
    hfound hgood hgood hplain hcop hempty (collBlocks (collSub f.payload) f.payload)
  rw [htype] at hframe
  rw [← hten, ← hcseq]
  exact ⟨t, congrArg Host.Outcome.next (hframe.trans ((State.collFrameIn_takes hopen hdata hstage u).trans hpass)), hnone, hlast⟩

end Reach

/-- Settles O31: a frame of a running collective's member reaches it (`State.ReachesColl`), which then takes the chunk in (`Coll.AwaitsChunk`), is
completed by a barrier's result, or ends early (`State.endColl_leaves`). -/
theorem collectiveFramesMoveTheirCollective : Obligations.CollectiveFramesMoveTheirCollective := by
  unfold Obligations.CollectiveFramesMoveTheirCollective
  refine ⟨?_, fun pl tag s o tn cseq c hout howner hplain hlate hfound hgroup hvalid hgen => ?_⟩
  · intro pl sub f s tn m c i q hi hlink hport hgoodf htwin hcalm hhop _ hstate htenancy hrank hawake hnew hvalid hgen hfound _ hopen hgood hsends
      hdoms hrange hmember
    have htype : f.type = 8 ∨ f.type = 9 := by
      rcases hi with ⟨-, h8, -⟩ | ⟨-, h9, -⟩ | ⟨-, hboth, -⟩
      · exact .inl h8
      · exact .inr h9
      · exact hboth
    have hcredit : needsCredit f.type = true := by rcases htype with ht | ht <;> rw [ht] <;> rfl
    have h : s.ReachesColl pl sub f tn m c :=
      { link := hlink, port := hport, good := hgoodf, twin := htwin, calm := hcalm, credit := hcredit, hop := hhop
        job := .inr ⟨hstate, tn, htenancy, hrank⟩, awake := hawake, type := htype, new := hnew, tenancy := htenancy, valid := hvalid, gen := hgen
        found := hfound, range := hrange, member := hmember }
    refine ⟨fun hchunk hdata _ hstage hplain hadds hinside hpoints hundone hwaits hfresh hpartly => ?_,
      fun hresult hcop hplain hempty hdata hstage => ?_, fun habandon => ?_⟩
    · subst hchunk
      obtain ⟨ht, hgoes⟩ : f.type = 8 ∧ q.abandon = false := by simpa using hi
      obtain ⟨t, bad, hexec, hcores, hkept⟩ :=
        h.chunk_kept hopen hgood ht hgoes hdata hstage ⟨hplain, hadds, hinside, hpoints, hundone, hwaits, hfresh, hpartly⟩
      exact ⟨t, _, hexec, hkept, rfl, rfl, rfl, hcores, fun b hb => get_addBlocks (by rw [length_collBlocks]; exact hb) c.acc⟩
    · subst hresult
      obtain ⟨ht, hgoes⟩ : f.type = 9 ∧ q.abandon = false := by simpa using hi
      have hall : s.SendsToAll c := by
        rw [State.SendsToAll, (State.findColl_some hfound).1]
        exact hsends
      exact h.barrier_completes hopen hgood ht hgoes hdata hstage hall hdoms hplain hcop hempty
    · subst habandon
      obtain ⟨-, hends⟩ : (f.type = 8 ∨ f.type = 9) ∧ q.abandon = true := by simpa using hi
      exact h.abandon_ends hopen hends
  · obtain ⟨t, l, hexec, hlost, hnone, hlast, hhanded⟩ := State.collectiveTargetLost_ends hout howner hplain hlate hfound hgroup hvalid hgen
    exact ⟨t, _, l, hexec, hlost, hnone, hlast, hhanded, rfl, rfl, rfl⟩

end Sys2Proof.Machine
end
